-- ==== Sys2Proof/Word.lean ====
section
/-! DEFINITION. The word types of the CKM-9260 (spec/00_scope.md R2, R5; spec/02_words.md R31) and the two
sparse containers the state is built of. Their operations stand in Machine/Maps.lean. -/

namespace Sys2Proof

/-- A byte of memory. -/
abbrev Byte := BitVec 8

/-- A 32-bit word: an instruction word (R31) or a general register (R46). -/
abbrev Word := BitVec 32

/-- A 64-bit value: a register pair (R48) or a Shuttle register (R56). -/
abbrev Dword := BitVec 64

/-- A program counter: [16:15] slot, [14:2] packet, [1:0] word (R32). -/
abbrev Pc := BitVec 17

/-- Sparse data by number, keys rising; an unlisted key reads as the default its reader names. -/
abbrev NMap (α : Type) := List (Nat × α)

/-- Sparse bytes by address in one canonical form: addresses strictly rising, no byte equal to 0, which an unlisted byte reads
as. -/
abbrev Mem := List Host.Cell

end Sys2Proof
end

