-- ==== Sys2Proof/Config.lean ====
section
/-! DEFINITION. What the CKM-9260 fixes (the figures of spec/01_machine.md) and what its manual leaves open:
the free values are opaque constants, so no proof can know one. -/

namespace Sys2Proof.Config

/-- Lanes of a core (R15). -/
def lanes : Nat := 64
/-- Cores of the package (R10). -/
def cores : Nat := 256
/-- Entries an operand queue holds (R15, R241). -/
def queueDepth : Nat := 8
/-- Entries the decision queue holds (R15, R239). -/
def decisionDepth : Nat := 64
/-- Copies a channel holds (R244). -/
def channelDepth : Nat := 32
/-- Tile records a team may have outstanding (R256). -/
def teamRecords : Nat := 64
/-- Records a cluster's tile queue holds (R256). -/
def clusterRecords : Nat := 256
/-- Sectors of an engine's 4 KiB scale cache (R268). -/
def scaleSectors : Nat := 128
/-- Entries of a core's Gusset table (R161). -/
def gussetEntries : Nat := 256
/-- Records of a core's trap queue (R386). -/
def trapDepth : Nat := 64
/-- Entries of an address space's region table (R208). -/
def regionEntries : Nat := 512
/-- Pin entries of a die (R199). -/
def pinEntries : Nat := 256
/-- Pinned bytes a die holds at most, 32 MiB (R199). -/
def pinBytes : Nat := 33554432
/-- Last packet of an overlay slot (R31). -/
def lastPacket : Nat := 5460
/-- Granules of a core's unified array (R15). -/
def granules : Nat := 48
/-- Granules that always stay L1 (R172). -/
def minL1 : Nat := 4
/-- Slices of a die's L2, and the 128-byte lines a slice holds, 2 MiB (R19). -/
def l2Slices : Nat := 32
def sliceLines : Nat := 16384
/-- Lines a cache die caches: 768 MiB less 64 MiB of shadow storage (R19, R20). -/
def llcLines : Nat := 5767168
/-- Entries of a core's TLB, of a cluster's, and of a Bobbin engine's (R338, R399). -/
def coreTlb : Nat := 128
def clusterTlb : Nat := 4096
def bobbinTlb : Nat := 64
/-- Bytes of a Bobbin engine's local store (R334). -/
def localStore : Nat := 524288

/-- FREE VALUE: how many main-clock cycles core c counts in the k-th step of the model; CYCLE (R405) counts them.
DESIGN CHOICE (log 6). -/
opaque freeCycles : Nat → Nat → Nat
/-- FREE VALUE: what event counter e of a timing-dependent event reads (R406). DESIGN CHOICE (log 6). -/
opaque freeCount : Nat → Nat → BitVec 48
/-- FREE VALUE: which of several faulting lanes' addresses a trap record names (R386). DESIGN CHOICE (log 6). -/
opaque freePick : Nat → Nat
/-- FREE VALUE: bytes the manual leaves open: the rest of a narrow contribution (R426), the device's own bytes of a saved
context (R331, R403). DESIGN CHOICE (log 6). -/
opaque freeByte : Nat → Nat → Byte
/-- FREE VALUE: a rank of a restored context whose row base is not the one PATSAVE wrote (R331). DESIGN CHOICE (log 6). -/
opaque freeRank : Nat → Nat → Dword
/-- FREE VALUE: the length of a context image, from which the model makes a multiple of 64 bytes in bounds (R403).
DESIGN CHOICE (log 6). -/
opaque freeLen : Nat → Nat
/-- FREE VALUE: how many elements of a CHASE were in flight behind one that faults, below 512 (R348). DESIGN CHOICE (log 6). -/
opaque freeFlight : Nat → Nat
/-- FREE VALUE: what a special register of Team scope reads in the supervisor where no team is in question (R58).
DESIGN CHOICE (log 6). -/
opaque freeSpecial : Nat → Dword
/-- FREE VALUE: whether the fault of a producer of R50 in a lane is taken after its thread has issued past it (R53).
DESIGN CHOICE (log 6). -/
opaque freeLate : Nat → Nat → Bool
/-- FREE VALUE: whether a walker still holds a table entry it has read (R398, R400). DESIGN CHOICE (log 6). -/
opaque freeWalk : Nat → Nat → Bool
/-- FREE VALUE: whether a sector lies in granules taken from the L1 (R174). DESIGN CHOICE (log 6). -/
opaque freeTaken : Nat → Nat → Bool
/-- FREE VALUE: the slice of a die's L2 that a line lies in (R19). DESIGN CHOICE (log 6). -/
opaque slice : Nat → Nat
/-- FREE VALUE: the home pseudo-channel number of a line (R20). DESIGN CHOICE (log 6). -/
opaque pseudoChannel : Nat → Nat
/-- FREE VALUE: whether a signature over some bytes verifies under a key: an image's header (R60, R61), the digests of R422 and
R429; an outside standard. DESIGN CHOICE (log 6). -/
opaque validSig : (key signed signature : List Byte) → Bool
/-- FREE VALUE: whether a certificate chain leads to a Carkin root, and the identity it names (R422). DESIGN CHOICE (log 6). -/
opaque validChain : List Byte → Bool
/-- DESIGN CHOICE (log 6). -/
opaque identity : List Byte → List Byte
/-- FREE VALUE: this device's own certificate chain, and the nonce it sends (R422). DESIGN CHOICE (log 6). -/
opaque ownChain : List Byte
/-- DESIGN CHOICE (log 6). -/
opaque freeNonce : Nat → List Byte
/-- FREE VALUE: the key hash fused in the package (R429, R431). DESIGN CHOICE (log 6). -/
opaque fusedHash : List Byte
/-- FREE VALUE: the SHAKE256 digest of a list of bytes (R60, R422, R431), an outside standard. DESIGN CHOICE (log 6). -/
opaque shake256 : List Byte → List Byte
/-- FREE VALUE: the SLH-DSA-SHAKE-256s signature of a list of bytes (R61, R422, R431). DESIGN CHOICE (log 6). -/
opaque sign : List Byte → List Byte

end Sys2Proof.Config
end

