-- ==== Sys2Proof/Syntax.lean ====
section
/-! DEFINITION. The instructions and the hardware steps of the CKM-9260: one constructor per row of
spec/opcode_table.json. A core or Shuttle instruction carries the fields of its encoding (spec/02_words.md R37 to
R39 and each entry's bit table), a Bobbin instruction those of R340; a row without an encoding is a step the
hardware, the host or the monitor takes, and carries the numbers that say which unit it concerns. -/

namespace Sys2Proof

/-- The fields of a prefix word (R40): guard, policy, rounding mode and fourth operand. -/
structure Pfx where
  maskp  : BitVec 3
  maskn  : Bool
  policy : BitVec 2
  round  : BitVec 3
  c4     : BitVec 7
  ec     : Bool
  deriving DecidableEq, Repr

/-- The null values of the prefix fields (R41). -/
def Pfx.null : Pfx := ⟨7, false, 0, 0, 0, false⟩

/-- The caches a copy may leave (R181, R182). -/
inductive CacheLevel where
  | l1 | l2 | llc
  deriving DecidableEq, Repr

/-- What the device does about a data error it cannot correct (R184). -/
inductive ErrorFate where
  | reRead
  /-- The node with this number is run again. -/
  | reRun (node : Nat)
  /-- A deterministic team or its chunk is run again. -/
  | reRunTeam (team : Nat)
  | retire (core : Nat)
  deriving DecidableEq, Repr

/-- Which translation cache holds an entry (R399, R338). -/
inductive TlbId where
  | core (n : Nat)
  | shared (cluster : Nat)
  | tile (cluster : Nat)
  | bobbin (b : Nat)
  deriving DecidableEq, Repr

/-- The masters that can be frozen (R390). -/
inductive Master where
  | band (team band : Nat)
  | shuttle (core : Nat)
  | engine (cluster e : Nat)
  | channel (cluster ch : Nat)
  | stream (team q : Nat)
  | bobbin (b : Nat)
  | function (f : Nat)
  | port (p : Nat)
  deriving DecidableEq, Repr

/-- The part of a stack that fails and is replaced by a spare (R28). -/
inductive HbmPart where
  | row (n : Nat)
  | pseudoChannel (n : Nat)
  deriving DecidableEq, Repr

/-- What a peer does at the exported window (R191, R423): a read, a write, or an atomic of an operation (0 add, 1 min, 2 max, 3 and,
4 or, 5 xor, 6 exch, 7 cas) on a type of R190, with its operand and cas's comparand. -/
inductive PeerOp where
  | read
  | write (bs : List Byte)
  | atomic (op ty x cmp : Nat)
  deriving DecidableEq, Repr

/-- What a partner sends when a port trains (R420, R422): its certificate chain, its nonce, its signature, whether its domain list
holds this module's identity, and whether the CRC of each flit it replays is good (so where the list says nothing). -/
structure PeerAuth where
  chain   : List Byte
  nonce   : List Byte
  sig     : List Byte
  passed  : Bool
  crcs    : List Bool
  deriving DecidableEq, Repr

/-- Where a host request comes from: the function it names and the IDE stream that carries it (R418). -/
structure HostReq where
  func   : Nat
  stream : Option Nat
  deriving DecidableEq, Repr

/-- Where a contribution comes from: the port it arrives on and its rank (R426). -/
structure Peer where
  port : Nat
  rank : Nat
  deriving DecidableEq, Repr

/-- The descriptor of a reducing window (R425); members are node numbers in rank order. -/
structure WindowDesc where
  wbase   : Nat
  wlen    : Nat
  fmt     : Nat
  nrank   : Nat
  myrank  : Nat
  dest    : Nat
  done    : Nat
  members : List Nat
  deriving DecidableEq, Repr

/-- Operand fields of one shape of encoding. -/
structure BrOp where
  g : BitVec 3
  n : Bool
  off : BitVec 19
  deriving DecidableEq, Repr

/-- Operand fields of one shape of encoding. -/
structure CallOp where
  g : BitVec 3
  n : Bool
  off : BitVec 19
  link : BitVec 7
  deriving DecidableEq, Repr

/-- Operand fields of one shape of encoding. -/
structure BrfOp where
  g : BitVec 3
  n : Bool
  tpkt : BitVec 13
  ovl : BitVec 10
  deriving DecidableEq, Repr

/-- Operand fields of one shape of encoding. -/
structure CallfOp where
  g : BitVec 3
  n : Bool
  tpkt : BitVec 13
  ovl : BitVec 10
  link : BitVec 7
  deriving DecidableEq, Repr

/-- Operand fields of one shape of encoding. -/
structure JtOp where
  a : BitVec 7
  b : BitVec 7
  ea : Bool
  eb : Bool
  bound : BitVec 8
  label : BitVec 16
  deriving DecidableEq, Repr

/-- Operand fields of one shape of encoding. -/
structure JtcOp where
  d : BitVec 7
  a : BitVec 7
  b : BitVec 7
  ea : Bool
  eb : Bool
  bound : BitVec 8
  label : BitVec 16
  deriving DecidableEq, Repr

/-- Operand fields of one shape of encoding. -/
structure RA where
  a : BitVec 7
  ea : Bool
  deriving DecidableEq, Repr

/-- Operand fields of one shape of encoding. -/
structure JmOp where
  d : BitVec 7
  j : BitVec 3
  deriving DecidableEq, Repr

/-- Operand fields of one shape of encoding. -/
structure DqOp where
  d : BitVec 7
  w : Bool
  deriving DecidableEq, Repr

/-- Operand fields of one shape of encoding. -/
structure R3 where
  d : BitVec 7
  a : BitVec 7
  b : BitVec 7
  ea : Bool
  eb : Bool
  deriving DecidableEq, Repr

/-- Operand fields of one shape of encoding. -/
structure CmpOp where
  a : BitVec 7
  b : BitVec 7
  ea : Bool
  eb : Bool
  pd : BitVec 3
  cond : BitVec 4
  comb : BitVec 2
  cp : BitVec 3
  w : Bool
  deriving DecidableEq, Repr

/-- Operand fields of one shape of encoding. -/
structure BfxOp where
  d : BitVec 7
  a : BitVec 7
  ea : Bool
  s : Bool
  pos : BitVec 5
  len : BitVec 6
  deriving DecidableEq, Repr

/-- Operand fields of one shape of encoding. -/
structure BfiOp where
  d : BitVec 7
  a : BitVec 7
  ea : Bool
  pos : BitVec 5
  len : BitVec 6
  deriving DecidableEq, Repr

/-- Operand fields of one shape of encoding. -/
structure LeaOp where
  d : BitVec 7
  a : BitVec 7
  b : BitVec 7
  ea : Bool
  eb : Bool
  s : Bool
  sh : BitVec 3
  disp : BitVec 20
  deriving DecidableEq, Repr

/-- Operand fields of one shape of encoding. -/
structure AddiOp where
  d : BitVec 7
  a : BitVec 7
  ea : Bool
  imm : BitVec 9
  deriving DecidableEq, Repr

/-- Operand fields of one shape of encoding. -/
structure ShiOp where
  d : BitVec 7
  a : BitVec 7
  ea : Bool
  kind : BitVec 2
  amt : BitVec 5
  deriving DecidableEq, Repr

/-- Operand fields of one shape of encoding. -/
structure MoviOp where
  d : BitVec 7
  imm : BitVec 9
  hi : BitVec 23
  deriving DecidableEq, Repr

/-- Operand fields of one shape of encoding. -/
structure CmpiOp where
  pd : BitVec 3
  cond : BitVec 3
  a : BitVec 7
  ea : Bool
  imm : BitVec 9
  deriving DecidableEq, Repr

/-- Operand fields of one shape of encoding. -/
structure LaddOp where
  d : BitVec 7
  a : BitVec 7
  b : BitVec 7
  ea : Bool
  eb : Bool
  pc : BitVec 3
  pv : BitVec 3
  deriving DecidableEq, Repr

/-- Operand fields of one shape of encoding. -/
structure LadcOp where
  d : BitVec 7
  a : BitVec 7
  b : BitVec 7
  ea : Bool
  eb : Bool
  pc : BitVec 3
  pv : BitVec 3
  pin : BitVec 3
  deriving DecidableEq, Repr

/-- Operand fields of one shape of encoding. -/
structure LnegOp where
  d : BitVec 7
  a : BitVec 7
  ea : Bool
  pc : BitVec 3
  pv : BitVec 3
  deriving DecidableEq, Repr

/-- Operand fields of one shape of encoding. -/
structure LcmpOp where
  a : BitVec 7
  b : BitVec 7
  ea : Bool
  eb : Bool
  pe : BitVec 3
  pltu : BitVec 3
  plt : BitVec 3
  deriving DecidableEq, Repr

/-- Operand fields of one shape of encoding. -/
structure LmulwOp where
  d : BitVec 7
  a : BitVec 7
  b : BitVec 7
  ea : Bool
  eb : Bool
  h : BitVec 7
  deriving DecidableEq, Repr

/-- Operand fields of one shape of encoding. -/
structure R2 where
  d : BitVec 7
  a : BitVec 7
  ea : Bool
  deriving DecidableEq, Repr

/-- Operand fields of one shape of encoding. -/
structure FcmpOp where
  a : BitVec 7
  b : BitVec 7
  ea : Bool
  eb : Bool
  pd : BitVec 3
  cond : BitVec 3
  comb : BitVec 2
  cp : BitVec 3
  sig : Bool
  deriving DecidableEq, Repr

/-- Operand fields of one shape of encoding. -/
structure FsgnOp where
  d : BitVec 7
  a : BitVec 7
  b : BitVec 7
  ea : Bool
  eb : Bool
  mode : BitVec 2
  deriving DecidableEq, Repr

/-- Operand fields of one shape of encoding. -/
structure CvtOp where
  d : BitVec 7
  a : BitVec 7
  b : BitVec 7
  ea : Bool
  eb : Bool
  dst : BitVec 4
  src : BitVec 4
  mw : BitVec 3
  hi : Bool
  deriving DecidableEq, Repr

/-- Operand fields of one shape of encoding. -/
structure CvtpOp where
  d : BitVec 7
  a : BitVec 7
  b : BitVec 7
  ea : Bool
  eb : Bool
  dst : BitVec 4
  deriving DecidableEq, Repr

/-- Operand fields of one shape of encoding. -/
structure ShflOp where
  d : BitVec 7
  a : BitVec 7
  b : BitVec 7
  ea : Bool
  eb : Bool
  mode : BitVec 2
  pf : BitVec 3
  fb : BitVec 7
  efb : Bool
  fbr : Bool
  useimm : Bool
  imm : BitVec 6
  deriving DecidableEq, Repr

/-- Operand fields of one shape of encoding. -/
structure VoteOp where
  d : BitVec 7
  mode : BitVec 3
  ps : BitVec 3
  psn : Bool
  pd : BitVec 3
  cw : Bool
  cn : BitVec 7
  deriving DecidableEq, Repr

/-- Operand fields of one shape of encoding. -/
structure MatchOp where
  d : BitVec 7
  a : BitVec 7
  ea : Bool
  w : Bool
  pd : BitVec 3
  deriving DecidableEq, Repr

/-- Operand fields of one shape of encoding. -/
structure CompactOp where
  d : BitVec 7
  a : BitVec 7
  ea : Bool
  ps : BitVec 3
  psn : Bool
  pd : BitVec 3
  deriving DecidableEq, Repr

/-- Operand fields of one shape of encoding. -/
structure GredOp where
  d : BitVec 7
  a : BitVec 7
  ea : Bool
  op : BitVec 4
  seg : BitVec 3
  deriving DecidableEq, Repr

/-- Operand fields of one shape of encoding. -/
structure GscanOp where
  d : BitVec 7
  a : BitVec 7
  ea : Bool
  op : BitVec 4
  seg : BitVec 3
  incl : Bool
  deriving DecidableEq, Repr

/-- Operand fields of one shape of encoding. -/
structure RegputOp where
  a : BitVec 7
  b : BitVec 7
  ea : Bool
  eb : Bool
  wn : BitVec 3
  pd : BitVec 3
  deriving DecidableEq, Repr

/-- Operand fields of one shape of encoding. -/
structure RegtakeOp where
  d : BitVec 7
  a : BitVec 7
  ea : Bool
  wn : BitVec 3
  deriving DecidableEq, Repr

/-- Operand fields of one shape of encoding. -/
structure RD where
  d : BitVec 7
  deriving DecidableEq, Repr

/-- Operand fields of one shape of encoding. -/
structure MemOp where
  d : BitVec 7
  base : BitVec 7
  eb : Bool
  size : BitVec 3
  space : BitVec 2
  off : BitVec 6
  deriving DecidableEq, Repr

/-- Operand fields of one shape of encoding. -/
structure AtomOp where
  data : BitVec 7
  base : BitVec 7
  eb : Bool
  space : BitVec 2
  off : BitVec 6
  ty : BitVec 3
  ret : Bool
  d : BitVec 7
  deriving DecidableEq, Repr

/-- Operand fields of one shape of encoding. -/
structure AtomCasOp where
  data : BitVec 7
  base : BitVec 7
  eb : Bool
  space : BitVec 2
  off : BitVec 6
  ty : BitVec 3
  ret : Bool
  d : BitVec 7
  cv : BitVec 7
  ecv : Bool
  deriving DecidableEq, Repr

/-- Operand fields of one shape of encoding. -/
structure LdtOp where
  d : BitVec 7
  a : BitVec 7
  b : BitVec 7
  ea : Bool
  eb : Bool
  sz : Bool
  nc : BitVec 2
  sp : Bool
  deriving DecidableEq, Repr

/-- Operand fields of one shape of encoding. -/
structure UnpkOp where
  d : BitVec 7
  a : BitVec 7
  ea : Bool
  mw : BitVec 3
  kc : BitVec 2
  pos : BitVec 6
  s : Bool
  deriving DecidableEq, Repr

/-- Operand fields of one shape of encoding. -/
structure CmoOp where
  a : BitVec 7
  b : BitVec 7
  ea : Bool
  eb : Bool
  level : BitVec 2
  deriving DecidableEq, Repr

/-- Operand fields of one shape of encoding. -/
structure L2pinOp where
  a : BitVec 7
  b : BitVec 7
  ea : Bool
  eb : Bool
  pd : BitVec 3
  deriving DecidableEq, Repr

/-- Operand fields of one shape of encoding. -/
structure RAB where
  a : BitVec 7
  b : BitVec 7
  ea : Bool
  eb : Bool
  deriving DecidableEq, Repr

/-- Operand fields of one shape of encoding. -/
structure BarCarveOp where
  scrg : BitVec 6
  slice : BitVec 6
  deriving DecidableEq, Repr

/-- Operand fields of one shape of encoding. -/
structure BargOp where
  scope : BitVec 3
  group : BitVec 8
  deriving DecidableEq, Repr

/-- Operand fields of one shape of encoding. -/
structure AcqOp where
  a : BitVec 7
  ea : Bool
  mode : Bool
  deriving DecidableEq, Repr

/-- Operand fields of one shape of encoding. -/
structure TryacqOp where
  a : BitVec 7
  ea : Bool
  mode : Bool
  pd : BitVec 3
  deriving DecidableEq, Repr

/-- Operand fields of one shape of encoding. -/
structure RegionOp where
  d : BitVec 7
  a : BitVec 7
  b : BitVec 7
  ea : Bool
  eb : Bool
  obj : BitVec 7
  eobj : Bool
  det : Bool
  pd : BitVec 3
  deriving DecidableEq, Repr

/-- Operand fields of one shape of encoding. -/
structure RegionFreeOp where
  d : BitVec 7
  a : BitVec 7
  ea : Bool
  pd : BitVec 3
  deriving DecidableEq, Repr

/-- Operand fields of one shape of encoding. -/
structure S3 where
  d : BitVec 7
  a : BitVec 7
  b : BitVec 7
  deriving DecidableEq, Repr

/-- Operand fields of one shape of encoding. -/
structure SaddiOp where
  d : BitVec 7
  a : BitVec 7
  imm : BitVec 24
  deriving DecidableEq, Repr

/-- Operand fields of one shape of encoding. -/
structure SldiOp where
  d : BitVec 7
  imm : BitVec 24
  deriving DecidableEq, Repr

/-- Operand fields of one shape of encoding. -/
structure SsetOp where
  d : BitVec 7
  a : BitVec 7
  b : BitVec 7
  cond : BitVec 4
  deriving DecidableEq, Repr

/-- Operand fields of one shape of encoding. -/
structure SbrOp where
  a : BitVec 7
  b : BitVec 7
  cond : BitVec 4
  off : BitVec 19
  deriving DecidableEq, Repr

/-- Operand fields of one shape of encoding. -/
structure SbrfOp where
  ovl : BitVec 10
  tpkt : BitVec 13
  deriving DecidableEq, Repr

/-- Operand fields of one shape of encoding. -/
structure StreamOp where
  a : BitVec 7
  q : BitVec 4
  deriving DecidableEq, Repr

/-- Operand fields of one shape of encoding. -/
structure SqstopOp where
  d : BitVec 7
  q : BitVec 4
  deriving DecidableEq, Repr

/-- Operand fields of one shape of encoding. -/
structure CpyOp where
  d : BitVec 7
  a : BitVec 7
  b : BitVec 7
  ea : Bool
  eb : Bool
  len : BitVec 7
  el : Bool
  ch : BitVec 4
  dsp : BitVec 2
  ssp : BitVec 2
  ret : Bool
  deriving DecidableEq, Repr

/-- Operand fields of one shape of encoding. -/
structure SealOp where
  d : BitVec 7
  ea : Bool
  eb : Bool
  deriving DecidableEq, Repr

/-- Operand fields of one shape of encoding. -/
structure BwaitOp where
  a : BitVec 7
  ea : Bool
  eb : Bool
  deriving DecidableEq, Repr

/-- Operand fields of one shape of encoding. -/
structure WptrOp where
  d : BitVec 7
  a : BitVec 7
  ea : Bool
  eb : Bool
  deriving DecidableEq, Repr

/-- Operand fields of one shape of encoding. -/
structure ChunkOp where
  d : BitVec 7
  a : BitVec 7
  ea : Bool
  eb : Bool
  gang : Bool
  deriving DecidableEq, Repr

/-- Operand fields of one shape of encoding. -/
structure OvlOp where
  d : BitVec 7
  a : BitVec 7
  b : BitVec 7
  ea : Bool
  eb : Bool
  slot : BitVec 2
  ch : BitVec 4
  deriving DecidableEq, Repr

/-- Operand fields of one shape of encoding. -/
structure QruleOp where
  a : BitVec 7
  ea : Bool
  slot : BitVec 4
  space : BitVec 2
  deriving DecidableEq, Repr

/-- Operand fields of one shape of encoding. -/
structure PatldOp where
  d : BitVec 7
  a : BitVec 7
  b : BitVec 7
  ea : Bool
  eb : Bool
  space : BitVec 2
  deriving DecidableEq, Repr

/-- Operand fields of one shape of encoding. -/
structure PatnextOp where
  d : BitVec 7
  dir : Bool
  line : Bool
  pd : BitVec 3
  deriving DecidableEq, Repr

/-- Operand fields of one shape of encoding. -/
structure PatmergeOp where
  d : BitVec 7
  a : BitVec 7
  ea : Bool
  dir : Bool
  mode : Bool
  ssp : BitVec 2
  osp : BitVec 2
  deriving DecidableEq, Repr

/-- Operand fields of one shape of encoding. -/
structure PatsaveOp where
  a : BitVec 7
  ea : Bool
  space : BitVec 2
  deriving DecidableEq, Repr

/-- Operand fields of one shape of encoding. -/
structure TidgetOp where
  d : BitVec 7
  b : BitVec 7
  eb : Bool
  deriving DecidableEq, Repr

/-- Operand fields of one shape of encoding. -/
structure MfsOp where
  d : BitVec 7
  num : BitVec 10
  deriving DecidableEq, Repr

/-- Operand fields of one shape of encoding. -/
structure MtsOp where
  a : BitVec 7
  ea : Bool
  num : BitVec 10
  deriving DecidableEq, Repr

/-- Operand fields of one shape of encoding. -/
structure TlbAsidOp where
  b : BitVec 7
  ea : Bool
  eb : Bool
  deriving DecidableEq, Repr

/-- Operand fields of one shape of encoding. -/
structure TlbAllOp where
  ea : Bool
  eb : Bool
  deriving DecidableEq, Repr

/-- Operand fields of one shape of encoding. -/
structure CtxOp where
  d : BitVec 7
  h : Bool
  deriving DecidableEq, Repr

/-- Operand fields of one shape of encoding. -/
structure CtxMemOp where
  d : BitVec 7
  a : BitVec 7
  h : Bool
  deriving DecidableEq, Repr

/-- Operand fields of one shape of encoding. -/
structure B3 where
  d : BitVec 5
  a : BitVec 5
  b : BitVec 5
  deriving DecidableEq, Repr

/-- Operand fields of one shape of encoding. -/
structure BaddiOp where
  d : BitVec 5
  a : BitVec 5
  imm : BitVec 16
  deriving DecidableEq, Repr

/-- Operand fields of one shape of encoding. -/
structure LdiOp where
  d : BitVec 5
  h : BitVec 2
  imm : BitVec 16
  deriving DecidableEq, Repr

/-- Operand fields of one shape of encoding. -/
structure BccOp where
  a : BitVec 5
  b : BitVec 5
  cond : BitVec 3
  off : BitVec 13
  deriving DecidableEq, Repr

/-- Operand fields of one shape of encoding. -/
structure BmOp where
  d : BitVec 5
  base : BitVec 5
  w : Bool
  off : BitVec 15
  deriving DecidableEq, Repr

/-- Operand fields of one shape of encoding. -/
structure BvOp where
  v : BitVec 5
  base : BitVec 5
  sp : Bool
  off : BitVec 15
  deriving DecidableEq, Repr

/-- Operand fields of one shape of encoding. -/
structure B4 where
  d : BitVec 5
  a : BitVec 5
  b : BitVec 5
  c : BitVec 5
  deriving DecidableEq, Repr

/-- Operand fields of one shape of encoding. -/
structure B2 where
  d : BitVec 5
  a : BitVec 5
  deriving DecidableEq, Repr

/-- Operand fields of one shape of encoding. -/
structure ChaseOp where
  d : BitVec 5
  a : BitVec 5
  b : BitVec 5
  c : BitVec 5
  k : BitVec 6
  deriving DecidableEq, Repr

/-- Operand fields of one shape of encoding. -/
structure AdamwOp where
  a : BitVec 5
  b : BitVec 5
  c : BitVec 5
  deriving DecidableEq, Repr

/-- Operand fields of one shape of encoding. -/
structure Bab where
  a : BitVec 5
  b : BitVec 5
  deriving DecidableEq, Repr

/-- The instructions of the three instruction sets and the steps of the hardware. -/
inductive Instr where
  /-- near branch (R88) -/
  | br (r : BrOp)
  /-- near call (R89) -/
  | call (r : CallOp)
  /-- far branch (R89) -/
  | brf (r : BrfOp)
  /-- far call (R89) -/
  | callf (r : CallfOp)
  /-- jump through a table (R90) -/
  | jt (r : JtOp)
  /-- call through a table (R90) -/
  | jtc (r : JtcOp)
  /-- return (R91) -/
  | ret (r : RA)
  /-- no operation (R92) -/
  | nop
  /-- landing point (R92) -/
  | pad (label : BitVec 16)
  /-- gather at a rejoin mask (R93) -/
  | join (j : BitVec 3)
  /-- clear a rejoin mask (R94) -/
  | jmaskZ (j : BitVec 3)
  /-- add the gang to a rejoin mask (R94) -/
  | jmaskG (j : BitVec 3)
  /-- add registers to a rejoin mask (R94) -/
  | jmaskR (r : JmOp)
  /-- read a rejoin mask (R94) -/
  | jmaskGet (r : JmOp)
  /-- end the thread (R95) -/
  | exit
  /-- give up the issue turn (R96) -/
  | yield
  /-- pop a decision (R97) -/
  | dqpop (r : DqOp)
  /-- user trap (R98) -/
  | trap (code : BitVec 8)
  /-- breakpoint (R98) -/
  | bkpt (tag : BitVec 8)
  /-- 32-bit ALU (R101) -/
  | add (r : R3)
  /-- 32-bit ALU (R101) -/
  | sub (r : R3)
  /-- 32-bit ALU (R101) -/
  | and (r : R3)
  /-- 32-bit ALU (R101) -/
  | or (r : R3)
  /-- 32-bit ALU (R101) -/
  | xor (r : R3)
  /-- 32-bit ALU (R101) -/
  | shl (r : R3)
  /-- 32-bit ALU (R101) -/
  | shr (r : R3)
  /-- 32-bit ALU (R101) -/
  | sar (r : R3)
  /-- multiply and divide (R102, R103) -/
  | mul (r : R3)
  /-- multiply and divide (R102, R103) -/
  | mulhI32 (r : R3)
  /-- multiply and divide (R102, R103) -/
  | mulhN32 (r : R3)
  /-- multiply and divide (R102, R103) -/
  | mac (r : R3)
  /-- multiply and divide (R102, R103) -/
  | divI32 (r : R3)
  /-- multiply and divide (R102, R103) -/
  | divN32 (r : R3)
  /-- multiply and divide (R102, R103) -/
  | remI32 (r : R3)
  /-- multiply and divide (R102, R103) -/
  | remN32 (r : R3)
  /-- pair arithmetic and widening multiply (R104) -/
  | addB64 (r : R3)
  /-- pair arithmetic and widening multiply (R104) -/
  | subB64 (r : R3)
  /-- pair arithmetic and widening multiply (R104) -/
  | mulwI32 (r : R3)
  /-- pair arithmetic and widening multiply (R104) -/
  | mulwN32 (r : R3)
  /-- compare to predicate (R108) -/
  | cmp (r : CmpOp)
  /-- bit-field extract (R109) -/
  | bfx (r : BfxOp)
  /-- bit-field insert (R109) -/
  | bfi (r : BfiOp)
  /-- address arithmetic (R110) -/
  | lea (r : LeaOp)
  /-- add immediate (R105) -/
  | addi (r : AddiOp)
  /-- shift immediate (R105) -/
  | shi (r : ShiOp)
  /-- load a 32-bit immediate (R106) -/
  | movi (r : MoviOp)
  /-- compare with immediate (R108) -/
  | cmpi (r : CmpiOp)
  /-- bind limbs (R118) -/
  | bind (wcode : BitVec 3)
  /-- end a bound set (R118) -/
  | unbind
  /-- limb add (R119) -/
  | ladd (r : LaddOp)
  /-- limb add with carry (R119) -/
  | ladc (r : LadcOp)
  /-- limb subtract (R119) -/
  | lsub (r : LaddOp)
  /-- limb subtract with borrow (R119) -/
  | lsbc (r : LadcOp)
  /-- limb negate (R119) -/
  | lneg (r : LnegOp)
  /-- limb compare (R120) -/
  | lcmp (r : LcmpOp)
  /-- limb multiply by a word (R121) -/
  | lmulw (r : LmulwOp)
  /-- limb shift (R122) -/
  | lshl (r : R3)
  /-- limb shift (R122) -/
  | lshr (r : R3)
  /-- limb shift (R122) -/
  | lshrI (r : R3)
  /-- FP32 arithmetic (R138 to R140) -/
  | fadd (r : R3)
  /-- FP32 arithmetic (R138 to R140) -/
  | fsub (r : R3)
  /-- FP32 arithmetic (R138 to R140) -/
  | fmul (r : R3)
  /-- FP32 arithmetic (R138 to R140) -/
  | fma (r : R3)
  /-- FP32 arithmetic (R138 to R140) -/
  | fmin (r : R3)
  /-- FP32 arithmetic (R138 to R140) -/
  | fmax (r : R3)
  /-- FP32 arithmetic (R138 to R140) -/
  | fminp (r : R3)
  /-- FP32 arithmetic (R138 to R140) -/
  | fmaxp (r : R3)
  /-- FP32 divide (R141) -/
  | fdiv (r : R3)
  /-- unary FP32 (R141, R142) -/
  | fsqrt (r : R2)
  /-- unary FP32 (R141, R142) -/
  | frcp (r : R2)
  /-- unary FP32 (R141, R142) -/
  | frsq (r : R2)
  /-- unary FP32 (R141, R142) -/
  | fexp2 (r : R2)
  /-- unary FP32 (R141, R142) -/
  | flog2 (r : R2)
  /-- unary FP32 (R141, R142) -/
  | fclass (r : R2)
  /-- FP32 compare (R143) -/
  | fcmp (r : FcmpOp)
  /-- sign manipulation (R144) -/
  | fsgn (r : FsgnOp)
  /-- packed arithmetic (R145, R146) -/
  | faddBf16x2 (r : R3)
  /-- packed arithmetic (R145, R146) -/
  | fsubBf16x2 (r : R3)
  /-- packed arithmetic (R145, R146) -/
  | fmulBf16x2 (r : R3)
  /-- packed arithmetic (R145, R146) -/
  | fmaBf16x2 (r : R3)
  /-- packed arithmetic (R145, R146) -/
  | fminBf16x2 (r : R3)
  /-- packed arithmetic (R145, R146) -/
  | fmaxBf16x2 (r : R3)
  /-- packed arithmetic (R145, R146) -/
  | fdotBf16x2 (r : R3)
  /-- packed arithmetic (R145, R146) -/
  | faddF16x2 (r : R3)
  /-- packed arithmetic (R145, R146) -/
  | fsubF16x2 (r : R3)
  /-- packed arithmetic (R145, R146) -/
  | fmulF16x2 (r : R3)
  /-- packed arithmetic (R145, R146) -/
  | fmaF16x2 (r : R3)
  /-- packed arithmetic (R145, R146) -/
  | fminF16x2 (r : R3)
  /-- packed arithmetic (R145, R146) -/
  | fmaxF16x2 (r : R3)
  /-- packed arithmetic (R145, R146) -/
  | fdotF16x2 (r : R3)
  /-- convert (R147 to R150) -/
  | cvt (r : CvtOp)
  /-- pack two FP32 values (R151) -/
  | cvtp (r : CvtpOp)
  /-- shuffle (R154) -/
  | shfl (r : ShflOp)
  /-- broadcast (R155) -/
  | bcast (r : R2)
  /-- vote (R156) -/
  | vote (r : VoteOp)
  /-- match (R157) -/
  | match_ (r : MatchOp)
  /-- compact (R158) -/
  | compact (r : CompactOp)
  /-- reduction (R159) -/
  | greduce (r : GredOp)
  /-- scan (R159) -/
  | gscan (r : GscanOp)
  /-- deposit work (R162) -/
  | regput (r : RegputOp)
  /-- request a batch (R163) -/
  | regtake (r : RegtakeOp)
  /-- serve partial batches (R164) -/
  | regflush (r : RA)
  /-- draw (R166) -/
  | rand (r : RD)
  /-- draw as FP32 (R166) -/
  | randf (r : RD)
  /-- load (R187) -/
  | ld (r : MemOp)
  /-- store (R187) -/
  | st (r : MemOp)
  /-- atomic (R191) -/
  | atomAdd (r : AtomOp)
  /-- atomic (R191) -/
  | atomMin (r : AtomOp)
  /-- atomic (R191) -/
  | atomMax (r : AtomOp)
  /-- atomic (R191) -/
  | atomAnd (r : AtomOp)
  /-- atomic (R191) -/
  | atomOr (r : AtomOp)
  /-- atomic (R191) -/
  | atomXor (r : AtomOp)
  /-- atomic (R191) -/
  | atomExch (r : AtomOp)
  /-- compare and swap (R191) -/
  | atomCas (r : AtomCasOp)
  /-- transposed block load (R195) -/
  | ldt (r : LdtOp)
  /-- spread packed fields (R196) -/
  | unpk (r : UnpkOp)
  /-- cache maintenance (R197) -/
  | cmoClean (r : CmoOp)
  /-- cache maintenance (R197) -/
  | cmoInv (r : CmoOp)
  /-- cache maintenance (R197) -/
  | cmoCinv (r : CmoOp)
  /-- pin in the L2 (R199) -/
  | l2pin (r : L2pinOp)
  /-- unpin (R199) -/
  | l2unpin (r : RAB)
  /-- order one agent (R207) -/
  | fence (scope : BitVec 3)
  /-- team barrier (R217) -/
  | bar
  /-- barrier with a carve request (R218) -/
  | barCarve (r : BarCarveOp)
  /-- group barrier (R220) -/
  | barg (r : BargOp)
  /-- acquire (R216) -/
  | acq (r : AcqOp)
  /-- try to acquire (R216) -/
  | tryacq (r : TryacqOp)
  /-- release (R212, R216) -/
  | rel (r : AcqOp)
  /-- bind a region (R215) -/
  | region (r : RegionOp)
  /-- free a region (R215) -/
  | regionFree (r : RegionFreeOp)
  /-- wait on a write pointer (R223) -/
  | waitge (r : RAB)
  /-- Shuttle scalar (R235) -/
  | sadd (r : S3)
  /-- Shuttle scalar (R235) -/
  | ssub (r : S3)
  /-- Shuttle scalar (R235) -/
  | smul (r : S3)
  /-- Shuttle scalar (R235) -/
  | sand (r : S3)
  /-- Shuttle scalar (R235) -/
  | sor (r : S3)
  /-- Shuttle scalar (R235) -/
  | sxor (r : S3)
  /-- Shuttle scalar (R235) -/
  | sshl (r : S3)
  /-- Shuttle scalar (R235) -/
  | sshr (r : S3)
  /-- Shuttle scalar (R235) -/
  | ssar (r : S3)
  /-- end the Shuttle program (R238) -/
  | sdone
  /-- Shuttle add immediate (R236) -/
  | saddi (r : SaddiOp)
  /-- Shuttle load immediate (R236) -/
  | sldi (r : SldiOp)
  /-- Shuttle set on condition (R237) -/
  | sset (r : SsetOp)
  /-- Shuttle branch (R237) -/
  | sbr (r : SbrOp)
  /-- Shuttle far branch (R237) -/
  | sbrf (r : SbrfOp)
  /-- push a decision (R239) -/
  | dqpush (a : BitVec 7)
  /-- start a stream (R241) -/
  | stream (r : StreamOp)
  /-- stop a stream (R243) -/
  | sqstop (r : SqstopOp)
  /-- copy (R247) -/
  | cpy (r : CpyOp)
  /-- two-dimensional copy (R247) -/
  | cpy2d (r : CpyOp)
  /-- seal the open batch (R248) -/
  | seal (r : SealOp)
  /-- wait for batches (R249) -/
  | bwait (r : BwaitOp)
  /-- read a write pointer (R250) -/
  | wptr (r : WptrOp)
  /-- draw a chunk (R252) -/
  | chunk (r : ChunkOp)
  /-- load an overlay (R253) -/
  | ovl (r : OvlOp)
  /-- issue a product record (R277) -/
  | qmma (r : R2)
  /-- issue a product record (R277) -/
  | qspmm (r : R2)
  /-- issue a product record (R277) -/
  | qacc (r : R2)
  /-- issue a product record (R277) -/
  | qcvt (r : R2)
  /-- wait for records (R282) -/
  | qwait (r : RA)
  /-- read the watermark (R283) -/
  | qpoll (r : RD)
  /-- issue a recurrence record (R298) -/
  | qrec (r : R2)
  /-- issue a recurrence record (R298) -/
  | qrecb (r : R2)
  /-- issue a recurrence record (R298) -/
  | qtrace (r : R2)
  /-- load a rule slot (R302) -/
  | qrule (r : QruleOp)
  /-- load a pattern program (R325) -/
  | patld (r : PatldOp)
  /-- bind the context (R326) -/
  | patbind (r : RA)
  /-- take coordinates (R327) -/
  | patnext (r : PatnextOp)
  /-- merge with a stored stream (R329) -/
  | patmerge (r : PatmergeOp)
  /-- save the context (R331) -/
  | patsave (r : PatsaveOp)
  /-- restore the context (R331) -/
  | patrestore (r : PatsaveOp)
  /-- submit a packet (R379) -/
  | gspawn (r : R3)
  /-- raise a gate word (R380) -/
  | gdone (r : RAB)
  /-- write a tensor identifier (R381) -/
  | tidset (r : RAB)
  /-- read a tensor identifier (R382) -/
  | tidget (r : TidgetOp)
  /-- read a special register (R408) -/
  | mfs (r : MfsOp)
  /-- write a special register (R408) -/
  | mts (r : MtsOp)
  /-- write that special register (R408) -/
  | mtsFstat (r : RA)
  /-- write that special register (R408) -/
  | mtsFctl (r : RA)
  /-- write that special register (R408) -/
  | mtsCarve (r : RA)
  /-- leave the handler, resume (R409) -/
  | eret
  /-- leave the handler, terminate (R409) -/
  | eretTerm
  /-- shoot down a page (R410) -/
  | tlbinvPage (r : RAB)
  /-- shoot down an address space (R410) -/
  | tlbinvAsid (r : TlbAsidOp)
  /-- shoot down everything (R410) -/
  | tlbinvAll (r : TlbAllOp)
  /-- map an alias (R411) -/
  | pgshare (r : R3)
  /-- release a mapping (R412) -/
  | pgrel (r : R3)
  /-- live context to a half (R413) -/
  | ctxsave (r : CtxOp)
  /-- half to live context (R413) -/
  | ctxload (r : CtxOp)
  /-- half to memory (R413) -/
  | ctxsaveMem (r : CtxMemOp)
  /-- memory to half (R413) -/
  | ctxloadMem (r : CtxMemOp)
  /-- stop the partition (R414) -/
  | haltStop
  /-- restart the partition (R414) -/
  | haltRun
  /-- Bobbin scalar (R342) -/
  | bAdd (r : B3)
  /-- Bobbin scalar (R342) -/
  | bSub (r : B3)
  /-- Bobbin scalar (R342) -/
  | bMul (r : B3)
  /-- Bobbin scalar (R342) -/
  | bAnd (r : B3)
  /-- Bobbin scalar (R342) -/
  | bOr (r : B3)
  /-- Bobbin scalar (R342) -/
  | bXor (r : B3)
  /-- Bobbin scalar (R342) -/
  | bShl (r : B3)
  /-- Bobbin scalar (R342) -/
  | bShr (r : B3)
  /-- Bobbin scalar (R342) -/
  | bSar (r : B3)
  /-- Bobbin scalar (R342) -/
  | slt (r : B3)
  /-- Bobbin scalar (R342) -/
  | sltu (r : B3)
  /-- Bobbin add immediate (R343) -/
  | bAddi (r : BaddiOp)
  /-- Bobbin load a 16-bit part (R343) -/
  | ldi (r : LdiOp)
  /-- Bobbin conditional branch (R344) -/
  | bCc (r : BccOp)
  /-- Bobbin branch (R344) -/
  | bAl (off : BitVec 13)
  /-- Bobbin scalar memory (R345) -/
  | ldl (r : BmOp)
  /-- Bobbin scalar memory (R345) -/
  | stl (r : BmOp)
  /-- Bobbin scalar memory (R345) -/
  | ldh (r : BmOp)
  /-- Bobbin scalar memory (R345) -/
  | sth (r : BmOp)
  /-- Bobbin vector load (R346) -/
  | ldv (r : BvOp)
  /-- Bobbin vector store (R346) -/
  | stv (r : BvOp)
  /-- Bobbin vector arithmetic (R347) -/
  | vadd (r : B3)
  /-- Bobbin vector arithmetic (R347) -/
  | vsub (r : B3)
  /-- Bobbin vector arithmetic (R347) -/
  | vmul (r : B3)
  /-- Bobbin vector FMA (R347) -/
  | vfma (r : B4)
  /-- Bobbin vector broadcast (R347) -/
  | vbc (r : B2)
  /-- follow pointers (R348) -/
  | chase (r : ChaseOp)
  /-- draw a neighbour (R349) -/
  | sample (r : B3)
  /-- one optimiser step (R350) -/
  | adamw (r : AdamwOp)
  /-- chunk counter (R351) -/
  | faddc (r : B2)
  /-- add to a counter word (R352) -/
  | signal (r : Bab)
  /-- wait for a counter word (R352) -/
  | waitn (r : Bab)
  /-- end the node (R353) -/
  | bDone
  /-- the JOIN at pc that names mask j completes for a band (R93) -/
  | joinCompletion (team band : Nat) (pc : Pc) (j : BitVec 3)
  /-- the head request of a class is served (R163) -/
  | regtakeServe (team cls : Nat)
  /-- the k-th outstanding value arrives (R50) -/
  | destinationFill (k : Nat)
  /-- a copy leaves a cache (R182) -/
  | eviction (lvl : CacheLevel) (n sector : Nat)
  /-- an uncorrectable data error is dealt with (R184) -/
  | uncorrectableError (fate : ErrorFate)
  /-- a team barrier phase completes (R217) -/
  | barrierPhaseCompletion (team : Nat)
  /-- a group barrier phase completes (R220) -/
  | groupBarrierPhaseCompletion (part group : Nat)
  /-- the head waiting request of an object is granted (R211) -/
  | objectGrant (obj : Nat)
  /-- a stream pushes one entry (R241) -/
  | streamEntryPush (team q : Nat)
  /-- a channel moves the next part of its oldest copy (R244) -/
  | copyPerform (cluster ch : Nat)
  /-- the k-th forwarded draw is performed (R251) -/
  | chunkDraw (k : Nat)
  /-- the k-th record of a tile queue starts and runs (R270) -/
  | qmmaRun (cluster k : Nat)
  /-- the k-th record of a tile queue starts and runs (R279) -/
  | qspmmRun (cluster k : Nat)
  /-- the k-th record of a tile queue starts and runs (R280) -/
  | qaccZero (cluster k : Nat)
  /-- the k-th record of a tile queue starts and runs (R280) -/
  | qaccRead (cluster k : Nat)
  /-- the k-th record of a tile queue starts and runs (R280) -/
  | qaccWrite (cluster k : Nat)
  /-- the k-th record of a tile queue starts and runs (R280) -/
  | qaccStore (cluster k : Nat)
  /-- the k-th record of a tile queue starts and runs (R280) -/
  | qaccLoad (cluster k : Nat)
  /-- the k-th record of a tile queue starts and runs (R281) -/
  | qcvtRun (cluster k : Nat)
  /-- the k-th record of a tile queue completes (R258) -/
  | recordCompletion (cluster k : Nat)
  /-- the k-th record of a tile queue starts and runs (R303) -/
  | qrecRun (cluster k : Nat)
  /-- the k-th record of a tile queue starts and runs (R306) -/
  | qrecbRun (cluster k : Nat)
  /-- the k-th record of a tile queue starts and runs (R308) -/
  | qtraceRun (cluster k : Nat)
  /-- the monitor halts a partition (R404) -/
  | haltRequest (part : Nat)
  /-- the Shuttle enters the handler (R388) -/
  | trapHandlerEntry (core : Nat)
  /-- a walker resolves a miss (R395) -/
  | pageWalk (tlb : TlbId) (asid va : Nat) (write : Bool)
  /-- the teams of the next block of a grid start on a cluster (R64) -/
  | teamStart (grid cluster : Nat)
  /-- the resources of an ended team are released (R81) -/
  | teamEnd (team : Nat)
  /-- the host writes a notify register (R357) -/
  | notifyRegisterWrite (req : HostReq) (page off size : Nat) (v : Dword)
  /-- the head packet of a queue starts (R369) -/
  | graphPacket (q : Nat)
  /-- the head packet of a queue starts (R366) -/
  | gridPacket (q : Nat)
  /-- the head packet of a queue starts (R359) -/
  | copyPacket (q : Nat)
  /-- the head packet of a queue starts (R359) -/
  | bobbinPacket (q : Nat)
  /-- the head packet of a queue starts (R359) -/
  | barrierAndPacket (q : Nat)
  /-- the processor reads the words of the k-th packet under way again (R359) -/
  | barrierAndRecheck (k : Nat)
  /-- the head packet of a queue starts (R359) -/
  | signalPacket (q : Nat)
  /-- the k-th packet under way completes (R361) -/
  | packetCompletion (k : Nat)
  /-- the k-th ready node goes to a unit (R372) -/
  | nodeDispatch (k unit : Nat)
  /-- the k-th dispatched node completes (R373) -/
  | nodeCompletion (k : Nat)
  /-- the monitor retires a core (R29) -/
  | coreRetirement (core : Nat)
  /-- the monitor releases a frozen master (R390) -/
  | monitorRelease (m : Master)
  /-- a waiting WAITN reads its word again (R352) -/
  | waitnPoll (b : Nat)
  /-- a port receives a flit (R420) -/
  | flitReceive (port seq : Nat) (crcOk : Bool)
  /-- a port trains or retrains (R421) -/
  | portRetrain (port goodLanes : Nat) (auth : PeerAuth)
  /-- a peer reaches the exported window (R423) -/
  | fabricAccess (port off size : Nat) (op : PeerOp)
  /-- the runtime creates a reducing window (R425) -/
  | windowCreate (desc : List Byte)
  /-- a rank contributes a word (R426) -/
  | windowContribution (win : Nat) (peer : Peer) (off : Nat) (v : Word)
  /-- the spare takes the failed module's number, where `take` gives it, and pulls one item of the clone list from a source
  node; `clone` is the fabric offset of the source's clone word where the item is its last (R428) -/
  | stateClone (take : Option Nat) (node src dst len : Nat) (clone : Option Nat)
  /-- a host request through BAR2 (R417) -/
  | apertureRequest (req : HostReq) (off size : Nat) (data : Option (List Byte))
  /-- the host sets up an IDE stream (R418) -/
  | ideKm (func : Nat)
  /-- an IDE stream fails its check (R418) -/
  | ideIntegrityFailure (func : Nat)
  /-- function-level reset (R416) -/
  | flr (func : Nat)
  /-- the host asks for an attestation report (R431) -/
  | attestationRequest (nonce : List Byte)
  /-- power-on and bring-up: the step that fails, or 0; the split I; per port its good lanes of nine and whether both sides
  pass (R429, R430) -/
  | powerOn (failed split : Nat) (ports : List (Nat × PeerAuth))
  /-- a die junction reaches 105 degrees (R432) -/
  | dieHot
  /-- 115 degrees: the module cuts its power (R432) -/
  | overheat
  /-- the supply falls below 44 V (R432) -/
  | supplyFault
  /-- the host restarts a halted partition (R432) -/
  | partitionRestart (part : Nat)
  /-- a spare replaces an HBM row (R28) -/
  | hbmRowFailure (stack : Nat) (part : HbmPart)
  deriving DecidableEq, Repr

end Sys2Proof
end

