-- ==== Sys2Proof/Machine/State.lean ====
section
/-! DEFINITION. The state of the CKM-9260: every piece of state its manual names, as plain data, and the model's own
fields (the schedule, the issue in progress, counters of the free values). `State.reset` is the module with power
applied and nothing brought up yet (spec/21_outside.md R429, R430). -/

namespace Sys2Proof.Machine
open Sys2Proof

/-- Why the machine stops. -/
inductive Fault where
  /-- Raised by `step` when the module has cut its own power (R432, OVERHEAT) and the schedule asks for anything but
  a POWER_ON. Safe: a module without power runs nothing. -/
  | poweredOff
  deriving DecidableEq, Repr

/-- Why an instruction has no meaning. -/
inductive Refusal where
  /-- An arm of `exec` that is not written yet. Safe: the machine stops where the hardware goes on. -/
  | notModelled (mnemonic : String)
  deriving DecidableEq, Repr

/-- The fault codes of R389; TRAP and BKPT carry their own code. -/
inductive Code where
  | illInst | illPacket | priv | emptyReg | padMiss | jtBound | retEmpty | retLink | ovlMiss | limbDiv | limbShape
  | notMapped | perm | cow | align | extent | hemHit | destOvl | detConflict
  | sortViol | nonInv | pattern | rule | qShape | bobbin (sub : Nat) | trap (c : BitVec 8) | bkpt
  /-- FREEZE (0x3F): the access freezes its master and writes no record (R390). -/
  | freeze
  /-- No fault of the spec: the access waits for a port that is not ACTIVE, and is tried again (R420). -/
  | delayed
  deriving DecidableEq, Repr

/-- A fault with the two address fields its record holds (R386). -/
structure Flt where
  code : Code
  addr : Nat
  info : Nat
  deriving DecidableEq, Repr

/-- Threads of a team: band × 64 + lane. -/
abbrev Tix := Nat

/-- An agent that issues copies, draws and records. `team` is core × 8 + slot. -/
inductive Who where
  | nobody
  | thread (team : Nat) (t : Tix)
  | shuttle (core : Nat)
  | bobbin (b : Nat)
  | packet (k : Nat)
  | node (k : Nat)
  deriving DecidableEq, Repr

/-- A chunk that a draw gave out (R251, R252): its start and size, its record's address, and the number of the draw. -/
structure Chunk where
  start : Nat
  size  : Nat
  pa    : Nat
  id    : Nat
  deriving DecidableEq, Repr

/-- A unit of deterministic mode (R225). -/
inductive UnitKey where
  | plain
  | team (grid curve : Nat)
  | chunk (grid : Nat) (c : Chunk)
  | node (pkt n : Nat)
  deriving DecidableEq, Repr

/-- A 32-byte sector held in a cache, with its mask of dirty bytes (R181, R182). -/
structure Sector where
  data  : List Byte
  dirty : BitVec 32
  deriving DecidableEq, Repr

/-- What a thread is doing (R69): `held` names the registers and queue entries it waits for; `retry` says that it waits in an
instruction until that instruction no longer waits. -/
inductive TStat where
  | ready
  | held (regs : List Nat) (pops : List (Nat × Nat))
  | retry
  /-- Waits in the waits of its k-th BAR, before it arrives (R217). -/
  | preBar (k : Nat)
  | atJoin (j : BitVec 3) (pc : Pc)
  | atBar (k : Nat)
  | atBarg (g k : Nat)
  | atAcq (obj va : Nat) (excl : Bool)
  | parked
  /-- Parked by a HEMHIT record of its team (R179). -/
  | hemParked
  | exited
  deriving DecidableEq, Repr

/-- Batches of one issuer (R246): the open batch's copies, and the sealed batches with theirs. -/
structure Batches where
  count  : Word
  opened : List Nat
  sealed : List (Word × List Nat)
  deriving DecidableEq, Repr

/-- A thread's context (spec/02_words.md R46 to R54, R64; spec/03_control.md R78, R79, R84). -/
structure Thread where
  regs   : NMap Word
  empty  : List Nat
  preds  : BitVec 7
  pc     : Pc
  stat   : TStat
  sstk   : List Word
  draws  : Word
  limbL  : Nat
  bset   : Nat
  dqpos  : Nat
  qpos   : NMap Nat
  barK   : Nat
  bargK  : NMap Nat
  batch  : Batches
  chunk  : Option Chunk
  /-- Counters that must issue before this thread is selected again (R96). -/
  passed : List Nat
  /-- It has made the discarding pops of the instruction it waits at and has only its zeros to write (R42). -/
  popped : Bool
  /-- When the QWAIT it waits in began: the number of the first record issued since (R282). -/
  since : Option Nat
  /-- The BAR whose waits it is in, also while it is parked there (R217). -/
  inBar : Option Nat
  /-- A merged add it took part in has faulted: what its replay sends, or that another lane's replay sends it (R194). -/
  owed  : Option (Option Nat)
  deriving DecidableEq, Repr

/-- A gang context of a band (R69): its quads, and when it last became ready. -/
structure Ctx where
  band  : Nat
  quads : List Nat
  stamp : Nat
  deriving DecidableEq, Repr

/-- Where bytes lie once an address has been resolved (R168 to R171, R384). -/
inductive Loc where
  | glob (va : Nat)
  | phys (pa : Nat)
  | scr (team off : Nat)
  | slice (team lane off : Nat)
  | chip (die off : Nat)
  deriving DecidableEq, Repr

/-- A stream that fills an operand queue (R240 to R243). `pos` is the walk index of the next entry. -/
structure Stream where
  base    : Loc
  counts  : List Nat
  strides : List Int
  lstride : Int
  esize   : Nat
  sext    : Bool
  pos     : Nat
  pushed  : Nat
  running : Bool
  paused  : Bool
  frozen  : Bool
  sup     : Bool
  unit    : UnitKey
  deriving DecidableEq, Repr

/-- An operand queue (R49): entries from index `first` on, each one word per lane. -/
structure OpQueue where
  first   : Nat
  entries : List (List Word)
  stream  : Stream
  deriving DecidableEq, Repr

/-- The walk context of the index generator (R322). -/
structure PatCtx where
  pref  : Nat
  tdecl : Bool
  nrow  : Nat
  ncol  : Nat
  rowLo : Nat
  rowHi : Nat
  colLo : Nat
  colHi : Nat
  frow  : Nat
  fpos  : Nat
  tcol  : Nat
  tpos  : Nat
  crow  : Nat
  cbase : Nat
  prog  : List Word
  deriving DecidableEq, Repr

/-- A tile-task record (R261, R296, R307) in the queue of a cluster (R256), with what it captured at issue. `regThr` are
the threads a register operand or read-back names; `capA`, `capB` the captured words of each lane. -/
structure Rec where
  id      : Nat
  tok     : Word
  team    : Option Nat
  node    : Option Nat
  who     : Who
  unit    : UnitKey
  asid    : Nat
  core    : Nat
  sup     : Bool
  bytes   : List Byte
  regThr  : List Tix
  capA    : List (List Word)
  capB    : List (List Word)
  tidA    : List Byte
  tidB    : List Byte
  pat     : List Word
  rule    : List Byte
  round   : Nat
  started : Bool
  engine  : Nat
  progress : Nat
  finished : Bool
  parked  : Bool
  frozen  : Bool
  flags   : BitVec 5
  /-- The team's latest token before this one, 0 where it has none (R283). -/
  prev    : Word
  /-- The copies of the batches DEPB named at the issue (R257). -/
  deps    : List Nat
  /-- What a recurrence record holds between two steps (R310). QREC: 4096 × problem + 64 × row + column to the H values still
  needed. QRECB: 4096 × move + 64 × row + column to the move weights still needed. QTRACE: 0 and 1 to its row and column. -/
  wave    : NMap Nat
  deriving DecidableEq, Repr

/-- A copy accepted by a channel (R244 to R247, R253). `moved` counts the bytes performed or passed over. -/
structure Copy where
  id      : Nat
  cluster : Nat
  ch      : Nat
  core    : Nat
  who     : Who
  unit    : UnitKey
  asid    : Nat
  dst     : Loc
  src     : Loc
  width   : Nat
  rows    : Nat
  srcPitch : Int
  dstPitch : Int
  start   : Nat
  moved   : Nat
  /-- Overlay load (R253): slot, image handle and overlay number. -/
  ovl     : Option (Nat × Nat × Nat)
  stopped : Bool
  frozen  : Bool
  sup     : Bool
  deriving DecidableEq, Repr

/-- A value on its way to a thread's registers (R50): known, or to be taken from the decision queue (R97), or the
result of an instruction that issued with an underflowing pop (R49), or the result of a producer at a counter that has
faulted: its fault is still to be taken, or its thread is parked for it and ERET replays it (R53). `issue` numbers the issue,
whose faults are taken together (R387). -/
inductive FillVal where
  | words (ws : List Word)
  | decision (pos : Nat) (pair : Bool)
  | result (i : Instr) (pfx : Option Pfx) (pops : List (Nat × Nat)) (srcs : List (Nat × Word))
  | late (issue : Nat) (i : Instr) (pfx : Option Pfx) (pc : Pc) (srcs : List (Nat × Word)) (f : Flt)
  | stopped (i : Instr) (pfx : Option Pfx) (pc : Pc) (srcs : List (Nat × Word))
  deriving DecidableEq, Repr

/-- A pending producer of thread registers (R50). -/
structure Fill where
  id   : Nat
  team : Nat
  t    : Tix
  regs : List Nat
  val  : FillVal
  deriving DecidableEq, Repr

/-- A chunk draw on its way to its record (R251, R252); its value goes to every thread of `ts`, or to the Shuttle. -/
structure Draw where
  id   : Nat
  who  : Who
  ts   : List Tix
  reg  : Nat
  pa   : Nat
  sup  : Bool
  /-- The record's virtual address, and the unit the drawer worked as (R225, R226). -/
  va   : Nat
  unit : UnitKey
  deriving DecidableEq, Repr

/-- A fault kept for the issuer's next wait (R245, R259). -/
structure HeldFault where
  who  : Who
  /-- Copy id, or record id. -/
  work : Nat
  tok  : Option Word
  flt  : Flt
  deriving DecidableEq, Repr

/-- A team in its slot (R64, R80; spec/17_graph.md R366). Threads not listed have exited. -/
structure Team where
  live    : Bool
  grid    : Nat
  image   : Nat
  asid    : Nat
  allot   : BitVec 2
  bands   : Nat
  teamix  : Nat
  threads : NMap Thread
  ctxs    : List Ctx
  jmask   : NMap Dword
  fstat   : BitVec 5
  fctl    : BitVec 3
  rngkey  : Word
  pinrev  : Word
  hemrec  : Word
  scrg    : Nat
  slice   : Nat
  denied  : Bool
  /-- The first carve request of each open phase: a BAR's, or a supervisor write of CARVE (R173, R218). -/
  carveReq : List (Nat × Nat × Nat)
  /-- Quads arrived at team phases, and the last completed phase (R79). -/
  barArr  : List (Nat × Nat)
  barDone : Nat
  /-- The same per group: (group, phase, quad), and (group, completed phase). -/
  bargArr : List (Nat × Nat × Nat)
  bargDone : NMap Nat
  dqFirst : Nat
  dq      : List Dword
  queues  : NMap OpQueue
  tokens  : Word
  handles : List Nat
  rslots  : List Nat
  pat     : Option PatCtx
  scratch : Mem
  slices  : Mem
  chipBase : Nat
  chipSize : Nat
  det     : Bool
  frozen  : List Nat
  deriving DecidableEq, Repr

/-- Why the Shuttle holds (R231, R232): a draw under way, or an ACQ whose request waits or has been granted. -/
inductive Hold where
  | none
  | draw (id : Nat)
  | waitAcq (obj : Nat) (excl : Bool)
  | gotAcq (obj : Nat) (excl : Bool)
  deriving DecidableEq, Repr

/-- A REL of a Shuttle under way (R232): its object, its kind, and whether the object has been released. -/
structure RelWork where
  va   : Nat
  pa   : Nat
  excl : Bool
  done : Bool
  deriving DecidableEq, Repr

/-- The Shuttle of a core (R56, R230, R384). -/
structure Shuttle where
  team   : Option Nat
  user   : NMap Dword
  sup    : NMap Dword
  mode   : Bool
  pc     : Pc
  upc    : Pc
  active : Bool
  hold   : Hold
  supHold : Hold
  waiting : Bool
  parked : Bool
  frozen : Bool
  batch  : Batches
  supBatch : Batches
  chunk  : Option Chunk
  /-- A user REL it waits in (R232). -/
  rel    : Option RelWork
  deriving DecidableEq, Repr

/-- A Gusset entry (R161). -/
structure GussetEntry where
  team : Nat
  cls  : Nat
  ws   : List Word
  seq  : Nat
  deriving DecidableEq, Repr

/-- A pending REGTAKE request (R163): its threads in ascending LANE. -/
structure GussetReq where
  team : Nat
  cls  : Nat
  ts   : List Tix
  reg  : Nat
  n    : Nat
  deriving DecidableEq, Repr

/-- An overlay resident in a slot: image, overlay number, source address and bytes (R63, R402). -/
structure Resident where
  image : Nat
  ovl   : Nat
  src   : Nat
  len   : Nat
  deriving DecidableEq, Repr

/-- A core (R15, R16, R161, R386, R405). -/
structure Core where
  enabled : Bool
  imem    : Mem
  slots   : NMap Resident
  shuttle : Shuttle
  l1      : NMap Sector
  gusset  : List GussetEntry
  gseq    : Nat
  greqs   : List GussetReq
  trapHead  : Nat
  trapCount : Nat
  /-- Trap records that found the queue full and wait at their source (R387). -/
  trapWait  : List (List Byte)
  events  : NMap Dword
  /-- A spare takes this number at the partition's next context bind (R29). -/
  spareNext : Bool
  /-- The band granted last, 8 × team slot + band (R74). -/
  granted : Nat
  /-- Main-clock cycles the core has counted (R405). -/
  cycles  : Nat
  deriving DecidableEq, Repr

/-- An engine of a cluster's pool (R17, R57). Cells and codes are keyed by 64 × row + column; a traceback tile adds
4096 × tile. -/
structure Engine where
  acc0  : NMap Word
  acc1  : NMap Word
  trace : NMap (BitVec 2)
  busy  : Option Nat
  frozen : Bool
  /-- The scale cache: exponent sectors of the record that runs, by address / 32 (R268). -/
  scale : NMap (List Byte)
  deriving DecidableEq, Repr

/-- A copy channel (R244): its byte axis. -/
structure Channel where
  wp   : Nat
  tail : Nat
  frozen : Bool
  deriving DecidableEq, Repr

/-- A cluster (R10, R244, R255, R286). -/
structure Cluster where
  channels : NMap Channel
  rules    : NMap (List Byte)
  engines  : NMap Engine
  /-- Handles and rule slots given to tile nodes. -/
  nodeHandles : List Nat
  nodeSlots   : List Nat
  deriving DecidableEq, Repr

/-- An entry of a die's pin table (R199): owner team, the lines still pinned, as virtual and physical line numbers, and the
base and size of the pages they lie in (R201). -/
structure Pin where
  team  : Nat
  asid  : Nat
  va    : Nat
  len   : Nat
  lines : List (Nat × Nat)
  pages : List (Nat × Nat)
  deriving DecidableEq, Repr

/-- A compute die (R19, R22, R311). -/
structure Die where
  l2      : NMap Sector
  chip    : Mem
  pattern : NMap Word
  pins    : List Pin
  /-- Quarters whose spare core is in use (R29). -/
  spares  : List Nat
  deriving DecidableEq, Repr

/-- A region-table entry (R208): object, range and DET. -/
structure Region where
  start : Nat
  len   : Nat
  obj   : Nat
  det   : Bool
  deriving DecidableEq, Repr

/-- An address space (R393, R265, R208): its root, permitted ranges, region table and tensor identifiers. -/
structure Space where
  valid     : Bool
  root      : BitVec 36
  permitted : List (Nat × Nat)
  regions   : NMap Region
  tids      : NMap (List Byte)
  deriving DecidableEq, Repr

/-- A cached translation (R399): page base and size, the leaf entry and where it stands. -/
structure TlbEntry where
  tlb  : TlbId
  asid : Nat
  va   : Nat
  size : Nat
  leaf : Dword
  at_  : Nat
  deriving DecidableEq, Repr

/-- A table entry that a walker has read and may use again (R400): its level, and the base and size of what it maps. -/
structure WalkEntry where
  asid : Nat
  lvl  : Nat
  va   : Nat
  size : Nat
  e    : Nat
  deriving DecidableEq, Repr

/-- What a Bobbin engine is doing. -/
inductive BStat where
  | idle | ready | waitn (va pa : Nat) (v : Dword) | parked
  deriving DecidableEq, Repr

/-- A Bobbin engine (R334). `past` says that sequential flow has left the program's last word (R336); `wm` is the watermark of
the CHASE it stands at (R348, R355). DEDUCED (log 47). -/
structure Bobbin where
  x     : NMap Dword
  v     : NMap (List Word)
  pc    : BitVec 12
  past  : Bool
  store : List Word
  loc   : Mem
  bkey  : Word
  wm    : Nat
  asid  : Nat
  node  : Who
  trapCore : Nat
  stat  : BStat
  frozen : Bool
  deriving DecidableEq, Repr

/-- An image loaded for an address space (R60, R359): its bytes, where the runtime placed each overlay, and the
pattern-memory index of pattern program n in partition p, at key 8n + p (R312). `placed` says that its templates are written
(R377). -/
structure Image where
  asid  : Nat
  bytes : List Byte
  ovlAddr : NMap Nat
  pref  : NMap Nat
  placed : Bool
  deriving DecidableEq, Repr

/-- A user queue's descriptor (R356) and its bypass state (R362). -/
structure Queue where
  ring    : Nat
  log2n   : Nat
  weight  : Nat
  asid    : Nat
  en      : Bool
  pmask   : BitVec 8
  func    : Nat
  devq    : Bool
  rdidx   : Dword
  wridx   : Dword
  erridx  : Dword
  errcode : Nat
  started : Dword
  done    : List Nat
  bypass  : Nat
  level   : Nat
  deriving DecidableEq, Repr

/-- A packet that has started (R360, R361). `left` counts the pieces of work still open. -/
structure Packet where
  id    : Nat
  queue : Nat
  idx   : Nat
  bytes : List Byte
  /-- The completion word's address, where the packet has one. -/
  sig   : Option Nat
  /-- The addresses and thresholds of a barrier-and packet. -/
  words : List (Nat × Nat)
  /-- The chip scratchpad of this launch by partition: offset in the half and size (R171). -/
  chip  : NMap (Nat × Nat)
  err   : Bool
  left  : Nat
  deriving DecidableEq, Repr

/-- A grid whose blocks are being placed (R364 to R366). -/
structure Grid where
  id     : Nat
  pkt    : Nat
  node   : Option Nat
  asid   : Nat
  pmask  : BitVec 8
  det    : Bool
  desc   : List Byte
  /-- Blocks not started yet, by partition, as curve positions. -/
  todo   : List (Nat × Nat)
  running : Nat
  /-- Teams to be run again, by partition and curve index (R375). -/
  redo  : List (Nat × Nat)
  /-- Curve indices of the teams that have started, and of those that have ended. -/
  started : List Nat
  ended : List Nat
  /-- What its group image names, and the partitions in which that is set (R368, R376). -/
  groups : List (Nat × Nat × Nat)
  grouped : List Nat
  /-- Chunks that were discarded: the grid's next draws on their records give them again (R229, R375). -/
  redraw : List Chunk
  deriving DecidableEq, Repr

/-- A node of a started graph (R369 to R373), or the one node of a Bobbin packet. -/
inductive NodeStat where
  | waiting | pooled (order : Nat) | running | done
  deriving DecidableEq, Repr

structure Node where
  id    : Nat
  pkt   : Nat
  n     : Nat
  bytes : List Byte
  succ  : List Nat
  count : Nat
  stat  : NodeStat
  /-- Tile node: its cluster, handle, rule slot and next record. -/
  unitAt : Nat
  handle : Nat
  rslot  : Option Nat
  nextRec : Nat
  /-- Its work is done, and whether it ended in error. -/
  fin    : Bool
  err    : Bool
  deriving DecidableEq, Repr

/-- A waiting request for an object (R210). -/
structure ObjReq where
  obj  : Nat
  who  : Who
  excl : Bool
  va   : Nat
  asid : Nat
  deriving DecidableEq, Repr

/-- A QRULE that waits for the records of its team with numbers below `before` that name its slot (R302). -/
structure RuleWait where
  who    : Who
  team   : Nat
  slot   : Nat
  before : Nat
  deriving DecidableEq, Repr

/-- A contribution buffered in the Basting (R226): place, type and value. -/
structure Contribution where
  pa : Nat
  ty : Nat
  v  : Dword
  deriving DecidableEq, Repr

/-- The Basting contents of a unit (R225 to R229): the core that runs it, the curve index and the slot of its team, its snapshot,
and over that the bytes of its plain writes by physical address, each with the virtual address it was written through: those
a merge has taken, and those since. By group: `barg` the last phase its team has completed, `phases` the last one that merged
it, and `past` the same as it stood when the unit was last discarded (R229). -/
structure DetUnit where
  key   : UnitKey
  asid  : Nat
  core  : Nat
  team  : Nat
  slot  : Nat
  group : Nat
  snap  : Mem
  merged : NMap (Nat × Byte)
  wrote : NMap (Nat × Byte)
  contribs : List Contribution
  barg  : NMap Nat
  phases : NMap Nat
  past  : NMap Nat
  deriving DecidableEq, Repr

/-- An index of a device queue that a GSPAWN has claimed (R379): the participants that have not gone on, and whether the
packet is written. DEDUCED (log 33). -/
structure Claim where
  whos    : List Who
  sup     : Bool
  queue   : Nat
  idx     : Nat
  written : Bool
  deriving DecidableEq, Repr

/-- A GDONE under way (R380): the participants that have not gone on, the word and the addend, and whether the one add of
the issue is made. DEDUCED (log 33). -/
structure GDone where
  id    : Nat
  whos  : List Who
  sup   : Bool
  core  : Nat
  asid  : Nat
  unit  : UnitKey
  va    : Nat
  pa    : Nat
  v     : Nat
  added : Bool
  deriving DecidableEq, Repr

/-- The live context of a partition, saved by CTXSAVE (R402). -/
structure PartCtx where
  asid     : Nat
  isEmpty  : Bool
  teams    : NMap Team
  cores    : NMap Core
  clusters : NMap Cluster
  bobbins  : NMap Bobbin
  records  : List Rec
  copies   : List Copy
  fills    : List Fill
  draws    : List Draw
  held     : List HeldFault
  ruleWaits : List RuleWait
  claims   : List Claim
  gdones   : List GDone
  groups   : NMap (List (Nat × Nat))
  regions  : NMap Region
  traps    : Mem
  deriving DecidableEq, Repr

/-- A context image in a shadow half (R403): its header fields and the saved context. -/
structure CtxImage where
  casid  : Nat
  flags  : Nat
  len    : Nat
  serial : Nat
  deriving DecidableEq, Repr

/-- A partition (R26): open, halted, its current space, group table and shadow halves. -/
structure Part where
  opened : Bool
  halted : Bool
  /-- The core whose Shuttle halted the partition and goes on (R414). -/
  runner : Option Nat
  asid   : Nat
  groups : NMap (List (Nat × Nat))
  half0  : Option CtxImage
  half1  : Option CtxImage
  /-- The chip scratchpad the runtime gives the next launch, as an offset in the half and a size (R171). -/
  chipBase : Nat
  chipSize : Nat
  deriving DecidableEq, Repr

/-- A PCIe function (R416 to R418). -/
structure Func where
  ide    : Bool
  frozen : Bool
  bar2   : Nat
  bar2Base : Nat
  vectors : List Nat
  /-- Completions the host has been sent: the bytes of a read, or none for Unsupported Request (R418). -/
  answers : List (Option (List Byte))
  deriving DecidableEq, Repr

/-- States of a fabric port (R421). -/
inductive PortState where
  | equalise | laneMap | width | auth | active | down
  deriving DecidableEq, Repr

/-- What the domain manager and the host have set in the monitor, which bring-up puts into effect (R418, R422 to R424, R430):
the IDE policy, the exported window, the node number, the routes by node, and the identities of the domain. -/
structure Plan where
  ide    : Bool
  exBase : Nat
  exSize : Nat
  node   : Nat
  routes : NMap Nat
  domain : List (List Byte)
  deriving DecidableEq, Repr

/-- A fabric port (R420 to R422): its state and width, bad lanes, whether the spare lane is still unused, the retries of
the flit it waits for, that flit's number, the flits held for replay with whether their CRC has been found good, what reads and
atomics have returned to the peer, and what this module has sent for its authentication: chain, nonce and signature. -/
structure Port where
  st     : PortState
  lanes  : Nat
  bad    : Nat
  spare  : Bool
  retries : Nat
  expect : Nat
  held   : List (Nat × Bool)
  frozen : Bool
  answers : List (List Byte)
  sent   : List (List Byte)
  deriving DecidableEq, Repr

/-- A reducing window (R425 to R427): its descriptor and, by word offset, the contributions of the round. -/
structure Window where
  desc   : WindowDesc
  round  : List (Nat × Nat × Word)
  sums   : List Nat
  extra  : Nat
  deriving DecidableEq, Repr

/-- What the schedule asks for (the model's own): an agent's next issue, or a step of the hardware, the host or the
monitor; and the runtime's and the monitor's writes of tables that no instruction writes. -/
inductive Agent where
  /-- One cycle of a core's issue: the grant of a band (R74). -/
  | core (core : Nat)
  | shuttle (core : Nat)
  | bobbin (b : Nat)
  deriving DecidableEq, Repr

/-- DESIGN CHOICE (log 11). -/
inductive Act where
  | issue (a : Agent)
  | event (i : Instr)
  /-- The monitor writes an entry of the address-space table and its permitted ranges (R393, R396). -/
  | setSpace (asid : Nat) (valid : Bool) (root : Nat) (permitted : List (Nat × Nat))
  /-- The runtime writes a queue descriptor (R356). -/
  | setQueue (q : Nat) (bytes : List Byte)
  /-- The runtime clears a queue's ERRCODE (R356). -/
  | clearErr (q : Nat)
  /-- The runtime loads an image (R60, R61); `ovlAddr` places its overlays and `pref` its pattern programs. -/
  | setImage (h asid : Nat) (bytes : List Byte) (ovlAddr pref : NMap Nat)
  /-- The monitor makes a space the current one of a partition (R384). -/
  | setAsid (part asid : Nat)
  /-- The runtime gives the next launch of a partition its chip scratchpad, zeroed (R171, R176). -/
  | setChip (part base size : Nat)
  /-- The monitor names the supervisor overlay that partitions open with (R430). -/
  | setSup (image ovl src : Nat) (bytes : List Byte)
  /-- The flash holds a monitor image, and the monitor's policy and the domain's settings (R418, R423, R429). -/
  | setModule (flash sig : List Byte) (plan : Plan)
  /-- The monitor rewrites the route to a node (R424, R428). -/
  | setRoute (node : Nat) (port : Option Nat)
  /-- The monitor raises an MSI-X vector of a function (R419). -/
  | raiseVector (func vec : Nat)
  /-- The monitor sets a function's BAR2 (R417). -/
  | setBar (func size base : Nat)
  /-- The runtime loads an overlay into a slot of a core (R63). -/
  | loadSlot (core slot image ovl src : Nat) (bytes : List Byte)
  /-- A host or peer write performed at home slices (R202). -/
  | write (pa : Nat) (bytes : List Byte)
  deriving DecidableEq, Repr

/-- Who issues the instruction in progress: the lanes of one gang context, a Shuttle or a Bobbin engine. -/
inductive IssueWho where
  | none
  | gang (team band : Nat) (lanes : List Nat)
  | shuttle (core : Nat)
  | bobbin (b : Nat)
  deriving DecidableEq, Repr

/-- How a lane left the issue in progress: it faulted, or it waits and the instruction is tried again. -/
inductive Out where
  | flt (f : Flt)
  | retry
  | held (regs : List Nat) (pops : List (Nat × Nat))
  /-- A guard-false thread under zero policy has made its pops, of the decision queue too where `dq`, and waits to write its
  zeros (R42). -/
  | zeros (regs : List Nat) (pops : List (Nat × Nat)) (dq : Bool)
  /-- A thread in the waits of its k-th BAR, with that BAR's carve request (R217, R218). -/
  | bar (k : Nat) (req : Option (Nat × Nat))
  /-- A fault kept for this wait, and the work that met it (R245, R259). -/
  | late (work : Nat) (f : Flt)
  /-- The address of a merged add faulted, and what the lane's replay sends (R194). -/
  | merged (f : Flt) (c : Option Nat)
  /-- The Shuttle waits in an ACQ whose request joins the list (R210, R231). -/
  | acq (pa va : Nat) (excl : Bool)
  /-- A QRULE waits for the records issued before it that name its slot (R302). -/
  | rule (slot : Nat)
  /-- A participant of a GDONE waits for the others and for the add to a word (R380). -/
  | gdone (u : UnitKey) (va pa v : Nat)
  /-- A QWAIT waits for records issued before the given number (R282). -/
  | tokens (before : Nat)
  /-- The Shuttle waits in a REL, whose work goes on without it (R232). -/
  | rel (va pa : Nat) (excl : Bool)
  deriving DecidableEq, Repr

/-- The issue in progress (the model's own): who, the prefix, the counters of this word, of the group's first word and
of the word after the group, the transfers taken, the lanes that left it (with the counter of the word they left at), and
the registers as they stood before the chain group (R34). DEDUCED (log 3). -/
structure Issue where
  who   : IssueWho
  pfx   : Option Pfx
  pc    : Pc
  gpc   : Pc
  npc   : Pc
  xfer  : List (Nat × Pc)
  outs  : List (Nat × Pc × Out)
  /-- Flags the words of this issue have raised so far (R134). -/
  raised : BitVec 5
  /-- The group has several words: the lanes that leave are settled when all of it has run. -/
  multi : Bool
  view  : Option Team
  sview : Option (NMap Dword)
  /-- The Shuttle's mode as the group issued (R384). -/
  sup   : Bool
  /-- Registers of Team scope written in this cycle, each with the lane that wrote it (R408). -/
  mts   : List (Nat × Nat)
  deriving DecidableEq, Repr

/-- Stages of bring-up (R429, R430). -/
inductive Boot where
  | off | rom | recovery | failed (step : Nat) | running
  deriving DecidableEq, Repr

/-- The machine. -/
structure State where
  -- power, boot and the monitor
  power    : Bool
  boot     : Boot
  hotHalt  : Bool
  /-- Reports of the monitor to the host: freezes, DOWN ports, widths, failures (R30, R421, R432). -/
  reports  : List Nat
  /-- The flash: the monitor image and its signature (R429). -/
  monitorImg : List Byte
  monitorSig : List Byte
  plan     : Plan
  idePolicy : Bool
  interleaved : Nat
  exBase   : Nat
  exSize   : Nat
  nodeNum  : Nat
  /-- The port to each other node (R424), and the identities the domain manager has given the monitor (R422). -/
  routes   : NMap Nat
  domain   : List (List Byte)
  /-- Writes to peers that wait for their port, in order, with their issuer and physical address (R207, R420, R424). -/
  outbox   : List (Who × Nat × List Byte)
  /-- The Link IDE stream is set up (R416). -/
  linkIde  : Bool
  /-- HBM rows and pseudo-channels that a spare has replaced, by stack (R28). -/
  sparesUsed : List (Nat × HbmPart)
  /-- The supervisor overlay that a partition's opening loads into slot 3 (R388, R430). -/
  supOvl   : Option Resident
  supBytes : List Byte
  -- memory
  hbm      : Mem
  hostMem  : Mem
  peerMem  : Mem
  llc      : NMap Sector
  dies     : NMap Die
  -- cores, teams, clusters
  cores    : NMap Core
  teams    : NMap Team
  clusters : NMap Cluster
  records  : List Rec
  copies   : List Copy
  fills    : List Fill
  draws    : List Draw
  held     : List HeldFault
  objReqs  : List ObjReq
  ruleWaits : List RuleWait
  det      : List DetUnit
  -- translation
  spaces   : NMap Space
  tlb      : List TlbEntry
  walks    : List WalkEntry
  /-- Sectors cached under a leaf with S = 1, by address space (R197, R395). -/
  stable   : List (Nat × Nat)
  -- near memory
  bobbins  : NMap Bobbin
  -- launch and graph
  queues   : NMap Queue
  images   : NMap Image
  packets  : List Packet
  grids    : List Grid
  nodes    : List Node
  poolSeq  : Nat
  /-- Per level, the queue whose turn it is and the packets left in it (R362). -/
  turns    : NMap (Nat × Nat)
  claims   : List Claim
  gdones   : List GDone
  -- partitions
  parts    : NMap Part
  saved    : NMap PartCtx
  -- host and fabric
  funcs    : NMap Func
  ports    : NMap Port
  windows  : List Window
  doeOut   : List Byte
  -- the model's own
  fresh    : Nat
  sched    : List Act
  iss      : Issue
  deriving DecidableEq, Repr

/-- No batch: the count is 0 at team start (R246). -/
def Batches.none : Batches := ⟨0, [], []⟩

/-- A thread that has exited, which is also what an unlisted thread reads as. DESIGN CHOICE (log 1). -/
def Thread.gone : Thread :=
  { regs := [], empty := [], preds := 0, pc := 0, stat := .exited, sstk := [], draws := 0, limbL := 0, bset := 0,
    dqpos := 0, qpos := [], barK := 0, bargK := [], batch := .none, chunk := .none, passed := [], popped := false,
    since := .none, inBar := .none, owed := .none }

/-- No stream has run on the queue (R243). -/
def Stream.none : Stream :=
  { base := .glob 0, counts := [], strides := [], lstride := 0, esize := 4, sext := false, pos := 0, pushed := 0,
    running := false, paused := false, frozen := false, sup := false, unit := .plain }

def OpQueue.empty : OpQueue := ⟨0, [], .none⟩

/-- An empty team slot. DESIGN CHOICE (log 1). -/
def Team.free : Team :=
  { live := false, grid := 0, image := 0, asid := 0, allot := 0, bands := 0, teamix := 0, threads := [], ctxs := [],
    jmask := [], fstat := 0, fctl := 0, rngkey := 0, pinrev := 0, hemrec := 0, scrg := 0, slice := 0, denied := false,
    carveReq := [], barArr := [], barDone := 0, bargArr := [], bargDone := [], dqFirst := 0, dq := [],
    queues := [], tokens := 0, handles := [], rslots := [], pat := .none, scratch := [], slices := [], chipBase := 0,
    chipSize := 0, det := false, frozen := [] }

/-- DESIGN CHOICE (log 1). -/
def Shuttle.idle : Shuttle :=
  { team := .none, user := [], sup := [], mode := false, pc := 0, upc := 0, active := false, hold := .none, supHold := .none,
    waiting := false, parked := false, frozen := false, batch := .none, supBatch := .none, chunk := .none, rel := .none }

/-- A core as its partition opens (R430): enabled, empty, its counters 0. -/
def Core.fresh : Core :=
  { enabled := true, imem := [], slots := [], shuttle := .idle, l1 := [], gusset := [], gseq := 0, greqs := [],
    trapHead := 0, trapCount := 0, trapWait := [], events := [], spareNext := false, granted := 63,
    cycles := 0 }

def Engine.fresh : Engine := ⟨[], [], [], .none, false, []⟩
def Channel.fresh : Channel := ⟨0, 0, false⟩
def Cluster.fresh : Cluster := ⟨[], [], [], [], []⟩
def Die.fresh : Die := ⟨[], [], [], [], []⟩
def Space.none : Space := ⟨false, 0#36, [], [], []⟩

/-- DESIGN CHOICE (log 1). -/
def Bobbin.idle : Bobbin :=
  { x := [], v := [], pc := 0, past := false, store := [], loc := [], bkey := 0, wm := 0, asid := 0, node := .nobody, trapCore := 0,
    stat := .idle, frozen := false }

def Queue.none : Queue :=
  { ring := 0, log2n := 4, weight := 1, asid := 0, en := false, pmask := 0, func := 0, devq := false, rdidx := 0,
    wridx := 0, erridx := 0, errcode := 0, started := 0, done := [], bypass := 0, level := 0 }

def Part.closed : Part :=
  { opened := false, halted := false, runner := .none, asid := 0, groups := [], half0 := .none, half1 := .none, chipBase := 0, chipSize := 0 }

def Func.fresh : Func := ⟨false, false, 0, 0, [], []⟩
def Port.fresh : Port := ⟨.equalise, 8, 0, true, 0, 0, [], false, [], []⟩

/-- No issue is in progress. -/
def Issue.none : Issue :=
  { who := .none, pfx := .none, pc := 0, gpc := 0, npc := 0, xfer := [], outs := [], raised := 0, multi := false,
    view := .none, sview := .none, sup := false, mts := [] }

/-- The module with power applied, before its boot ROM has run (R429): nothing is open and nothing runs.
DESIGN CHOICE (log 1). -/
def State.reset : State :=
  { power := true, boot := .rom, hotHalt := false, reports := [], monitorImg := [], monitorSig := [],
    plan := ⟨false, 0, 0, 0, [], []⟩, idePolicy := false,
    interleaved := 0, exBase := 0, exSize := 0, nodeNum := 0, routes := [], domain := [], outbox := [], linkIde := false, sparesUsed := [], supOvl := .none, supBytes := [],
    hbm := [], hostMem := [], peerMem := [], llc := [], dies := [], cores := [], teams := [], clusters := [],
    records := [], copies := [], fills := [], draws := [], held := [], objReqs := [], ruleWaits := [], det := [], spaces := [],
    tlb := [], walks := [], stable := [], bobbins := [], queues := [], images := [], packets := [], grids := [], nodes := [], poolSeq := 0, turns := [], claims := [],
    gdones := [],    parts := [], saved := [], funcs := [], ports := [], windows := [], doeOut := [], fresh := 0,
    sched := [], iss := .none }

end Sys2Proof.Machine
end

