-- ==== Sys2Proof/Machine/Maps.lean ====
section
/-! DEFINITION. Operations on the sparse containers of the state: maps by number, and bytes by address in the one
canonical form (addresses strictly rising, no byte that equals what an unlisted address reads as, which is 0). -/

namespace Sys2Proof.Machine
open Sys2Proof

/-- The value at a key, or the given default. -/
def nget {α : Type} (m : NMap α) (k : Nat) (d : α) : α :=
  match m with
  | [] => d
  | (j, v) :: r => if j = k then v else nget r k d

/-- The value at a key, if one is listed. -/
def nfind {α : Type} (m : NMap α) (k : Nat) : Option α :=
  match m with
  | [] => none
  | (j, v) :: r => if j = k then some v else nfind r k

/-- Write a key, keeping the keys in rising order. -/
def nput {α : Type} (m : NMap α) (k : Nat) (v : α) : NMap α :=
  match m with
  | [] => [(k, v)]
  | (j, u) :: r => if j = k then (k, v) :: r else if k < j then (k, v) :: (j, u) :: r else (j, u) :: nput r k v

/-- Remove a key. -/
def ndel {α : Type} (m : NMap α) (k : Nat) : NMap α := m.filter fun e => decide (e.1 ≠ k)

/-- Change the value at a key that may not be listed. -/
def nmod {α : Type} (m : NMap α) (k : Nat) (d : α) (f : α → α) : NMap α := nput m k (f (nget m k d))

/-- A byte of memory: an unlisted byte reads as 0. -/
def mget (m : Mem) (a : Nat) : Byte := nget m a 0

/-- Write a byte, keeping the canonical form. -/
def mset (m : Mem) (a : Nat) (b : Byte) : Mem := if b = 0 then ndel m a else nput m a b

/-- Addresses strictly rising from `lo` on, and no listed byte is 0. -/
def Memory.wfFrom : Nat → Mem → Bool
  | _, [] => true
  | lo, (a, b) :: r => decide (lo ≤ a) && decide (b ≠ 0) && Memory.wfFrom (a + 1) r

/-- The memory is in its canonical form. -/
def Memory.wf (m : Mem) : Bool := Memory.wfFrom 0 m

/-- `n` bytes from an address on, ascending. DESIGN CHOICE (log 2). -/
def mread (m : Mem) (a : Nat) : Nat → List Byte
  | 0 => []
  | n + 1 => mget m a :: mread m (a + 1) n

/-- Write a list of bytes from an address on. -/
def mwrite (m : Mem) (a : Nat) : List Byte → Mem
  | [] => m
  | b :: r => mwrite (mset m a b) (a + 1) r

/-- Write only the bytes whose mask bit is set, bit 0 for the first. -/
def mwriteMasked (m : Mem) (a mask : Nat) : List Byte → Mem
  | [] => m
  | b :: r => mwriteMasked (if mask % 2 = 1 then mset m a b else m) (a + 1) (mask / 2) r

/-- Keep only the bytes below a bound (R174). -/
def mbelow (m : Mem) (hi : Nat) : Mem := m.filter fun c => decide (c.1 < hi)

/-- Keep only the bytes outside [lo, hi). -/
def moutside (m : Mem) (lo hi : Nat) : Mem := m.filter fun c => decide (c.1 < lo ∨ hi ≤ c.1)

/-- The number a little-endian list of bytes holds (R5). -/
def leNat : List Byte → Nat
  | [] => 0
  | b :: r => b.toNat + 256 * leNat r

/-- The `n` little-endian bytes of a number (R5). -/
def leBytes : Nat → Nat → List Byte
  | 0, _ => []
  | n + 1, v => BitVec.ofNat 8 v :: leBytes n (v / 256)

/-- Bytes [a, a + n) of a list; bytes past its end read as 0. -/
def bslice (bs : List Byte) (a n : Nat) : List Byte :=
  let x := (bs.drop a).take n
  x ++ List.replicate (n - x.length) 0

/-- The little-endian number at bytes [a, a + n) of a list. -/
def bnat (bs : List Byte) (a n : Nat) : Nat := leNat (bslice bs a n)

/-- Bits [lo + len − 1 : lo] of a number. -/
def bits (v lo len : Nat) : Nat := v / 2 ^ lo % 2 ^ len

/-- A number of `w` bits read as two's complement. -/
def sgn (v w : Nat) : Int := if v % 2 ^ w ≥ 2 ^ (w - 1) then (v % 2 ^ w : Int) - 2 ^ w else (v % 2 ^ w : Int)

/-- An integer modulo 2^w. -/
def wrap (v : Int) (w : Nat) : Nat := (v % (2 ^ w : Int)).toNat

/-- The first `k` of `n`, n + 1, …: for folds over a range that starts above 0. -/
def rangeFrom (n k : Nat) : List Nat := (List.range k).map (· + n)

/-- Insert keeping ascending order. -/
def insertAsc (x : Nat) : List Nat → List Nat
  | [] => [x]
  | y :: r => if x ≤ y then x :: y :: r else y :: insertAsc x r

/-- Ascending order. -/
def sortAsc (l : List Nat) : List Nat := l.foldl (fun acc x => insertAsc x acc) []

/-- Without repeats, first occurrences kept. -/
def dedup : List Nat → List Nat
  | [] => []
  | x :: r => let t := dedup r; x :: t.filter (fun y => decide (y ≠ x))

/-- Position and element, from 0. -/
def indexed {α : Type} (l : List α) : List (Nat × α) := (List.range l.length).zip l

/-- The words of a little-endian list of bytes, four at a time. -/
def wordsOf : Nat → List Byte → List Word
  | 0, _ => []
  | n + 1, bs => BitVec.ofNat 32 (leNat (bs.take 4)) :: wordsOf n (bs.drop 4)

end Sys2Proof.Machine
end

