-- ==== Sys2Proof/Machine/Flags.lean ====
section
/-! DEFINITION. Flag and predicate computations: the sticky floating-point flags (spec/05_float.md R133, R134), the
conditions of compares (spec/04_integer_limbs.md R107, R108), and the carry, borrow and overflow of limb arithmetic
(R119, R120). -/

namespace Sys2Proof.Machine
open Sys2Proof

/-! ### FSTAT bits (R133) -/

def fNV : BitVec 5 := 1
def fDZ : BitVec 5 := 2
def fOF : BitVec 5 := 4
def fUF : BitVec 5 := 8
def fNX : BitVec 5 := 16

/-- A flag where a condition holds. -/
def flagIf (b : Bool) (f : BitVec 5) : BitVec 5 := if b then f else 0

/-! ### Conditions (R107) -/

/-- The conditions of CMP on two `w`-bit values, by COND code; codes above 1011 do not decode. -/
def condHolds (w : Nat) (cond x y : Nat) : Bool :=
  match cond with
  | 0 => x == y
  | 1 => x != y
  | 2 => decide (sgn x w < sgn y w)
  | 3 => decide (sgn x w ≤ sgn y w)
  | 4 => decide (sgn y w < sgn x w)
  | 5 => decide (sgn y w ≤ sgn x w)
  | 6 => decide (x < y)
  | 7 => decide (x ≤ y)
  | 8 => decide (y < x)
  | 9 => decide (y ≤ x)
  | 10 => (x &&& y) != 0
  | _ => (x &&& y) == 0

/-- COND of CMPI's COND3 (R107). -/
def cond3 (c : Nat) : Nat := if c = 7 then 9 else c

/-- COMB: set, and, or (R108, R143). -/
def combine (comb : Nat) (c p : Bool) : Bool :=
  match comb with
  | 0 => c
  | 1 => c && p
  | _ => c || p

/-! ### Limb arithmetic on N-bit integers (R119) -/

/-- Sum with a carry in: the N-bit sum, the carry and the signed overflow. -/
def limbAdd (n a b cin : Nat) : Nat × Bool × Bool :=
  let s := a + b + cin
  let v : Int := sgn a n + sgn b n + cin
  (s % 2 ^ n, decide (2 ^ n ≤ s), decide (v < -(2 ^ (n - 1) : Int)) || decide ((2 ^ (n - 1) : Int) ≤ v))

/-- Difference with a borrow in: the N-bit difference, the borrow and the signed overflow. -/
def limbSub (n a b cin : Nat) : Nat × Bool × Bool :=
  let v : Int := sgn a n - sgn b n - cin
  ((a + 2 * 2 ^ n - b - cin) % 2 ^ n, decide (a < b + cin),
    decide (v < -(2 ^ (n - 1) : Int)) || decide ((2 ^ (n - 1) : Int) ≤ v))

end Sys2Proof.Machine
end

