-- ==== Sys2Proof/Machine/Float.lean ====
section
/-! DEFINITION. Number formats and rounding (spec/05_float.md R124 to R133, R138 to R151): exact values, one rounding to a
format with its flags, and the correctly rounded functions. -/

namespace Sys2Proof.Machine
open Sys2Proof

/-- A floating-point format: exponent and fraction bits, and whether subnormals are flushed (R124, R128). -/
structure Fmt where
  eb  : Nat
  fb  : Nat
  ftz : Bool
  deriving DecidableEq, Repr

def F32 : Fmt := ⟨8, 23, false⟩
def F16 : Fmt := ⟨5, 10, true⟩
def BF16 : Fmt := ⟨8, 7, true⟩

/-- An exact value: a NaN (signalling or not), an infinity, or (−1)^s × m × 2^e. -/
inductive FVal where
  | nan (sig : Bool)
  | inf (s : Bool)
  | fin (s : Bool) (m : Nat) (e : Int)
  deriving DecidableEq, Repr

def Fmt.bias (f : Fmt) : Int := 2 ^ (f.eb - 1) - 1
/-- The exponent of the smallest normal (R124). -/
def Fmt.emin (f : Fmt) : Int := 1 - f.bias
/-- The canonical NaN (R124). -/
def Fmt.nan (f : Fmt) : Nat := (2 ^ f.eb - 1) * 2 ^ f.fb + 2 ^ (f.fb - 1)
def Fmt.signBit (f : Fmt) (s : Bool) : Nat := if s then 2 ^ (f.eb + f.fb) else 0
def Fmt.inf (f : Fmt) (s : Bool) : Nat := f.signBit s + (2 ^ f.eb - 1) * 2 ^ f.fb
/-- The largest finite number (R124). -/
def Fmt.big (f : Fmt) (s : Bool) : Nat := f.inf s - 1

/-- The exact value of a pattern (R124). -/
def Fmt.decode (f : Fmt) (v : Nat) : FVal :=
  let fr := bits v 0 f.fb
  let ex := bits v f.fb f.eb
  let s := bits v (f.eb + f.fb) 1 == 1
  if ex = 2 ^ f.eb - 1 then (if fr = 0 then .inf s else .nan (fr < 2 ^ (f.fb - 1)))
  else if ex = 0 then .fin s fr (f.emin - f.fb)
  else .fin s (2 ^ f.fb + fr) (f.emin - f.fb + (ex - 1))

/-- A value read as an operand: subnormals of BF16 and FP16 flush to zero of the same sign (R128). -/
def Fmt.operand (f : Fmt) (v : Nat) : FVal :=
  match f.decode v with
  | .fin s m e => if f.ftz && decide (m < 2 ^ f.fb) then .fin s 0 e else .fin s m e
  | x => x

/-- The number of bits of a number. -/
def bitLen (m : Nat) : Nat := if m = 0 then 0 else Nat.log2 m + 1

/-- Round m / 2^k to an integer in a mode (R131): the integer and whether it is inexact. A negative k is exact. -/
def roundShift (mode : Nat) (s : Bool) (m : Nat) (k : Int) : Nat × Bool :=
  if k ≤ 0 then (m * 2 ^ (-k).toNat, false)
  else
    let k := k.toNat
    let h := m / 2 ^ k
    let r := m % 2 ^ k
    let half := 2 ^ (k - 1)
    let up := match mode with
      | 0 => decide (half < r) || (r == half && h % 2 == 1)
      | 1 => false
      | 2 => !s && r != 0
      | 3 => s && r != 0
      | _ => decide (half ≤ r)
    (if up then h + 1 else h, r != 0)

/-- Overflow delivers an infinity in this mode and sign (R131). -/
def overflowInf (mode : Nat) (s : Bool) : Bool :=
  match mode with
  | 0 => true
  | 1 => false
  | 2 => !s
  | 3 => s
  | _ => true

/-- One rounding of (−1)^s × m × 2^e to a format, with its flags (R128, R129, R131, R133). -/
def Fmt.round (f : Fmt) (mode : Nat) (s : Bool) (m : Nat) (e : Int) : Nat × BitVec 5 :=
  if m = 0 then (f.signBit s, 0)
  else
    let p : Int := f.fb + 1
    let q0 := e + bitLen m - p
    let q := max q0 (f.emin - f.fb)
    let u := roundShift mode s m (q0 - e)
    let r := roundShift mode s m (q - e)
    let tiny := decide (q0 < f.emin - f.fb) && !(q0 + 1 == f.emin - f.fb && u.1 == 2 ^ (f.fb + 1))
    let code := (q - (f.emin - f.fb)).toNat * 2 ^ f.fb + r.1
    if decide (0 < f.fb) && decide ((2 ^ f.eb - 1) * 2 ^ f.fb ≤ code) then
      (if overflowInf mode s then f.inf s else f.big s, fOF ||| fNX)
    else if tiny && f.ftz then (f.signBit s, fUF ||| fNX)
    else (f.signBit s + code, flagIf r.2 fNX ||| flagIf (tiny && r.2) fUF)

/-- A result of an arithmetic instruction: a value and the flags its operands raise. -/
abbrev FRes := FVal × BitVec 5

/-- Deliver a result in a format. -/
def Fmt.deliver (f : Fmt) (mode : Nat) (r : FRes) : Nat × BitVec 5 :=
  match r.1 with
  | .nan _ => (f.nan, r.2)
  | .inf s => (f.inf s, r.2)
  | .fin s m e => let x := f.round mode s m e; (x.1, r.2 ||| x.2)

def FVal.isNan : FVal → Bool
  | .nan _ => true
  | _ => false
def FVal.isSig : FVal → Bool
  | .nan s => s
  | _ => false
def FVal.isZero : FVal → Bool
  | .fin _ m _ => m == 0
  | _ => false
def FVal.isInf : FVal → Bool
  | .inf _ => true
  | _ => false
def FVal.sign : FVal → Bool
  | .nan _ => false
  | .inf s => s
  | .fin s _ _ => s
def FVal.neg : FVal → FVal
  | .nan g => .nan g
  | .inf s => .inf (!s)
  | .fin s m e => .fin (!s) m e
def FVal.abs : FVal → FVal
  | .nan g => .nan g
  | .inf _ => .inf false
  | .fin _ m e => .fin false m e

/-- NV for a signalling NaN among the operands. -/
def sigNV (vs : List FVal) : BitVec 5 := flagIf (vs.any FVal.isSig) fNV

/-- m × 2^e at a smaller exponent e0, as a signed integer. -/
def FVal.scaled (e0 : Int) : FVal → Int
  | .fin s m e => let v : Int := (m * 2 ^ (e - e0).toNat : Nat); if s then -v else v
  | _ => 0

def FVal.exp : FVal → Int
  | .fin _ _ e => e
  | _ => 0

/-- The exact sum of several values (R132, R133): the sign of a zero sum is the common sign of zero terms, else plus, or
minus in RDN. -/
def sumVals (mode : Nat) (vs : List FVal) : FRes :=
  let infs := vs.filter FVal.isInf
  let clash := infs.any (·.sign) && infs.any fun v => !v.sign
  if vs.any FVal.isNan then (.nan false, sigNV vs ||| flagIf clash fNV)
  else
    if !infs.isEmpty then
      if clash then (.nan false, fNV)
      else (.inf (infs.any (·.sign)), 0)
    else
      let e0 := vs.foldl (fun m v => min m v.exp) ((vs.headD (.fin false 0 0)).exp)
      let t : Int := vs.foldl (fun a v => a + v.scaled e0) 0
      if t = 0 then
        let s := if vs.all (·.sign) && !vs.isEmpty then true
          else if vs.all fun v => !v.sign then false else mode == 3
        (.fin s 0 e0, 0)
      else (.fin (t < 0) t.natAbs e0, 0)

/-- The exact product (R132, R133). -/
def mulVals (a b : FVal) : FRes :=
  if a.isNan || b.isNan then (.nan false, sigNV [a, b])
  else if (a.isInf && b.isZero) || (a.isZero && b.isInf) then (.nan false, fNV)
  else
    match a, b with
    | .fin s m e, .fin t n g => (.fin (s != t) (m * n) (e + g), 0)
    | _, _ => (.inf (a.sign != b.sign), 0)

def addVals (mode : Nat) (a b : FVal) : FRes := sumVals mode [a, b]
def subVals (mode : Nat) (a b : FVal) : FRes := sumVals mode [a, b.neg]

/-- The exact a × b + c; 0 × ∞ raises NV whatever c holds (R133, R138). -/
def fmaVals (mode : Nat) (a b c : FVal) : FRes :=
  let p := mulVals a b
  let r := sumVals mode [p.1, c]
  (r.1, p.2 ||| r.2 ||| sigNV [a, b, c])

/-- The exact c + a0 × b0 + a1 × b1 (R146). -/
def dotVals (mode : Nat) (c a0 b0 a1 b1 : FVal) : FRes :=
  let p := mulVals a0 b0
  let q := mulVals a1 b1
  let r := sumVals mode [c, p.1, q.1]
  (r.1, p.2 ||| q.2 ||| r.2 ||| sigNV [a0, b0, a1, b1, c])

/-! ### Roots and quotients: enough bits, and a last bit that says the rest is not zero -/

/-- Newton's iteration for the integer square root, from above. -/
def isqrtFrom : Nat → Nat → Nat → Nat
  | 0, _, x => x
  | fuel + 1, n, x =>
    let y := (x + n / x) / 2
    if y < x then isqrtFrom fuel n y else x

def isqrt (n : Nat) : Nat := if n = 0 then 0 else isqrtFrom (bitLen n + 8) n (2 ^ ((bitLen n + 1) / 2))

def stickyBit (b : Bool) : Nat := if b then 1 else 0

/-- The quotient of two non-zero finite values, with a sticky last bit. -/
def divFin (s : Bool) (m : Nat) (e : Int) (n : Nat) (g : Int) : FVal :=
  let k := 64 + bitLen n
  let q := m * 2 ^ k / n
  .fin s (2 * q + stickyBit (m * 2 ^ k % n != 0)) (e - g - k - 1)

/-- A / B (R141). -/
def divVals (a b : FVal) : FRes :=
  if a.isNan || b.isNan then (.nan false, sigNV [a, b])
  else if (a.isZero && b.isZero) || (a.isInf && b.isInf) then (.nan false, fNV)
  else
    match a, b with
    | .fin s m e, .fin t n g =>
      if n = 0 then (.inf (s != t), fDZ) else if m = 0 then (.fin (s != t) 0 0, 0)
      else (divFin (s != t) m e n g, 0)
    | .inf _, _ => (.inf (a.sign != b.sign), 0)
    | _, _ => (.fin (a.sign != b.sign) 0 0, 0)

/-- m × 2^e with an even exponent. -/
def evenExp (m : Nat) (e : Int) : Nat × Int := if e % 2 = 0 then (m, e) else (2 * m, e - 1)

/-- √A (R141). -/
def sqrtVal (a : FVal) : FRes :=
  match a with
  | .nan g => (.nan false, flagIf g fNV)
  | .inf s => if s then (.nan false, fNV) else (.inf false, 0)
  | .fin s m e =>
    if m = 0 then (.fin s 0 0, 0) else if s then (.nan false, fNV)
    else
      let x := evenExp m e
      let n := x.1 * 2 ^ 128
      let r := isqrt n
      (.fin false (2 * r + stickyBit (r * r != n)) (x.2 / 2 - 64 - 1), 0)

/-- 1 / A (R141). -/
def rcpVal (a : FVal) : FRes :=
  match a with
  | .nan g => (.nan false, flagIf g fNV)
  | .inf s => (.fin s 0 0, 0)
  | .fin s m e => if m = 0 then (.inf s, fDZ) else (divFin s 1 0 m e, 0)

/-- 1 / √A (R141). -/
def rsqVal (a : FVal) : FRes :=
  match a with
  | .nan g => (.nan false, flagIf g fNV)
  | .inf s => if s then (.nan false, fNV) else (.fin false 0 0, 0)
  | .fin s m e =>
    if m = 0 then (.inf s, fDZ) else if s then (.nan false, fNV)
    else
      let x := evenExp m e
      let r := isqrt (2 ^ 256 / x.1)
      (.fin false (2 * r + stickyBit (r * r * x.1 != 2 ^ 256)) (-(x.2 / 2) - 128 - 1), 0)

/-- 2^f for a fraction f given by its bits from 2⁻¹ down, in units of 2⁻¹²⁸: the product of the roots 2^(2⁻ⁱ) of the set
bits. `c` is the root of the last bit taken. -/
def exp2Frac : Nat → Nat → Nat → Nat → Nat
  | 0, _, _, acc => acc
  | n + 1, f, c, acc =>
    let c := isqrt (c * 2 ^ 128)
    exp2Frac n f c (if f / 2 ^ n % 2 = 1 then acc * c / 2 ^ 128 else acc)

/-- 2^A (R141): exact for an integer A; otherwise irrational, known to 100 bits and more. -/
def exp2Val (a : FVal) : FRes :=
  match a with
  | .nan g => (.nan false, flagIf g fNV)
  | .inf s => if s then (.fin false 0 0, 0) else (.inf false, 0)
  | .fin s m e =>
    if m = 0 then (.fin false 1 0, 0)
    else if e + bitLen m > 10 then (.fin false 1 (if s then -400 else 400), 0)
    else if e + bitLen m < -30 then
      (if s then .fin false (2 ^ 80 - 1) (-80) else .fin false (2 ^ 80 + 1) (-80), 0)
    else
      -- e ≥ −53 here: A as an integer count of 2⁻⁶⁰
      let v : Int := (m * 2 ^ (e + 60).toNat : Nat)
      let v := if s then -v else v
      let n := v / 2 ^ 60
      let f := (v % 2 ^ 60).toNat
      if f = 0 then (.fin false 1 n, 0)
      else (.fin false (2 * exp2Frac 60 f (2 ^ 129) (2 ^ 128) + 1) (n - 128 - 1), 0)

/-- The first n binary digits of log₂ x, x in units of 2⁻¹⁶⁰ and 1 ≤ x < 2. -/
def log2Frac : Nat → Nat → Nat → Nat
  | 0, _, acc => acc
  | n + 1, x, acc =>
    let y := x * x / 2 ^ 160
    if y ≥ 2 ^ 161 then log2Frac n (y / 2) (2 * acc + 1) else log2Frac n y (2 * acc)

/-- log₂ A (R141): exact for a power of two; otherwise irrational, known to 120 fraction bits. -/
def log2Val (a : FVal) : FRes :=
  match a with
  | .nan g => (.nan false, flagIf g fNV)
  | .inf s => if s then (.nan false, fNV) else (.inf false, 0)
  | .fin s m e =>
    if m = 0 then (.inf true, fDZ) else if s then (.nan false, fNV)
    else
      let n : Int := e + bitLen m - 1
      if m = 2 ^ (bitLen m - 1) then (.fin (n < 0) n.natAbs 0, 0)
      else
        let x := m * 2 ^ (161 - bitLen m)
        let v : Int := n * 2 ^ 120 + (log2Frac 120 x 0 : Nat)
        if v ≥ 0 then (.fin false (2 * v.toNat + 1) (-121), 0) else (.fin true (2 * v.natAbs - 1) (-121), 0)

/-! ### Comparison, minimum and maximum (R140, R143) -/

/-- a < b for numbers; −0 equals +0. -/
def FVal.lt (a b : FVal) : Bool :=
  match a, b with
  | .fin _ _ _, .fin _ _ _ => let e0 := min a.exp b.exp; decide (a.scaled e0 < b.scaled e0)
  | .inf s, .inf t => s && !t
  | .inf s, _ => s
  | _, .inf t => !t
  | _, _ => false

def FVal.eqv (a b : FVal) : Bool := !a.isNan && !b.isNan && !a.lt b && !b.lt a

/-- Pick the smaller (or larger) pattern; of two zeros −0 is the smaller. -/
def pickMin (mx : Bool) (a b : FVal) (x y : Nat) : Nat :=
  if a.lt b then (if mx then y else x)
  else if b.lt a then (if mx then x else y)
  else if a.sign == b.sign then x
  else if a.sign != mx then x else y

/-- FMIN, FMAX and, with `prop`, FMINP, FMAXP on two patterns (R140). -/
def Fmt.minMax (f : Fmt) (mx prop : Bool) (x y : Nat) : Nat × BitVec 5 :=
  let a := f.operand x
  let b := f.operand y
  let flush (v : FVal) (z : Nat) : Nat := if v.isZero then f.signBit v.sign else z
  if a.isSig || b.isSig then (f.nan, fNV)
  else if a.isNan && b.isNan then (f.nan, 0)
  else if a.isNan then (if prop then f.nan else flush b y, 0)
  else if b.isNan then (if prop then f.nan else flush a x, 0)
  else (pickMin mx a b (flush a x) (flush b y), 0)

/-! ### Conversions (R148 to R150) -/

/-- Narrow an FP32 pattern to a 16-bit format (R148). -/
def narrow (f : Fmt) (mode : Nat) (x : Nat) : Nat × BitVec 5 :=
  let a := F32.decode x
  f.deliver mode (a, sigNV [a])

/-- Widen a 16-bit pattern to FP32, exactly (R148). -/
def widen (f : Fmt) (x : Nat) : Nat × BitVec 5 :=
  let a := f.decode x
  F32.deliver 0 (a, sigNV [a])

/-- An exact value to an integer between bounds (R149): rounded, saturated with NV, NaN to 0 with NV. -/
def toIntSat (mode : Nat) (a : FVal) (lo hi : Int) : Int × BitVec 5 :=
  match a with
  | .nan _ => (0, fNV)
  | .inf s => (if s then lo else hi, fNV)
  | .fin s m e =>
    let r := roundShift mode s m (-e)
    let v : Int := if s then -(r.1 : Int) else r.1
    if v < lo then (lo, fNV) else if hi < v then (hi, fNV) else (v, flagIf r.2 fNX)

/-- An integer to FP32 (R149). -/
def fromInt (mode : Nat) (v : Int) : Nat × BitVec 5 := F32.round mode (v < 0) v.natAbs 0

/-- FP32 to an m-bit BFP mantissa under exponent E (R150). Under E = 255 it is 0 and raises no flag, for a NaN
or an input out of range too. DESIGN CHOICE (log 66). -/
def toBfp (mode m ex : Nat) (x : Nat) : Nat × BitVec 5 :=
  let a := F32.decode x
  if ex = 0 then (0, if a.isNan || a.isInf then fNV else flagIf (!a.isZero) fNX)
  else if ex = 255 then (0, 0)
  else
    let a := match a with
      | .fin s mm e => .fin s mm (e + 127 + (m - 1 : Nat) - ex)
      | v => v
    let r := toIntSat mode a (-(2 ^ (m - 1) : Int)) (2 ^ (m - 1) - 1)
    (wrap r.1 m, r.2)

/-- The exact value of BFP mantissa M under exponent E (R126). -/
def bfpVal (m ex mant : Nat) : FVal :=
  if ex = 0 then .fin false 0 0
  else if ex = 255 then .nan false
  else let v := sgn mant m; .fin (v < 0) v.natAbs (ex - 127 - (m - 1 : Nat) : Int)

/-- The FP32 pattern of a BFP element (R150). -/
def fromBfp (m ex mant : Nat) : Nat := (F32.deliver 0 (bfpVal m ex mant, 0)).1

end Sys2Proof.Machine
end

