-- ==== Sys2Proof/Machine/Ops.lean ====
section
/-! DEFINITION. Named operations over the state: the parts by number, registers, the issue in progress, taking a
fault (parking, the trap record and queue, freezing; spec/19_system.md R385 to R390) and entering and leaving the
supervisor handler. -/

namespace Sys2Proof.Machine
open Sys2Proof

/-! ### Numbering (R13, R14, R26) -/

def dieOfCore (c : Nat) : Nat := c / 64
def clusterOfCore (c : Nat) : Nat := c / 4
def partOfCore (c : Nat) : Nat := c / 32
def coreOfTeam (k : Nat) : Nat := k / 8
def slotOfTeam (k : Nat) : Nat := k % 8
def dieOfCluster (cl : Nat) : Nat := cl / 16
def partOfCluster (cl : Nat) : Nat := cl / 8
def dieOfPart (p : Nat) : Nat := p / 2
def stackOfBobbin (b : Nat) : Nat := b / 8
def dieOfStack (st : Nat) : Nat := st / 3
/-- The partition whose share a Bobbin engine is: engines 0 to 3 of a stack for the even one (R402). DEDUCED (log 35). -/
def partOfBobbin (b : Nat) : Nat := 2 * dieOfStack (b / 8) + b % 8 / 4

/-! ### Parts of the state -/

def State.core (s : State) (c : Nat) : Core := nget s.cores c .fresh
def State.modCore (s : State) (c : Nat) (f : Core → Core) : State := { s with cores := nmod s.cores c .fresh f }
def State.team (s : State) (k : Nat) : Team := nget s.teams k .free
def State.modTeam (s : State) (k : Nat) (f : Team → Team) : State := { s with teams := nmod s.teams k .free f }
def State.cluster (s : State) (c : Nat) : Cluster := nget s.clusters c .fresh
def State.modCluster (s : State) (c : Nat) (f : Cluster → Cluster) : State :=
  { s with clusters := nmod s.clusters c .fresh f }
def State.die (s : State) (d : Nat) : Die := nget s.dies d .fresh
def State.modDie (s : State) (d : Nat) (f : Die → Die) : State := { s with dies := nmod s.dies d .fresh f }
def State.part (s : State) (p : Nat) : Part := nget s.parts p .closed
def State.modPart (s : State) (p : Nat) (f : Part → Part) : State := { s with parts := nmod s.parts p .closed f }
def State.space (s : State) (a : Nat) : Space := nget s.spaces a .none
def State.modSpace (s : State) (a : Nat) (f : Space → Space) : State := { s with spaces := nmod s.spaces a .none f }
def State.bobbin (s : State) (b : Nat) : Bobbin := nget s.bobbins b .idle
def State.modBobbin (s : State) (b : Nat) (f : Bobbin → Bobbin) : State :=
  { s with bobbins := nmod s.bobbins b .idle f }
def State.queue (s : State) (q : Nat) : Queue := nget s.queues q .none
def State.modQueue (s : State) (q : Nat) (f : Queue → Queue) : State := { s with queues := nmod s.queues q .none f }
/-- Record an index and a code in a queue's ERRIDX and ERRCODE while ERRCODE is 0 (R357, R363). -/
def State.noteErr (s : State) (q : Nat) (idx : Dword) (code : Nat) : State :=
  s.modQueue q fun x => if x.errcode = 0 then { x with errcode := code, erridx := idx } else x
def State.func (s : State) (f : Nat) : Func := nget s.funcs f .fresh
def State.modFunc (s : State) (f : Nat) (g : Func → Func) : State := { s with funcs := nmod s.funcs f .fresh g }
def State.port (s : State) (p : Nat) : Port := nget s.ports p .fresh
def State.modPort (s : State) (p : Nat) (g : Port → Port) : State := { s with ports := nmod s.ports p .fresh g }
def Cluster.engine (cl : Cluster) (e : Nat) : Engine := nget cl.engines e .fresh
def Cluster.modEngine (cl : Cluster) (e : Nat) (f : Engine → Engine) : Cluster :=
  { cl with engines := nmod cl.engines e .fresh f }
def Cluster.channel (cl : Cluster) (h : Nat) : Channel := nget cl.channels h .fresh
def Cluster.modChannel (cl : Cluster) (h : Nat) (f : Channel → Channel) : Cluster :=
  { cl with channels := nmod cl.channels h .fresh f }
def State.modShuttle (s : State) (c : Nat) (f : Shuttle → Shuttle) : State :=
  s.modCore c fun k => { k with shuttle := f k.shuttle }
def State.shuttle (s : State) (c : Nat) : Shuttle := (s.core c).shuttle

def State.modNode (s : State) (id : Nat) (f : Node → Node) : State :=
  { s with nodes := s.nodes.map fun n => if n.id = id then f n else n }

/-- Take the next number of the model's counter. -/
def State.bump (s : State) : State := { s with fresh := s.fresh + 1 }

/-- A report to the monitor or the host (R30, R421, R432). DESIGN CHOICE (log 56). -/
def State.report (s : State) (n : Nat) : State := { s with reports := s.reports ++ [n] }

/-! ### Threads -/

def Team.thread (t : Team) (i : Tix) : Thread := nget t.threads i .gone
def Team.modThread (t : Team) (i : Tix) (f : Thread → Thread) : Team := { t with threads := nmod t.threads i .gone f }
def State.thread (s : State) (k : Nat) (i : Tix) : Thread := (s.team k).thread i
def State.modThread (s : State) (k : Nat) (i : Tix) (f : Thread → Thread) : State :=
  s.modTeam k fun t => t.modThread i f

/-- A thread that has not executed EXIT (R69). -/
def Thread.isLive (t : Thread) : Bool :=
  match t.stat with
  | .exited => false
  | _ => true

/-- Neither blocked, waiting nor parked (R69). -/
def Thread.isReady (t : Thread) : Bool :=
  match t.stat with
  | .ready => true
  | _ => false

/-- General register n (R46): 32 bits. -/
def Thread.g (t : Thread) (n : Nat) : Word := nget t.regs n 0

/-- FULL of register n (R50). -/
def Thread.full (t : Thread) (n : Nat) : Bool := !t.empty.contains n

/-- Write a register and set its full bit. -/
def Thread.setG (t : Thread) (n : Nat) (v : Word) : Thread :=
  { t with regs := nput t.regs n v, empty := t.empty.filter fun m => decide (m ≠ n) }

/-- Write consecutive registers from n on. -/
def Thread.setGs (t : Thread) (n : Nat) : List Word → Thread
  | [] => t
  | v :: r => Thread.setGs (t.setG n v) (n + 1) r

/-- Clear a register's full bit (R50). -/
def Thread.clearFull (t : Thread) (n : Nat) : Thread :=
  if t.empty.contains n then t else { t with empty := n :: t.empty }

/-- Predicate n: p7 reads 1 (R54). -/
def Thread.p (t : Thread) (n : Nat) : Bool := if n = 7 then true else t.preds.getLsbD n

/-- Write predicate n; a write to p7 is discarded (R54). -/
def Thread.setP (t : Thread) (n : Nat) (b : Bool) : Thread :=
  if n ≥ 7 then t
  else { t with preds := if b then t.preds ||| BitVec.ofNat 7 (2 ^ n) else t.preds &&& ~~~(BitVec.ofNat 7 (2 ^ n)) }

/-- Registers of an allotment code (R59). -/
def allotCode (c : BitVec 2) : Nat := if c = 3 then 112 else 32 * (c.toNat + 1)

/-- Registers allotted to each thread (R46, R59). -/
def Team.allotment (t : Team) : Nat := allotCode t.allot

/-- Rejoin mask j (R55). -/
def Team.j (t : Team) (n : Nat) : Dword := nget t.jmask n 0
def Team.setJ (t : Team) (n : Nat) (v : Dword) : Team := { t with jmask := nput t.jmask n v }

def Team.queue (t : Team) (q : Nat) : OpQueue := nget t.queues q .empty
def Team.modQueue (t : Team) (q : Nat) (f : OpQueue → OpQueue) : Team := { t with queues := nmod t.queues q .empty f }

/-- The live threads of a team, by index. -/
def Team.liveThreads (t : Team) : List Tix := (t.threads.filter fun e => e.2.isLive).map (·.1)

/-- The live threads of a quad of a band. -/
def Team.quadThreads (t : Team) (band q : Nat) : List Tix :=
  ((List.range 4).map fun i => 64 * band + 4 * q + i).filter fun i => (t.thread i).isLive

/-- The 64-bit mask of a list of lanes (R55). -/
def laneMask (ls : List Nat) : Dword := ls.foldl (fun m l => m ||| BitVec.ofNat 64 (2 ^ l)) 0

/-- REGG: the granules of registers a team takes at its start (R172). -/
def Team.regg (t : Team) : Nat := (t.allotment * 4 * 64 * t.bands + 16383) / 16384

/-- The bands of a team with a thread that has not exited: the others' registers are released (R80). -/
def Team.liveBands (t : Team) : Nat :=
  ((List.range t.bands).filter fun b => t.threads.any fun e => e.1 / 64 == b && e.2.isLive).length

/-- The granules of registers a team still holds (R80, R172). DEDUCED (log 18). -/
def Team.heldg (t : Team) : Nat := (t.allotment * 4 * 64 * t.liveBands + 16383) / 16384

/-- The scratchpad allocation size and the slice size in bytes (R172). -/
def Team.sa (t : Team) : Nat := 16384 * t.scrg - 4096 * t.slice
def Team.sl (t : Team) : Nat := 64 * t.slice

/-- The team slots of a core that hold a team. -/
def State.teamsOfCore (s : State) (c : Nat) : List Nat :=
  ((List.range 8).map (8 * c + ·)).filter fun k => (s.team k).live

/-- Granules serving as a core's L1 (R172, R173). -/
def State.l1g (s : State) (c : Nat) : Nat :=
  Config.granules - ((s.teamsOfCore c).map fun k => (s.team k).heldg + (s.team k).scrg).sum

/-- The first retained entry of the decision queue that a thread has not popped is the least position of the live
threads; entries before it retire (R49, R97). -/
def Team.retireDq (t : Team) : Team :=
  let low := t.liveThreads.foldl (fun m i => min m (t.thread i).dqpos) (t.dqFirst + t.dq.length)
  { t with dq := t.dq.drop (low - t.dqFirst), dqFirst := max low t.dqFirst }

/-- The same for an operand queue (R49). DEDUCED (log 55). -/
def Team.retireQ (t : Team) (q : Nat) : Team :=
  let o := t.queue q
  let low := t.liveThreads.foldl (fun m i => min m (nget (t.thread i).qpos q 0)) (o.first + o.entries.length)
  t.modQueue q fun o => { o with entries := o.entries.drop (low - o.first), first := max low o.first }

/-- Retire every queue of the team. -/
def Team.retireAll (t : Team) : Team := (t.queues.map (·.1)).foldl Team.retireQ t.retireDq

/-! ### Shuttle registers (R47, R56, R384) -/

/-- The bank of the current mode. -/
def Shuttle.bank (h : Shuttle) : NMap Dword := if h.mode then h.sup else h.user
/-- Write a register of the bank of a given mode (R232). -/
def Shuttle.setBank (h : Shuttle) (sup : Bool) (n : Nat) (v : Dword) : Shuttle :=
  if sup then { h with sup := nput h.sup n v } else { h with user := nput h.user n v }
/-- The issue writes the bank of the mode it issued in: a word beside an ERET writes the supervisor's (R34, R384). -/
def State.setS (s : State) (c n : Nat) (v : Dword) : State :=
  let sup := match s.iss.who with | .shuttle _ => s.iss.sup | _ => (s.shuttle c).mode
  s.modShuttle c (·.setBank sup n v)

/-! ### The issue in progress -/

/-- The team whose registers the issue reads: as they stood before its chain group (R34). -/
def State.viewTeam (s : State) (k : Nat) : Team :=
  match s.iss.view with
  | some t => t
  | none => s.team k

/-- The Shuttle registers the issue reads. -/
def State.viewS (s : State) (c n : Nat) : Dword :=
  match s.iss.sview with
  | some m => nget m n 0
  | none => nget (s.shuttle c).bank n 0

/-- The lanes still in the issue. -/
def State.lanes (s : State) : List Nat :=
  match s.iss.who with
  | .gang _ _ ls => ls
  | _ => []

def State.setLanes (s : State) (ls : List Nat) : State :=
  match s.iss.who with
  | .gang k b _ => { s with iss := { s.iss with who := .gang k b ls } }
  | _ => s

/-- The core of the issuing agent. -/
def State.issCore (s : State) : Nat :=
  match s.iss.who with
  | .gang k _ _ => coreOfTeam k
  | .shuttle c => c
  | _ => 0

/-- The team of the issuing agent: the gang's, or the one the Shuttle serves. -/
def State.issTeam (s : State) : Option Nat :=
  match s.iss.who with
  | .gang k _ _ => some k
  | .shuttle c => (s.shuttle c).team
  | _ => none

/-- Shuttle code in supervisor mode (R383). -/
def State.issSup (s : State) : Bool :=
  match s.iss.who with
  | .shuttle c => (s.shuttle c).mode
  | _ => false

/-- The address space of the issuing agent: the current one of its partition (R384). -/
def State.issAsid (s : State) : Nat := (s.part (partOfCore s.issCore)).asid

/-- The participants by number: the lanes of the gang, or 0 for the Shuttle. -/
def State.parts_ (s : State) : List Nat :=
  match s.iss.who with
  | .gang _ _ ls => ls
  | .shuttle _ => [0]
  | _ => []

/-- An access that waits for its port is no fault: its participant is tried again (R420). -/
def Out.delay : Out → Out
  | .flt ⟨.delayed, _, _⟩ => .retry
  | .merged ⟨.delayed, _, _⟩ _ => .retry
  | o => o

/-- A participant leaves the issue. -/
def State.dropLane (s : State) (l : Nat) (o : Out) : State :=
  let s := s.setLanes (s.lanes.filter fun m => decide (m ≠ l))
  { s with iss := { s.iss with outs := s.iss.outs ++ [(l, s.iss.pc, o.delay)] } }

/-- A transfer of a lane (R87). -/
def State.transfer (s : State) (l : Nat) (pc : Pc) : State :=
  { s with iss := { s.iss with xfer := (l, pc) :: s.iss.xfer } }

/-- The agent behind a lane of the issue, or the Shuttle (lane ignored). -/
def State.whoOf (s : State) (l : Nat) : Who :=
  match s.iss.who with
  | .gang k b _ => .thread k (64 * b + l)
  | .shuttle c => .shuttle c
  | .bobbin b => .bobbin b
  | .none => .nobody

/-! ### Batches (R246) -/

/-- The batches of an agent; a Shuttle has those of its program and those of its handler (R246, R384). DESIGN CHOICE (log 77). -/
def State.batchesOf (s : State) (sup : Bool) : Who → Batches
  | .thread k t => (s.thread k t).batch
  | .shuttle c => let h := s.shuttle c; if sup then h.supBatch else h.batch
  | _ => .none

/-- The handler is what an agent runs now. -/
def State.inHandler (s : State) : Who → Bool
  | .shuttle c => (s.shuttle c).mode
  | _ => false

def State.batches (s : State) (w : Who) : Batches := s.batchesOf (s.inHandler w) w

def State.setBatches (s : State) (w : Who) (b : Batches) : State :=
  match w with
  | .thread k t => s.modThread k t fun x => { x with batch := b }
  | .shuttle c => s.modShuttle c fun h => if h.mode then { h with supBatch := b } else { h with batch := b }
  | _ => s

/-- A copy is done when it is no longer outstanding (R244). -/
def State.copyDone (s : State) (id : Nat) : Bool := !s.copies.any fun c => c.id == id

/-- Every sealed batch with (n − b) mod 2³² < 2³¹ is complete (R249). -/
def State.sealedDone (s : State) (sup : Bool) (w : Who) (n : Word) : Bool :=
  (s.batchesOf sup w).sealed.all fun b => (n - b.1).toNat ≥ 2147483648 || b.2.all s.copyDone

/-- The copies of the sealed batches that a number covers (R249). -/
def State.sealedCopies (s : State) (sup : Bool) (w : Who) (n : Word) : List Nat :=
  ((s.batchesOf sup w).sealed.filter fun b => decide ((n - b.1).toNat < 2147483648)).flatMap (·.2)

/-- Every sealed batch is complete (R212, R217, R220). -/
def State.allSealedDone (s : State) (w : Who) : Bool :=
  (s.batches w).sealed.all fun b => b.2.all s.copyDone

/-- The wait of BWAIT, BAR, BARG and REL for the sealed batches a test names (R212, R217, R220, R245, R249): the reason it
does not pass yet, a fault kept for one of their copies, or nothing. -/
def State.batchWait (s : State) (sup : Bool) (w : Who) (sel : Word → Bool) : Option Out :=
  let bs := (s.batchesOf sup w).sealed.filter fun b => sel b.1
  if !(bs.all fun b => b.2.all s.copyDone) then some .retry
  else (s.held.find? fun h => h.who == w && h.tok.isNone && bs.any fun b => b.2.contains h.work).map fun h =>
    .late h.work h.flt

/-! ### Trap records and queues (R386 to R388) -/

/-- The byte of a fault code (R389). -/
def Code.num : Code → Nat
  | .illInst => 0x01 | .illPacket => 0x02 | .priv => 0x03 | .emptyReg => 0x04 | .padMiss => 0x05 | .jtBound => 0x06
  | .retEmpty => 0x07 | .retLink => 0x08 | .ovlMiss => 0x09 | .limbDiv => 0x0A | .limbShape => 0x0B
  | .notMapped => 0x10 | .perm => 0x11 | .cow => 0x12 | .align => 0x13 | .extent => 0x14 | .hemHit => 0x15
  | .destOvl => 0x16 | .detConflict => 0x17 | .sortViol => 0x20 | .nonInv => 0x21 | .pattern => 0x22 | .rule => 0x23
  | .qShape => 0x24 | .bobbin _ => 0x30 | .trap c => c.toNat | .bkpt => 0xFF | .freeze => 0x3F | .delayed => 0

/-- The Bobbin subcode of a record (R354). -/
def Code.sub : Code → Nat
  | .bobbin k => k
  | _ => 0

/-- The address of a fault that names none: no access has it, and a record's field of 64 bits holds 0 of it. -/
def noAddr : Nat := 2 ^ 64

/-- A fault that names no address. -/
def flt (c : Code) : Flt := ⟨c, noAddr, 0⟩

/-- The 64 bytes of a trap record (R386). DEDUCED (log 20). -/
def trapBytes (code sub src slot pc who addr info0 info1 asid : Nat) : List Byte :=
  leBytes 1 code ++ leBytes 1 sub ++ leBytes 1 src ++ leBytes 1 slot ++ leBytes 4 pc ++ leBytes 8 who ++
    leBytes 8 addr ++ leBytes 8 info0 ++ leBytes 8 info1 ++ leBytes 2 asid ++ List.replicate 22 0

/-- Where in its die's chip scratchpad a partition's half starts (R171). -/
def halfBase (p : Nat) : Nat := p % 2 * 16777216

/-- Where record k of a core's trap queue lies in its die's chip scratchpad (R386). -/
def trapAddr (c k : Nat) : Nat := halfBase (partOfCore c) + 16777216 - 131072 + 4096 * (c % 32) + 64 * k

/-- An event counter of a core counts n events where its SEL names the event and EN is 1 (R405, R406). -/
def Core.count (k : Core) (sel n : Nat) : Core :=
  { k with events := k.events.map fun e =>
      if e.2.toNat / 2 ^ 63 = 1 && bits e.2.toNat 48 8 = sel then
        (e.1, BitVec.ofNat 64 (e.2.toNat / 2 ^ 48 * 2 ^ 48 + (e.2.toNat + n) % 2 ^ 48))
      else e }

/-- Put a record into a core's trap queue, or keep it at its source while the queue is full (R387). -/
def State.record (s : State) (c : Nat) (bytes : List Byte) : State :=
  let k := s.core c
  if k.trapCount < Config.trapDepth then
    let s := s.modDie (dieOfCore c) fun d =>
      { d with chip := mwrite d.chip (trapAddr c ((k.trapHead + k.trapCount) % Config.trapDepth)) bytes }
    s.modCore c fun k => ({ k with trapCount := k.trapCount + 1 }).count 0x0D 1
  else s.modCore c fun k => { k with trapWait := k.trapWait ++ [bytes] }

/-- Retire the head record; a waiting record takes the freed place (R387, R409). -/
def State.retireTrap (s : State) (c : Nat) : State :=
  let s := s.modCore c fun k =>
    { k with trapHead := (k.trapHead + 1) % Config.trapDepth, trapCount := k.trapCount - 1 }
  match (s.core c).trapWait with
  | [] => s
  | b :: r => (s.modCore c fun k => { k with trapWait := r }).record c b

/-- The head record's bytes. -/
def State.headRecord (s : State) (c : Nat) : List Byte :=
  mread (s.die (dieOfCore c)).chip (trapAddr c (s.core c).trapHead) 64

/-- TRAPREC (R388). -/
def State.traprec (s : State) (c : Nat) : Nat :=
  (s.core c).trapHead + 64 * (s.core c).trapCount + 8192 * (c % 32)

/-- A band is frozen and reported (R30, R390). DESIGN CHOICE (log 56). -/
def State.freezeBand (s : State) (k b : Nat) : State :=
  (s.modTeam k fun t => { t with frozen := if t.frozen.contains b then t.frozen else t.frozen ++ [b] }).report
    (1000000 + 8 * k + b)

/-- The Shuttle is frozen and reported (R385, R390). DESIGN CHOICE (log 56). -/
def State.freezeShuttle (s : State) (c : Nat) : State :=
  (s.modShuttle c fun h => { h with frozen := true }).report (2000000 + c)

/-- The distinct codes of a list of faults, ascending (R387). -/
def codeNums (fs : List (Nat × Flt)) : List Nat := dedup (sortAsc (fs.map fun f => f.2.code.num))

/-- The address a record of several lanes names: the manual says only that it is a faulting one.
DESIGN CHOICE (log 6). DEDUCED (log 20). -/
def pickFault (n : Nat) (fs : List (Nat × Flt)) : Flt :=
  match fs with
  | [] => flt .illInst
  | [f] => f.2
  | f :: r => ((f :: r).getD (Config.freePick n % (r.length + 1)) f).2

/-- A faulting thread parks where it is to resume: after a TRAP or BKPT (R98), else where it replays. A FREEZE leaves it as
it is (R390). -/
def Thread.park (t : Thread) (resume next : Pc) (c : Code) : Thread :=
  { t with
    stat := (match c with | .freeze => t.stat | _ => TStat.parked)
    pc := (match c with | .trap _ => next | .bkpt => next | _ => resume) }

/-- The lanes a record of faulting lanes masks: those lanes, and every lane in a bound set with one of them (R113, R387).
DEDUCED (log 20). -/
def Team.recordLanes (t : Team) (b : Nat) (ls : List Nat) : List Nat :=
  let set (l : Nat) : Nat := (t.thread (64 * b + l)).bset
  (List.range 64).filter fun l => ls.contains l || (set l != 0 && ls.any fun m => set m == set l)

/-- The records of one issue of a gang: one for each distinct code in ascending order, with the mask of its threads and the
counter of the word that raised it (R386, R387). A FREEZE freezes the band instead (R390). DEDUCED (log 20). -/
def State.laneRecords (s : State) (k b : Nat) (fs : List (Nat × Pc × Flt)) : State :=
  (codeNums (fs.map fun f => (f.1, f.2.2))).foldl (fun s n =>
    let g := fs.filter fun f => f.2.2.code.num == n
    let f := pickFault s.fresh (g.map fun f => (f.1, f.2.2))
    let pc := match g.find? fun x => x.2.2 == f with | some x => x.2.1 | none => 0
    let s := s.bump
    if n = 0x3F then s.freezeBand k b
    else s.record (coreOfTeam k) (trapBytes n f.code.sub 0 (slotOfTeam k + 8 * b) pc.toNat
      (laneMask ((s.team k).recordLanes b (g.map (·.1)))).toNat f.addr f.info 0 (s.team k).asid)) s

/-- TAKING A FAULT, for lanes of a gang: every faulting thread parks, and the issue's records are written (R387). `next` is
where a thread of TRAP or BKPT resumes (R98); every other thread replays. -/
def State.faultLanes (s : State) (k b : Nat) (resume next : Pc) (fs : List (Nat × Pc × Flt)) : State :=
  (fs.foldl (fun s f => s.modThread k (64 * b + f.1) fun t => t.park resume next f.2.2.code) s).laneRecords k b fs

/-- Taking a fault, for the Shuttle: in user mode it parks and writes a record (R387); in supervisor mode it is frozen
(R385). The Shuttle replays its instruction. DEDUCED (log 20). -/
def State.faultShuttle (s : State) (c : Nat) (pc : Pc) (f : Flt) : State :=
  if (s.shuttle c).mode then s.freezeShuttle c
  else if f.code = .freeze then s.freezeShuttle c
  else
    let s := s.modShuttle c fun h => { h with parked := true }
    let slot := match (s.shuttle c).team with | some k => slotOfTeam k | none => 0
    s.record c (trapBytes f.code.num f.code.sub 1 slot pc.toNat 0 f.addr f.info 0 (s.part (partOfCore c)).asid)

/-- A record of another source (R386): stream 2, copy channel 3, tile record 4, Bobbin engine 5, team 6. DEDUCED (log 20). -/
def State.faultSource (s : State) (c src slot who asid : Nat) (f : Flt) (info1 : Nat) : State :=
  s.record c (trapBytes f.code.num f.code.sub src slot 0 who f.addr f.info info1 asid)

/-- Entering the handler (R232, R384, R388): supervisor mode, the user counter kept, packet 0 of slot 3, and TRAPREC in
the supervisor bank's s0. -/
def State.enterHandler (s : State) (c : Nat) : State :=
  let rec0 := s.traprec c
  s.modShuttle c fun h =>
    { h with mode := true, upc := h.pc, pc := 0x18000, waiting := false,
             sup := nput h.sup 0 (BitVec.ofNat 64 rec0) }

/-- Leaving the handler (R388): entered again while records remain, else back to the user program. -/
def State.leaveHandler (s : State) (c : Nat) : State :=
  if (s.core c).trapCount > 0 then
    let rec0 := s.traprec c
    s.modShuttle c fun h => { h with pc := 0x18000, sup := nput h.sup 0 (BitVec.ofNat 64 rec0) }
  else s.modShuttle c fun h => { h with mode := false, pc := h.upc }

/-! ### Fills (R50) -/

def State.addFill (s : State) (k : Nat) (t : Tix) (regs : List Nat) (v : FillVal) : State :=
  { s with fills := s.fills ++ [⟨s.fresh, k, t, regs, v⟩], fresh := s.fresh + 1 }

/-- Mark registers empty at issue and put their values on the way (R50). DEDUCED (log 55). -/
def State.fillLater (s : State) (k : Nat) (t : Tix) (d : Nat) (ws : List Word) : State :=
  let regs := (List.range ws.length).map (d + ·)
  (s.modThread k t fun x => regs.foldl Thread.clearFull x).addFill k t regs (.words ws)

end Sys2Proof.Machine
end

