-- ==== Sys2Proof/Machine/Phys.lean ====
section
/-! DEFINITION. Physical memory: placement (spec/19_system.md R391, R392), the 32-byte sectors of L1, L2, LLC and HBM
and the path between them (spec/07_memory.md R181, R182; spec/08_ordering.md R202, R203), cache maintenance by level
(R197), host and fabric targets, and reducing windows (spec/21_outside.md R425 to R427). -/

namespace Sys2Proof.Machine
open Sys2Proof

/-- What a physical address names (R391). -/
inductive Target where
  | hbm | host | peer (node off : Nat)
  deriving DecidableEq, Repr

def targetOf (pa : Nat) : Target :=
  if bits pa 51 1 = 1 then .peer (bits pa 43 8) (bits pa 0 43) else if bits pa 50 1 = 1 then .host else .hbm

/-- Start of the stack-local pools (R392). -/
def localBase : Nat := 0x10000000000

/-- The HBM byte exists: in the interleaved pool of 12 × I GiB, or in a stack's local pool (R392). -/
def State.exists_ (s : State) (pa : Nat) : Bool :=
  if pa < localBase then decide (pa < 12 * s.interleaved * 1073741824)
  else decide ((pa - localBase) / 0x1000000000 < 12) &&
    decide ((pa - localBase) % 0x1000000000 < (48 - s.interleaved) * 1073741824)

/-- The stack of an HBM byte (R392). -/
def stackOf (pa : Nat) : Nat := if pa < localBase then pa / 4096 % 12 else (pa - localBase) / 0x1000000000

/-- The byte lies in the highest 4 GiB of the interleaved pool, which the monitor keeps for itself (R392). -/
def State.reserved (s : State) (pa : Nat) : Bool :=
  decide (pa < 12 * s.interleaved * 1073741824) && decide (12 * s.interleaved * 1073741824 - 4294967296 ≤ pa)

/-- Where an entry of the address-space table stands (R393): at the start of the reserved memory. DESIGN CHOICE (log 60). -/
def State.spaceAt (s : State) (asid : Nat) : Nat := 12 * s.interleaved * 1073741824 - 4294967296 + 16 * asid

/-- The byte lies in a stack-local pool (R392). -/
def isStackLocal (pa : Nat) : Bool := decide (targetOf pa = .hbm) && decide (localBase ≤ pa)

/-- The home die of an HBM byte (R14). -/
def homeDie (pa : Nat) : Nat := stackOf pa / 3

def secOf (pa : Nat) : Nat := pa / 32

/-! ### The contents of a sector along the path (R203) -/

/-- DESIGN CHOICE (log 2). -/
def State.hbmSec (s : State) (q : Nat) : List Byte := mread s.hbm (32 * q) 32

def State.llcSec (s : State) (q : Nat) : List Byte :=
  match nfind s.llc q with
  | some x => x.data
  | none => s.hbmSec q

def State.homeSec (s : State) (q : Nat) : List Byte :=
  match nfind (s.die (homeDie (32 * q))).l2 q with
  | some x => x.data
  | none => s.llcSec q

def State.dieSec (s : State) (d q : Nat) : List Byte :=
  match nfind (s.die d).l2 q with
  | some x => x.data
  | none => s.homeSec q

def State.coreSec (s : State) (c q : Nat) : List Byte :=
  match nfind (s.core c).l1 q with
  | some x => x.data
  | none => s.dieSec (dieOfCore c) q

/-- Replace bytes [o, o + n) of a sector's data. -/
def splice (data : List Byte) (o : Nat) (bs : List Byte) : List Byte :=
  data.take o ++ bs ++ data.drop (o + bs.length)

/-- The dirty mask of bytes [o, o + n). -/
def dirtyMask (o n : Nat) : BitVec 32 := BitVec.ofNat 32 ((2 ^ n - 1) * 2 ^ o)

/-- Take from `new` the bytes whose mask bit is set, from `old` the others. -/
def mergeBytes (mask : Nat) : List Byte → List Byte → List Byte
  | n :: nr, o :: or => (if mask % 2 = 1 then n else o) :: mergeBytes (mask / 2) nr or
  | _, _ => []

def Sector.put (x : Sector) (o : Nat) (bs : List Byte) : Sector :=
  ⟨splice x.data o bs, x.dirty ||| dirtyMask o bs.length⟩

def Sector.merge (x : Sector) (y : Sector) : Sector :=
  ⟨mergeBytes y.dirty.toNat y.data x.data, x.dirty ||| y.dirty⟩

/-! ### Allocation on a read: each level on the path takes a copy (R181) -/

def State.fillLlc (s : State) (q : Nat) : State :=
  match nfind s.llc q with
  | some _ => s
  | none => { s with llc := nput s.llc q ⟨s.hbmSec q, 0⟩ }

def State.fillHome (s : State) (q : Nat) : State :=
  match nfind (s.die (homeDie (32 * q))).l2 q with
  | some _ => s
  | none =>
    let s := s.fillLlc q
    s.modDie (homeDie (32 * q)) fun d => { d with l2 := nput d.l2 q ⟨s.llcSec q, 0⟩ }

def State.fillDie (s : State) (d q : Nat) : State :=
  match nfind (s.die d).l2 q with
  | some _ => s
  | none =>
    let s := s.fillHome q
    if d = homeDie (32 * q) then s else s.modDie d fun x => { x with l2 := nput x.l2 q ⟨s.homeSec q, 0⟩ }

def State.fillCore (s : State) (c q : Nat) : State :=
  match nfind (s.core c).l1 q with
  | some _ => s
  | none =>
    let s := s.fillDie (dieOfCore c) q
    s.modCore c fun k => ({ k with l1 := nput k.l1 q ⟨s.dieSec (dieOfCore c) q, 0⟩ }).count 0x04 1

/-! ### Moving dirty bytes down the path (R182): only dirty bytes are written, and the copy becomes clean -/

def cleanIn (m : NMap Sector) (q : Nat) : NMap Sector :=
  match nfind m q with
  | some x => nput m q { x with dirty := 0 }
  | none => m

/-- The LLC's dirty bytes go to HBM. -/
def State.cleanLlc (s : State) (q : Nat) : State :=
  match nfind s.llc q with
  | some x =>
    if x.dirty = 0 then s
    else { s with hbm := mwriteMasked s.hbm (32 * q) x.dirty.toNat x.data, llc := cleanIn s.llc q }
  | none => s

/-- The home slice's dirty bytes go to the LLC. -/
def State.cleanHome (s : State) (q : Nat) : State :=
  let d := homeDie (32 * q)
  match nfind (s.die d).l2 q with
  | some x =>
    if x.dirty = 0 then s
    else
      let s := s.fillLlc q
      let s := { s with llc := nput s.llc q ((nget s.llc q ⟨[], 0⟩).merge x) }
      s.modDie d fun k => { k with l2 := cleanIn k.l2 q }
  | none => s

/-- A remote copy's dirty bytes go to the home slice. -/
def State.cleanRemote (s : State) (d q : Nat) : State :=
  if d = homeDie (32 * q) then s
  else
    match nfind (s.die d).l2 q with
    | some x =>
      if x.dirty = 0 then s
      else
        let h := homeDie (32 * q)
        let s := s.fillHome q
        let s := s.modDie h fun k => { k with l2 := nput k.l2 q ((nget k.l2 q ⟨[], 0⟩).merge x) }
        s.modDie d fun k => { k with l2 := cleanIn k.l2 q }
    | none => s

/-- An L1's dirty bytes go to its die's L2. -/
def State.cleanL1 (s : State) (c q : Nat) : State :=
  match nfind (s.core c).l1 q with
  | some x =>
    if x.dirty = 0 then s
    else
      let d := dieOfCore c
      let s := s.fillDie d q
      let s := s.modDie d fun k => { k with l2 := nput k.l2 q ((nget k.l2 q ⟨[], 0⟩).merge x) }
      s.modCore c fun k => { k with l1 := cleanIn k.l1 q }
  | none => s

def State.dropL1 (s : State) (c q : Nat) : State := s.modCore c fun k => { k with l1 := ndel k.l1 q }
def State.dropRemote (s : State) (d q : Nat) : State :=
  if d = homeDie (32 * q) then s else s.modDie d fun k => { k with l2 := ndel k.l2 q }
def State.dropHome (s : State) (q : Nat) : State :=
  s.modDie (homeDie (32 * q)) fun k => { k with l2 := ndel k.l2 q }
def State.dropLlc (s : State) (q : Nat) : State := { s with llc := ndel s.llc q }

/-- Clean a sector on an agent's path to a level: 0 the die, 1 the home slice, 2 the LLC, 3 memory (R197). -/
def State.cleanTo (s : State) (c q lvl : Nat) : State :=
  let s := s.cleanL1 c q
  let s := if lvl ≥ 1 then s.cleanRemote (dieOfCore c) q else s
  let s := if lvl ≥ 2 then s.cleanHome q else s
  if lvl ≥ 3 then s.cleanLlc q else s

/-- Drop a sector's copies on an agent's path to a level (R197). -/
def State.dropTo (s : State) (c q lvl : Nat) : State :=
  let s := s.dropL1 c q
  let s := if lvl ≥ 1 then s.dropRemote (dieOfCore c) q else s
  let s := if lvl ≥ 2 then s.dropHome q else s
  if lvl ≥ 3 then s.dropLlc q else s

/-- Clean every L1 and remote copy of the given dies to the home slices, optionally dropping them (R360, R361, R373). -/
def State.cleanDies (s : State) (ds : List Nat) (drop : Bool) : State :=
  let cs := (s.cores.map (·.1)).filter fun c => ds.contains (dieOfCore c)
  let s := cs.foldl (fun s c => ((s.core c).l1.map (·.1)).foldl (fun s q =>
    let s := s.cleanL1 c q
    if drop then s.dropL1 c q else s) s) s
  ds.foldl (fun s d => ((s.die d).l2.map (·.1)).foldl (fun s q =>
    let s := s.cleanRemote d q
    if drop then s.dropRemote d q else s) s) s

/-- Every dirty sector of every home slice goes to the LLC, and with `mem` the LLC's go to HBM (R361, R373). -/
def State.cleanHomes (s : State) (mem : Bool) : State :=
  let s := (s.dies.map (·.1)).foldl (fun s d => ((s.die d).l2.map (·.1)).foldl (fun s q =>
    if d = homeDie (32 * q) then s.cleanHome q else s) s) s
  if mem then (s.llc.map (·.1)).foldl State.cleanLlc s else s

/-! ### Evictions (R182), and what a cache holds at most (R19, R20) -/

/-- A sector of a die's L2 is pinned (R199). -/
def State.isPinned (s : State) (d q : Nat) : Bool := (s.die d).pins.any fun p => p.lines.any fun l => l.2 == q / 4

/-- A copy leaves a cache: its dirty bytes go down one place and the copy is dropped. -/
def State.evictL1 (s : State) (c q : Nat) : State := (s.cleanL1 c q).dropL1 c q
def State.evictL2 (s : State) (d q : Nat) : State :=
  if d = homeDie (32 * q) then (s.cleanHome q).dropHome q else (s.cleanRemote d q).dropRemote d q
def State.evictLlc (s : State) (q : Nat) : State := (s.cleanLlc q).dropLlc q

/-- The cache die that caches a line: 2d for an even pseudo-channel, 2d + 1 for an odd one (R14, R20). -/
def cacheDie (line : Nat) : Nat := 2 * homeDie (128 * line) + Config.pseudoChannel line % 2

/-- `k` of a list's members, freely chosen. -/
def victims (n : Nat) : Nat → List Nat → List Nat
  | 0, _ => []
  | k + 1, l =>
    match l[Config.freePick (n + k) % l.length]? with
    | none => []
    | some x => x :: victims n k (l.erase x)

/-- Which of a pool's lines leave where more are held than it has room for; `kept` ones stay. -/
def leaving (n cap : Nat) (lines : List Nat) (kept : Nat → Bool) : List Nat :=
  victims n (lines.length - cap) (lines.filter fun x => !kept x)

/-- The sectors that leave a cache of several pools, so that none holds more lines than `cap`. -/
def overflow (n cap pools : Nat) (pool : Nat → Nat) (sectors : List Nat) (kept : Nat → Bool) : List Nat :=
  if sectors.length ≤ cap then []
  else
    let lines := dedup (sectors.map (· / 4))
    let out := (List.range pools).flatMap fun i => leaving n cap (lines.filter fun l => pool l == i) kept
    sectors.filter fun q => out.contains (q / 4)

/-- Every cache holds no more than it has room for: an L1 the granules that no team holds (R172), a slice of an L2 its 2 MiB,
a cache die what shadow storage leaves of its 768 MiB (R19, R20). DESIGN CHOICE (log 65). -/
def State.fitCaches (s : State) : State :=
  let s := (s.cores.map (·.1)).foldl (fun s c =>
    let held := (s.core c).l1.map (·.1)
    (victims s.fresh (held.length - 512 * s.l1g c) held).foldl (fun s q => s.evictL1 c q) s) s
  let s := (s.dies.map (·.1)).foldl (fun s d =>
    (overflow s.fresh Config.sliceLines Config.l2Slices (fun l => Config.slice l % Config.l2Slices) ((s.die d).l2.map (·.1))
      fun l => s.isPinned d (4 * l)).foldl (fun s q => s.evictL2 d q) s) s
  (overflow s.fresh Config.llcLines 8 cacheDie (s.llc.map (·.1)) fun _ => false).foldl State.evictLlc s

/-- Granules leave a core's L1: the sectors that lie in them, which are the device's choice, write back their dirty bytes and
are dropped (R174). DEDUCED (log 18). -/
def State.takeGranules (s : State) (c : Nat) : State :=
  ((s.core c).l1.map (·.1)).foldl (fun s q => if Config.freeTaken s.fresh q then s.evictL1 c q else s) s

/-! ### Lines of stable pages (R197, R360, R395) -/

/-- The sectors of a read through a leaf with S = 1 are remembered. DEDUCED (log 61). -/
def State.noteStable (s : State) (asid leaf pa n : Nat) : State :=
  if bits leaf 5 1 = 0 || targetOf pa != .hbm then s
  else { s with stable := (rangeFrom (pa / 32) ((pa % 32 + n + 31) / 32)).foldl (fun l x => if l.contains (asid, x) then l else (asid, x) :: l) s.stable }

/-- Their copies in every L1 and every remote copy go: a dirty one is written back first. DEDUCED (log 61). -/
def State.dropStable (s : State) (asid : Nat) : State :=
  let qs := (s.stable.filter fun x => x.1 == asid).map (·.2)
  let s := (s.cores.map (·.1)).foldl (fun s c => qs.foldl (fun s q => s.evictL1 c q) s) s
  let s := (s.dies.map (·.1)).foldl (fun s d => qs.foldl (fun s q => (s.cleanRemote d q).dropRemote d q) s) s
  { s with stable := s.stable.filter fun x => x.1 != asid }

/-! ### Splitting an access into its sectors -/

/-- The pieces (sector, offset, length) of [pa, pa + n), ascending; `fuel` bounds their number. -/
def pieces : Nat → Nat → Nat → List (Nat × Nat × Nat)
  | 0, _, _ => []
  | fuel + 1, pa, n =>
    if n = 0 then []
    else
      let k := min n (32 - pa % 32)
      (pa / 32, pa % 32, k) :: pieces fuel (pa + k) (n - k)

/-! ### Reducing windows (R425 to R427) -/

/-- A store of a word to this module's own window is its contribution to the round. -/
def Window.covers (w : Window) (off : Nat) : Bool :=
  decide (w.desc.wbase ≤ off) && decide (off < w.desc.wbase + w.desc.wlen)

def State.windowAt (s : State) (off : Nat) : Option Window := s.windows.find? fun w => w.covers off

/-- The window over a physical address of this module's own fabric range, if any. -/
def State.windowOf (s : State) (pa : Nat) : Option Window :=
  match targetOf pa with
  | .peer n off => if n = s.nodeNum then s.windowAt off else none
  | _ => none

/-! ### Reads and writes -/

/-- The route to a node leads to a port that is ACTIVE (R420, R421, R424). -/
def State.online (s : State) (node : Nat) : Bool :=
  match nfind s.routes node with
  | some p => (s.port p).st == .active && !(s.port p).frozen
  | none => false

/-- The function that owns a partition, and issues its requests to host memory: the one the first enabled queue on it names (R417).
DESIGN CHOICE (log 48). -/
def State.ownerFunc (s : State) (p : Nat) : Nat :=
  match s.queues.find? fun q => q.2.en && q.2.pmask.getLsbD p with
  | some q => q.2.func
  | none => 0

/-- An access of an agent of core c reaches its target now: one to a peer waits until its port is ACTIVE (R420), one to host memory
until the function that issues it is not frozen (R390, R417). -/
def State.reach (s : State) (c pa : Nat) : Except Flt Unit :=
  match targetOf pa with
  | .peer node _ => if node = s.nodeNum || s.online node then .ok () else .error (flt .delayed)
  | .host => if (s.func (s.ownerFunc (partOfCore c))).frozen then .error (flt .delayed) else .ok ()
  | .hbm => .ok ()

/-- Bytes of memory outside the package: the host's, or a peer's. What the processor reads of a peer while no ACTIVE port leads to
it is a free value; an agent's access waits (`State.reach`). DESIGN CHOICE (log 2). DEDUCED (log 21). DESIGN CHOICE (log 71). -/
def State.farRead (s : State) (pa n : Nat) : List Byte :=
  match targetOf pa with
  | .peer node _ => if s.online node then mread s.peerMem pa n else (List.range n).map fun i => Config.freeByte s.fresh (pa + i)
  | _ => mread s.hostMem pa n

/-- A write to a peer: performed where its port is ACTIVE, else held, in order, until it is (R420). DESIGN CHOICE (log 71). -/
def State.peerWrite (s : State) (node pa : Nat) (bs : List Byte) : State :=
  if s.online node then { s with peerMem := mwrite s.peerMem pa bs } else { s with outbox := s.outbox ++ [(.nobody, pa, bs)] }

/-- The core of the issuer of a held write. -/
def Who.heldCore : Who → Nat
  | .thread k _ => coreOfTeam k
  | .shuttle c => c
  | _ => 0

/-- The address lies in a peer. -/
def isPeer (pa : Nat) : Bool := match targetOf pa with | .peer _ _ => true | _ => false

/-- Held writes that reach their target now are performed, in the order they were made. -/
def State.sweepOutbox (s : State) : State :=
  let due (w : Who × Nat × List Byte) : Bool := (s.reach w.1.heldCore w.2.1).toOption.isSome
  let put (m : Mem) (peer : Bool) : Mem :=
    (s.outbox.filter fun w => due w && isPeer w.2.1 == peer).foldl (fun m w => mwrite m w.2.1 w.2.2) m
  if s.outbox.isEmpty then s
  else { s with peerMem := put s.peerMem true, hostMem := put s.hostMem false, outbox := s.outbox.filter fun w => !due w }

/-- A read of physical bytes along the home-slice path, as copy channels, engines, walkers and the host read (R244, R268). -/
def State.homeRead (s : State) (pa n : Nat) : List Byte :=
  match targetOf pa with
  | .hbm => (pieces (n + 1) pa n).flatMap fun p => bslice (s.homeSec p.1) p.2.1 p.2.2
  | .peer nd off => if nd = s.nodeNum then
      (pieces (n + 1) (s.exBase + off) n).flatMap fun p => bslice (s.homeSec p.1) p.2.1 p.2.2
    else s.farRead pa n
  | .host => s.farRead pa n

/-- A read of physical bytes by a core, without allocation: the value on its path (R203). -/
def State.corePeek (s : State) (c pa n : Nat) : List Byte :=
  match targetOf pa with
  | .hbm => (pieces (n + 1) pa n).flatMap fun p => bslice (s.coreSec c p.1) p.2.1 p.2.2
  | _ => s.homeRead pa n

/-- The sectors a core's read allocates in its L1 and on the way (R181). -/
def State.coreTouch (s : State) (c pa n : Nat) : State :=
  match targetOf pa with
  | .hbm => (pieces (n + 1) pa n).foldl (fun s p => s.fillCore c p.1) s
  | _ => s

/-- A write performed at the home slice of local HBM (R202). -/
def State.homeWriteHbm (s : State) (pa : Nat) (bs : List Byte) : State :=
  ((pieces (bs.length + 1) pa bs.length).foldl (fun (sb : State × List Byte) p =>
    let s := sb.1.fillHome p.1
    (s.modDie (homeDie (32 * p.1)) fun d =>
      { d with l2 := nput d.l2 p.1 ((nget d.l2 p.1 ⟨[], 0⟩).put p.2.1 (sb.2.take p.2.2)) }, sb.2.drop p.2.2))
    (s, bs)).1

/-- The sum of the contributions to a word in rank order (R426), by format; the operations are the float unit's. -/
def Window.contribs (w : Window) (off : Nat) : List (Nat × Word) :=
  (w.round.filter fun c => c.1 == off).map fun c => (c.2.1, c.2.2)

/-- A write at the home slice of its target: HBM, host memory or a fabric peer (R202, R423, R424). A write to this
module's own window is taken by `State.windowStore`, not here. -/
def State.homeWrite (s : State) (pa : Nat) (bs : List Byte) : State :=
  match targetOf pa with
  | .hbm => s.homeWriteHbm pa bs
  | .host => { s with hostMem := mwrite s.hostMem pa bs }
  | .peer nd off => if nd = s.nodeNum then s.homeWriteHbm (s.exBase + off) bs
    else s.peerWrite nd pa bs

/-- A global store of a core: it writes the core's L1 copy, allocating the sector (R182). -/
def State.coreWrite (s : State) (c pa : Nat) (bs : List Byte) : State :=
  match targetOf pa with
  | .hbm =>
    ((pieces (bs.length + 1) pa bs.length).foldl (fun (sb : State × List Byte) p =>
      let s := sb.1.fillCore c p.1
      (s.modCore c fun k =>
        { k with l1 := nput k.l1 p.1 ((nget k.l1 p.1 ⟨[], 0⟩).put p.2.1 (sb.2.take p.2.2)) }, sb.2.drop p.2.2))
      (s, bs)).1
  | _ => s.homeWrite pa bs

/-- Before a global atomic leaves the core its L1 copy and the die's remote copy write their dirty bytes to the home
slice and are dropped (R191). -/
def State.surrender (s : State) (c pa n : Nat) : State :=
  match targetOf pa with
  | .hbm => (pieces (n + 1) pa n).foldl (fun s p =>
      let s := (s.cleanRemote (dieOfCore c) p.1).cleanL1 c p.1
      (((s.cleanRemote (dieOfCore c) p.1).dropL1 c p.1).dropRemote (dieOfCore c) p.1)) s
  | _ => s

/-- An engine's or channel's global write: performed at the home slice, with the issuing core's L1 copy and the issuing
die's remote copy of each sector dropped (R244, R275). -/
def State.engineWrite (s : State) (c pa : Nat) (bs : List Byte) : State :=
  let s := s.homeWrite pa bs
  match targetOf pa with
  | .hbm => (pieces (bs.length + 1) pa bs.length).foldl (fun s p =>
      (s.dropL1 c p.1).dropRemote (dieOfCore c) p.1) s
  | _ => s

/-- A Bobbin's sector step (R224, R339): dirty bytes of the home copy are written back, the bytes applied, the stale LLC
copy dropped, and the step written through to HBM. -/
def State.bobbinWrite (s : State) (pa : Nat) (bs : List Byte) : State :=
  (pieces (bs.length + 1) pa bs.length).foldl (fun (sb : State × List Byte) p =>
    let s := (sb.1.cleanHome p.1).cleanLlc p.1
    let s := { s with hbm := mwrite s.hbm (32 * p.1 + p.2.1) (sb.2.take p.2.2) }
    let s := (s.dropLlc p.1).dropHome p.1
    (s.fillHome p.1, sb.2.drop p.2.2)) (s, bs) |>.1

/-- A little-endian number read at the home slice, and written there. -/
def State.homeNat (s : State) (pa n : Nat) : Nat := leNat (s.homeRead pa n)
def State.homePut (s : State) (pa n v : Nat) : State := s.homeWrite pa (leBytes n v)

end Sys2Proof.Machine
end

