-- ==== Sys2Proof/Machine/Translate.lean ====
section
/-! DEFINITION. Virtual memory (spec/19_system.md R393 to R400): the walk, the checks of an access against its leaf, the
cached translations and the shootdown; and the pin revocation it brings (spec/07_memory.md R201). -/

namespace Sys2Proof.Machine
open Sys2Proof

/-- What an access does with a page (R397): reads it, writes it, or also loads an overlay from it. -/
structure Acc where
  r : Bool
  w : Bool
  x : Bool
  deriving DecidableEq, Repr

def Acc.read : Acc := ⟨true, false, false⟩
def Acc.write : Acc := ⟨false, true, false⟩
def Acc.atomic : Acc := ⟨true, true, false⟩
def Acc.overlay : Acc := ⟨true, false, true⟩

/-- The leaf a walk found: the entry, its physical address, and the page it maps. -/
structure Leaf where
  e    : Nat
  at_  : Nat
  base : Nat
  size : Nat
  deriving DecidableEq, Repr

def notMappedAt (va lvl : Nat) : Flt := ⟨.notMapped, va, lvl⟩

/-- A table entry's reserved bits [15:2] and [63:52] are 0 (R395). -/
def tableOk (e : Nat) : Bool := bits e 2 14 == 0 && bits e 52 12 == 0

/-- A leaf's reserved bits are 0 and its CLASS code is assigned (R395). -/
def leafOk (e : Nat) : Bool := bits e 11 1 == 0 && bits e 60 4 == 0 && decide (bits e 12 4 ≤ 1)

/-- FRAME of an entry (R395). -/
def frameOf (e : Nat) : Nat := bits e 16 36

/-- A walk (R394 to R396), where `rd` reads the entry of a level at its address: the leaf, or NOTMAPPED with the level at which
it ended. -/
def walkWith (rd : Nat → Nat → Nat) (sp : Space) (va : Nat) : Except Flt Leaf :=
  if va ≥ 2 ^ 55 then .error (notMappedAt va 3)
  else
    let a2 := sp.root.toNat * 65536 + 8 * bits va 42 13
    let e2 := rd 2 a2
    if !sp.valid || bits e2 0 1 = 0 || bits e2 1 1 = 0 || !tableOk e2 then .error (notMappedAt va 2)
    else
      let a1 := frameOf e2 * 65536 + 8 * bits va 29 13
      let e1 := rd 1 a1
      if bits e1 0 1 = 0 then .error (notMappedAt va 1)
      else if bits e1 1 1 = 0 then
        if leafOk e1 && bits (frameOf e1) 0 13 == 0 then .ok ⟨e1, a1, va / 2 ^ 29 * 2 ^ 29, 2 ^ 29⟩
        else .error (notMappedAt va 1)
      else if !tableOk e1 then .error (notMappedAt va 1)
      else
        let a0 := frameOf e1 * 65536 + 8 * bits va 16 13
        let e0 := rd 0 a0
        if bits e0 0 1 = 0 || bits e0 1 1 = 1 || !leafOk e0 then .error (notMappedAt va 0)
        else if bits e0 7 1 = 1 then .ok ⟨e0, a0, va / 2 ^ 21 * 2 ^ 21, 2 ^ 21⟩
        else .ok ⟨e0, a0, va / 2 ^ 16 * 2 ^ 16, 2 ^ 16⟩

/-- The walk of a virtual address that reads every entry at its home slice (R398). -/
def State.walk (s : State) (asid va : Nat) : Except Flt Leaf := walkWith (fun _ a => s.homeNat a 8) (s.space asid) va

/-- The bytes that an entry of a level maps, as a power of two (R394). -/
def levelBits (lvl : Nat) : Nat := if lvl = 2 then 42 else if lvl = 1 then 29 else 16

/-- A table entry as a walker sees it: what its home slice holds, or, where a walker still holds an older value of it, that
one (R398, R400). -/
def State.tableAt (s : State) (asid va lvl a : Nat) : Nat :=
  let now := s.homeNat a 8
  match s.walks.find? fun w => w.asid == asid && w.lvl == lvl && w.va == va / 2 ^ levelBits lvl * 2 ^ levelBits lvl with
  | none => now
  | some w => if w.e = now then now else if Config.freeWalk s.fresh (4 * va + lvl) then w.e else now

/-- The walk of a miss, which may use table entries that a walker holds (R398, R400).
DESIGN CHOICE (log 5). DESIGN CHOICE (log 65). -/
def State.walkMiss (s : State) (asid va : Nat) : Except Flt Leaf := walkWith (s.tableAt asid va) (s.space asid) va

/-- The walker holds the table entries that a walk has read. -/
def State.keepWalk (s : State) (asid va : Nat) : State :=
  let base (lvl : Nat) : Nat := va / 2 ^ levelBits lvl * 2 ^ levelBits lvl
  let e2 := s.tableAt asid va 2 ((s.space asid).root.toNat * 65536 + 8 * bits va 42 13)
  let e1 := s.tableAt asid va 1 (frameOf e2 * 65536 + 8 * bits va 29 13)
  let new : List WalkEntry := ⟨asid, 2, base 2, 2 ^ 42, e2⟩ :: (if bits e1 1 1 = 1 then [⟨asid, 1, base 1, 2 ^ 29, e1⟩] else [])
  { s with walks := new ++ s.walks.filter fun w => !new.any fun x => x.asid == w.asid && x.lvl == w.lvl && x.va == w.va }

/-- The physical address of a byte of a leaf's page (R396). -/
def Leaf.pa (l : Leaf) (va : Nat) : Nat :=
  if l.size = 2 ^ 21 then frameOf l.e / 32 * 32 * 65536 + va % 2 ^ 21 else frameOf l.e * 65536 + va % l.size

/-- A frame lies inside the space's permitted ranges; in HBM it exists, and the monitor does not keep it for itself, which no
permitted range includes (R392, R396). -/
def State.permitted (s : State) (asid pa : Nat) : Bool :=
  ((s.space asid).permitted.any fun r => decide (r.1 ≤ pa) && decide (pa < r.2)) &&
    (match targetOf pa with | .hbm => s.exists_ pa && !s.reserved pa | _ => true)

/-- The checks of an access against its leaf, in order (R397), with the window rules of R425. -/
def State.checkLeaf (s : State) (l : Leaf) (va : Nat) (a : Acc) : Option Flt :=
  let bad (c : Code) : Option Flt := some ⟨c, va, 0⟩
  let win := (s.windowOf (l.pa va)).isSome
  if (a.r && bits l.e 2 1 == 0) || (a.w && bits l.e 3 1 == 0) || (a.w && bits l.e 5 1 == 1) ||
      (a.x && bits l.e 4 1 == 0) then bad .perm
  else if win && (bits l.e 12 4 == 0 || a.r) then bad .perm
  else if a.w && bits l.e 6 1 == 1 then bad .cow
  else none

/-- A and M of a leaf, each set by one atomic OR at the leaf's home slice (R397). -/
def State.orLeaf (s : State) (at_ mask : Nat) : State := s.homePut at_ 8 (s.homeNat at_ 8 ||| mask)

/-- What a cached translation says of its page. -/
def TlbEntry.found (e : TlbEntry) : Leaf := ⟨e.leaf.toNat, e.at_, e.va, e.size⟩

/-- The cached translation of a page, if any (R399). -/
def State.tlbFind (s : State) (tlb : TlbId) (asid va : Nat) : Option TlbEntry :=
  s.tlb.find? fun e => e.tlb == tlb && e.asid == asid && decide (e.va ≤ va) && decide (va < e.va + e.size)

/-- The TLB that backs a core's: its cluster's (R399). -/
def tlbSecond : TlbId → Option TlbId
  | .core c => some (.shared (clusterOfCore c))
  | _ => none

/-- How many translations a TLB holds (R338, R399); the walk-ahead TLB has no stated size. -/
def tlbCap : TlbId → Option Nat
  | .core _ => some Config.coreTlb
  | .shared _ => some Config.clusterTlb
  | .bobbin _ => some Config.bobbinTlb
  | .tile _ => none

/-- A translation enters a TLB, where a full one loses an entry of the device's choice (R338, R399). DESIGN CHOICE (log 65). -/
def State.tlbPut (s : State) (t : TlbId) (asid : Nat) (l : Leaf) : State :=
  let mine := s.tlb.filter fun e => e.tlb == t
  let full := match tlbCap t with | some n => decide (n ≤ mine.length) | none => false
  let rest := if full then (match mine[Config.freePick s.fresh % mine.length]? with | some e => s.tlb.erase e | none => s.tlb)
    else s.tlb
  { s with tlb := ⟨t, asid, l.base, l.size, BitVec.ofNat 64 l.e, l.at_⟩ :: rest }

/-- A core's TLB misses; `walked` where its cluster's misses too and a walk starts (R406). -/
def State.tlbMiss (s : State) (t : TlbId) (walked : Bool) : State :=
  match t with
  | .core c => s.modCore c fun k => if walked then ((k.count 0x05 1).count 0x06 1).count 0x07 1 else k.count 0x05 1
  | _ => s

/-- Install what a walk found, in the TLBs on its way; the walker sets A (R397, R399). -/
def State.tlbFill (s : State) (t : TlbId) (asid : Nat) (l : Leaf) : State :=
  let s := if bits l.e 9 1 = 1 then s else s.orLeaf l.at_ 512
  let s := match tlbSecond t with | some u => s.tlbPut u asid l | none => s
  s.tlbPut t asid l

/-- The translation of an address: cached, in the TLB or in the one that backs it, or walked now (a failed walk installs
nothing). -/
def State.lookup (s : State) (tlb : TlbId) (asid va : Nat) : Except Flt (State × Leaf) :=
  if va ≥ 2 ^ 55 then .error (notMappedAt va 3)
  else
    match s.tlbFind tlb asid va with
    | some e => .ok (s, e.found)
    | none =>
      match (tlbSecond tlb).bind fun t => s.tlbFind t asid va with
      | some e => .ok ((s.tlbMiss tlb false).tlbPut tlb asid e.found, e.found)
      | none =>
        match s.walkMiss asid va with
        | .error f => .error f
        | .ok l => .ok (((s.keepWalk asid va).tlbMiss tlb true).tlbFill tlb asid l, l)

/-- The misses of an access that ended in a fault of translation: nothing is installed, and the misses count (R406).
DEDUCED (log 62). -/
def State.countFault (s : State) (c asid : Nat) (f : Flt) : State :=
  let walks : Bool := decide (f.addr < 2 ^ 55) && (match s.walkMiss asid f.addr with
    | .error g => g == f && decide (f.info < 3)
    | .ok _ => f.code == .perm || f.code == .cow || f.code == .freeze)
  if !walks || (s.tlbFind (.core c) asid f.addr).isSome then s
  else s.tlbMiss (.core c) (s.tlbFind (.shared (clusterOfCore c)) asid f.addr).isNone

/-- The same for the faults of one issue: misses on one page join one walk (R399). DEDUCED (log 62). -/
def State.countFaults (s : State) (c asid : Nat) (fs : List Flt) : State :=
  (dedup (fs.map fun f => f.addr / 65536)).foldl (fun s p => match fs.find? fun f => f.addr / 65536 == p with
    | some f => s.countFault c asid f
    | none => s) s

/-- The first write through a leaf sets M (R397). -/
def State.markM (s : State) (tlb : TlbId) (asid : Nat) (l : Leaf) : State :=
  if bits l.e 10 1 = 1 then s
  else
    let s := s.orLeaf l.at_ 1024
    { s with tlb := s.tlb.map fun e =>
        if (e.tlb == tlb || some e.tlb == tlbSecond tlb) && e.asid == asid && e.va == l.base && e.size == l.size then
          { e with leaf := e.leaf ||| 1024 } else e }

/-- Translate and check one byte's access (R397): the state with A and M set, the physical address and the leaf, or the
fault; a frame outside the permitted ranges freezes the master (R396). -/
def State.translate (s : State) (tlb : TlbId) (asid va : Nat) (a : Acc) : Except Flt (State × Nat × Nat) :=
  match s.lookup tlb asid va with
  | .error f => .error f
  | .ok (s, l) =>
    match s.checkLeaf l va a with
    | some f => .error f
    | none =>
      if s.permitted asid (l.pa va) then
        .ok (if a.w then s.markM tlb asid l else s, l.pa va, l.e)
      else .error ⟨.freeze, va, 0⟩

/-- The pages that [va, va + n) touches, as one address of each. -/
def pagesOf (va n : Nat) : List Nat :=
  if n = 0 then []
  else (rangeFrom (va / 65536) ((va + n - 1) / 65536 - va / 65536 + 1)).map fun p => max va (p * 65536)

/-- Translate every page of a range; the first that fails is the fault. -/
def State.translateAll (s : State) (tlb : TlbId) (asid : Nat) (a : Acc) : List Nat → Except Flt State
  | [] => .ok s
  | va :: r =>
    match s.translate tlb asid va a with
    | .error f => .error f
    | .ok (s, _, _) => s.translateAll tlb asid a r

/-- Which cached translations a shootdown covers (R410). -/
inductive Shoot where
  | page (asid va : Nat) | asid (a : Nat) | all
  deriving DecidableEq, Repr

def Shoot.covers (k : Shoot) (e : TlbEntry) : Bool :=
  match k with
  | .page a va => e.asid == a && decide (e.va ≤ va) && decide (va < e.va + e.size)
  | .asid a => e.asid == a
  | .all => true

/-- The same for a table entry that a walker holds. -/
def Shoot.coversWalk (k : Shoot) (w : WalkEntry) : Bool :=
  match k with
  | .page a va => w.asid == a && decide (w.va ≤ va) && decide (va < w.va + w.size)
  | .asid a => w.asid == a
  | .all => true

/-- Write back a line wherever an L1, a remote copy or its home slice holds it (R201). -/
def State.cleanLine (s : State) (pline : Nat) : State :=
  (List.range 4).foldl (fun s i =>
    let q := 4 * pline + i
    let s := (s.cores.map (·.1)).foldl (fun s c => (s.cleanL1 c q)) s
    ((s.dies.map (·.1)).foldl (fun s d => s.cleanRemote d q) s).cleanHome q) s

/-- The base and size of the page that a pinned line lies in. -/
def Pin.page (p : Pin) (va : Nat) : Nat × Nat :=
  (p.pages.find? fun g => decide (g.1 ≤ va) && decide (va < g.1 + g.2)).getD (va / 65536 * 65536, 65536)

/-- A pinned line that a shootdown covers and whose address no longer maps there. -/
def State.lineLost (s : State) (k : Shoot) (p : Pin) (l : Nat × Nat) : Bool :=
  let va := 128 * l.1
  let g := p.page va
  let inScope := match k with
    | .page a v => p.asid == a && decide (g.1 ≤ v) && decide (v < g.1 + g.2)
    | .asid a => p.asid == a
    | .all => true
  inScope && (match s.walk p.asid va with
    | .ok f => f.pa va / 128 != l.2
    | .error _ => true)

/-- The lines of a pin that a shootdown takes. -/
def State.lostOf (s : State) (k : Shoot) (p : Pin) : List (Nat × Nat) := p.lines.filter (s.lineLost k p)

/-- The pages that a team loses pinned lines of, by base address. -/
def State.lostPages (s : State) (k : Shoot) (team : Nat) : List Nat :=
  dedup (s.dies.flatMap fun d => d.2.pins.flatMap fun p =>
    if p.team = team then (s.lostOf k p).map fun l => (p.page (128 * l.1)).1 else [])

/-- Pin revocation (R201): the lost lines of every pin are written back and unpinned, and the count of each owning team rises by
one for each page. -/
def State.revokePins (s : State) (k : Shoot) : State :=
  let teams := dedup (s.dies.flatMap fun d => d.2.pins.map (·.team))
  let hits := (teams.map fun t => (t, (s.lostPages k t).length)).filter fun x => x.2 != 0
  if hits.isEmpty then s
  else
    let lost := s.dies.flatMap fun d => d.2.pins.flatMap fun p => (s.lostOf k p).map (·.2)
    let keep (d : Nat × Die) : Nat × Die := (d.1, { d.2 with pins := d.2.pins.map fun p =>
      { p with lines := p.lines.filter fun l => !s.lineLost k p l } })
    let t := lost.foldl State.cleanLine s
    hits.foldl (fun s x => s.modTeam x.1 fun t =>
      { t with pinrev := BitVec.ofNat 32 (min (t.pinrev.toNat + x.2) 0xFFFFFFFF) }) { t with dies := t.dies.map keep }

/-- The shootdown (R400): covered translations and table entries go; every access made through one before has been
performed. -/
def State.shootdown (s : State) (k : Shoot) : State :=
  { s with tlb := s.tlb.filter fun e => !k.covers e, walks := s.walks.filter fun w => !k.coversWalk w }.revokePins k

end Sys2Proof.Machine
end

