-- ==== Sys2Proof/Machine/Operands.lean ====
section
/-! DEFINITION. Operands: what registers, predicates and queues an instruction names (its shape), the decode faults of
spec/02_words.md R45 to R48, full and empty sources and destinations (R49 to R52), queue pops, the guard and the merge
policy (R42), and the one way a gang or a Shuttle issues an instruction. -/

namespace Sys2Proof.Machine
open Sys2Proof

/-- A source field: registers named in thread and in Shuttle code, alignment of a pair or block, its E bit, and whether
it may name a queue. -/
structure Src where
  f  : Nat
  n  : Nat
  sn : Nat
  al : Nat
  e  : Bool
  q  : Bool
  deriving DecidableEq, Repr

/-- A destination field. -/
structure Dst where
  f  : Nat
  n  : Nat
  sn : Nat
  al : Nat
  deriving DecidableEq, Repr

/-- The execution pipes of a core (R34). -/
inductive Pipe where
  | int | float | mem | cross | branch
  deriving DecidableEq, Repr

/-- The prefix fields an entry accepts (R41): `none` where a prefix raises ILLPACKET. -/
structure Accept where
  any : Bool
  pol : Bool
  rnd : Bool
  c4  : Bool
  deriving DecidableEq, Repr

/-- What an instruction names and where it may run. `pure` marks an instruction that takes a queue source and only writes
general registers (R49). -/
structure Shape where
  srcs : List Src
  dsts : List Dst
  pds  : List Nat
  pipe : Pipe
  acc  : Accept
  thr  : Bool
  shu  : Bool
  priv : Bool
  alone : Bool
  pure : Bool
  /-- The guard a B-format word holds itself (R88): its predicate and negation. -/
  own : Option (Nat × Bool)
  deriving DecidableEq, Repr

def Accept.no : Accept := ⟨false, false, false, false⟩
def Accept.gd : Accept := ⟨true, false, false, false⟩
def Accept.g : Accept := ⟨true, true, false, false⟩
def Accept.gr : Accept := ⟨true, true, true, false⟩
def Accept.grc : Accept := ⟨true, true, true, true⟩

/-- One register, which may name a queue. -/
def s1 (f : BitVec 7) (e : Bool) : Src := ⟨f.toNat, 1, 1, 1, e, true⟩
/-- One register that may not name a queue. -/
def s1n (f : BitVec 7) (e : Bool) : Src := ⟨f.toNat, 1, 1, 1, e, false⟩
/-- A pair (one Shuttle register). -/
def s2 (f : BitVec 7) (e : Bool) : Src := ⟨f.toNat, 2, 1, 2, e, false⟩
/-- A block of n registers (sn Shuttle registers). -/
def sb (f : BitVec 7) (n sn al : Nat) (e : Bool) : Src := ⟨f.toNat, n, sn, al, e, false⟩
def d1 (f : BitVec 7) : Dst := ⟨f.toNat, 1, 1, 1⟩
def d2 (f : BitVec 7) : Dst := ⟨f.toNat, 2, 1, 2⟩
def db (f : BitVec 7) (n sn al : Nat) : Dst := ⟨f.toNat, n, sn, al⟩

/-- Thread code only. -/
def thrShape (pipe : Pipe) (acc : Accept) (srcs : List Src) (dsts : List Dst) (pds : List (BitVec 3)) : Shape :=
  ⟨srcs, dsts, pds.map (·.toNat), pipe, acc, true, false, false, false, false, none⟩
/-- An integer or float instruction that only writes general registers. -/
def pureShape (pipe : Pipe) (acc : Accept) (srcs : List Src) (dsts : List Dst) : Shape :=
  ⟨srcs, dsts, [], pipe, acc, true, false, false, false, true, none⟩
/-- Thread and Shuttle code, memory pipe. -/
def bothShape (acc : Accept) (srcs : List Src) (dsts : List Dst) (pds : List (BitVec 3)) : Shape :=
  ⟨srcs, dsts, pds.map (·.toNat), .mem, acc, true, true, false, false, false, none⟩
/-- Shuttle code only. -/
def shuShape (pipe : Pipe) (srcs : List Src) (dsts : List Dst) : Shape :=
  ⟨srcs, dsts, [], pipe, .no, false, true, false, false, false, none⟩
/-- Supervisor code (major 0x1E). -/
def privShape (srcs : List Src) (dsts : List Dst) : Shape :=
  ⟨srcs, dsts, [], .mem, .no, true, true, true, false, false, none⟩
/-- Stands alone (R86, R206). -/
def Shape.lone (s : Shape) : Shape := { s with alone := true }
/-- Holds its own guard (R88). -/
def Shape.guarded (s : Shape) (g : BitVec 3) (n : Bool) : Shape := { s with own := some (g.toNat, n) }

/-- The base of an M-format access: a pair in global space, else one register (R168). -/
def baseSrc (space : BitVec 2) (f : BitVec 7) (e : Bool) : Src := if space = 0 then s2 f e else s1 f e

/-- A special register that is 64 bits wide (R405). -/
def is64 (num : Nat) : Bool := num == 0x20 || (decide (0x100 ≤ num) && decide (num ≤ 0x13F))

def r3Int (r : R3) : Shape := pureShape .int .g [s1 r.a r.ea, s1 r.b r.eb] [d1 r.d]
def r3Float (r : R3) (rnd : Bool) : Shape :=
  pureShape .float (if rnd then .gr else .g) [s1 r.a r.ea, s1 r.b r.eb] [d1 r.d]
def r2Float (r : R2) (rnd : Bool) : Shape := pureShape .float (if rnd then .gr else .g) [s1 r.a r.ea] [d1 r.d]
/-- FMA's third operand: C4 under a prefix, else the destination with block semantics (R139). -/
def fmaShape (r : R3) (p : Option Pfx) : Shape :=
  pureShape .float .grc [s1 r.a r.ea, s1 r.b r.eb,
    match p with | some x => s1 x.c4 x.ec | none => s1n r.d false] [d1 r.d]
def fdotShape (r : R3) : Shape := pureShape .float .gr [s1 r.a r.ea, s1 r.b r.eb, s1n r.d false] [d1 r.d]
def limb3 (r : R3) : Shape := thrShape .int .no [s1 r.a r.ea, s1 r.b r.eb] [d1 r.d] []
def atomShape (r : AtomOp) : Shape :=
  let w := if r.ty = 2 then 2 else 1
  bothShape .g [baseSrc r.space r.base r.eb, ⟨r.data.toNat, w, 1, w, false, w == 1⟩]
    (if r.ret then [db r.d w 1 w] else []) []
def recShape (r : R2) : Shape := bothShape .gd [sb r.a 16 8 1 r.ea] [d1 r.d] []

/-- Conversions whose result is always exact take no ROUND (R147). -/
def cvtShape (r : CvtOp) : Shape :=
  pureShape .float (if r.dst = 0 && r.src != 3 && r.src != 4 then .g else .gr)
    ([s1 r.a r.ea] ++ (if r.dst = 5 || r.src = 5 then [s1 r.b r.eb] else []) ++
      (if r.hi && (r.dst = 1 || r.dst = 2) then [s1n r.d false] else [])) [d1 r.d]

/-- Registers of an access size code of LD and ST (R185). -/
def sizeRegs (size : BitVec 3) (st : Bool) : Nat :=
  match st, size.toNat with
  | false, 5 => 2 | false, 6 => 4 | true, 3 => 2 | true, 4 => 4 | _, _ => 1

/-- The shape of an instruction of the core set, under its prefix. A Bobbin instruction or a hardware step has none. -/
def shapeOf (i : Instr) (p : Option Pfx) : Shape :=
  match i with
  | .br r => (thrShape .branch .no [] [] []).guarded r.g r.n
  | .call r => (thrShape .branch .no [] [d1 r.link] []).guarded r.g r.n
  | .brf r => (thrShape .branch .no [] [] []).guarded r.g r.n
  | .callf r => (thrShape .branch .no [] [d1 r.link] []).guarded r.g r.n
  | .jt r => thrShape .branch .gd [s1 r.a r.ea, s2 r.b r.eb] [] []
  | .jtc r => thrShape .branch .gd [s1 r.a r.ea, s2 r.b r.eb] [d1 r.d] []
  | .ret r => thrShape .branch .no [s1 r.a r.ea] [] []
  | .nop => { thrShape .branch .no [] [] [] with shu := true }
  | .pad _ => thrShape .branch .no [] [] []
  | .join _ => (thrShape .branch .no [] [] []).lone
  | .jmaskZ _ => thrShape .cross .no [] [] []
  | .jmaskG _ => thrShape .cross .no [] [] []
  | .jmaskR r => thrShape .cross .no [s2 r.d false] [] []
  | .jmaskGet r => thrShape .cross .no [] [d2 r.d] []
  | .exit => (thrShape .branch .gd [] [] []).lone
  | .yield => (thrShape .branch .no [] [] []).lone
  | .dqpop r => thrShape .mem .g [] [if r.w then d2 r.d else d1 r.d] []
  | .trap _ => (thrShape .branch .gd [] [] []).lone
  | .bkpt _ => (thrShape .branch .gd [] [] []).lone
  | .add r | .sub r | .and r | .or r | .xor r | .shl r | .shr r | .sar r => r3Int r
  | .mul r | .mulhI32 r | .mulhN32 r | .divI32 r | .divN32 r | .remI32 r | .remN32 r => r3Int r
  | .mac r => pureShape .int .g [s1 r.a r.ea, s1 r.b r.eb, s1n r.d false] [d1 r.d]
  | .addB64 r | .subB64 r => pureShape .int .g [s2 r.a r.ea, s2 r.b r.eb] [d2 r.d]
  | .mulwI32 r | .mulwN32 r => pureShape .int .g [s1 r.a r.ea, s1 r.b r.eb] [d2 r.d]
  | .cmp r => thrShape .int .g (if r.w then [s2 r.a r.ea, s2 r.b r.eb] else [s1 r.a r.ea, s1 r.b r.eb]) [] [r.pd]
  | .bfx r => pureShape .int .g [s1 r.a r.ea] [d1 r.d]
  | .bfi r => pureShape .int .g [s1 r.a r.ea, s1n r.d false] [d1 r.d]
  | .lea r => pureShape .int .g [s2 r.a r.ea, s1 r.b r.eb] [d2 r.d]
  | .addi r => pureShape .int .g [s1 r.a r.ea] [d1 r.d]
  | .shi r => pureShape .int .g [s1 r.a r.ea] [d1 r.d]
  | .movi r => pureShape .int .g [] [d1 r.d]
  | .cmpi r => thrShape .int .g [s1 r.a r.ea] [] [r.pd]
  | .bind _ => thrShape .int .no [] [] []
  | .unbind => thrShape .int .no [] [] []
  | .ladd r | .lsub r => thrShape .int .no [s1 r.a r.ea, s1 r.b r.eb] [d1 r.d] [r.pc, r.pv]
  | .ladc r | .lsbc r => thrShape .int .no [s1 r.a r.ea, s1 r.b r.eb] [d1 r.d] [r.pc, r.pv]
  | .lneg r => thrShape .int .no [s1 r.a r.ea] [d1 r.d] [r.pc, r.pv]
  | .lcmp r => thrShape .int .no [s1 r.a r.ea, s1 r.b r.eb] [] [r.pe, r.pltu, r.plt]
  | .lmulw r => thrShape .int .no [s1 r.a r.ea, s1 r.b r.eb, s1n r.d false] [d1 r.d, d1 r.h] []
  | .lshl r | .lshr r | .lshrI r => limb3 r
  | .fadd r | .fsub r | .fmul r | .fdiv r => r3Float r true
  | .fma r | .fmaBf16x2 r | .fmaF16x2 r => fmaShape r p
  | .fmin r | .fmax r | .fminp r | .fmaxp r => r3Float r false
  | .fsqrt r | .frcp r | .frsq r | .fexp2 r | .flog2 r => r2Float r true
  | .fclass r => r2Float r false
  | .fcmp r => thrShape .float .g [s1 r.a r.ea, s1 r.b r.eb] [] [r.pd]
  | .fsgn r => pureShape .float .g ([s1 r.a r.ea] ++ if r.mode = 3 then [] else [s1 r.b r.eb]) [d1 r.d]
  | .faddBf16x2 r | .fsubBf16x2 r | .fmulBf16x2 r | .faddF16x2 r | .fsubF16x2 r | .fmulF16x2 r => r3Float r true
  | .fminBf16x2 r | .fmaxBf16x2 r | .fminF16x2 r | .fmaxF16x2 r => r3Float r false
  | .fdotBf16x2 r | .fdotF16x2 r => fdotShape r
  | .cvt r => cvtShape r
  | .cvtp r => pureShape .float .gr [s1 r.a r.ea, s1 r.b r.eb] [d1 r.d]
  | .shfl r => thrShape .cross .g ([s1 r.a r.ea] ++ (if r.useimm then [] else [s1 r.b r.eb]) ++
      if r.fbr then [s1n r.fb r.efb] else []) [d1 r.d] [r.pf]
  | .bcast r => thrShape .cross .g [s1 r.a r.ea] [d1 r.d] []
  | .vote r => thrShape .cross .g [] ((if r.mode = 4 then [d2 r.d] else []) ++ if r.cw then [d1 r.cn] else []) [r.pd]
  | .match_ r => thrShape .cross .g [if r.w then s2 r.a r.ea else s1 r.a r.ea] [d2 r.d] [r.pd]
  | .compact r => thrShape .cross .g [s1 r.a r.ea] [d1 r.d] [r.pd]
  | .greduce r => thrShape .cross (if r.op = 8 then .gr else .g) [s1 r.a r.ea] [d1 r.d] []
  | .gscan r => thrShape .cross (if r.op = 8 then .gr else .g) [s1 r.a r.ea] [d1 r.d] []
  | .regput r => thrShape .cross .g [s1 r.a r.ea, sb r.b (r.wn.toNat + 1) 0 1 r.eb] [] [r.pd]
  | .regtake r => thrShape .cross .g [s1 r.a r.ea] [db r.d (r.wn.toNat + 2) 0 1] []
  | .regflush r => thrShape .cross .g [s1 r.a r.ea] [] []
  | .rand r | .randf r => thrShape .int .g [] [d1 r.d] []
  | .ld r => bothShape .g [baseSrc r.space r.base r.eb] [let n := sizeRegs r.size false; db r.d n 1 n] []
  | .st r => bothShape .g [baseSrc r.space r.base r.eb,
      let n := sizeRegs r.size true; ⟨r.d.toNat, n, 1, n, false, n == 1⟩] [] []
  | .atomAdd r | .atomMin r | .atomMax r | .atomAnd r | .atomOr r | .atomXor r | .atomExch r => atomShape r
  | .atomCas r =>
    let w := if r.ty = 2 then 2 else 1
    bothShape .g [baseSrc r.space r.base r.eb, ⟨r.data.toNat, w, 1, w, false, w == 1⟩,
      ⟨r.cv.toNat, w, 1, w, r.ecv, w == 1⟩] (if r.ret then [db r.d w 1 w] else []) []
  | .ldt r => thrShape .mem .g [s1 r.a r.ea, s1 r.b r.eb] [db r.d (2 ^ r.nc.toNat) 0 1] []
  | .unpk r => pureShape .int .g [s2 r.a r.ea] [db r.d (2 ^ r.kc.toNat) 0 1]
  | .cmoClean r | .cmoInv r | .cmoCinv r => bothShape .g [s2 r.a r.ea, s1 r.b r.eb] [] []
  | .l2pin r => thrShape .mem .g [s2 r.a r.ea, s1 r.b r.eb] [] [r.pd]
  | .l2unpin r => thrShape .mem .g [s2 r.a r.ea, s1 r.b r.eb] [] []
  | .fence _ => bothShape .gd [] [] []
  | .bar | .barCarve _ | .barg _ => (thrShape .mem .no [] [] []).lone
  | .acq r | .rel r => bothShape .gd [s2 r.a r.ea] [] []
  | .tryacq r => bothShape .gd [s2 r.a r.ea] [] [r.pd]
  | .region r => bothShape .gd [s2 r.a r.ea, s1 r.b r.eb, s2 r.obj r.eobj] [d1 r.d] [r.pd]
  | .regionFree r => bothShape .gd [s1 r.a r.ea] [d1 r.d] [r.pd]
  | .waitge r => bothShape .gd [s1 r.a r.ea, s2 r.b r.eb] [] []
  | .sadd r | .ssub r | .smul r | .sand r | .sor r | .sxor r | .sshl r | .sshr r | .ssar r =>
    shuShape .int [s1 r.a false, s1 r.b false] [d1 r.d]
  | .sdone => shuShape .branch [] []
  | .saddi r => shuShape .int [s1 r.a false] [d1 r.d]
  | .sldi r => shuShape .int [] [d1 r.d]
  | .sset r => shuShape .int [s1 r.a false, s1 r.b false] [d1 r.d]
  | .sbr r => shuShape .branch [s1 r.a false, s1 r.b false] []
  | .sbrf _ => shuShape .branch [] []
  | .dqpush a => shuShape .mem [s1 a false] []
  | .stream r => shuShape .mem [sb r.a 5 5 1 false] []
  | .sqstop r => shuShape .mem [] [d1 r.d]
  | .cpy r => bothShape .gd [s2 r.a r.ea, s2 r.b r.eb, s1n r.len r.el] (if r.ret then [d2 r.d] else []) []
  | .cpy2d r => bothShape .gd [s2 r.a r.ea, s2 r.b r.eb, sb r.len 4 4 1 r.el] (if r.ret then [d2 r.d] else []) []
  | .seal r => bothShape .gd [] [d1 r.d] []
  | .bwait r => bothShape .gd [s1 r.a r.ea] [] []
  | .wptr r => { bothShape .gd [s1 r.a r.ea] [d2 r.d] [] with pure := true }
  | .chunk r => bothShape .gd [s2 r.a r.ea] [db r.d 3 2 2] []
  | .ovl r => shuShape .mem [s1 r.a false, s1 r.b false] [d1 r.d]
  | .qmma r | .qspmm r | .qacc r | .qcvt r => recShape r
  | .qwait r => thrShape .mem .gd [s1 r.a r.ea] [] []
  | .qpoll r => bothShape .gd [] [d1 r.d] []
  | .qrec r | .qrecb r | .qtrace r => recShape r
  | .qrule r => bothShape .gd [if r.space = 0 then s2 r.a r.ea else s1 r.a r.ea] [] []
  | .patld r => bothShape .gd [if r.space = 0 then s2 r.a r.ea else s1 r.a r.ea, s1 r.b r.eb] [d1 r.d] []
  | .patbind r => bothShape .gd [sb r.a 8 4 1 r.ea] [] []
  | .patnext r => thrShape .mem .gd [] [db r.d 4 0 2] [r.pd]
  | .patmerge r => bothShape .gd [sb r.a 4 4 1 r.ea] [d1 r.d] []
  | .patsave r | .patrestore r => bothShape .gd [if r.space = 0 then s2 r.a r.ea else s1 r.a r.ea] [] []
  | .gspawn r => bothShape .gd [sb r.a 16 8 1 r.ea, s1 r.b r.eb] [d1 r.d] []
  | .gdone r => bothShape .gd [s2 r.a r.ea, s1 r.b r.eb] [] []
  | .tidset r => bothShape .gd [sb r.a 16 8 1 r.ea, s1 r.b r.eb] [] []
  | .tidget r => bothShape .gd [s1 r.b r.eb] [db r.d 16 8 1] []
  | .mfs r => bothShape .gd [] [if is64 r.num.toNat then d2 r.d else d1 r.d] []
  | .mts r => bothShape .gd [if is64 r.num.toNat then s2 r.a r.ea else s1 r.a r.ea] [] []
  | .mtsFstat r | .mtsFctl r | .mtsCarve r => bothShape .gd [s1 r.a r.ea] [] []
  | .eret | .eretTerm => privShape [] []
  | .tlbinvPage r => privShape [s1 r.a false, s1 r.b false] []
  | .tlbinvAsid r => privShape [s1 r.b false] []
  | .tlbinvAll _ => privShape [] []
  | .pgshare r | .pgrel r => privShape [s1 r.a false, s1 r.b false] [d1 r.d]
  | .ctxsave r | .ctxload r => privShape [] [d1 r.d]
  | .ctxsaveMem r | .ctxloadMem r => privShape [s1 r.a false] [d1 r.d]
  | .haltStop | .haltRun => privShape [] []
  | _ => ⟨[], [], [], .int, .no, false, false, false, false, false, none⟩

/-- A long-latency producer: its destinations are marked empty at issue (R50), which counts as a write (R35). -/
def shapeRegs (sh : Shape) : List Nat := sh.dsts.flatMap fun d => (List.range d.n).map (d.f + ·)

/-! ### Decode faults (R45) -/

/-- A source field of thread code names registers below the allotment, a legal pair or block, or a queue where it may
(R46, R48, R99). -/
def Src.okThread (x : Src) (allot : Nat) : Bool :=
  if 112 ≤ x.f then x.q else decide (x.f % x.al = 0) && decide (x.f + x.n ≤ allot)

def Dst.okThread (x : Dst) (allot : Nat) : Bool := decide (x.f % x.al = 0) && decide (x.f + x.n ≤ allot)

/-- The fields of Shuttle code name s0 to s63 (R47); a destination of two is a pair, whose first is even (R48). -/
def Src.okShuttle (x : Src) : Bool := decide (x.f + x.sn ≤ 64)
def Dst.okShuttle (x : Dst) : Bool := decide (x.f + x.sn ≤ 64) && (x.sn != 2 || decide (x.f % 2 = 0))

/-- The prefix holds null values in every field the target does not use (R41). FMA without c uses no C4. -/
def Accept.okPfx (a : Accept) (p : Option Pfx) : Bool :=
  match p with
  | none => true
  | some x => (a.pol || x.policy == 0) && (a.rnd || x.round == 0) && (a.c4 || (x.c4 == 0 && !x.ec))

/-- The packet index of a signed offset from this word's packet, where it lies in the slot (R33, R87). -/
def nearTarget (pc : Pc) (off : BitVec 19) : Option Pc :=
  let k : Int := (bits pc.toNat 2 13 : Int) + off.toInt
  if 0 ≤ k && k ≤ 5460 then some (BitVec.ofNat 17 (bits pc.toNat 15 2 * 32768 + k.toNat * 4)) else none

/-- Special registers of the table of R58, and those of Thread scope. -/
def knownSpecial (n : Nat) : Bool :=
  [0, 1, 2, 3, 4, 8, 9, 10, 11, 12, 0x10, 0x11, 0x12, 0x20, 0x140, 0x141].contains n ||
    (decide (0x100 ≤ n) && decide (n ≤ 0x13F))
def threadSpecial (n : Nat) : Bool := [0, 2, 4, 11, 12].contains n
/-- Every field's user view is hidden (R58). -/
def hiddenSpecial (n : Nat) : Bool := (decide (0x100 ≤ n) && decide (n ≤ 0x13F)) || n == 0x140 || n == 0x141

/-- The special register an instruction names. -/
def specialOf : Instr → Option Nat
  | .mfs r => some r.num.toNat
  | .mts r => some r.num.toNat
  | _ => none

/-- ILLPACKET of a near target or link outside the slot (R87, R89). -/
def rangeFault (i : Instr) (pc : Pc) : Bool :=
  match i with
  | .br r => (nearTarget pc r.off).isNone
  | .call r => (nearTarget pc r.off).isNone || bits pc.toNat 2 13 == 5460
  | .callf _ => bits pc.toNat 2 13 == 5460
  | .jtc _ => bits pc.toNat 2 13 == 5460
  | .sbr r => (nearTarget pc r.off).isNone
  | _ => false

/-- The decode fault of an instruction for the issuing agent (R45 to R48, R36, R41, R58, R383), EMPTYREG excepted. -/
def State.decodeFault (s : State) (i : Instr) : Option Code :=
  let sh := shapeOf i s.iss.pfx
  match s.iss.who with
  | .gang k _ _ =>
    let al := (s.team k).allotment
    if rangeFault i s.iss.pc then some .illPacket
    else if !sh.thr || !sh.acc.okPfx s.iss.pfx || !(sh.srcs.all (·.okThread al)) || !(sh.dsts.all (·.okThread al)) then
      some .illInst
    else if sh.priv then some .priv
    else match specialOf i with
      | some n => if !knownSpecial n then some .illInst else if hiddenSpecial n then some .priv else none
      | none => none
  | .shuttle c =>
    if rangeFault i s.iss.pc then some .illPacket
    else if !sh.shu || !(sh.srcs.all (·.okShuttle)) || !(sh.dsts.all (·.okShuttle)) then some .illInst
    else match specialOf i with
      | some n =>
        if !knownSpecial n || threadSpecial n then some .illInst
        else if hiddenSpecial n && !(s.shuttle c).mode then some .priv else none
      | none =>
        match i with
        | .ld r => if r.size = 6 then some .illInst else none
        | .st r => if r.size = 4 then some .illInst else none
        | _ => if sh.priv && !(s.shuttle c).mode then some .priv else none
  | _ => none

/-! ### Reading operands (R46, R49) -/

/-- Pops of queue q that the fields `prev` make before this one. DEDUCED (log 55). -/
def popsBefore (prev : List (BitVec 7)) (f : BitVec 7) : Nat := (prev.filter fun g => g == f).length

/-- The element of lane l of a queue's entry at a pop position, where it is present (R49). -/
def OpQueue.at_ (o : OpQueue) (pos l : Nat) : Option Word :=
  if pos < o.first then some 0
  else match o.entries[pos - o.first]? with
    | some e => some (e.getD l 0)
    | none => none

/-- The value of a 32-bit source field of participant l: a register, a queue's entry after the pops of the earlier
fields, or the low half of an s register. -/
def State.rd (s : State) (l : Nat) (f : BitVec 7) (prev : List (BitVec 7)) : Word :=
  match s.iss.who with
  | .gang k b _ =>
    let tm := s.viewTeam k
    let t := tm.thread (64 * b + l)
    if f.toNat < 112 then t.g f.toNat
    else ((tm.queue (f.toNat - 112)).at_ (nget t.qpos (f.toNat - 112) 0 + popsBefore prev f) l).getD 0
  | .shuttle c => BitVec.ofNat 32 (s.viewS c f.toNat).toNat
  | _ => 0

/-- Register n of participant l, without queues. -/
def State.rg (s : State) (l n : Nat) : Word :=
  match s.iss.who with
  | .gang k b _ => ((s.viewTeam k).thread (64 * b + l)).g n
  | .shuttle c => BitVec.ofNat 32 (s.viewS c n).toNat
  | _ => 0

/-- A 64-bit source field: a register pair (R5, R48) or an s register. -/
def State.rd64 (s : State) (l : Nat) (f : BitVec 7) : Dword :=
  match s.iss.who with
  | .gang k b _ =>
    let t := (s.viewTeam k).thread (64 * b + l)
    BitVec.ofNat 64 ((t.g f.toNat).toNat + 4294967296 * (t.g (f.toNat + 1)).toNat)
  | .shuttle c => s.viewS c f.toNat
  | _ => 0

/-- Word i of a block of registers: thread registers f + i, or half i mod 2 of s register f + i / 2 (R276, R324, R378). -/
def State.rblk (s : State) (l : Nat) (f : BitVec 7) (i : Nat) : Word :=
  match s.iss.who with
  | .gang _ _ _ => s.rg l (f.toNat + i)
  | .shuttle c => BitVec.ofNat 32 ((s.viewS c (f.toNat + i / 2)).toNat / 2 ^ (32 * (i % 2)))
  | _ => 0

/-- Predicate n of participant l; the Shuttle has none. -/
def State.rp (s : State) (l n : Nat) : Bool :=
  match s.iss.who with
  | .gang k b _ => ((s.viewTeam k).thread (64 * b + l)).p n
  | _ => true

/-! ### Writing results -/

/-- Change the threads of the participating lanes. -/
def State.eachLane (s : State) (f : Nat → Thread → Thread) : State :=
  match s.iss.who with
  | .gang k b ls => s.modTeam k fun t => ls.foldl (fun t l => t.modThread (64 * b + l) (f l)) t
  | _ => s

/-- Change one lane's thread. -/
def State.lane (s : State) (l : Nat) (f : Thread → Thread) : State :=
  match s.iss.who with
  | .gang k b _ => s.modThread k (64 * b + l) f
  | _ => s

/-- Write a 64-bit result to the register pair or s register of participant l. -/
def State.put64 (s : State) (l d : Nat) (v : Dword) : State :=
  match s.iss.who with
  | .gang _ _ _ => s.lane l fun t =>
      (t.setG d (BitVec.ofNat 32 v.toNat)).setG (d + 1) (BitVec.ofNat 32 (v.toNat / 4294967296))
  | .shuttle c => s.setS c d v
  | _ => s

/-- Write a 32-bit result, zero-extended in an s register. -/
def State.put32 (s : State) (l d : Nat) (v : Word) : State :=
  match s.iss.who with
  | .gang _ _ _ => s.lane l fun t => t.setG d v
  | .shuttle c => s.setS c d (BitVec.ofNat 64 v.toNat)
  | _ => s

/-- Write a predicate of participant l. -/
def State.putP (s : State) (l n : Nat) (b : Bool) : State := s.lane l fun t => t.setP n b

/-! ### The rounding mode (R43, R131) -/

/-- The mode code of the issue: ROUND of its prefix, with the dynamic code read from the team's FCTL: a write
of FCTL counts for every thread at once (R135). DESIGN CHOICE (log 67). -/
def State.rmode (s : State) : Nat :=
  match s.iss.pfx with
  | none => 0
  | some p =>
    if p.round = 5 then
      (match s.iss.who with
       | .gang k _ _ => (s.viewTeam k).fctl.toNat
       | _ => 0)
    else p.round.toNat

/-! ### The gate: who executes (R42, R49 to R52, R113) -/

/-- What the lanes of a gang do at an instruction: execute it; take no part (guard false); issue with an underflowing pop;
or leave the issue. -/
structure Gate where
  run  : List Nat
  off  : List Nat
  late : List Nat
  outs : List (Nat × Out)
  deriving DecidableEq, Repr

/-- The lane's guard holds (R42). -/
def State.guardOn (s : State) (l : Nat) : Bool :=
  match s.iss.pfx with
  | none => true
  | some p => (s.rp l p.maskp.toNat) != p.maskn

/-- The pops of an instruction's fields: (queue, pop position). DEDUCED (log 55). -/
def popsOf (t : Thread) (srcs : List Src) : List (Nat × Nat) :=
  (srcs.foldl (fun (acc : List (Nat × Nat)) x =>
    if 112 ≤ x.f then
      acc ++ [(x.f - 112, nget t.qpos (x.f - 112) 0 + (acc.filter fun e => e.1 == x.f - 112).length)]
    else acc) [])

/-- Registers of source fields that are empty, with E = e. -/
def emptySrcs (t : Thread) (srcs : List Src) (e : Bool) : List Nat :=
  (srcs.filter fun x => x.e == e && decide (x.f < 112)).flatMap fun x =>
    ((List.range x.n).map (x.f + ·)).filter fun r => !t.full r

def emptyDsts (t : Thread) (sh : Shape) : List Nat := (shapeRegs sh).filter fun r => !t.full r

/-- What one lane does. -/
inductive LaneDo where
  | run | off | late | out (o : Out)
  deriving DecidableEq, Repr

/-- The lane's own guard of a B-format word holds, where the word has one (R88). -/
def State.ownOn (s : State) (sh : Shape) (l : Nat) : Bool :=
  match sh.own with
  | none => true
  | some g => s.rp l g.1 != g.2

/-- The instruction pops the decision queue (R97). -/
def popsDq : Instr → Bool
  | .dqpop _ => true
  | _ => false

/-- What a lane does at an instruction (R42, R49 to R52, R88). A lane whose B-format guard is false runs: it goes on and does
nothing. DEDUCED (log 55). -/
def State.laneDo (s : State) (k b : Nat) (i : Instr) (sh : Shape) (l : Nat) : LaneDo :=
  let tm := s.viewTeam k
  let t := tm.thread (64 * b + l)
  if !s.ownOn sh l then .run
  else if s.guardOn l then
    if !(emptySrcs t sh.srcs true).isEmpty then .out (.flt (flt .emptyReg))
    else
      let es := emptySrcs t sh.srcs false ++ emptyDsts t sh
      if !es.isEmpty then .out (.held es [])
      else
        let under := (popsOf t sh.srcs).filter fun p => ((tm.queue p.1).at_ p.2 l).isNone
        if under.isEmpty then .run
        else if sh.pure then .late
        else .out (.held [] under)
  else
    match s.iss.pfx with
    | none => .off
    | some p =>
      if p.policy = 2 && !(emptyDsts t sh).isEmpty then
        .out (if t.popped then .held (emptyDsts t sh) [] else .zeros (emptyDsts t sh) (popsOf t sh.srcs) (popsDq i))
      else .off

/-- The bound set of a lane's thread as the group issues, 0 for none (R111, R113). -/
def State.boundSet (s : State) (l : Nat) : Nat :=
  match s.iss.who with
  | .gang k b _ => ((s.viewTeam k).thread (64 * b + l)).bset
  | _ => 0

/-- The fault of a lane that left the issue. -/
def Out.fault : Out → Option Flt
  | .flt f => some f
  | .late _ f => some f
  | .merged f _ => some f
  | _ => none

/-- How the rest of a bound set leaves with one of its threads: a wait of another thread gives it nothing to pop, and the fault
of a merged add nothing to send (R113, R194). -/
def Out.shared : Out → Out
  | .zeros _ _ _ => .held [] []
  | .merged f _ => .flt f
  | o => o

/-- A bound set waits, parks and faults as one (R113): every lane of the issue that shares a bound set with a lane that
leaves, leaves with it, for the first such lane's reason. DEDUCED (log 20). -/
def State.closeOuts (s : State) (ls : List Nat) (outs : List (Nat × Out)) : List (Nat × Out) :=
  let faults := outs.filter fun o => o.2.fault.isSome
  ls.filterMap fun l =>
    match outs.find? fun o => o.1 == l with
    | some o =>
      if o.2.fault.isSome || s.boundSet l == 0 then some (l, o.2)
      else
        (match faults.find? fun o => s.boundSet o.1 == s.boundSet l with
         | some o => some (l, o.2.shared)
         | none => some (l, o.2))
    | none =>
      if s.boundSet l = 0 then none
      else match faults.find? fun o => s.boundSet o.1 == s.boundSet l with
        | some o => some (l, o.2.shared)
        | none =>
          (match outs.find? fun o => s.boundSet o.1 == s.boundSet l with
           | some o => some (l, o.2.shared)
           | none => none)

/-- Threads of one bound set that decide differently by a B-format word's own guard: LIMBDIV for every thread of the set, whatever
the target (R88, R89, R112). -/
def State.guardDiv (s : State) (sh : Shape) (ls : List Nat) : List (Nat × Out) :=
  let splits (l m : Nat) : Bool := s.boundSet m == s.boundSet l && s.ownOn sh m != s.ownOn sh l
  (ls.filter fun l => s.boundSet l != 0 && ls.any (splits l)).map fun l => (l, .flt (flt .limbDiv))

/-- The gate of an instruction for the lanes of a gang. -/
def State.gate (s : State) (i : Instr) (sh : Shape) (k b : Nat) (ls : List Nat) : Gate :=
  let ds := ls.map fun l => (l, s.laneDo k b i sh l)
  let left := s.closeOuts ls (ds.filterMap fun d => match d.2 with | .out o => some (d.1, o) | _ => none)
  let outs := left ++ s.guardDiv sh (ls.filter fun l => !(left.any fun o => o.1 == l))
  let stay := ds.filter fun d => !(outs.any fun o => o.1 == d.1)
  { run := (stay.filter fun d => d.2 == .run).map (·.1)
    off := (stay.filter fun d => d.2 == .off).map (·.1)
    late := (stay.filter fun d => d.2 == .late).map (·.1)
    outs := outs }

/-- Advance a thread past its pops (R49). -/
def Thread.pop (t : Thread) (ps : List (Nat × Nat)) : Thread :=
  { t with qpos := ps.foldl (fun m p => nput m p.1 (max (nget m p.1 0) (p.2 + 1))) t.qpos }

/-- A guard-false thread's discarding pops (R42), of the decision queue too for DQPOP (R97). -/
def Thread.discard (t : Thread) (ps : List (Nat × Nat)) (dq : Bool) : Thread :=
  let t := t.pop ps
  if dq then { t with dqpos := t.dqpos + 1 } else t

/-- The instruction names a queue. -/
def Shape.popsQueue (sh : Shape) : Bool := sh.srcs.any fun x => decide (112 ≤ x.f)

/-- Entries that every live thread has popped retire (R49). -/
def State.retirePops (s : State) : State :=
  match s.iss.who with
  | .gang k _ _ => s.modTeam k Team.retireAll
  | _ => s

/-- A guard-false thread under merge or zero policy pops and discards, and under zero policy its destinations read 0
(R42); DQPOP's pop is the decision queue's (R97). -/
def State.offLane (s : State) (i : Instr) (sh : Shape) (l : Nat) : State :=
  match s.iss.pfx with
  | none => s
  | some p =>
    if p.policy = 0 then s
    else
      let s := s.lane l fun t =>
        let t := if t.popped then { t with popped := false } else t.discard (popsOf t sh.srcs) (popsDq i)
        if p.policy = 2 then
          let t := (shapeRegs sh).foldl (fun t r => t.setG r 0) t
          sh.pds.foldl (fun t n => t.setP n false) t
        else t
      if sh.popsQueue || (popsDq i) then s.retirePops else s

/-- The source values of an instruction for a lane that are there as it issues: register n under n, and the entry of queue q
at position p under 1000 + 1000000 q + p (R49). -/
def captured (tm : Team) (b l : Nat) (sh : Shape) : List (Nat × Word) :=
  let t := tm.thread (64 * b + l)
  let regs := (sh.srcs.filter fun x => decide (x.f < 112)).flatMap fun x =>
    (List.range x.n).map fun i => (x.f + i, t.g (x.f + i))
  regs ++ (popsOf t sh.srcs).filterMap fun p => match (tm.queue p.1).at_ p.2 l with
    | some v => some (1000 + 1000000 * p.1 + p.2, v)
    | none => none

/-- A thread whose pop underflows issues with its destinations empty; the registers it reads are captured now (R49). -/
def State.lateLane (s : State) (i : Instr) (sh : Shape) (l : Nat) : State :=
  match s.iss.who with
  | .gang k b _ =>
    let tm := s.viewTeam k
    let ps := popsOf (tm.thread (64 * b + l)) sh.srcs
    let miss := ps.filter fun p => ((tm.queue p.1).at_ p.2 l).isNone
    let s := (s.lane l fun t => (shapeRegs sh).foldl Thread.clearFull (t.pop ps)).retirePops
    -- the dynamic rounding mode is taken at issue (R43)
    let pfx := s.iss.pfx.map fun p => if p.round = 5 then { p with round := BitVec.ofNat 3 s.rmode } else p
    s.addFill k (64 * b + l) (shapeRegs sh) (.result i pfx miss (captured tm b l sh))
  | _ => s

/-- The lanes that executed advance past their pops (R49). -/
def State.popLanes (s : State) (sh : Shape) (ls : List Nat) : State :=
  if sh.popsQueue then
    (ls.foldl (fun s l => s.lane l fun t => t.pop (popsOf t sh.srcs)) s).retirePops
  else s

/-! ### Settling the lanes that left the issue (R52, R69, R387) -/

/-- A fault that was kept for this wait is raised once (R245, R259). -/
def State.dropHeld (s : State) (o : Out) : State :=
  match o with
  | .late n _ => { s with held := s.held.filter fun h => h.work != n }
  | _ => s

/-- A QRULE's wait is noted once, with the records issued before it (R302). -/
def State.noteRule (s : State) (w : Who) (slot : Nat) : State :=
  if s.ruleWaits.any fun x => x.who == w then s
  else { s with ruleWaits := s.ruleWaits ++ [⟨w, s.issTeam.getD 0, slot, s.fresh⟩], fresh := s.fresh + 1 }

/-- The Shuttle's ACQ request joins the list of its object, once (R210). -/
def State.noteAcq (s : State) (c pa va : Nat) (excl : Bool) : State :=
  let h := s.shuttle c
  if (if h.mode then h.supHold else h.hold) = .waitAcq pa excl then s
  else
    { s with objReqs := s.objReqs ++ [(⟨pa, .shuttle c, excl, va, s.issAsid⟩ : ObjReq)] }.modShuttle c fun h =>
      if h.mode then { h with supHold := .waitAcq pa excl } else { h with hold := .waitAcq pa excl }

/-- A REL of the Shuttle's program keeps its work while it waits (R232). -/
def State.noteRel (s : State) (c va pa : Nat) (excl : Bool) : State :=
  if (s.shuttle c).mode || (s.shuttle c).rel.isSome then s
  else s.modShuttle c fun h => { h with rel := some ⟨va, pa, excl, false⟩ }

/-- A participant joins the GDONE of its issue (R380). -/
def State.noteGdone (s : State) (id : Nat) (w : Who) (u : UnitKey) (va pa v : Nat) : State :=
  if s.gdones.any fun g => g.sup == s.issSup && g.whos.contains w then s
  else if s.gdones.any fun g => g.id == id then
    { s with gdones := s.gdones.map fun g => if g.id = id then { g with whos := g.whos ++ [w] } else g }
  else { s with gdones := s.gdones ++ [⟨id, [w], s.issSup, s.issCore, s.issAsid, u, va, pa, v, false⟩] }

/-- The carve request of a phase is the first one its BARs issued (R218); a phase that is complete takes none. -/
def State.noteCarve (s : State) (k n : Nat) (req : Option (Nat × Nat)) : State :=
  match req with
  | none => s
  | some r => s.modTeam k fun t =>
      if decide (n ≤ t.barDone) || t.carveReq.any fun c => c.1 == n then t else { t with carveReq := t.carveReq ++ [(n, r.1, r.2)] }

/-- How a lane of band b of team k that left the issue goes on: it waits, or its fault is about to be taken. `n` numbers the
GDONE of the issue. -/
def State.leaveLane (k b n : Nat) (s : State) (o : Nat × Pc × Out) : State :=
  match o.2.2 with
  | .retry => s.modThread k (64 * b + o.1) fun t => { t with stat := .retry }
  | .held rs ps => s.modThread k (64 * b + o.1) fun t => { t with stat := .held rs ps }
  | .zeros rs ps dq =>
    (s.modThread k (64 * b + o.1) fun t => { t.discard ps dq with popped := true, stat := .held rs [] }).retirePops
  | .bar n req => (s.noteCarve k n req).modThread k (64 * b + o.1) fun t => { t with stat := .preBar n, inBar := some n }
  | .rule slot => (s.noteRule (.thread k (64 * b + o.1)) slot).modThread k (64 * b + o.1) fun t => { t with stat := .retry }
  | .gdone u va pa v => (s.noteGdone n (.thread k (64 * b + o.1)) u va pa v).modThread k (64 * b + o.1) fun t => { t with stat := .retry }
  | .merged _ c => s.modThread k (64 * b + o.1) fun t => { t with owed := some c }
  | .tokens m => s.modThread k (64 * b + o.1) fun t => { t with stat := .retry, since := some (t.since.getD m) }
  | o => s.dropHeld o

/-- How the Shuttle leaves its issue: it takes a fault, or waits. -/
def State.leaveShuttle (c : Nat) (s : State) (o : Nat × Pc × Out) : State :=
  match o.2.2.fault with
  | some f => (s.dropHeld o.2.2).faultShuttle c o.2.1 f
  | none =>
    let s := match o.2.2 with
      | .acq pa va excl => s.noteAcq c pa va excl
      | .rule slot => s.noteRule (.shuttle c) slot
      | .gdone u va pa v => s.noteGdone s.fresh (.shuttle c) u va pa v
      | .rel va pa excl => s.noteRel c va pa excl
      | _ => s
    s.modShuttle c fun h => { h with waiting := true }

/-- The faults of the lanes that left, each with the counter of the word it left at. -/
def faultsOf (outs : List (Nat × Pc × Out)) : List (Nat × Pc × Flt) :=
  outs.filterMap fun o => o.2.2.fault.map fun f => (o.1, o.2.1, f)

/-- Faulting lanes park and write records; waiting lanes block or are tried again. -/
def State.settle (s : State) (outs : List (Nat × Pc × Out)) : State :=
  match s.iss.who with
  | .gang k b _ =>
    let s := (outs.foldl (State.leaveLane k b s.fresh) s).countFaults (coreOfTeam k) s.issAsid (outs.filterMap (·.2.2.fault))
    s.faultLanes k b s.iss.gpc s.iss.npc (faultsOf outs)
  | .shuttle c => outs.foldl (State.leaveShuttle c) (s.countFaults c s.issAsid (outs.filterMap (·.2.2.fault)))
  | _ => s

/-- The next counter of a lane after this group (R87). -/
def State.nextPc (s : State) (l : Nat) : Pc :=
  match s.iss.xfer.find? fun x => x.1 == l with
  | some x => x.2
  | none => s.iss.npc

/-- Lanes of one bound set that would go different ways: LIMBDIV (R112). `off` are lanes of the issue whose guard is
false. -/
def State.divergent (s : State) (off : List Nat) : List (Nat × Out) :=
  let all := s.lanes ++ off
  all.filterMap fun l =>
    if s.boundSet l ≠ 0 && (all.any fun m => s.boundSet m == s.boundSet l && s.nextPc m != s.nextPc l) then
      some (l, .flt (flt .limbDiv))
    else none

/-- Participants leave the issue at its counter. -/
def State.addOuts (s : State) (os : List (Nat × Out)) : State :=
  { s with iss := { s.iss with outs := s.iss.outs ++ os.map fun o => (o.1, s.iss.pc, o.2) } }

/-- What stays done of an instruction that a participant leaves so: what a CMO, a PATMERGE or a GSPAWN has done before its fault
(R7, R198, R329, R379), and the halt that a HALT.stop waits for (R414). -/
def keepsWork (i : Instr) (o : Out) : Bool :=
  match i with
  | .cmoClean _ => o.fault.isSome
  | .cmoInv _ => o.fault.isSome
  | .cmoCinv _ => o.fault.isSome
  | .patmerge _ => o.fault.isSome
  | .gspawn _ => o.fault.isSome
  | .haltStop => o.fault.isNone
  | _ => false

/-- The state in which lanes that fault in a body have done what they commit before their faults. -/
def State.keepWork (s : State) (run : State → State) (ls : List Nat) : State :=
  if ls.isEmpty then s else { run (s.setLanes ls) with iss := s.iss }

/-- Run a body for lanes; where a bound set is hit by a fault, a wait or a divergence of one of its threads, nothing of the
set is done: the body runs again without it, and the set leaves as one (R112 to R114). `keep` says that a faulting lane's
partial commitment stays. -/
def State.runLanes (run : State → State) (keep : Out → Bool) : Nat → State → List Nat → List Nat → State
  | 0, s, _, _ => s.setLanes []
  | fuel + 1, s, ls, off =>
    let t := run (s.setLanes ls)
    let new := (t.iss.outs.drop s.iss.outs.length).map fun o => (o.1, o.2.2)
    let div := t.divergent off
    let closed := s.closeOuts (ls ++ off) (new ++ div)
    if div.isEmpty && closed.length == new.length then t
    else
      let s := s.keepWork run ((new.filter fun o => keep o.2).map (·.1))
      let s := s.addOuts closed
      let stay (l : Nat) : Bool := !(closed.any fun o => o.1 == l)
      State.runLanes run keep fuel s (ls.filter stay) (off.filter stay)

/-- The lanes that left after the first n are settled; in a group of several words that waits for the whole group (R34). -/
def State.leave (s : State) (n : Nat) : State := if s.iss.multi then s else s.settle (s.iss.outs.drop n)

/-- ISSUING AN INSTRUCTION, for a gang: decode faults for every active thread (R45), the gate, the body for the lanes
that execute, the pops, and the lanes that leave. For a Shuttle: decode faults and the body. -/
def State.issue (s : State) (i : Instr) (run : State → State) : State :=
  match s.iss.who with
  | .gang k b ls =>
    match s.decodeFault i with
    | some c => ((s.setLanes []).addOuts (ls.map fun l => (l, .flt (flt c)))).leave s.iss.outs.length
    | none =>
      let sh := shapeOf i s.iss.pfx
      let g := s.gate i sh k b ls
      let n := s.iss.outs.length
      let s2 := State.runLanes run (keepsWork i) 65 (s.addOuts g.outs) g.run g.off
      let off := g.off.filter fun l => !((s2.iss.outs.drop n).any fun o => o.1 == l)
      let s3 := off.foldl (fun s l => s.offLane i sh l) (s2.popLanes sh s2.lanes)
      let s4 := g.late.foldl (fun s l => s.lateLane i sh l) s3
      (s4.setLanes (sortAsc (s2.lanes ++ off ++ g.late))).leave n
  | .shuttle _ =>
    match s.decodeFault i with
    | some c => (s.addOuts [(0, .flt (flt c))]).leave s.iss.outs.length
    | none => (run s).leave s.iss.outs.length
  | _ => s

/-- A translation fault, which a producer of R50 may take after its thread has issued past it (R53). -/
def Code.mayBeLate : Code → Bool
  | .notMapped => true
  | .perm => true
  | .cow => true
  | _ => false

/-- A producer of issue n meets a fault in lane l: the lane leaves; or, where the free value says so and the thread is not
bound (R114), it issues with its destinations empty and the fault is taken later, with the sources lane `src` has now (R53).
DESIGN CHOICE (log 5). -/
def State.orLate (s : State) (i : Instr) (n l src : Nat) (f : Flt) : Except Out State :=
  match s.iss.who with
  | .gang k b _ =>
    let sh := shapeOf i s.iss.pfx
    if f.code.mayBeLate && s.boundSet l == 0 && !(shapeRegs sh).isEmpty && Config.freeLate n l then
      .ok ((s.lane l fun t => (shapeRegs sh).foldl Thread.clearFull t).addFill k (64 * b + l) (shapeRegs sh)
        (.late n i s.iss.pfx s.iss.pc (captured (s.viewTeam k) b src sh) f))
    else .error (.flt f)
  | _ => .error (.flt f)

/-- A body that serves the participants one by one in ascending LANE; one that faults or waits leaves the state as it
stood before it. -/
def State.forParts (s : State) (f : State → Nat → Except Out State) : State :=
  s.parts_.foldl (fun s l =>
    match f s l with
    | .ok t => t
    | .error o => s.dropLane l o) s

/-- A fault of every participant (R152). -/
def State.allFault (s : State) (f : Flt) : State := s.parts_.foldl (fun s l => s.dropLane l (.flt f)) s

/-- Every participant waits and the instruction is tried again. -/
def State.allRetry (s : State) : State := s.parts_.foldl (fun s l => s.dropLane l .retry) s

/-- The participant with the lowest LANE (R152). -/
def State.t0 (s : State) : Nat := s.parts_.headD 0

end Sys2Proof.Machine
end

