-- ==== Sys2Proof/Machine/Access.lean ====
section
/-! DEFINITION. Memory accesses of threads and the Shuttle: the effective address and where it lies (spec/07_memory.md
R168 to R171, R177, R178, R441), loads, stores and atomics at their place (R187, R191 to R193), reducing windows
(spec/21_outside.md R425 to R427) and the views and merges of deterministic mode (spec/08_ordering.md R225 to R229). -/

namespace Sys2Proof.Machine
open Sys2Proof

/-! ### Where an address lies -/

/-- A resolved access: at a place, or outside its scratchpad allocation (space code, offset, its width, allocation size). -/
inductive Place where
  | at_ (l : Loc)
  | out (space off width size : Nat)
  deriving DecidableEq, Repr

/-- The effective address of an M-format access of participant l (R168, R189). -/
def State.ea (s : State) (l : Nat) (space : Nat) (base : BitVec 7) (off : Nat) : Nat :=
  if space = 0 then ((s.rd64 l base).toNat + off) % 2 ^ 64 else ((s.rd l base []).toNat + off) % 2 ^ 32

/-- A global address of the issuing agent (R168, R384): virtual, or physical in supervisor mode. -/
def State.globAt (s : State) (ea : Nat) : Except Flt Loc :=
  if s.issSup && bits ea 63 1 == 1 then
    (if bits ea 52 11 = 0 then .ok (.phys (bits ea 0 52)) else .error (notMappedAt ea 3))
  else if ea ≥ 2 ^ 55 then .error (notMappedAt ea 3)
  else .ok (.glob ea)

/-- A cluster-shared address names a team of the issuing core's cluster (R170): its number and the byte offset. -/
def State.sharedTeam (s : State) (ea : Nat) : Nat × Nat :=
  (8 * (s.issCore / 4 * 4 + bits ea 30 2) + bits ea 27 3, bits ea 0 27)

/-- Where an access of n bytes at an effective address lies (R169 to R171, R177, R441). A Shuttle access to a lane slice, of which
it has none, is discarded against an allocation of size 0 (R189). DESIGN CHOICE (log 63). -/
def State.place (s : State) (l space ea n : Nat) : Except Flt Place :=
  if ea % n ≠ 0 then .error (flt .align)
  else
    let inside (o w size : Nat) (p : Loc) : Except Flt Place := .ok (if o < size then .at_ p else .out space o w size)
    match space with
    | 0 => (match s.globAt ea with | .ok p => .ok (.at_ p) | .error f => .error f)
    | 1 =>
      let o := bits ea 0 31
      (match s.issTeam, s.iss.who with
       | some k, .gang _ _ _ => if bits ea 31 1 = 0 then inside o 31 (s.team k).sa (.scr k o)
           else inside o 31 (s.team k).sl (.slice k l o)
       | some k, _ => if bits ea 31 1 = 0 then inside o 31 (s.team k).sa (.scr k o) else .ok (.out 1 o 31 0)
       | none, _ => .ok (.out 1 o 31 0))
    | 2 =>
      let t := s.sharedTeam ea
      if !(s.team t.1).live then .ok (.out 2 t.2 27 0)
      else if (s.team t.1).asid ≠ s.issAsid then .error (flt .freeze)
      else inside t.2 27 (s.team t.1).sa (.scr t.1 t.2)
    | _ =>
      let d := dieOfCore s.issCore
      if s.issSup then inside ea 32 16777216 (.chip d (halfBase (partOfCore s.issCore) + ea))
      else match s.issTeam with
        | some k => inside ea 32 (s.team k).chipSize (.chip d ((s.team k).chipBase + ea))
        | none => .ok (.out 3 ea 32 0)

/-- OFFSET of HEMREC (R441): the position relative to the allocation, saturated to 23 bits. -/
def hemOffset (off width size : Nat) : Nat :=
  let v := sgn off width
  let d : Int := if v < 0 then v else v - size
  wrap (max (-4194304) (min d 4194303)) 23

/-- Record the first discarded access of the team (R178). -/
def State.recordHem (s : State) (write : Bool) (space off width size : Nat) : State :=
  match s.issTeam with
  | some k => s.modTeam k fun t =>
      if t.hemrec.toNat % 2 = 1 then t
      else { t with hemrec := BitVec.ofNat 32 (1 + (if write then 2 else 0) + 4 * space + 16 * (off / 4 % 32) +
        512 * hemOffset off width size) }
  | none => s

/-! ### Near memory (R202) -/

/-- A lane's slice in the team's slice store: 4 KiB of keys per lane (slices are smaller, R172). -/
def sliceKey (lane off : Nat) : Nat := 4096 * lane + off

def State.nearRead (s : State) (l : Loc) (n : Nat) : List Byte :=
  match l with
  | .scr k o => mread (s.team k).scratch o n
  | .slice k ln o => mread (s.team k).slices (sliceKey ln o) n
  | .chip d o => mread (s.die d).chip o n
  | _ => []

def State.nearWrite (s : State) (l : Loc) (bs : List Byte) : State :=
  match l with
  | .scr k o => s.modTeam k fun t => { t with scratch := mwrite t.scratch o bs }
  | .slice k ln o => s.modTeam k fun t => { t with slices := mwrite t.slices (sliceKey ln o) bs }
  | .chip d o => s.modDie d fun x => { x with chip := mwrite x.chip o bs }
  | _ => s

/-! ### Deterministic mode (R225 to R229) -/

/-- The unit of a team's agent that works on a chunk, or on none (R225). -/
def Team.unit (t : Team) (c : Option Chunk) : UnitKey :=
  if t.det then (match c with | some c => .chunk t.grid c | none => .team t.grid t.teamix) else .plain

/-- The unit of a Shuttle's user program (R225). -/
def State.shuttleUnit (s : State) (c : Nat) : UnitKey :=
  match (s.shuttle c).team with
  | some k => (s.team k).unit (s.shuttle c).chunk
  | none => .plain

/-- The unit an agent's accesses belong to (R225). The handler is no part of a unit. DEDUCED (log 23). -/
def State.unitOf (s : State) (w : Who) : UnitKey :=
  match w with
  | .thread k t => (s.team k).unit (s.thread k t).chunk
  | .shuttle c => if (s.shuttle c).mode then .plain else s.shuttleUnit c
  | .node n =>
    (match s.nodes.find? fun x => x.id == n with
     | some x =>
       (match s.packets.find? fun p => p.id == x.pkt with
        | some p => if bits (bnat p.bytes 0 4) 11 1 = 1 then .node x.pkt x.n else .plain
        | none => .plain)
     | none => .plain)
  | _ => .plain

/-- The address lies in a deterministic region of the space (R208, R225). -/
def State.inDet (s : State) (asid va : Nat) : Bool :=
  (s.space asid).regions.any fun r => r.2.det && decide (r.2.start ≤ va) && decide (va < r.2.start + r.2.len)

/-- An access goes through a unit's view. -/
def State.viewed (s : State) (u : UnitKey) (asid va : Nat) : Bool := u != .plain && s.inDet asid va

/-- Memory as the home slices show it: HBM under the LLC under the home copies (R203). DEDUCED (log 23). -/
def State.homeImage (s : State) : Mem :=
  let m := s.llc.foldl (fun m q => mwrite m (32 * q.1) q.2.data) s.hbm
  s.dies.foldl (fun m d => d.2.l2.foldl (fun m q =>
    if homeDie (32 * q.1) = d.1 then mwrite m (32 * q.1) q.2.data else m) m) m

def State.detFind (s : State) (u : UnitKey) : Option DetUnit := s.det.find? fun d => d.key == u

/-- Start a unit for a team in a slot of a core: its snapshot is memory as it stands (R225). A unit that starts again keeps its
own, and runs where it is started now (R228, R229). DEDUCED (log 23). -/
def State.startUnit (s : State) (u : UnitKey) (asid core team slot group : Nat) : State :=
  if u = .plain then s
  else match s.detFind u with
    | some _ => { s with det := s.det.map fun d => if d.key = u then { d with core := core, team := team, slot := slot } else d }
    | none => { s with det := s.det ++ [⟨u, asid, core, team, slot, group, s.homeImage, [], [], [], [], [], []⟩] }

/-- The group a unit merges with: its grid, or its node's packet. -/
def UnitKey.group : UnitKey → Nat
  | .plain => 0
  | .team g _ => g
  | .chunk g _ => g
  | .node p _ => p

def State.modUnit (s : State) (u : UnitKey) (f : DetUnit → DetUnit) : State :=
  { s with det := s.det.map fun d => if d.key = u then f d else d }

def DetUnit.byte (d : DetUnit) (pa : Nat) : Byte :=
  match nfind d.wrote pa, nfind d.merged pa with
  | some v, _ => v.2
  | none, some v => v.2
  | none, none => mget d.snap pa

/-- A unit that is run again loses what it wrote, and keeps its snapshot (R229). -/
def DetUnit.discard (d : DetUnit) : DetUnit := { d with wrote := [], merged := [], contribs := [], past := d.phases }

/-- A unit runs again what a merge has taken already: its team has not come back to a phase that merged it (R229).
DEDUCED (log 23). -/
def State.replays (s : State) (u : UnitKey) : Bool :=
  match s.detFind u with
  | none => false
  | some d => s.teams.any fun e => e.2.live && e.2.grid == u.group && e.2.teamix == d.team &&
      d.past.any fun g => decide (nget e.2.bargDone g.1 0 < g.2)

/-- Bytes of a unit's view. -/
def State.viewRead (s : State) (u : UnitKey) (pa n : Nat) : List Byte :=
  match s.detFind u with
  | some d => (List.range n).map fun i => d.byte (pa + i)
  | none => s.homeRead pa n

/-- A unit's plain write goes to its Basting contents; one that a merge has taken already goes to what stands merged (R229). -/
def State.viewWrite (s : State) (u : UnitKey) (pa va : Nat) (bs : List Byte) : State :=
  let put (m : NMap (Nat × Byte)) : NMap (Nat × Byte) :=
    (indexed bs).foldl (fun m b => nput m (pa + b.1) (va + b.1, b.2)) m
  let again := s.replays u
  s.modUnit u fun d => if again then { d with merged := put d.merged } else { d with wrote := put d.wrote }

/-- A unit's contribution to a deterministic word is buffered (R226), but for one that a merge has taken already (R229). -/
def State.detAdd (s : State) (u : UnitKey) (c : Contribution) : State :=
  if s.replays u then s else s.modUnit u fun d => { d with contribs := d.contribs ++ [c] }

/-! ### Atomic operations on a value (R190 to R192) -/

/-- Both halves of a bf16x2 word, each by its own step. -/
def halves (f : Nat → Nat → Nat) (x y : Nat) : Nat :=
  f (x % 65536) (y % 65536) + 65536 * f (x / 65536 % 65536) (y / 65536 % 65536)

/-- A sum of two FP32 patterns, RNE (R191). -/
def addF32 (x y : Nat) : Nat := (F32.deliver 0 (addVals 0 (F32.decode x) (F32.decode y))).1
/-- A sum of two BF16 patterns, flushed, RNE (R192). -/
def addBf16 (x y : Nat) : Nat := (BF16.deliver 0 (addVals 0 (BF16.operand x) (BF16.operand y))).1

/-- `add` of a type: 0 i32, 1 n32, 2 i64, 3 f32, 4 bf16x2 (R190). -/
def atomAdd (ty old x : Nat) : Nat :=
  match ty with
  | 2 => (old + x) % 2 ^ 64
  | 3 => addF32 old x
  | 4 => halves addBf16 old x
  | _ => (old + x) % 2 ^ 32

/-- `min` and, with mx, `max` (R190). -/
def atomMinMax (mx : Bool) (ty old x : Nat) : Nat :=
  match ty with
  | 0 => if (sgn x 32 < sgn old 32) != mx then (if sgn x 32 = sgn old 32 then old else x) else old
  | 1 => if (x < old) != mx then (if x = old then old else x) else old
  | 2 => if (sgn x 64 < sgn old 64) != mx then (if sgn x 64 = sgn old 64 then old else x) else old
  | 3 => (F32.minMax mx false old x).1
  | _ => halves (fun a b => (BF16.minMax mx false a b).1) old x

/-- The bytes of an atomic's element (R190). -/
def atomWidth (ty : Nat) : Nat := if ty = 2 then 8 else 4

/-! ### Reducing windows (R426, R427) -/

/-- The sum of a word's contributions in rank order. -/
def windowSum (fmt : Nat) (cs : List Nat) : Nat :=
  match cs with
  | [] => 0
  | c :: r =>
    if fmt = 0 then (let v := r.foldl addF32 c; if (F32.decode v).isNan then F32.nan else v)
    else
      let half (h : Nat) : Nat :=
        let up (v : Nat) : Nat := match BF16.operand (bits v (16 * h) 16) with
          | x => (F32.deliver 0 (x, 0)).1
        let v := r.foldl (fun v c => addF32 v (up c)) (up c)
        (BF16.deliver 0 (F32.decode v, 0)).1
      half 0 + 65536 * half 1

def State.modWindow (s : State) (i : Nat) (f : Window → Window) : State :=
  { s with windows := (indexed s.windows).map fun w => if w.1 = i then f w.2 else w.2 }

/-- A contribution of a rank to the word at a fabric offset; the last one forms the sum, and a whole sector of sums adds 1
to the completion counter. A second contribution of a rank is discarded and reported. -/
def State.contribute (s : State) (i rank off : Nat) (v : Word) : State :=
  match s.windows[i]? with
  | none => s
  | some w =>
    if w.round.any fun c => c.1 == off && c.2.1 == rank then
      (s.modWindow i fun w => { w with extra := w.extra + 1 }).report (3000000 + i)
    else
      let round := w.round ++ [(off, rank, v)]
      let mine := (List.range w.desc.nrank).filterMap fun r =>
        (round.find? fun c => c.1 == off && c.2.1 == r).map fun c => c.2.2.toNat
      if mine.length < w.desc.nrank then s.modWindow i fun w => { w with round := round }
      else
        let d := off - w.desc.wbase
        let s := s.homePut (w.desc.dest + d) 4 (windowSum w.desc.fmt mine)
        let sums := w.sums ++ [d]
        let sector := (List.range 8).map fun j => d / 32 * 32 + 4 * j
        let whole := sector.all sums.contains
        let s := s.modWindow i fun w => { w with
          round := round.filter fun c => c.1 != off
          sums := if whole then sector.foldl List.erase sums else sums }
        if whole then s.homePut w.desc.done 8 ((s.homeNat w.desc.done 8 + 1) % 2 ^ 64) else s

/-- A store to this module's own window: each word is this rank's contribution (R426). The bytes of a word that a narrower
store leaves out are free values. `skip` says that a higher lane of the issue stores the word at an offset (R427).
DESIGN CHOICE (log 17). -/
def State.windowStore (s : State) (off : Nat) (bs : List Byte) (skip : Nat → Bool) : State :=
  match (indexed s.windows).find? fun w => w.2.covers off with
  | none => s
  | some (i, w) =>
    if bs.length < 4 then
      let b (j : Nat) : Byte := if off % 4 ≤ j && j < off % 4 + bs.length then bs.getD (j - off % 4) 0
        else Config.freeByte s.fresh j
      if skip (off / 4 * 4) then s
      else s.bump.contribute i w.desc.myrank (off / 4 * 4)
        (BitVec.ofNat 32 (leNat [b 0, b 1, b 2, b 3]))
    else (indexed (wordsOf (bs.length / 4) bs)).foldl (fun s x =>
      if skip (off + 4 * x.1) then s else s.contribute i w.desc.myrank (off + 4 * x.1) x.2) s

/-- The fabric offset of a physical address in this module's own node where a window covers it. -/
def State.windowOff (s : State) (pa : Nat) : Option Nat :=
  match targetOf pa with
  | .peer n off => if n = s.nodeNum && (s.windowAt off).isSome then some off else none
  | _ => none

/-- A write of an engine, a channel or a Bobbin's signal at its place, windows included (R202, R426). -/
def State.engineStore (s : State) (c pa : Nat) (bs : List Byte) : State :=
  match s.windowOff pa with
  | some off => s.windowStore off bs fun _ => false
  | none => s.engineWrite c pa bs

/-! ### Loads and stores of the issuing agent -/

/-- A leaf of CLASS 0001: every access acts at the home slice (R395). DEDUCED (log 21). -/
def uncached (e : Nat) : Bool := bits e 12 4 == 1

/-- Read n bytes at a virtual address by a core's load path, translated through the TLB t, through its unit's view (R203, R225).
DEDUCED (log 21). -/
def State.loadBy (s : State) (t : TlbId) (c asid : Nat) (u : UnitKey) (va n : Nat) : Except Flt (State × List Byte) :=
  match s.translate t asid va .read with
  | .error f => .error f
  | .ok (s, pa, e) =>
    if s.viewed u asid va then .ok (s, s.viewRead u pa n)
    else match s.reach c pa with
      | .error f => .error f
      | .ok _ =>
        if uncached e then .ok (s, s.homeRead pa n)
        else
          let s := s.noteStable asid e pa n
          .ok (s.coreTouch c pa n, s.corePeek c pa n)

/-- Read n bytes at a virtual address for a core, by its own TLB (R399). -/
def State.globalLoad (s : State) (c asid : Nat) (u : UnitKey) (va n : Nat) : Except Flt (State × List Byte) :=
  s.loadBy (.core c) c asid u va n

/-- A store's effect at its physical address: in the core's L1, or at the home slice for an uncached page (R182, R395). One to a
peer whose port is not ACTIVE is held as the agent's (R207, R420). DESIGN CHOICE (log 71). -/
def State.physStore (s : State) (w : Who) (c pa : Nat) (unc : Bool) (bs : List Byte) (skip : Nat → Bool) : State :=
  match s.windowOff pa, s.reach c pa with
  | some off, _ => s.windowStore off bs skip
  | none, .error _ => { s with outbox := s.outbox ++ [(w, pa, bs)] }
  | none, .ok _ => if unc then s.homeWrite pa bs else s.coreWrite c pa bs

/-- Write bytes at a virtual address for a core (R182, R225). -/
def State.globalStore (s : State) (w : Who) (c asid : Nat) (u : UnitKey) (va : Nat) (bs : List Byte) (skip : Nat → Bool) :
    Except Flt State :=
  match s.translate (.core c) asid va .write with
  | .error f => .error f
  | .ok (s, pa, e) =>
    if s.viewed u asid va then .ok (s.viewWrite u pa va bs) else .ok (s.physStore w c pa (uncached e) bs skip)

/-- A physical access of supervisor code: inside the permitted ranges, or it freezes the Shuttle (R384, R385). -/
def State.physOk (s : State) (pa : Nat) : Except Flt Unit :=
  if s.permitted s.issAsid pa then .ok () else .error (flt .freeze)

/-- A load of participant l (R187): n bytes, zeros where the access is discarded (R177). DESIGN CHOICE (log 5). -/
def State.loadAt (s : State) (l space ea n : Nat) : Except Flt (State × List Byte) :=
  match s.place l space ea n with
  | .error f => .error f
  | .ok (.out sp o w size) => .ok (s.recordHem false sp o w size, List.replicate n 0)
  | .ok (.at_ (.glob va)) => s.globalLoad s.issCore s.issAsid (s.unitOf (s.whoOf l)) va n
  | .ok (.at_ (.phys pa)) =>
    (match s.physOk pa, s.reach s.issCore pa with
     | .error f, _ => .error f
     | _, .error f => .error f
     | .ok _, .ok _ => .ok (s.coreTouch s.issCore pa n, s.corePeek s.issCore pa n))
  | .ok (.at_ p) => .ok (s, s.nearRead p n)

/-- A store of participant l (R187). DESIGN CHOICE (log 5). -/
def State.storeAt (s : State) (l space ea : Nat) (bs : List Byte) (skip : Nat → Bool) : Except Flt State :=
  match s.place l space ea bs.length with
  | .error f => .error f
  | .ok (.out sp o w size) => .ok (s.recordHem true sp o w size)
  | .ok (.at_ (.glob va)) => s.globalStore (s.whoOf l) s.issCore s.issAsid (s.unitOf (s.whoOf l)) va bs skip
  | .ok (.at_ (.phys pa)) =>
    (match s.physOk pa with
     | .error f => .error f
     | .ok _ => .ok (s.physStore (s.whoOf l) s.issCore pa false bs skip))
  | .ok (.at_ p) => .ok (s.nearWrite p bs)

/-- The words of this module's reducing windows, by fabric offset, that a store of n bytes by participant l reaches. -/
def State.windowWords (s : State) (l space ea n : Nat) : List Nat :=
  let at_ (pa : Nat) : List Nat := match s.windowOff pa with
    | some off => (List.range ((n + 3) / 4)).map fun i => off / 4 * 4 + 4 * i
    | none => []
  if s.windows.isEmpty then []
  else match s.place l space ea n with
    | .ok (.at_ (.glob va)) => (match s.translate (.core s.issCore) s.issAsid va .write with
        | .ok (_, pa, _) => at_ pa
        | .error _ => [])
    | .ok (.at_ (.phys pa)) => if s.permitted s.issAsid pa then at_ pa else []
    | _ => []

/-- An atomic step on a number at a physical address's home slice: the old value. -/
def State.homeAtomic (s : State) (c pa w : Nat) (f : Nat → Nat) : State × Nat :=
  let s := s.surrender c pa w
  let old := s.homeNat pa w
  (s.homePut pa w (f old), old)

/-- An atomic of participant l on w bytes (R191): the old value. `contrib` gives the type and operand of an add that a
deterministic region buffers (R226). -/
def State.atomicAt (s : State) (l space ea w : Nat) (f : Nat → Nat) (contrib : Option (Nat × Nat)) :
    Except Flt (State × Nat) :=
  match s.place l space ea w with
  | .error f => .error f
  | .ok (.out sp o wd size) => .ok (s.recordHem true sp o wd size, 0)
  | .ok (.at_ (.glob va)) =>
    (match s.translate (.core s.issCore) s.issAsid va .atomic with
     | .error f => .error f
     | .ok (s, pa, _) =>
       let u := s.unitOf (s.whoOf l)
       if s.viewed u s.issAsid va then
         (match contrib with
          | some (ty, x) => .ok (s.detAdd u ⟨pa, ty, BitVec.ofNat 64 x⟩, 0)
          | none =>
            let old := leNat (s.viewRead u pa w)
            .ok (s.viewWrite u pa va (leBytes w (f old)), old))
       else match s.reach s.issCore pa with
         | .error f => .error f
         | .ok _ => .ok (s.homeAtomic s.issCore pa w f))
  | .ok (.at_ (.phys pa)) =>
    (match s.physOk pa, s.reach s.issCore pa with
     | .error f, _ => .error f
     | _, .error f => .error f
     | .ok _, .ok _ => .ok (s.homeAtomic s.issCore pa w f))
  | .ok (.at_ p) =>
    let old := leNat (s.nearRead p w)
    .ok (s.nearWrite p (leBytes w (f old)), old)

/-! ### Merges (R227, R228) -/

/-- A unit's place in the merge order: curve units, chunk units, nodes, each ascending. -/
def UnitKey.rank : UnitKey → Nat × Nat
  | .plain => (0, 0)
  | .team _ i => (0, i)
  | .chunk _ c => (1, c.start)
  | .node _ i => (2, i)

/-- Chunks of one start, which two loops drew, come in the order of their draws. DEDUCED (log 23). -/
def UnitKey.before (a b : UnitKey) : Bool :=
  decide (a.rank.1 < b.rank.1) || (a.rank.1 == b.rank.1 && (decide (a.rank.2 < b.rank.2) || (a.rank.2 == b.rank.2 &&
    (match a, b with | .chunk _ x, .chunk _ y => decide (x.id ≤ y.id) | _, _ => true))))

def insertUnit (d : DetUnit) : List DetUnit → List DetUnit
  | [] => [d]
  | x :: r => if d.key.before x.key then d :: x :: r else x :: insertUnit d r

/-- One unit's writes and contributions; `seen` holds the words earlier units wrote, with the value and the writer.
DEDUCED (log 23). -/
def State.mergeUnit (s : State) (d : DetUnit) (seen : NMap (Nat × Nat)) : State × NMap (Nat × Nat) :=
  let words := dedup (d.wrote.map fun w => w.1 / 4)
  let r := words.foldl (fun (x : State × NMap (Nat × Nat)) q =>
    let v := leNat ((List.range 4).map fun i => d.byte (4 * q + i))
    let va := match d.wrote.find? fun w => w.1 / 4 == q with | some w => w.2.1 / 4 * 4 | none => 4 * q
    let s := match nfind x.2 q with
      | some e => if e.1 = v then x.1 else
          x.1.record d.core (trapBytes 0x17 0 6 d.slot 0 0 va e.2 d.key.rank.2 d.asid)
      | none => x.1
    (s.homePut (4 * q) 4 v, nput x.2 q (v, d.key.rank.2))) (s, seen)
  (d.contribs.foldl (fun s c =>
    s.homePut c.pa (atomWidth c.ty) (atomAdd c.ty (s.homeNat c.pa (atomWidth c.ty)) c.v.toNat)) r.1, r.2)

/-- A merge point: every unit that `sel` names and that has written, in order; each unit keeps its view (R227).
DEDUCED (log 23). -/
def State.merge (s : State) (sel : DetUnit → Bool) : State :=
  let us := (s.det.filter sel).foldl (fun l d => insertUnit d l) []
  let s := (us.foldl (fun (x : State × NMap (Nat × Nat)) d => x.1.mergeUnit d x.2) (s, [])).1
  { s with det := s.det.map fun d =>
      if sel d then { d with merged := d.wrote.foldl (fun m w => nput m w.1 w.2) d.merged, wrote := [], contribs := [] } else d }

/-- Units that have ended leave (R229). DEDUCED (log 23). -/
def State.dropUnits (s : State) (sel : DetUnit → Bool) : State := { s with det := s.det.filter fun d => !sel d }

end Sys2Proof.Machine
end

