-- ==== Sys2Proof/Machine/Gang.lean ====
section
/-! DEFINITION. Gang contexts (spec/03_control.md R69 to R74): how contexts split after an issue, how quads that wake leave
the context of not-ready quads, how contexts are rebuilt at a fusion point, and which threads of a quad's context issue. -/

namespace Sys2Proof.Machine
open Sys2Proof

/-- A thread is ready, and with it every live thread of its bound set: the set waits as one (R69, R113). -/
def Team.ready (t : Team) (i : Tix) : Bool :=
  let x := t.thread i
  x.isReady && (x.bset == 0 || t.liveThreads.all fun j => (t.thread j).bset != x.bset || (t.thread j).isReady)

/-- What a quad's live threads are doing (R70). -/
inductive QuadClass where
  | gone | idle | uniform (pc : Nat) | mixed
  deriving DecidableEq, Repr

def Team.classify (t : Team) (band q : Nat) : QuadClass :=
  let live := t.quadThreads band q
  let ready := live.filter t.ready
  if live.isEmpty then .gone
  else match ready with
    | [] => .idle
    | i :: r =>
      if ready.length < live.length then .mixed
      else if r.all fun j => (t.thread j).pc == (t.thread i).pc then .uniform (t.thread i).pc.toNat
      else .mixed

/-- The counters of uniform quads, without repeats. -/
def Team.uniformPcs (t : Team) (band : Nat) (qs : List Nat) : List Nat :=
  dedup (qs.filterMap fun q => match t.classify band q with | .uniform pc => some pc | _ => none)

/-- The contexts a set of quads forms (R70): one for each common counter, a split quad each, and one of not-ready quads. -/
def Team.group (t : Team) (band stamp : Nat) (qs : List Nat) : List Ctx :=
  let idle := qs.filter fun q => t.classify band q == .idle
  ((t.uniformPcs band qs).map fun pc => ⟨band, qs.filter fun q => t.classify band q == .uniform pc, stamp⟩) ++
    ((qs.filter fun q => t.classify band q == .mixed).map fun q => ⟨band, [q], stamp⟩) ++
    (if idle.isEmpty then [] else [⟨band, idle, stamp⟩])

/-- After an issue, the context that holds quad q splits (R70); quads whose threads have exited leave it. What it leaves is
ready again from now on (R74). DEDUCED (log 57). -/
def Team.split (t : Team) (band q stamp : Nat) : Team :=
  let mine (c : Ctx) : Bool := c.band == band && c.quads.contains q
  { t with ctxs := (t.ctxs.filter fun c => !mine c) ++
      (t.ctxs.filter mine).flatMap fun c => t.group band stamp c.quads }

/-- Quads whose threads have all ended leave the contexts, and a context without quads is freed (R70, R80). -/
def Team.dropGone (t : Team) : Team :=
  let keep (c : Ctx) : Ctx := { c with quads := c.quads.filter fun q => !(t.quadThreads c.band q).isEmpty }
  { t with ctxs := (t.ctxs.map keep).filter fun c => !c.quads.isEmpty }

/-- The quads that must move with a quad: those that share a bound set with it (R113). -/
def Team.quadSet (t : Team) (band q : Nat) : List Nat :=
  let sets := ((t.quadThreads band q).map fun i => (t.thread i).bset).filter fun b => b ≠ 0
  (List.range 16).filter fun r => r == q || (t.quadThreads band r).any fun i => sets.contains (t.thread i).bset

/-- Quads of a band leave their contexts. -/
def Team.without (t : Team) (band : Nat) (qs : List Nat) : List Ctx :=
  (t.ctxs.map fun c => if c.band = band then { c with quads := c.quads.filter fun q => !qs.contains q } else c).filter
    fun c => !c.quads.isEmpty

/-- A quad that held no ready thread holds one now: with its bound set it leaves the context it shares and forms one of its
own (R70). -/
def Team.leaveIdle (t : Team) (stamp band q : Nat) : Team :=
  { t with ctxs := t.without band (t.quadSet band q) ++ [⟨band, t.quadSet band q, stamp⟩] }

/-- The quads of threads, numbered 16 × band + quad, without repeats. -/
def quadsOf (ts : List Tix) : List Nat := dedup (ts.map (· / 4))

/-- Threads become ready (an ERET, a grant, the end of a wait): their quads leave the contexts of not-ready quads. -/
def Team.makeReady (t : Team) (stamp : Nat) (ts : List Tix) : Team :=
  let u := ts.foldl (fun t i => t.modThread i fun x => { x with stat := .ready }) t
  ((quadsOf ts).filter fun q => t.classify (q / 16) (q % 16) == .idle && u.classify (q / 16) (q % 16) != .idle).foldl
    (fun t q => t.leaveIdle stamp (q / 16) (q % 16)) u

/-- A point of R72 releases threads: their quads, and the quads bound to them, at one counter fuse; the others are split
quads. -/
def Team.release (t : Team) (stamp : Nat) (ts : List Tix) : Team :=
  let t := ts.foldl (fun t i => t.modThread i fun x => { x with stat := .ready }) t
  let bands := dedup (ts.map (· / 64))
  bands.foldl (fun t b =>
    let qs := sortAsc (dedup (((quadsOf ts).filter fun q => q / 16 == b).flatMap fun q => t.quadSet b (q % 16)))
    { t with ctxs := t.without b qs ++ t.group b stamp qs }) t

/-! ### Waking threads (R69, R76) -/

/-- What a held thread waits for is there: its registers are full and its entries present (R49 to R52). -/
def Team.heldDone (t : Team) (i : Tix) : Bool :=
  let x := t.thread i
  match x.stat with
  | .held rs ps => rs.all x.full && ps.all fun p => ((t.queue p.1).at_ p.2 (i % 64)).isSome
  | _ => false

/-- A thread that waits in an instruction until the instruction no longer waits. -/
def Thread.isWaiting (t : Thread) : Bool :=
  match t.stat with
  | .retry => true
  | .preBar _ => true
  | _ => false

/-- The live threads whose registers and entries have come are ready (R52, R74). -/
def Team.wakeHeld (t : Team) (stamp : Nat) : Team :=
  let ts := t.liveThreads.filter t.heldDone
  if ts.isEmpty then t else t.makeReady stamp ts

/-- The waiting threads of a team, by band and counter: each list waits in one instruction. -/
def Team.waiters (t : Team) : List (Nat × Nat × List Tix) :=
  let ws := t.liveThreads.filter fun i => (t.thread i).isWaiting
  let key (i : Tix) : Nat := i / 64 * 131072 + (t.thread i).pc.toNat
  (dedup (ws.map key)).map fun n => (n / 131072, n % 131072, ws.filter fun i => key i == n)

/-! ### Selecting threads (R71, R74) -/

/-- A band's context that holds a quad. -/
def Team.ctxOf (t : Team) (band q : Nat) : List Nat :=
  match t.ctxs.find? fun c => c.band == band && c.quads.contains q with
  | some c => c.quads
  | none => []

/-- The threads a context offers for issue: its ready threads, but those that are passed over while a counter they yielded
to is still held by a ready thread (R96). DEDUCED (log 57). -/
def Team.offered (t : Team) (band q : Nat) : List Tix :=
  let ready := ((t.ctxOf band q).flatMap fun r => t.quadThreads band r).filter t.ready
  let free := ready.filter fun i => !((t.thread i).passed.any fun p => ready.any fun j => (t.thread j).pc.toNat == p)
  if free.isEmpty then ready else free

/-- The counter a context issues at: the lowest of its offered threads (R71). DEDUCED (log 57). -/
def Team.selectPc (t : Team) (band q : Nat) : Option Nat :=
  match (t.offered band q).map fun i => (t.thread i).pc.toNat with
  | [] => none
  | p :: r => some (r.foldl min p)

/-- The lanes that issue at a counter: every ready thread of the context that stands there. -/
def Team.issueLanes (t : Team) (band q pc : Nat) : List Nat :=
  sortAsc (((t.offered band q).filter fun i => (t.thread i).pc.toNat == pc).map (· % 64))

/-- The context of a band, among those with a counter that may issue and no quad in `skip`, that became ready first (R74).
DEDUCED (log 57). -/
def Team.readyCtx (t : Team) (band : Nat) (skip : List Nat) (ok : Nat → Bool) : Option Ctx :=
  let cs := t.ctxs.filter fun c => c.band == band && !(c.quads.any skip.contains) &&
    (match c.quads with | q :: _ => (t.selectPc band q).any ok | [] => false)
  match cs with
  | [] => none
  | c :: r => some (r.foldl (fun a b => if b.stamp < a.stamp then b else a) c)

/-- A counter has issued: threads that yielded to it no longer wait for it (R96). -/
def Team.issuedAt (t : Team) (band q pc : Nat) : Team :=
  ((t.ctxOf band q).flatMap fun r => t.quadThreads band r).foldl (fun t i =>
    if (t.thread i).passed.isEmpty then t
    else t.modThread i fun x => { x with passed := x.passed.filter fun p => p != pc }) t

/-- Threads yield to the counters of the other ready threads of their quad (R96). DEDUCED (log 57). -/
def Team.yieldTo (t : Team) (i : Tix) : Team :=
  let others := (t.quadThreads (i / 64) (i % 64 / 4)).filter fun j =>
    (t.thread j).isReady && (t.thread j).pc != (t.thread i).pc
  t.modThread i fun x => { x with passed := dedup (others.map fun j => (t.thread j).pc.toNat) }

end Sys2Proof.Machine
end

