-- ==== Sys2Proof/Machine/Control.lean ====
section
/-! DEFINITION. Control flow and divergence, majors 0x00 to 0x03 (spec/03_control.md R82 to R98), and the steps that
complete a JOIN (R93) and fill a destination register from the decision queue (R97). -/

namespace Sys2Proof.Machine
open Sys2Proof

/-- The outcome of a meaning. -/
abbrev Out1 := Host.Outcome State Fault Refusal

/-! ### Overlays and code references (R82, R83) -/

/-- The slots a transfer searches for an overlay, in order (R83). -/
def searchSlots (sup : Bool) : List Nat := if sup then [3, 0, 1, 2] else [0, 1, 2]

/-- The slot of a core that holds an overlay now (R83). -/
def State.findSlot (s : State) (c : Nat) (sup : Bool) (ovl : Nat) : Option Nat :=
  (searchSlots sup).find? fun sl =>
    match nfind (s.core c).slots sl with
    | some r => r.ovl == ovl
    | none => false

/-- The overlay number in a slot. -/
def State.ovlIn (s : State) (c slot : Nat) : Nat :=
  match nfind (s.core c).slots slot with
  | some r => r.ovl
  | none => 0

/-- A counter at a packet of a slot (R32). -/
def pcAt (slot pkt : Nat) : Pc := BitVec.ofNat 17 (slot * 32768 + pkt * 4)

def pcSlot (pc : Pc) : Nat := bits pc.toNat 15 2
def pcPkt (pc : Pc) : Nat := bits pc.toNat 2 13

/-- Byte address in instruction memory (R32). -/
def pcByte (pc : Pc) : Nat := pcSlot pc * 65536 + pcPkt pc * 12 + bits pc.toNat 0 2 * 4

/-- The link of a call at a counter: the next packet, by slot and overlay (R82, R89). -/
def State.linkOf (s : State) (c : Nat) (pc : Pc) : Word :=
  BitVec.ofNat 32 ((pcPkt pc + 1) * 4 + pcSlot pc * 32768 + s.ovlIn c (pcSlot pc) * 131072)

/-- Push a code reference; a full stack of 16 discards its oldest (R84). -/
def Thread.push (t : Thread) (link : Word) : Thread := { t with sstk := link :: t.sstk.take 15 }

/-- A guard of a B-format word holds (R88). -/
def State.bGuard (s : State) (l : Nat) (g : BitVec 3) (n : Bool) : Bool := s.rp l g.toNat != n

/-! ### Transfers -/

def runBr (r : BrOp) (s : State) : State :=
  s.forParts fun s l =>
    if s.bGuard l r.g r.n then
      (match nearTarget s.iss.pc r.off with
       | some pc => .ok (s.transfer l pc)
       | none => .ok s)
    else .ok s

/-- Push and write the link of a call (R89). -/
def State.callLink (s : State) (l d : Nat) : State :=
  let link := s.linkOf s.issCore s.iss.pc
  s.lane l fun t => (t.push link).setG d link

def runCall (r : CallOp) (s : State) : State :=
  s.forParts fun s l =>
    if s.bGuard l r.g r.n then
      (match nearTarget s.iss.pc r.off with
       | some pc => .ok ((s.callLink l r.link.toNat).transfer l pc)
       | none => .ok s)
    else .ok s

/-- A far transfer: the slot that holds the overlay now, or OVLMISS (R83, R89). -/
def State.farTarget (s : State) (ovl pkt : Nat) : Except Out Pc :=
  match s.findSlot s.issCore s.issSup ovl with
  | some sl => .ok (pcAt sl pkt)
  | none => .error (.flt (flt .ovlMiss))

def runBrf (r : BrfOp) (s : State) : State :=
  s.forParts fun s l =>
    if s.bGuard l r.g r.n then
      (match s.farTarget r.ovl.toNat r.tpkt.toNat with
       | .ok pc => .ok (s.transfer l pc)
       | .error o => .error o)
    else .ok s

def runCallf (r : CallfOp) (s : State) : State :=
  s.forParts fun s l =>
    if s.bGuard l r.g r.n then
      (match s.farTarget r.ovl.toNat r.tpkt.toNat with
       | .ok pc => .ok ((s.callLink l r.link.toNat).transfer l pc)
       | .error o => .error o)
    else .ok s

/-- Word 0 of a packet is PAD with this label (R90, R92). -/
def State.isPad (s : State) (c : Nat) (pc : Pc) (label : Nat) : Bool :=
  leNat (mread (s.core c).imem (pcByte pc) 4) % 2 ^ 31 == 0x0C010000 + label

/-- The target of a jump-table transfer of a lane, checked in the order of R90: the state after the entry's load. -/
def State.tableTarget (s : State) (l : Nat) (i base : Nat) (bound label : Nat) : Except Out (State × Pc) :=
  if i ≥ bound + 1 then .error (.flt (flt .jtBound))
  else if base % 4 ≠ 0 then .error (.flt (flt .align))
  else
    match s.loadAt l 0 ((base + 4 * i) % 2 ^ 64) 4 with
    | .error f => .error (.flt f)
    | .ok (s, bs) =>
      let e := leNat bs
      if bits e 0 2 ≠ 0 || bits e 27 5 ≠ 0 || bits e 2 13 > 5460 then .error (.flt (flt .padMiss))
      else match s.farTarget (bits e 17 10) (bits e 2 13) with
        | .error o => .error o
        | .ok pc => if s.isPad s.issCore pc label then .ok (s, pc) else .error (.flt (flt .padMiss))

def runJt (r : JtOp) (s : State) : State :=
  s.forParts fun s l =>
    match s.tableTarget l (s.rd l r.a []).toNat (s.rd64 l r.b).toNat r.bound.toNat r.label.toNat with
    | .ok (s, pc) => .ok (s.transfer l pc)
    | .error o => .error o

def runJtc (r : JtcOp) (s : State) : State :=
  s.forParts fun s l =>
    match s.tableTarget l (s.rd l r.a []).toNat (s.rd64 l r.b).toNat r.bound.toNat r.label.toNat with
    | .ok (s, pc) => .ok ((s.callLink l r.d.toNat).transfer l pc)
    | .error o => .error o

/-- The thread behind a lane of the issue, as it stands now. -/
def State.laneThread (s : State) (l : Nat) : Thread :=
  match s.iss.who with
  | .gang k b _ => (s.team k).thread (64 * b + l)
  | _ => .gone

def runRet (r : RA) (s : State) : State :=
  s.forParts fun s l =>
    let v := s.rd l r.a []
    match (s.laneThread l).sstk with
    | [] => .error (.flt (flt .retEmpty))
    | top :: rest =>
      if v ≠ top then .error (.flt (flt .retLink))
      else match s.farTarget (bits v.toNat 17 10) (bits v.toNat 2 13) with
        | .error o => .error o
        | .ok pc => .ok ((s.lane l fun t => { t with sstk := rest }).transfer l pc)

/-! ### Gathering, exit, yield -/

def runJoin (j : BitVec 3) (s : State) : State :=
  match s.iss.who with
  | .gang k _ _ =>
    let m := (s.viewTeam k).j j.toNat
    s.eachLane fun l t => if m.getLsbD l then { t with stat := .atJoin j s.iss.pc } else t
  | _ => s

/-- Change a rejoin mask of the issuing team. -/
def State.modMask (s : State) (j : BitVec 3) (f : Dword → Dword) : State :=
  match s.iss.who with
  | .gang k _ _ => s.modTeam k fun t => t.setJ j.toNat (f (t.j j.toNat))
  | _ => s

def runJmaskZ (j : BitVec 3) (s : State) : State := s.modMask j fun _ => 0
def runJmaskG (j : BitVec 3) (s : State) : State := s.modMask j fun m => m ||| laneMask s.lanes
def runJmaskR (r : JmOp) (s : State) : State :=
  s.modMask r.j fun m => s.lanes.foldl (fun m l => m ||| s.rd64 l r.d) m

def runJmaskGet (r : JmOp) (s : State) : State :=
  match s.iss.who with
  | .gang k _ _ =>
    let m := (s.viewTeam k).j r.j.toNat
    s.parts_.foldl (fun s l => s.put64 l r.d.toNat m) s
  | _ => s

/-- A HEMHIT record of the team (R179). -/
def State.hemHit (s : State) (k : Nat) : State :=
  let t := s.team k
  s.faultSource (coreOfTeam k) 6 (slotOfTeam k) 0 t.asid ⟨.hemHit, t.hemrec.toNat, 0⟩ 0

/-- The copies that a record of an ending issuer still waits for: those of the sealed batches its DEPB covers (R257). -/
def State.lastDeps (s : State) (w : Who) (r : Rec) : List Nat :=
  if r.who = w && !r.started && bits (bnat r.bytes 3 1) 0 1 == 1 then
    s.sealedCopies r.sup w (BitVec.ofNat 32 (bnat r.bytes 0x10 4))
  else []

/-- A thread ends (R95): its pending data, queue positions and stack go, with a request it waits for and a QRULE it waits in; its
records keep the batches they wait for. DEDUCED (log 74). -/
def State.endThread (s : State) (k : Nat) (i : Tix) : State :=
  let w : Who := .thread k i
  let s := { s with
    fills := s.fills.filter fun f => !(f.team == k && f.t == i)
    objReqs := s.objReqs.filter fun q => q.who != w
    ruleWaits := s.ruleWaits.filter fun x => x.who != w
    records := s.records.map fun (r : Rec) => { r with deps := r.deps ++ s.lastDeps w r } }
  s.modTeam k fun t => { t with threads := ndel t.threads i }

/-- What goes when a team's last thread has exited: its streams, queue and Gusset entries, pins, generator context and
held faults, and what its Shuttle has not issued (R81, R161, R199, R230, R321). -/
def State.lastExit (s : State) (k : Nat) : State :=
  let c := coreOfTeam k
  let mine (w : Who) : Bool := match w with
    | .thread t _ => t == k
    | .shuttle d => d == c && (s.shuttle c).team == some k
    | _ => false
  let s := s.modTeam k fun t => { t with queues := [], dq := [], pat := none }
  let s := s.modCore c fun x => { x with
    gusset := x.gusset.filter fun e => e.team != k
    greqs := x.greqs.filter fun r => r.team != k }
  let s := s.modDie (dieOfCore c) fun d => { d with pins := d.pins.filter fun p => p.team != k }
  let s := { s with
    held := s.held.filter fun h => !mine h.who
    ruleWaits := s.ruleWaits.filter fun w => w.team != k }
  if (s.shuttle c).team = some k then
    let s := { s with objReqs := s.objReqs.filter fun q => !(q.who == Who.shuttle c && (s.shuttle c).hold == Hold.waitAcq q.obj q.excl) }
    s.modShuttle c fun h =>
      let h := { h with active := false, parked := false, hold := .none, chunk := none, rel := none }
      if h.mode then h else { h with waiting := false }
  else s

/-- After threads have ended: queues retire; the last one's exit writes a held HEMREC (R179) and ends what the team holds
open. -/
def State.afterExit (s : State) (k : Nat) : State :=
  let s := s.modTeam k Team.retireAll
  if (s.team k).liveThreads.isEmpty then
    let s := if (s.team k).hemrec.toNat % 2 = 1 then (s.hemHit k).modTeam k fun t => { t with hemrec := 0 } else s
    s.lastExit k
  else s

def runExit (s : State) : State :=
  match s.iss.who with
  | .gang k b _ =>
    let s := s.forParts fun s l =>
      if s.boundSet l ≠ 0 then .error (.flt (flt .limbShape)) else .ok (s.endThread k (64 * b + l))
    s.afterExit k
  | _ => s

def runYield (s : State) : State :=
  match s.iss.who with
  | .gang k b ls => s.modTeam k fun t => ls.foldl (fun t l => t.yieldTo (64 * b + l)) t
  | _ => s

/-! ### The decision queue (R97) -/

def runDqpop (r : DqOp) (s : State) : State :=
  match s.iss.who with
  | .gang k b _ =>
    let s := s.forParts fun s l =>
      let t := s.team k
      let pos := (t.thread (64 * b + l)).dqpos
      let s := s.lane l fun x => { x with dqpos := pos + 1 }
      match t.dq[pos - t.dqFirst]? with
      | some e =>
        .ok (s.fillLater k (64 * b + l) r.d.toNat
          ([BitVec.ofNat 32 e.toNat] ++ if r.w then [BitVec.ofNat 32 (e.toNat / 4294967296)] else []))
      | none =>
        let regs := r.d.toNat :: if r.w then [r.d.toNat + 1] else []
        .ok ((s.lane l fun x => regs.foldl Thread.clearFull x).addFill k (64 * b + l) regs (.decision pos r.w))
    s.modTeam k Team.retireDq
  | _ => s

/-! ### User traps (R98) -/

def runTrap (code : BitVec 8) (s : State) : State := s.allFault (flt (.trap code))
def runBkpt (tag : BitVec 8) (s : State) : State := s.allFault ⟨.bkpt, 0, tag.toNat⟩

/-! ### Meanings -/

/-- Transfer where the guard holds (R88). -/
def execBr (r : BrOp) (s : State) : Out1 := .next (s.issue (.br r) (runBr r))
/-- Near call (R89). -/
def execCall (r : CallOp) (s : State) : Out1 := .next (s.issue (.call r) (runCall r))
/-- Far branch (R89). -/
def execBrf (r : BrfOp) (s : State) : Out1 := .next (s.issue (.brf r) (runBrf r))
/-- Far call (R89). -/
def execCallf (r : CallfOp) (s : State) : Out1 := .next (s.issue (.callf r) (runCallf r))
/-- Jump through a table (R90). -/
def execJt (r : JtOp) (s : State) : Out1 := .next (s.issue (.jt r) (runJt r))
/-- Call through a table (R90). -/
def execJtc (r : JtcOp) (s : State) : Out1 := .next (s.issue (.jtc r) (runJtc r))
/-- Return (R91). -/
def execRet (r : RA) (s : State) : Out1 := .next (s.issue (.ret r) (runRet r))
/-- No state changes (R92). -/
def execNop (s : State) : Out1 := .next (s.issue .nop id)
/-- No state changes (R92). -/
def execPad (label : BitVec 16) (s : State) : Out1 := .next (s.issue (.pad label) id)
/-- Wait at a rejoin mask (R93). -/
def execJoin (j : BitVec 3) (s : State) : Out1 := .next (s.issue (.join j) (runJoin j))
/-- Clear a mask (R94). -/
def execJmaskZ (j : BitVec 3) (s : State) : Out1 := .next (s.issue (.jmaskZ j) (runJmaskZ j))
/-- Add the gang to a mask (R94). -/
def execJmaskG (j : BitVec 3) (s : State) : Out1 := .next (s.issue (.jmaskG j) (runJmaskG j))
/-- Add registers to a mask (R94). -/
def execJmaskR (r : JmOp) (s : State) : Out1 := .next (s.issue (.jmaskR r) (runJmaskR r))
/-- Read a mask (R94). -/
def execJmaskGet (r : JmOp) (s : State) : Out1 := .next (s.issue (.jmaskGet r) (runJmaskGet r))
/-- End the threads (R95). -/
def execExit (s : State) : Out1 := .next (s.issue .exit runExit)
/-- Give up the issue turn (R96). -/
def execYield (s : State) : Out1 := .next (s.issue .yield runYield)
/-- Pop a decision (R97). -/
def execDqpop (r : DqOp) (s : State) : Out1 := .next (s.issue (.dqpop r) (runDqpop r))
/-- User trap (R98). -/
def execTrap (code : BitVec 8) (s : State) : Out1 := .next (s.issue (.trap code) (runTrap code))
/-- Breakpoint (R98). -/
def execBkpt (tag : BitVec 8) (s : State) : Out1 := .next (s.issue (.bkpt tag) (runBkpt tag))

/-! ### JOIN completion (R93) -/

/-- The threads of a band that wait at the JOIN at pc that names mask j. -/
def Team.joinWaiters (t : Team) (band : Nat) (pc : Pc) (j : BitVec 3) : List Tix :=
  t.liveThreads.filter fun i => i / 64 == band && (match (t.thread i).stat with
    | .atJoin k p => k == j && p == pc
    | _ => false)

/-- Every live thread of the band whose lane is in the mask waits there, and some thread waits. -/
def Team.joinDone (t : Team) (band : Nat) (pc : Pc) (j : BitVec 3) : Bool :=
  !(t.joinWaiters band pc j).isEmpty &&
    t.liveThreads.all fun i => i / 64 != band || !(t.j j.toNat).getLsbD (i % 64) || (t.joinWaiters band pc j).contains i

def evJoinCompletion (k band : Nat) (pc : Pc) (j : BitVec 3) (s : State) : Option State :=
  if (s.team k).joinDone band pc j then
    some ((s.modTeam k fun t => t.release s.fresh (t.joinWaiters band pc j)).modCore (coreOfTeam k) fun c => c.count 9 1)
  else none

/-- Completion of a JOIN: its waiting threads continue and the band's contexts are rebuilt. -/
def execJoinCompletion (k band : Nat) (pc : Pc) (j : BitVec 3) (s : State) : Out1 :=
  .next ((evJoinCompletion k band pc j s).getD s)

end Sys2Proof.Machine
end

