-- ==== Sys2Proof/Machine/Integer.lean ====
section
/-! DEFINITION. Integer and address instructions, majors 0x04 to 0x07 (spec/04_integer_limbs.md R99 to R110). -/

namespace Sys2Proof.Machine
open Sys2Proof

/-! ### Operations on words -/

/-- Shifts by an unmasked amount (R101). -/
def shlW (a k : Word) : Word := if k.toNat ≥ 32 then 0 else a <<< k.toNat
def shrW (a k : Word) : Word := if k.toNat ≥ 32 then 0 else a >>> k.toNat
def sarW (a k : Word) : Word :=
  if k.toNat ≥ 32 then (if a.msb then BitVec.allOnes 32 else 0) else a.sshiftRight k.toNat

/-- Rotate left (R105). -/
def rolW (a : Word) (k : Nat) : Word := a.rotateLeft k

/-- The high words of the exact products (R102). -/
def mulhS (a b : Word) : Word := BitVec.ofInt 32 (a.toInt * b.toInt / 2 ^ 32)
def mulhU (a b : Word) : Word := BitVec.ofNat 32 (a.toNat * b.toNat / 2 ^ 32)

/-- Quotient and remainder, truncated toward zero, with the fixed corners of R103. -/
def divS (a b : Word) : Word := if b = 0 then BitVec.allOnes 32 else BitVec.ofInt 32 (a.toInt.tdiv b.toInt)
def divU (a b : Word) : Word := if b = 0 then BitVec.allOnes 32 else BitVec.ofNat 32 (a.toNat / b.toNat)
def remS (a b : Word) : Word := if b = 0 then a else BitVec.ofInt 32 (a.toInt.tmod b.toInt)
def remU (a b : Word) : Word := if b = 0 then a else BitVec.ofNat 32 (a.toNat % b.toNat)

/-- Bits [pos + len − 1 : pos], sign- or zero-extended (R109). -/
def bfxW (sx : Bool) (a : Word) (pos len : Nat) : Word :=
  let v := bits a.toNat pos len
  if sx then BitVec.ofInt 32 (sgn v len) else BitVec.ofNat 32 v

/-- Bits [pos + len − 1 : pos] replaced (R109). -/
def bfiW (d a : Word) (pos len : Nat) : Word :=
  let m := BitVec.ofNat 32 ((2 ^ len - 1) * 2 ^ pos)
  (d &&& ~~~m) ||| ((a <<< pos) &&& m)

/-- Address arithmetic (R110). -/
def leaD (sx : Bool) (base : Dword) (i : Word) (sh : Nat) (disp : BitVec 20) : Dword :=
  base + ((if sx then i.signExtend 64 else i.zeroExtend 64) <<< sh) + disp.signExtend 64

/-! ### Shapes of operation -/

/-- d ← f a b, on words. -/
def State.alu (s : State) (r : R3) (f : Word → Word → Word) : State :=
  s.eachLane fun l t => t.setG r.d.toNat (f (s.rd l r.a []) (s.rd l r.b [r.a]))

/-- Write a pair of a thread. -/
def Thread.setPair (t : Thread) (d : Nat) (v : Dword) : Thread :=
  (t.setG d (BitVec.ofNat 32 v.toNat)).setG (d + 1) (BitVec.ofNat 32 (v.toNat / 4294967296))

def runAdd (r : R3) (s : State) : State := s.alu r fun a b => a + b
def runSub (r : R3) (s : State) : State := s.alu r fun a b => a - b
def runAnd (r : R3) (s : State) : State := s.alu r fun a b => a &&& b
def runOr (r : R3) (s : State) : State := s.alu r fun a b => a ||| b
def runXor (r : R3) (s : State) : State := s.alu r fun a b => a ^^^ b
def runShl (r : R3) (s : State) : State := s.alu r shlW
def runShr (r : R3) (s : State) : State := s.alu r shrW
def runSar (r : R3) (s : State) : State := s.alu r sarW
def runMul (r : R3) (s : State) : State := s.alu r fun a b => a * b
def runMulhI32 (r : R3) (s : State) : State := s.alu r mulhS
def runMulhN32 (r : R3) (s : State) : State := s.alu r mulhU
def runMac (r : R3) (s : State) : State :=
  s.eachLane fun l t => t.setG r.d.toNat (s.rg l r.d.toNat + s.rd l r.a [] * s.rd l r.b [r.a])
def runDivI32 (r : R3) (s : State) : State := s.alu r divS
def runDivN32 (r : R3) (s : State) : State := s.alu r divU
def runRemI32 (r : R3) (s : State) : State := s.alu r remS
def runRemN32 (r : R3) (s : State) : State := s.alu r remU
def runAddB64 (r : R3) (s : State) : State :=
  s.eachLane fun l t => t.setPair r.d.toNat (s.rd64 l r.a + s.rd64 l r.b)
def runSubB64 (r : R3) (s : State) : State :=
  s.eachLane fun l t => t.setPair r.d.toNat (s.rd64 l r.a - s.rd64 l r.b)
def runMulwI32 (r : R3) (s : State) : State :=
  s.eachLane fun l t => t.setPair r.d.toNat ((s.rd l r.a []).signExtend 64 * (s.rd l r.b [r.a]).signExtend 64)
def runMulwN32 (r : R3) (s : State) : State :=
  s.eachLane fun l t => t.setPair r.d.toNat ((s.rd l r.a []).zeroExtend 64 * (s.rd l r.b [r.a]).zeroExtend 64)

def runCmp (r : CmpOp) (s : State) : State :=
  s.eachLane fun l t =>
    let c := if r.w then condHolds 64 r.cond.toNat (s.rd64 l r.a).toNat (s.rd64 l r.b).toNat
      else condHolds 32 r.cond.toNat (s.rd l r.a []).toNat (s.rd l r.b [r.a]).toNat
    t.setP r.pd.toNat (combine r.comb.toNat c (s.rp l r.cp.toNat))

def runCmpi (r : CmpiOp) (s : State) : State :=
  s.eachLane fun l t =>
    t.setP r.pd.toNat (condHolds 32 (cond3 r.cond.toNat) (s.rd l r.a []).toNat (r.imm.signExtend 32).toNat)

def runBfx (r : BfxOp) (s : State) : State :=
  s.eachLane fun l t => t.setG r.d.toNat (bfxW r.s (s.rd l r.a []) r.pos.toNat r.len.toNat)

def runBfi (r : BfiOp) (s : State) : State :=
  s.eachLane fun l t => t.setG r.d.toNat (bfiW (s.rg l r.d.toNat) (s.rd l r.a []) r.pos.toNat r.len.toNat)

def runLea (r : LeaOp) (s : State) : State :=
  s.eachLane fun l t => t.setPair r.d.toNat (leaD r.s (s.rd64 l r.a) (s.rd l r.b []) r.sh.toNat r.disp)

def runAddi (r : AddiOp) (s : State) : State :=
  s.eachLane fun l t => t.setG r.d.toNat (s.rd l r.a [] + r.imm.signExtend 32)

/-- SHI's shift by KIND (R105). -/
def shiW (kind : Nat) (a : Word) (amt : Nat) : Word :=
  match kind with
  | 0 => shlW a (BitVec.ofNat 32 amt)
  | 1 => shrW a (BitVec.ofNat 32 amt)
  | 2 => sarW a (BitVec.ofNat 32 amt)
  | _ => rolW a amt

def runShi (r : ShiOp) (s : State) : State :=
  s.eachLane fun l t => t.setG r.d.toNat (shiW r.kind.toNat (s.rd l r.a []) r.amt.toNat)

/-- The 32-bit value of MOVI's parts (R106). -/
def moviW (hi : BitVec 23) (imm : BitVec 9) : Word := (hi.zeroExtend 32 <<< 9) + imm.signExtend 32

def runMovi (r : MoviOp) (s : State) : State := s.eachLane fun _ t => t.setG r.d.toNat (moviW r.hi r.imm)

/-! ### Meanings -/

def execAdd (r : R3) (s : State) : Out1 := .next (s.issue (.add r) (runAdd r))
def execSub (r : R3) (s : State) : Out1 := .next (s.issue (.sub r) (runSub r))
def execAnd (r : R3) (s : State) : Out1 := .next (s.issue (.and r) (runAnd r))
def execOr (r : R3) (s : State) : Out1 := .next (s.issue (.or r) (runOr r))
def execXor (r : R3) (s : State) : Out1 := .next (s.issue (.xor r) (runXor r))
def execShl (r : R3) (s : State) : Out1 := .next (s.issue (.shl r) (runShl r))
def execShr (r : R3) (s : State) : Out1 := .next (s.issue (.shr r) (runShr r))
def execSar (r : R3) (s : State) : Out1 := .next (s.issue (.sar r) (runSar r))
def execMul (r : R3) (s : State) : Out1 := .next (s.issue (.mul r) (runMul r))
def execMulhI32 (r : R3) (s : State) : Out1 := .next (s.issue (.mulhI32 r) (runMulhI32 r))
def execMulhN32 (r : R3) (s : State) : Out1 := .next (s.issue (.mulhN32 r) (runMulhN32 r))
def execMac (r : R3) (s : State) : Out1 := .next (s.issue (.mac r) (runMac r))
def execDivI32 (r : R3) (s : State) : Out1 := .next (s.issue (.divI32 r) (runDivI32 r))
def execDivN32 (r : R3) (s : State) : Out1 := .next (s.issue (.divN32 r) (runDivN32 r))
def execRemI32 (r : R3) (s : State) : Out1 := .next (s.issue (.remI32 r) (runRemI32 r))
def execRemN32 (r : R3) (s : State) : Out1 := .next (s.issue (.remN32 r) (runRemN32 r))
def execAddB64 (r : R3) (s : State) : Out1 := .next (s.issue (.addB64 r) (runAddB64 r))
def execSubB64 (r : R3) (s : State) : Out1 := .next (s.issue (.subB64 r) (runSubB64 r))
def execMulwI32 (r : R3) (s : State) : Out1 := .next (s.issue (.mulwI32 r) (runMulwI32 r))
def execMulwN32 (r : R3) (s : State) : Out1 := .next (s.issue (.mulwN32 r) (runMulwN32 r))
def execCmp (r : CmpOp) (s : State) : Out1 := .next (s.issue (.cmp r) (runCmp r))
def execBfx (r : BfxOp) (s : State) : Out1 := .next (s.issue (.bfx r) (runBfx r))
def execBfi (r : BfiOp) (s : State) : Out1 := .next (s.issue (.bfi r) (runBfi r))
def execLea (r : LeaOp) (s : State) : Out1 := .next (s.issue (.lea r) (runLea r))
def execAddi (r : AddiOp) (s : State) : Out1 := .next (s.issue (.addi r) (runAddi r))
def execShi (r : ShiOp) (s : State) : Out1 := .next (s.issue (.shi r) (runShi r))
def execMovi (r : MoviOp) (s : State) : Out1 := .next (s.issue (.movi r) (runMovi r))
def execCmpi (r : CmpiOp) (s : State) : Out1 := .next (s.issue (.cmpi r) (runCmpi r))

end Sys2Proof.Machine
end

