-- ==== Sys2Proof/Machine/Limbs.lean ====
section
/-! DEFINITION. Bound limbs, majors 0x08 and 0x09 (spec/04_integer_limbs.md R111 to R123). LIMBW's GROUP and LIMB are
functions of the lane; a thread holds its width and the number of its bound set. -/

namespace Sys2Proof.Machine
open Sys2Proof

/-- The width a WCODE names (R116). -/
def limbWidth (wcode : BitVec 3) : Option Nat :=
  if wcode.toNat ≤ 4 then some (4 * 2 ^ wcode.toNat) else none

/-- The lanes of the group that holds a lane. -/
def limbLanes (w l : Nat) : List Nat := rangeFrom (l / w * w) w

/-- BIND's checks (R118): a supported width, no thread bound already, whole groups. DESIGN CHOICE (log 68): a lane that waits or
faults at another word of BIND's chain group is not active for BIND. -/
def State.bindOk (s : State) (w : Nat) : Bool :=
  s.lanes.all fun l => s.boundSet l == 0 && (limbLanes w l).all s.lanes.contains

def runBind (wcode : BitVec 3) (s : State) : State :=
  match limbWidth wcode with
  | some w =>
    if s.bindOk w then
      (s.eachLane fun _ t => { t with limbL := w, bset := s.fresh + 1 }).bump
    else s.allFault (flt .limbShape)
  | none => s.allFault (flt .limbShape)

/-- UNBIND ends the sets of the active threads: a set issues as one, so all its threads are among them (R113, R118). -/
def runUnbind (s : State) : State := s.eachLane fun _ t => { t with limbL := 0, bset := 0 }

/-- The width a lane is bound at, 0 for none. -/
def State.limbL (s : State) (l : Nat) : Nat := (s.laneThread l).limbL

/-- V of a group: the register or queue words of its lanes, limb 0 least significant (R111). -/
def State.limbV (s : State) (f : BitVec 7) (prev : List (BitVec 7)) : List Nat → Nat
  | [] => 0
  | l :: r => (s.rd l f prev).toNat + 2 ^ 32 * State.limbV s f prev r

/-- V of a register read with block semantics (R121). -/
def State.limbG (s : State) (n : Nat) : List Nat → Nat
  | [] => 0
  | l :: r => (s.rg l n).toNat + 2 ^ 32 * State.limbG s n r

/-- An operation on each group: unbound threads raise LIMBSHAPE, the others execute (R117). The body gets the group's
width in bits and its lanes, and answers how thread of limb i changes. -/
def State.limbOp (s : State) (f : Nat → List Nat → Nat → Thread → Thread) : State :=
  let s := s.forParts fun s l => if s.limbL l = 0 then .error (.flt (flt .limbShape)) else .ok s
  s.eachLane fun l t => f (32 * s.limbL l) (limbLanes (s.limbL l) l) (l % s.limbL l) t

/-- Word i of an integer. -/
def limbWord (x i : Nat) : Word := BitVec.ofNat 32 (x / 2 ^ (32 * i))

/-- The carry-in of a group, read in its limb-0 thread (R119). -/
def State.limbCin (s : State) (p : BitVec 3) (ls : List Nat) : Nat := if s.rp (ls.headD 0) p.toNat then 1 else 0

/-- WRITE of a result with its carry and overflow predicates (R119). -/
def limbPut (d : BitVec 7) (pc pv : BitVec 3) (r : Nat × Bool × Bool) (i : Nat) (t : Thread) : Thread :=
  ((t.setG d.toNat (limbWord r.1 i)).setP pc.toNat r.2.1).setP pv.toNat r.2.2

def runLadd (r : LaddOp) (s : State) : State :=
  s.limbOp fun n ls i t => limbPut r.d r.pc r.pv (limbAdd n (s.limbV r.a [] ls) (s.limbV r.b [r.a] ls) 0) i t
def runLadc (r : LadcOp) (s : State) : State :=
  s.limbOp fun n ls i t =>
    limbPut r.d r.pc r.pv (limbAdd n (s.limbV r.a [] ls) (s.limbV r.b [r.a] ls) (s.limbCin r.pin ls)) i t
def runLsub (r : LaddOp) (s : State) : State :=
  s.limbOp fun n ls i t => limbPut r.d r.pc r.pv (limbSub n (s.limbV r.a [] ls) (s.limbV r.b [r.a] ls) 0) i t
def runLsbc (r : LadcOp) (s : State) : State :=
  s.limbOp fun n ls i t =>
    limbPut r.d r.pc r.pv (limbSub n (s.limbV r.a [] ls) (s.limbV r.b [r.a] ls) (s.limbCin r.pin ls)) i t
def runLneg (r : LnegOp) (s : State) : State :=
  s.limbOp fun n ls i t => limbPut r.d r.pc r.pv (limbSub n 0 (s.limbV r.a [] ls) 0) i t

def runLcmp (r : LcmpOp) (s : State) : State :=
  s.limbOp fun n ls _ t =>
    let a := s.limbV r.a [] ls
    let b := s.limbV r.b [r.a] ls
    ((t.setP r.pe.toNat (a == b)).setP r.pltu.toNat (decide (a < b))).setP r.plt.toNat (decide (sgn a n < sgn b n))

def runLmulw (r : LmulwOp) (s : State) : State :=
  s.limbOp fun n ls i t =>
    let w := (s.rd (ls.headD 0) r.b [r.a]).toNat
    let x := s.limbG r.d.toNat ls + s.limbV r.a [] ls * w
    (t.setG r.d.toNat (limbWord (x % 2 ^ n) i)).setG r.h.toNat (BitVec.ofNat 32 (x / 2 ^ n))

/-- The shift amount of a group, read in its limb-0 thread (R122). -/
def State.limbAmt (s : State) (r : R3) (ls : List Nat) : Nat := (s.rd (ls.headD 0) r.b [r.a]).toNat

def limbShl (n v k : Nat) : Nat := if k ≥ n then 0 else v * 2 ^ k % 2 ^ n
def limbShr (n v k : Nat) : Nat := if k ≥ n then 0 else v / 2 ^ k
def limbSar (n v k : Nat) : Nat :=
  if k ≥ n then (if sgn v n < 0 then 2 ^ n - 1 else 0) else wrap (sgn v n / 2 ^ k) n

def runLshl (r : R3) (s : State) : State :=
  s.limbOp fun n ls i t => t.setG r.d.toNat (limbWord (limbShl n (s.limbV r.a [] ls) (s.limbAmt r ls)) i)
def runLshr (r : R3) (s : State) : State :=
  s.limbOp fun n ls i t => t.setG r.d.toNat (limbWord (limbShr n (s.limbV r.a [] ls) (s.limbAmt r ls)) i)
def runLshrI (r : R3) (s : State) : State :=
  s.limbOp fun n ls i t => t.setG r.d.toNat (limbWord (limbSar n (s.limbV r.a [] ls) (s.limbAmt r ls)) i)

def execBind (w : BitVec 3) (s : State) : Out1 := .next (s.issue (.bind w) (runBind w))
def execUnbind (s : State) : Out1 := .next (s.issue .unbind runUnbind)
def execLadd (r : LaddOp) (s : State) : Out1 := .next (s.issue (.ladd r) (runLadd r))
def execLadc (r : LadcOp) (s : State) : Out1 := .next (s.issue (.ladc r) (runLadc r))
def execLsub (r : LaddOp) (s : State) : Out1 := .next (s.issue (.lsub r) (runLsub r))
def execLsbc (r : LadcOp) (s : State) : Out1 := .next (s.issue (.lsbc r) (runLsbc r))
def execLneg (r : LnegOp) (s : State) : Out1 := .next (s.issue (.lneg r) (runLneg r))
def execLcmp (r : LcmpOp) (s : State) : Out1 := .next (s.issue (.lcmp r) (runLcmp r))
def execLmulw (r : LmulwOp) (s : State) : Out1 := .next (s.issue (.lmulw r) (runLmulw r))
def execLshl (r : R3) (s : State) : Out1 := .next (s.issue (.lshl r) (runLshl r))
def execLshr (r : R3) (s : State) : Out1 := .next (s.issue (.lshr r) (runLshr r))
def execLshrI (r : R3) (s : State) : Out1 := .next (s.issue (.lshrI r) (runLshrI r))

end Sys2Proof.Machine
end

