-- ==== Sys2Proof/Machine/FloatOps.lean ====
section
/-! DEFINITION. Floating-point instructions, majors 0x0A to 0x0F (spec/05_float.md R136 to R151). Each result's flags are
ORed into the team's FSTAT when the result is written (R134). -/

namespace Sys2Proof.Machine
open Sys2Proof

/-- OR flags into the issuing team's FSTAT, and note them for a write of FSTAT in the same group (R133, R134). -/
def State.raise (s : State) (f : BitVec 5) : State :=
  match s.iss.who with
  | .gang k _ _ =>
    { s with iss := { s.iss with raised := s.iss.raised ||| f } }.modTeam k fun t => { t with fstat := t.fstat ||| f }
  | _ => s

/-- Write a lane's result word and raise the flags of every executing lane. -/
def State.fpu (s : State) (d : BitVec 7) (f : Nat → Nat × BitVec 5) : State :=
  (s.eachLane fun l t => t.setG d.toNat (BitVec.ofNat 32 (f l).1)).raise
    (s.lanes.foldl (fun m l => m ||| (f l).2) 0)

/-- Source fields a and b of a lane. -/
def State.opA (s : State) (l : Nat) (r : R3) : Nat := (s.rd l r.a []).toNat
def State.opB (s : State) (l : Nat) (r : R3) : Nat := (s.rd l r.b [r.a]).toNat

/-- FMA's third operand (R139). -/
def State.opC (s : State) (l : Nat) (r : R3) : Nat :=
  match s.iss.pfx with
  | some p => (s.rd l p.c4 [r.a, r.b]).toNat
  | none => (s.rg l r.d.toNat).toNat

/-- An FP32 operation of two sources. -/
def State.f32op (s : State) (r : R3) (f : FVal → FVal → FRes) : State :=
  s.fpu r.d fun l => F32.deliver s.rmode (f (F32.decode (s.opA l r)) (F32.decode (s.opB l r)))

/-- A unary FP32 operation. -/
def State.f32un (s : State) (r : R2) (f : FVal → FRes) : State :=
  s.fpu r.d fun l => F32.deliver s.rmode (f (F32.decode (s.rd l r.a []).toNat))

def runFadd (r : R3) (s : State) : State := s.f32op r (addVals s.rmode)
def runFsub (r : R3) (s : State) : State := s.f32op r (subVals s.rmode)
def runFmul (r : R3) (s : State) : State := s.f32op r mulVals
def runFdiv (r : R3) (s : State) : State := s.f32op r divVals
def runFma (r : R3) (s : State) : State :=
  s.fpu r.d fun l => F32.deliver s.rmode (fmaVals s.rmode (F32.decode (s.opA l r)) (F32.decode (s.opB l r))
    (F32.decode (s.opC l r)))
def runFmin (r : R3) (s : State) : State := s.fpu r.d fun l => F32.minMax false false (s.opA l r) (s.opB l r)
def runFmax (r : R3) (s : State) : State := s.fpu r.d fun l => F32.minMax true false (s.opA l r) (s.opB l r)
def runFminp (r : R3) (s : State) : State := s.fpu r.d fun l => F32.minMax false true (s.opA l r) (s.opB l r)
def runFmaxp (r : R3) (s : State) : State := s.fpu r.d fun l => F32.minMax true true (s.opA l r) (s.opB l r)
def runFsqrt (r : R2) (s : State) : State := s.f32un r sqrtVal
def runFrcp (r : R2) (s : State) : State := s.f32un r rcpVal
def runFrsq (r : R2) (s : State) : State := s.f32un r rsqVal
def runFexp2 (r : R2) (s : State) : State := s.f32un r exp2Val
def runFlog2 (r : R2) (s : State) : State := s.f32un r log2Val

/-- The one bit of FCLASS (R142). -/
def classBit (x : Nat) : Nat :=
  match F32.decode x with
  | .nan g => if g then 8 else 9
  | .inf s => if s then 0 else 7
  | .fin s m _ =>
    if m = 0 then (if s then 3 else 4)
    else if m < 2 ^ 23 then (if s then 2 else 5) else (if s then 1 else 6)

def runFclass (r : R2) (s : State) : State :=
  s.eachLane fun l t => t.setG r.d.toNat (BitVec.ofNat 32 (2 ^ classBit (s.rd l r.a []).toNat))

/-- The conditions of FCMP, by COND code (R143). -/
def fcond (cond : Nat) (a b : FVal) : Bool :=
  let un := a.isNan || b.isNan
  match cond with
  | 0 => a.eqv b
  | 1 => un || !a.eqv b
  | 2 => !un && a.lt b
  | 3 => !un && !b.lt a
  | 4 => !un && b.lt a
  | 5 => !un && !a.lt b
  | 6 => un
  | _ => !un

def runFcmp (r : FcmpOp) (s : State) : State :=
  let a (l : Nat) := F32.decode (s.rd l r.a []).toNat
  let b (l : Nat) := F32.decode (s.rd l r.b [r.a]).toNat
  (s.eachLane fun l t => t.setP r.pd.toNat (combine r.comb.toNat (fcond r.cond.toNat (a l) (b l)) (s.rp l r.cp.toNat))).raise
    (s.lanes.foldl (fun m l => m ||| flagIf ((a l).isSig || (b l).isSig || (r.sig && ((a l).isNan || (b l).isNan))) fNV) 0)

/-- FSGN's sign by MODE (R144). -/
def fsgnW (mode : Nat) (a b : Word) : Word :=
  let s := match mode with
    | 0 => b.msb
    | 1 => !b.msb
    | 2 => a.msb != b.msb
    | _ => false
  (if s then 0x80000000#32 else 0) ||| (a &&& 0x7FFFFFFF#32)

def runFsgn (r : FsgnOp) (s : State) : State :=
  s.eachLane fun l t => t.setG r.d.toNat (fsgnW r.mode.toNat (s.rd l r.a []) (s.rd l r.b [r.a]))

/-! ### Packed pairs (R145, R146) -/

/-- Both elements of a pair, each by its own operation, with the OR of their flags. -/
def packed (f : Nat → Nat → Nat → Nat × BitVec 5) (a b c : Nat) : Nat × BitVec 5 :=
  let x := f (a % 65536) (b % 65536) (c % 65536)
  let y := f (a / 65536) (b / 65536) (c / 65536)
  (x.1 + 65536 * y.1, x.2 ||| y.2)

def State.pairOp (s : State) (r : R3) (f : Nat → Nat → Nat → Nat × BitVec 5) (c : Nat → Nat) : State :=
  s.fpu r.d fun l => packed f (s.opA l r) (s.opB l r) (c l)

/-- A packed sum, difference or product. -/
def State.pairArith (s : State) (r : R3) (f : Fmt) (op : FVal → FVal → FRes) : State :=
  s.pairOp r (fun a b _ => f.deliver s.rmode (op (f.operand a) (f.operand b))) fun _ => 0

def State.pairFma (s : State) (r : R3) (f : Fmt) : State :=
  s.pairOp r (fun a b c => f.deliver s.rmode (fmaVals s.rmode (f.operand a) (f.operand b) (f.operand c)))
    fun l => s.opC l r

def State.pairMinMax (s : State) (r : R3) (f : Fmt) (mx : Bool) : State :=
  s.pairOp r (fun a b _ => f.minMax mx false a b) fun _ => 0

/-- FDOT: one rounding of the exact G(d) + a0 × b0 + a1 × b1 (R146). -/
def State.pairDot (s : State) (r : R3) (f : Fmt) : State :=
  s.fpu r.d fun l =>
    let a := s.opA l r
    let b := s.opB l r
    F32.deliver s.rmode (dotVals s.rmode (F32.decode (s.rg l r.d.toNat).toNat) (f.operand (a % 65536))
      (f.operand (b % 65536)) (f.operand (a / 65536)) (f.operand (b / 65536)))

def runFaddBf16x2 (r : R3) (s : State) : State := s.pairArith r BF16 (addVals s.rmode)
def runFsubBf16x2 (r : R3) (s : State) : State := s.pairArith r BF16 (subVals s.rmode)
def runFmulBf16x2 (r : R3) (s : State) : State := s.pairArith r BF16 mulVals
def runFmaBf16x2 (r : R3) (s : State) : State := s.pairFma r BF16
def runFminBf16x2 (r : R3) (s : State) : State := s.pairMinMax r BF16 false
def runFmaxBf16x2 (r : R3) (s : State) : State := s.pairMinMax r BF16 true
def runFdotBf16x2 (r : R3) (s : State) : State := s.pairDot r BF16
def runFaddF16x2 (r : R3) (s : State) : State := s.pairArith r F16 (addVals s.rmode)
def runFsubF16x2 (r : R3) (s : State) : State := s.pairArith r F16 (subVals s.rmode)
def runFmulF16x2 (r : R3) (s : State) : State := s.pairArith r F16 mulVals
def runFmaF16x2 (r : R3) (s : State) : State := s.pairFma r F16
def runFminF16x2 (r : R3) (s : State) : State := s.pairMinMax r F16 false
def runFmaxF16x2 (r : R3) (s : State) : State := s.pairMinMax r F16 true
def runFdotF16x2 (r : R3) (s : State) : State := s.pairDot r F16

/-! ### Conversions (R147 to R151) -/

/-- The 16-bit format of a code: 1 f16, 2 bf16. -/
def fmt16 (code : Nat) : Fmt := if code = 1 then F16 else BF16

/-- The bits and signedness of an integer format code: 3 i32, 4 n32, 6 i16, 7 n16, 8 i8, 9 n8 (R147). -/
def intFmt (code : Nat) : Nat × Bool :=
  match code with
  | 3 => (32, true)
  | 4 => (32, false)
  | 6 => (16, true)
  | 7 => (16, false)
  | 8 => (8, true)
  | _ => (8, false)

/-- CVT on words a, b and the old destination d (R148 to R150). -/
def cvtW (r : CvtOp) (mode a b d : Nat) : Nat × BitVec 5 :=
  let m := r.mw.toNat + 2
  if r.src.toNat = 0 then
    if r.dst.toNat = 1 ∨ r.dst.toNat = 2 then
      let x := narrow (fmt16 r.dst.toNat) mode a
      if r.hi then (d % 65536 + 65536 * x.1, x.2) else x
    else if r.dst.toNat = 5 then toBfp mode m (b % 256) a
    else
      let f := intFmt r.dst.toNat
      let lo : Int := if f.2 then -(2 ^ (f.1 - 1) : Int) else 0
      let hi : Int := if f.2 then 2 ^ (f.1 - 1) - 1 else 2 ^ f.1 - 1
      let x := toIntSat mode (F32.decode a) lo hi
      (wrap x.1 32, x.2)
  else if r.src.toNat = 1 ∨ r.src.toNat = 2 then
    widen (fmt16 r.src.toNat) (if r.hi then a / 65536 else a % 65536)
  else if r.src.toNat = 5 then (fromBfp m (b % 256) (a % 2 ^ m), 0)
  else
    let f := intFmt r.src.toNat
    fromInt mode (if f.2 then sgn a f.1 else (a % 2 ^ f.1 : Nat))

def runCvt (r : CvtOp) (s : State) : State :=
  s.fpu r.d fun l => cvtW r s.rmode (s.rd l r.a []).toNat (s.rd l r.b [r.a]).toNat (s.rg l r.d.toNat).toNat

def runCvtp (r : CvtpOp) (s : State) : State :=
  s.fpu r.d fun l =>
    let x := narrow (fmt16 r.dst.toNat) s.rmode (s.rd l r.a []).toNat
    let y := narrow (fmt16 r.dst.toNat) s.rmode (s.rd l r.b [r.a]).toNat
    (x.1 + 65536 * y.1, x.2 ||| y.2)

/-! ### Meanings -/

def execFadd (r : R3) (s : State) : Out1 := .next (s.issue (.fadd r) (runFadd r))
def execFsub (r : R3) (s : State) : Out1 := .next (s.issue (.fsub r) (runFsub r))
def execFmul (r : R3) (s : State) : Out1 := .next (s.issue (.fmul r) (runFmul r))
def execFma (r : R3) (s : State) : Out1 := .next (s.issue (.fma r) (runFma r))
def execFmin (r : R3) (s : State) : Out1 := .next (s.issue (.fmin r) (runFmin r))
def execFmax (r : R3) (s : State) : Out1 := .next (s.issue (.fmax r) (runFmax r))
def execFminp (r : R3) (s : State) : Out1 := .next (s.issue (.fminp r) (runFminp r))
def execFmaxp (r : R3) (s : State) : Out1 := .next (s.issue (.fmaxp r) (runFmaxp r))
def execFdiv (r : R3) (s : State) : Out1 := .next (s.issue (.fdiv r) (runFdiv r))
def execFsqrt (r : R2) (s : State) : Out1 := .next (s.issue (.fsqrt r) (runFsqrt r))
def execFrcp (r : R2) (s : State) : Out1 := .next (s.issue (.frcp r) (runFrcp r))
def execFrsq (r : R2) (s : State) : Out1 := .next (s.issue (.frsq r) (runFrsq r))
def execFexp2 (r : R2) (s : State) : Out1 := .next (s.issue (.fexp2 r) (runFexp2 r))
def execFlog2 (r : R2) (s : State) : Out1 := .next (s.issue (.flog2 r) (runFlog2 r))
def execFclass (r : R2) (s : State) : Out1 := .next (s.issue (.fclass r) (runFclass r))
def execFcmp (r : FcmpOp) (s : State) : Out1 := .next (s.issue (.fcmp r) (runFcmp r))
def execFsgn (r : FsgnOp) (s : State) : Out1 := .next (s.issue (.fsgn r) (runFsgn r))
def execFaddBf16x2 (r : R3) (s : State) : Out1 := .next (s.issue (.faddBf16x2 r) (runFaddBf16x2 r))
def execFsubBf16x2 (r : R3) (s : State) : Out1 := .next (s.issue (.fsubBf16x2 r) (runFsubBf16x2 r))
def execFmulBf16x2 (r : R3) (s : State) : Out1 := .next (s.issue (.fmulBf16x2 r) (runFmulBf16x2 r))
def execFmaBf16x2 (r : R3) (s : State) : Out1 := .next (s.issue (.fmaBf16x2 r) (runFmaBf16x2 r))
def execFminBf16x2 (r : R3) (s : State) : Out1 := .next (s.issue (.fminBf16x2 r) (runFminBf16x2 r))
def execFmaxBf16x2 (r : R3) (s : State) : Out1 := .next (s.issue (.fmaxBf16x2 r) (runFmaxBf16x2 r))
def execFdotBf16x2 (r : R3) (s : State) : Out1 := .next (s.issue (.fdotBf16x2 r) (runFdotBf16x2 r))
def execFaddF16x2 (r : R3) (s : State) : Out1 := .next (s.issue (.faddF16x2 r) (runFaddF16x2 r))
def execFsubF16x2 (r : R3) (s : State) : Out1 := .next (s.issue (.fsubF16x2 r) (runFsubF16x2 r))
def execFmulF16x2 (r : R3) (s : State) : Out1 := .next (s.issue (.fmulF16x2 r) (runFmulF16x2 r))
def execFmaF16x2 (r : R3) (s : State) : Out1 := .next (s.issue (.fmaF16x2 r) (runFmaF16x2 r))
def execFminF16x2 (r : R3) (s : State) : Out1 := .next (s.issue (.fminF16x2 r) (runFminF16x2 r))
def execFmaxF16x2 (r : R3) (s : State) : Out1 := .next (s.issue (.fmaxF16x2 r) (runFmaxF16x2 r))
def execFdotF16x2 (r : R3) (s : State) : Out1 := .next (s.issue (.fdotF16x2 r) (runFdotF16x2 r))
def execCvt (r : CvtOp) (s : State) : Out1 := .next (s.issue (.cvt r) (runCvt r))
def execCvtp (r : CvtpOp) (s : State) : Out1 := .next (s.issue (.cvtp r) (runCvtp r))

end Sys2Proof.Machine
end

