-- ==== Sys2Proof/Machine/Lanes.lean ====
section
/-! DEFINITION. Cross-lane instructions, the Gusset table and random numbers, majors 0x10 and 0x11 (spec/06_lanes.md R152 to
R167). The participants of an issue are its lanes. -/

namespace Sys2Proof.Machine
open Sys2Proof

/-! ### Shuffles, votes, matches (R154 to R158) -/

/-- The lane SHFL reads, an exact integer (R154). -/
def shflLane (mode l k : Nat) : Int :=
  match mode with
  | 0 => k
  | 1 => (l : Int) - k
  | 2 => l + k
  | _ => (l ^^^ k : Nat)

def runShfl (r : ShflOp) (s : State) : State :=
  let ls := s.lanes
  s.eachLane fun l t =>
    let k := if r.useimm then r.imm.toNat else (s.rd l r.b [r.a]).toNat
    let u := shflLane r.mode.toNat l k
    if decide (0 ≤ u) && decide (u ≤ 63) && ls.contains u.toNat then
      (t.setG r.d.toNat (s.rd u.toNat r.a [])).setP r.pf.toNat true
    else (t.setG r.d.toNat (if r.fbr then s.rg l r.fb.toNat else 0)).setP r.pf.toNat false

def runBcast (r : R2) (s : State) : State :=
  let v := s.rd s.t0 r.a []
  s.eachLane fun _ t => t.setG r.d.toNat v

/-- The participants that hold a predicate (R156). -/
def State.holders (s : State) (ps : BitVec 3) (psn : Bool) : List Nat := s.lanes.filter fun l => s.rp l ps.toNat != psn

def runVote (r : VoteOp) (s : State) : State :=
  let n := s.lanes.length
  let hs := s.holders r.ps r.psn
  let k := hs.length
  s.eachLane fun _ t =>
    let t := match r.mode.toNat with
      | 0 => t.setP r.pd.toNat (k == n)
      | 1 => t.setP r.pd.toNat (decide (0 < k))
      | 2 => t.setP r.pd.toNat (k == 0)
      | 3 => t.setP r.pd.toNat (k == 0 || k == n)
      | _ => t.setPair r.d.toNat (laneMask hs)
    if r.cw then t.setG r.cn.toNat (BitVec.ofNat 32 k) else t

def runMatch (r : MatchOp) (s : State) : State :=
  let v (l : Nat) : Nat := if r.w then (s.rd64 l r.a).toNat else (s.rd l r.a []).toNat
  let ls := s.lanes
  s.eachLane fun l t =>
    let same := ls.filter fun u => v u == v l
    (t.setPair r.d.toNat (laneMask same)).setP r.pd.toNat (same.length == ls.length)

def runCompact (r : CompactOp) (s : State) : State :=
  let ls := s.lanes
  let ks := s.holders r.ps r.psn
  s.eachLane fun l t =>
    match ks[ls.idxOf l]? with
    | some u => (t.setG r.d.toNat (s.rd u r.a [])).setP r.pd.toNat true
    | none => (t.setG r.d.toNat 0).setP r.pd.toNat false

/-! ### Trees (R159, R160) -/

/-- One OP on two words, with its flags (R160). -/
def redOp (op mode x y : Nat) : Nat × BitVec 5 :=
  match op with
  | 0 => ((x + y) % 2 ^ 32, 0)
  | 1 => (if sgn y 32 < sgn x 32 then y else x, 0)
  | 2 => (if sgn x 32 < sgn y 32 then y else x, 0)
  | 3 => (min x y, 0)
  | 4 => (max x y, 0)
  | 5 => (x &&& y, 0)
  | 6 => (x ||| y, 0)
  | 7 => (x ^^^ y, 0)
  | 8 => F32.deliver mode (addVals mode (F32.decode x) (F32.decode y))
  | 9 => F32.minMax false false x y
  | _ => F32.minMax true false x y

/-- A node's value, absent or present, and the flags of the OPs below it. -/
abbrev NodeVal := Option Nat × BitVec 5

/-- COMB (R159). -/
def comb (op mode : Nat) (x y : NodeVal) : NodeVal :=
  match x.1, y.1 with
  | some a, some b => let r := redOp op mode a b; (some r.1, x.2 ||| y.2 ||| r.2)
  | some a, none => (some a, x.2 ||| y.2)
  | none, b => (b, x.2 ||| y.2)

/-- N(h, j) (R159). -/
def treeNode (op mode : Nat) (leaf : Nat → Option Nat) : Nat → Nat → NodeVal
  | 0, j => (leaf j, 0)
  | h + 1, j => comb op mode (treeNode op mode leaf h (2 * j)) (treeNode op mode leaf h (2 * j + 1))

/-- The fold of a prefix's aligned blocks, largest first (R159). -/
def prefixFold (op mode : Nat) (leaf : Nat → Option Nat) (len : Nat) : Nat → Nat → NodeVal → NodeVal
  | 0, _, acc => acc
  | h + 1, pos, acc =>
    if len / 2 ^ h % 2 = 1 then
      prefixFold op mode leaf len h (pos + 2 ^ h) (comb op mode acc (treeNode op mode leaf h (pos / 2 ^ h)))
    else prefixFold op mode leaf len h pos acc

/-- The leaf of lane b + o. -/
def State.leaf (s : State) (a : BitVec 7) (b o : Nat) : Option Nat :=
  if s.lanes.contains (b + o) then some (s.rd (b + o) a []).toNat else none

def runGreduce (r : GredOp) (s : State) : State :=
  let h := r.seg.toNat + 2
  s.fpu r.d fun l =>
    let v := treeNode r.op.toNat s.rmode (s.leaf r.a (l / 2 ^ h * 2 ^ h)) h 0
    (v.1.getD 0, v.2)

/-- A scan: the flags are those of the nodes and folds that some participant's own prefix uses (R159). DEDUCED (log 69). -/
def runGscan (r : GscanOp) (s : State) : State :=
  let h := r.seg.toNat + 2
  s.fpu r.d fun l =>
    let o := l % 2 ^ h
    let v := prefixFold r.op.toNat s.rmode (s.leaf r.a (l - o)) (if r.incl then o + 1 else o) (h + 1) 0 (none, 0)
    (v.1.getD 0, v.2)

/-! ### The Gusset table (R161 to R164) -/

def runRegput (r : RegputOp) (s : State) : State :=
  match s.iss.who with
  | .gang k _ _ =>
    s.forParts fun s l =>
      let c := s.core s.issCore
      if c.gusset.length < Config.gussetEntries then
        let e : GussetEntry := ⟨k, bits (s.rd l r.a []).toNat 0 4,
          (List.range (r.wn.toNat + 1)).map fun i => s.rg l (r.b.toNat + i), c.gseq⟩
        .ok ((s.modCore s.issCore fun c => { c with gusset := c.gusset ++ [e], gseq := c.gseq + 1 }).putP l r.pd.toNat true)
      else .ok (s.putP l r.pd.toNat false)
  | _ => s

def runRegtake (r : RegtakeOp) (s : State) : State :=
  match s.iss.who with
  | .gang k b ls =>
    let n := r.wn.toNat + 1
    let cls (l : Nat) : Nat := bits (s.rd l r.a []).toNat 0 4
    let reqs : List GussetReq := (sortAsc (dedup (ls.map cls))).map fun c =>
      ⟨k, c, (ls.filter fun l => cls l == c).map (64 * b + ·), r.d.toNat, n⟩
    (s.eachLane fun _ t => ((List.range (n + 1)).map (r.d.toNat + ·)).foldl Thread.clearFull t).modCore s.issCore fun c =>
      { c with greqs := c.greqs ++ reqs }
  | _ => s

/-- The entries of a team and class, oldest first: they stand in deposit order. -/
def Core.entriesOf (c : Core) (k cls : Nat) : List GussetEntry := c.gusset.filter fun e => e.team == k && e.cls == cls

/-- Deliver to one thread of a request: an entry, or a status of 0 (R163, R164). -/
def Thread.serve (t : Thread) (q : GussetReq) (e : Option GussetEntry) : Thread :=
  match e with
  | some e => t.setGs q.reg (BitVec.ofNat 32 (e.ws.length + 16 * q.cls) ::
      (List.range q.n).map fun i => e.ws.getD i 0)
  | none => t.setGs q.reg ((List.range (q.n + 1)).map fun _ => 0)

/-- Serve a request with the entries there are, one a thread, and take them from the table; the entry of a thread that
has exited is lost (R163). DESIGN CHOICE (log 70). -/
def State.serve (s : State) (c : Nat) (q : GussetReq) : State :=
  let es := ((s.core c).entriesOf q.team q.cls).take q.ts.length
  let s := (indexed q.ts).foldl (fun s t =>
    if (s.thread q.team t.2).isLive then s.modThread q.team t.2 fun x => x.serve q es[t.1]? else s) s
  s.modCore c fun k => { k with gusset := k.gusset.filter fun e => !(es.any fun x => x.seq == e.seq && x.team == e.team),
                                greqs := k.greqs.erase q }

def runRegflush (r : RA) (s : State) : State :=
  match s.iss.who with
  | .gang k _ ls =>
    let cs := sortAsc (dedup (ls.map fun l => bits (s.rd l r.a []).toNat 0 4))
    cs.foldl (fun s c =>
      ((s.core s.issCore).greqs.filter fun q => q.team == k && q.cls == c).foldl (fun s q => s.serve s.issCore q) s) s
  | _ => s

/-- The head request of a class is served once the class holds enough entries (R163). -/
def evRegtakeServe (k cls : Nat) (s : State) : Option State :=
  let c := s.core (coreOfTeam k)
  match c.greqs.find? fun q => q.team == k && q.cls == cls with
  | some q => if q.ts.length ≤ (c.entriesOf k cls).length then some (s.serve (coreOfTeam k) q) else none
  | none => none

/-! ### Random numbers (R165 to R167) -/

/-- The generator (R166). -/
def drawWord (k s c : Word) : Word :=
  let s0 := k ^^^ (s * 0x9E3779B9#32)
  let s1 := s0 + (c + 1) * 0x6A09E667#32
  let s2 := s1 ^^^ (s1 >>> 16)
  let s3 := s2 * 0x045D9F3B#32
  s3 ^^^ (s3 >>> 16)

/-- RANDF's value: 24 bits scaled by 2⁻²⁴, exact (R166). -/
def drawFloat (v : Word) : Word := BitVec.ofNat 32 (F32.round 0 false (v.toNat / 256) (-24)).1

/-- LAUNCHIX of a thread (R165). -/
def Team.launchIx (t : Team) (i : Tix) : Word := BitVec.ofNat 32 (t.teamix * (64 * t.bands) + i)

/-- A draw under the team's RNGKEY, which a write changes for every thread at once (R165). DESIGN CHOICE (log 67). -/
def State.draw (s : State) (r : RD) (f : Word → Word) : State :=
  match s.iss.who with
  | .gang k b _ =>
    let tm := s.viewTeam k
    s.eachLane fun l t =>
      { (t.setG r.d.toNat (f (drawWord tm.rngkey (tm.launchIx (64 * b + l)) t.draws))) with draws := t.draws + 1 }
  | _ => s

def runRand (r : RD) (s : State) : State := s.draw r id
def runRandf (r : RD) (s : State) : State := s.draw r drawFloat

/-! ### Meanings -/

def execShfl (r : ShflOp) (s : State) : Out1 := .next (s.issue (.shfl r) (runShfl r))
def execBcast (r : R2) (s : State) : Out1 := .next (s.issue (.bcast r) (runBcast r))
def execVote (r : VoteOp) (s : State) : Out1 := .next (s.issue (.vote r) (runVote r))
def execMatch (r : MatchOp) (s : State) : Out1 := .next (s.issue (.match_ r) (runMatch r))
def execCompact (r : CompactOp) (s : State) : Out1 := .next (s.issue (.compact r) (runCompact r))
def execGreduce (r : GredOp) (s : State) : Out1 := .next (s.issue (.greduce r) (runGreduce r))
def execGscan (r : GscanOp) (s : State) : Out1 := .next (s.issue (.gscan r) (runGscan r))
def execRegput (r : RegputOp) (s : State) : Out1 := .next (s.issue (.regput r) (runRegput r))
def execRegtake (r : RegtakeOp) (s : State) : Out1 := .next (s.issue (.regtake r) (runRegtake r))
def execRegflush (r : RA) (s : State) : Out1 := .next (s.issue (.regflush r) (runRegflush r))
def execRand (r : RD) (s : State) : Out1 := .next (s.issue (.rand r) (runRand r))
def execRandf (r : RD) (s : State) : Out1 := .next (s.issue (.randf r) (runRandf r))
/-- A pending REGTAKE request is served (R163). -/
def execRegtakeServe (k cls : Nat) (s : State) : Out1 := .next ((evRegtakeServe k cls s).getD s)

end Sys2Proof.Machine
end

