-- ==== Sys2Proof/Machine/Gates.lean ====
section
/-! DEFINITION. What the packet processor and the scheduler read and write, a packet's fields and scope, and the gates of nodes
(spec/17_graph.md R358 to R361, R369, R371), with the merge of deterministic units that adds to gate words
(spec/08_ordering.md R227). -/

namespace Sys2Proof.Machine
open Sys2Proof

/-! ### Reads and words of the processor and the scheduler -/

/-- An access of the processor at a virtual address of a space: the state with A and M set, and the physical address; none
where the page does not allow it (R361, R368, R369, R397). -/
def State.procAt (s : State) (asid va : Nat) (a : Acc) : Option (State × Nat) :=
  match s.walk asid va with
  | .error _ => none
  | .ok l =>
    if (s.checkLeaf l va a).isSome || !s.permitted asid (l.pa va) then none
    else
      let need := 512 + if a.w then 1024 else 0
      some (if l.e &&& need = need then s else s.orLeaf l.at_ need, l.pa va)

/-- Bytes read at their home slices, page by page. -/
def State.procRead (s : State) (asid va n : Nat) : Option (State × List Byte) :=
  (pagesOf va n).foldl (fun acc p => match acc with
    | none => none
    | some (s, bs) => (s.procAt asid p .read).map fun x =>
        (x.1, bs ++ x.1.homeRead x.2 (min (va + n) (p / 65536 * 65536 + 65536) - p))) (some (s, []))

/-- The value of an 8-byte word, where it can be read. -/
def State.procWord (s : State) (asid va : Nat) : Option Nat := (s.procRead asid va 8).map fun x => leNat x.2

/-! ### Packets (R358) -/

def State.packet (s : State) (id : Nat) : Option Packet := s.packets.find? fun p => p.id == id
def State.modPacket (s : State) (id : Nat) (f : Packet → Packet) : State :=
  { s with packets := s.packets.map fun p => if p.id = id then f p else p }

def Packet.hdr (p : Packet) : Nat := bnat p.bytes 0 4
def Packet.ty (p : Packet) : Nat := bits p.hdr 0 4
def Packet.prio (p : Packet) : Nat := bits p.hdr 9 2
def Packet.det (p : Packet) : Bool := bits p.hdr 11 1 == 1

/-- The partitions of a mask, ascending, and their dies. -/
def partsOf (mask : Nat) : List Nat := (List.range 8).filter fun p => bits mask p 1 == 1
def diesOf (mask : Nat) : List Nat := dedup ((partsOf mask).map dieOfPart)

/-- The queue, address space and partitions of a packet. -/
def State.pkAsid (s : State) (p : Packet) : Nat := (s.queue p.queue).asid
def State.pkMask (s : State) (p : Packet) : Nat := (s.queue p.queue).pmask.toNat

/-- The acquire of a packet or of a node's start (R360, R373): the dies' L1 and remote copies are written back and dropped. -/
def State.acquire (s : State) (mask : Nat) : State := s.cleanDies (diesOf mask) true

/-- A kernel boundary drops the lines its address space caches under S, and releases its pins (R197, R199, R360). -/
def State.kernelBoundary (s : State) (asid : Nat) : State :=
  let s := s.dropStable asid
  (s.dies.map (·.1)).foldl (fun s d => s.modDie d fun x => { x with pins := x.pins.filter fun p => p.asid != asid }) s

/-! ### Gates and barrier-and words (R359, R371) -/

def State.modNodeStat (s : State) (id : Nat) (x : NodeStat) : State := s.modNode id fun n => { n with stat := x }

def Node.kind (n : Node) : Nat := bnat n.bytes 0 1
def Node.gateVa (n : Node) : Nat := bnat n.bytes 0x18 8

/-- The address space a node runs in. -/
def State.nodeAsid (s : State) (n : Node) : Nat :=
  match s.packet n.pkt with
  | some p => s.pkAsid p
  | none => 0

/-- The gate word is at least GATEVAL, unsigned; a node without one has an open gate. -/
def State.gateOpen (s : State) (n : Node) : Bool :=
  n.gateVa == 0 || (match s.procWord (s.nodeAsid n) n.gateVa with
    | some v => decide (bnat n.bytes 0xC 4 ≤ v)
    | none => false)

/-- A node whose count is 0 and whose gate is open enters the ready pool (R371). -/
def State.enterNode (s : State) (id : Nat) : State :=
  match s.nodes.find? fun n => n.id == id with
  | none => s
  | some n =>
    if n.count = 0 && n.stat == .waiting && s.gateOpen n then
      { s.modNodeStat id (.pooled s.poolSeq) with poolSeq := s.poolSeq + 1 }
    else s

/-- The scheduler reads every gate on a physical address again (R371, R380). DEDUCED (log 34). -/
def State.retestGates (s : State) (pa : Nat) : State :=
  (s.nodes.filter fun n => n.gateVa != 0 && n.stat == .waiting && (match s.procAt (s.nodeAsid n) n.gateVa .read with
    | some x => x.2 == pa
    | none => false)).foldl (fun s n => s.enterNode n.id) s

/-- Words of a barrier-and packet are at their thresholds (R359). -/
def State.wordsReached (s : State) (p : Packet) : Bool :=
  p.words.all fun w => match s.procWord (s.pkAsid p) w.1 with
    | some v => decide (w.2 ≤ v)
    | none => false

/-- A merge point (R227): the gates on the words it adds to are read again, since what a deterministic unit's GDONE or SIGNAL adds
reaches its word there (R371). DEDUCED (log 34). -/
def State.mergeGates (s : State) (sel : DetUnit → Bool) : State :=
  (dedup ((s.det.filter sel).flatMap fun d => d.contribs.map (·.pa))).foldl State.retestGates (s.merge sel)

end Sys2Proof.Machine
end

