-- ==== Sys2Proof/Machine/Memory.lean ====
section
/-! DEFINITION. Load, store, atomic and cache-maintenance instructions, majors 0x12 to 0x15 (spec/07_memory.md R185 to
R201), and the evictions of R182. -/

namespace Sys2Proof.Machine
open Sys2Proof

/-! ### LD and ST (R186 to R189) -/

/-- Bytes of an access size code (R185). -/
def ldBytes (size : Nat) : Nat :=
  match size with
  | 0 => 1 | 1 => 1 | 2 => 2 | 3 => 2 | 4 => 4 | 5 => 8 | _ => 16
def stBytes (size : Nat) : Nat :=
  match size with
  | 0 => 1 | 1 => 2 | 2 => 4 | 3 => 8 | _ => 16

/-- The register words of a loaded value in thread code (R187). -/
def ldWords (size : Nat) (bs : List Byte) : List Word :=
  let v := leNat bs
  match size with
  | 0 => [BitVec.ofNat 32 v]
  | 1 => [BitVec.ofInt 32 (sgn v 8)]
  | 2 => [BitVec.ofNat 32 v]
  | 3 => [BitVec.ofInt 32 (sgn v 16)]
  | 4 => [BitVec.ofNat 32 v]
  | 5 => wordsOf 2 bs
  | _ => wordsOf 4 bs

/-- The s register of a loaded value (R189). -/
def ldDword (size : Nat) (bs : List Byte) : Dword :=
  let v := leNat bs
  match size with
  | 1 => BitVec.ofInt 64 (sgn v 8)
  | 3 => BitVec.ofInt 64 (sgn v 16)
  | 4 => BitVec.ofInt 64 (sgn v 32)
  | _ => BitVec.ofNat 64 v

/-- Deliver loaded words: later to a thread's registers, at once to the Shuttle, which holds at its load (R189).
DESIGN CHOICE (log 5). -/
def State.deliver (s : State) (l d : Nat) (ws : List Word) (v : Dword) : State :=
  match s.iss.who with
  | .gang k b _ => s.fillLater k (64 * b + l) d ws
  | .shuttle c => s.setS c d v
  | _ => s

/-- Fills of a bound group's threads arrive together (R114): those made since number n of one limb group share a number. -/
def State.groupFills (s : State) (n : Nat) : State :=
  let same (f g : Fill) : Bool :=
    let L := (s.thread f.team f.t).limbL
    f.team == g.team && decide (n ≤ g.id) && L != 0 && f.t / 64 == g.t / 64 && f.t % 64 / L == g.t % 64 / L
  { s with fills := s.fills.map fun f =>
      if n ≤ f.id then (match s.fills.find? (same f) with | some g => { f with id := g.id } | none => f) else f }

def runLd (r : MemOp) (s : State) : State :=
  let n := ldBytes r.size.toNat
  let n0 := s.fresh
  (s.forParts fun s l =>
    match s.loadAt l r.space.toNat (s.ea l r.space.toNat r.base (r.off.toNat * n)) n with
    | .error f => s.orLate (.ld r) n0 l l f
    | .ok (s, bs) => .ok (s.deliver l r.d.toNat (ldWords r.size.toNat bs) (ldDword r.size.toNat bs))).groupFills s.fresh

/-- The bytes of a store's data register or registers (R187, R189). -/
def State.stData (s : State) (l : Nat) (r : MemOp) : List Byte :=
  let n := stBytes r.size.toNat
  match s.iss.who with
  | .gang _ _ _ =>
    if n ≤ 4 then leBytes n (s.rd l r.d [r.base]).toNat
    else (List.range (n / 4)).flatMap fun i => leBytes 4 (s.rg l (r.d.toNat + i)).toNat
  | .shuttle c => leBytes n (s.viewS c r.d.toNat).toNat
  | _ => []

def runSt (r : MemOp) (s : State) : State :=
  let n := stBytes r.size.toNat
  let sp := r.space.toNat
  let ea (l : Nat) : Nat := s.ea l sp r.base (r.off.toNat * n)
  let ps := s.parts_
  s.forParts fun s l =>
    -- a word of a reducing window that a higher lane of this issue stores too (R427)
    let skip (off : Nat) : Bool := ps.any fun m => decide (l < m) && (s.windowWords m sp (ea m) n).contains off
    match s.storeAt l sp (ea l) (s.stData l r) skip with
    | .error f => .error (.flt f)
    | .ok s => .ok s

/-! ### ATOM (R190 to R194) -/

/-- The operand of an atomic: a word or a pair. -/
def State.atomData (s : State) (l : Nat) (f base : BitVec 7) (ty : Nat) : Nat :=
  if ty = 2 then (s.rd64 l f).toNat else (s.rd l f [base]).toNat

/-- Return an atomic's old value (R191), extended with zeros to a Shuttle register. DESIGN CHOICE (log 64). -/
def State.atomReturn (s : State) (l d ty old : Nat) : State :=
  s.deliver l d (wordsOf (atomWidth ty / 4) (leBytes (atomWidth ty) old)) (BitVec.ofNat 64 old)

/-- An atomic that every participant performs itself, in ascending LANE (R193). -/
def State.atomEach (s : State) (i : Instr) (r : AtomOp) (op : Nat → Nat → Nat) : State :=
  let w := atomWidth r.ty.toNat
  let n0 := s.fresh
  (s.forParts fun s l =>
    let x := s.atomData l r.data r.base r.ty.toNat
    match s.atomicAt l r.space.toNat (s.ea l r.space.toNat r.base (r.off.toNat * w)) w (fun old => op old x) none with
    | .error f => s.orLate i n0 l l f
    | .ok (s, old) => .ok (if r.ret then s.atomReturn l r.d.toNat r.ty.toNat old else s)).groupFills s.fresh

/-- The merged contribution of lanes in ascending LANE (R194). DEDUCED (log 13). -/
def mergeAdd (ty : Nat) (xs : List Nat) : Nat :=
  match xs with
  | [] => 0
  | x :: r =>
    if ty = 4 then
      let half (h : Nat) : Nat :=
        let up (v : Nat) : Nat := (F32.deliver 0 (BF16.operand (bits v (16 * h) 16), 0)).1
        (BF16.deliver 0 (F32.decode (r.foldl (fun v y => addF32 v (up y)) (up x)), 0)).1
      half 0 + 65536 * half 1
    else r.foldl (atomAdd ty) x

/-- Two participants whose adds the network merges: one address, one unit, and not their own lane slices (R169, R194).
DEDUCED (log 13). -/
def State.merges (s : State) (sp : Nat) (ea : Nat → Nat) (l m : Nat) : Bool :=
  ea l == ea m && s.unitOf (s.whoOf l) == s.unitOf (s.whoOf m) && !(sp == 1 && bits (ea l) 31 1 == 1 && l != m)

/-- The one add of a merged group, sent by lane l for the lanes of `g`: where its address faults every lane of the group parks, and
l's replay sends the sum for all of them (R194). -/
def State.sendAdd (t : State) (r : AtomOp) (ea l : Nat) (g : List Nat) (c : Nat) : State :=
  let ty := r.ty.toNat
  match t.atomicAt l r.space.toNat ea (atomWidth ty) (fun old => atomAdd ty old c) (some (ty, c)) with
  | .error f => g.foldl (fun t m => t.dropLane m (.merged f (if m = l then some c else none))) t
  | .ok (t, _) => t

/-- A replayed lane owes its merged add no more. -/
def State.settleOwed (s : State) (l : Nat) : State := s.lane l fun t => { t with owed := none }

/-- A non-returning add: the participants' adds merge, and the lowest lane of each group sends its sum; a lane whose merged add
faulted before sends, at its replay, what that group owes, or nothing (R194, R226). DEDUCED (log 13). -/
def State.atomMerged (s : State) (r : AtomOp) : State :=
  let ea (l : Nat) : Nat := s.ea l r.space.toNat r.base (r.off.toNat * atomWidth r.ty.toNat)
  let new := s.parts_.filter fun l => (s.laneThread l).owed.isNone
  let group (l : Nat) : List Nat := new.filter fun m => s.merges r.space.toNat ea l m
  s.parts_.foldl (fun t l =>
    match (s.laneThread l).owed with
    | some none => t.settleOwed l
    | some (some c) => (t.settleOwed l).sendAdd r (ea l) l [l] c
    | none =>
      if (group l).any fun m => decide (m < l) then t
      else t.sendAdd r (ea l) l (group l) (mergeAdd r.ty.toNat ((group l).map fun m => s.atomData m r.data r.base r.ty.toNat))) s

def runAtomAdd (r : AtomOp) (s : State) : State :=
  if r.ret then s.atomEach (.atomAdd r) r (atomAdd r.ty.toNat) else s.atomMerged r
def runAtomMin (r : AtomOp) (s : State) : State := s.atomEach (.atomMin r) r (atomMinMax false r.ty.toNat)
def runAtomMax (r : AtomOp) (s : State) : State := s.atomEach (.atomMax r) r (atomMinMax true r.ty.toNat)
def runAtomAnd (r : AtomOp) (s : State) : State := s.atomEach (.atomAnd r) r fun old x => old &&& x
def runAtomOr (r : AtomOp) (s : State) : State := s.atomEach (.atomOr r) r fun old x => old ||| x
def runAtomXor (r : AtomOp) (s : State) : State := s.atomEach (.atomXor r) r fun old x => old ^^^ x
def runAtomExch (r : AtomOp) (s : State) : State := s.atomEach (.atomExch r) r fun _ x => x

def runAtomCas (r : AtomCasOp) (s : State) : State :=
  let ty := r.ty.toNat
  let w := atomWidth ty
  let n0 := s.fresh
  (s.forParts fun s l =>
    let x := s.atomData l r.data r.base ty
    let cmp := if ty = 2 then (s.rd64 l r.cv).toNat else (s.rd l r.cv [r.base, r.data]).toNat
    match s.atomicAt l r.space.toNat (s.ea l r.space.toNat r.base (r.off.toNat * w)) w
        (fun old => if old % 2 ^ (8 * w) = cmp % 2 ^ (8 * w) then x else old) none with
    | .error f => s.orLate (.atomCas r) n0 l l f
    | .ok (s, old) => .ok (if r.ret then s.atomReturn l r.d.toNat ty old else s)).groupFills s.fresh

/-! ### LDT and UNPK (R195, R196) -/

/-- The elements of one lane, k from 0 (R195). -/
def State.ldtElems (s : State) (l sp a p es : Nat) : Nat → Nat → Except Flt (State × List Word)
  | 0, _ => .ok (s, [])
  | n + 1, k =>
    let ea := (a + l % 16 * p + (4 * k + l / 16) * es) % 2 ^ 32
    match s.loadAt l sp ea es with
    | .error f => .error f
    | .ok (s, bs) =>
      match State.ldtElems s l sp a p es n (k + 1) with
      | .error f => .error f
      | .ok (s, ws) => .ok (s, BitVec.ofNat 32 (leNat bs) :: ws)

/-- All destinations of the issue that have data are set full together (R195). -/
def State.joinFills (s : State) (n : Nat) : State :=
  { s with fills := s.fills.map fun f =>
      match f.val with
      | .words _ => if n ≤ f.id then { f with id := n } else f
      | _ => f }

def runLdt (r : LdtOp) (s : State) : State :=
  let es := if r.sz then 4 else 2
  let a := (s.rd s.t0 r.a []).toNat
  let p := (s.rd s.t0 r.b [r.a]).toNat
  if a % es ≠ 0 || p % es ≠ 0 then s.allFault (flt .align)
  else
    let s0 := s
    (s.forParts fun s l =>
      match s.ldtElems l (if r.sp then 2 else 1) a p es (2 ^ r.nc.toNat) 0 with
      | .error f => s.orLate (.ldt r) s0.fresh l s0.t0 f
      | .ok (s, ws) => .ok (s.deliver l r.d.toNat ws 0)).joinFills s.fresh

def runUnpk (r : UnpkOp) (s : State) : State :=
  let m := r.mw.toNat + 2
  s.eachLane fun l t => t.setGs r.d.toNat ((List.range (2 ^ r.kc.toNat)).map fun i =>
    bfxD (s.rd64 l r.a) (r.pos.toNat + m * i) m r.s)
where
  /-- A field of a pair, extended to 32 bits (R196). -/
  bfxD (x : Dword) (pos m : Nat) (sx : Bool) : Word :=
    let v := bits x.toNat pos m
    if sx then BitVec.ofInt 32 (sgn v m) else BitVec.ofNat 32 v

/-! ### Cache maintenance (R197, R198) -/

/-- Apply to every sector that [pa, pa + n) touches, ascending. -/
def eachSector (pa n : Nat) (f : State → Nat → State) (s : State) : State :=
  if n = 0 then s else (rangeFrom (pa / 32) ((pa + n - 1) / 32 - pa / 32 + 1)).foldl f s

/-- The physical address of a page's byte for maintenance: a page with R = 0 and W = 0 raises PERM (R198). -/
def State.cmoPage (s : State) (va : Nat) : Except Flt (State × Nat) :=
  match s.globAt va with
  | .error f => .error f
  | .ok (.phys pa) => (match s.physOk pa with | .error f => .error f | .ok _ => .ok (s, pa))
  | .ok _ =>
    match s.lookup (.core s.issCore) s.issAsid va with
    | .error f => .error f
    | .ok (s, lf) =>
      if bits lf.e 2 2 = 0 then .error ⟨.perm, va, 0⟩
      else if s.permitted s.issAsid (lf.pa va) then .ok (s, lf.pa va) else .error ⟨.freeze, va, 0⟩

/-- Walk the pages of a range; a page that faults ends the walk with the pages before it done. DEDUCED (log 15). -/
def State.cmoPages (s : State) (start len : Nat) (f : State → Nat → State) : List Nat → State × Option Flt
  | [] => (s, none)
  | va :: r =>
    match s.cmoPage va with
    | .error e => (s, some e)
    | .ok (s, pa) =>
      let n := min (start + len) (va / 65536 * 65536 + 65536) - va
      let s := match targetOf pa with
        | .hbm => eachSector pa n f s
        | _ => s
      State.cmoPages s start len f r

/-- Maintenance of each participant's range (R197, R198). DEDUCED (log 15). -/
def State.cmo (s : State) (r : CmoOp) (f : Nat → State → Nat → State) : State :=
  s.forParts fun s l =>
    let start := (s.rd64 l r.a).toNat
    let len := (s.rd l r.b []).toNat
    let x := s.cmoPages start len (f s.issCore) (pagesOf start len)
    match x.2 with
    | some e => .ok (x.1.dropLane l (.flt e))
    | none => .ok x.1

def runCmoClean (r : CmoOp) (s : State) : State := s.cmo r fun c s q => s.cleanTo c q r.level.toNat
def runCmoInv (r : CmoOp) (s : State) : State := s.cmo r fun c s q => s.dropTo c q r.level.toNat
def runCmoCinv (r : CmoOp) (s : State) : State :=
  s.cmo r fun c s q => (s.cleanTo c q r.level.toNat).dropTo c q r.level.toNat

/-! ### Pins (R199) -/

/-- The lines of a range rounded out: the first and the length in bytes (R199). A range of length 0 has no line, takes an entry
and is answered with 1. DESIGN CHOICE (log 72). DEDUCED (log 16). -/
def lineRange (start len : Nat) : Nat × Nat :=
  if len = 0 then (start / 128 * 128, 0) else (start / 128 * 128, (start + len + 127) / 128 * 128 - start / 128 * 128)

/-- Translate the lines of a range, ascending: virtual and physical line numbers, each with its page's base and size. -/
def State.pinLines (s : State) : List Nat → Except Flt (State × List ((Nat × Nat) × (Nat × Nat)))
  | [] => .ok (s, [])
  | v :: r =>
    match s.translate (.core s.issCore) s.issAsid (128 * v) .read with
    | .error f => .error f
    | .ok (s, pa, _) =>
      match State.pinLines s r with
      | .error f => .error f
      | .ok (t, ls) =>
        let page := match s.tlbFind (.core s.issCore) s.issAsid (128 * v) with
          | some e => (e.va, e.size)
          | none => (128 * v / 65536 * 65536, 65536)
        .ok (t, ((v, pa / 128), page) :: ls)

/-- Bytes a die holds pinned: a line pinned by two entries counts in each (R199). DESIGN CHOICE (log 72). -/
def Die.pinned (d : Die) : Nat := (d.pins.map fun p => 128 * p.lines.length).sum

/-- Fetch a line into a die's L2. -/
def State.fetchLine (s : State) (d pline : Nat) : State :=
  match targetOf (128 * pline) with
  | .hbm => (List.range 4).foldl (fun s i => s.fillDie d (4 * pline + i)) s
  | _ => s

/-- The leaf entry an address of the space is translated by: the one the core holds, or the one in the table. -/
def State.leafBits (s : State) (c asid va : Nat) : Nat :=
  match s.tlbFind (.core c) asid va with
  | some e => e.leaf.toNat
  | none => (match s.walk asid va with | .ok l => l.e | .error _ => 0)

/-- A pin fetches a line, which goes with its space's kernel boundary where its leaf has S set (R197, R199). -/
def State.pinFetch (s : State) (d : Nat) (s0 : State) (v pline : Nat) : State :=
  (s.fetchLine d pline).noteStable s.issAsid (s0.leafBits s0.issCore s0.issAsid (128 * v)) (128 * pline) 128

def runL2pin (r : L2pinOp) (s : State) : State :=
  s.forParts fun s l =>
    let x := lineRange (s.rd64 l r.a).toNat (s.rd l r.b []).toNat
    match s.pinLines (rangeFrom (x.1 / 128) (x.2 / 128)) with
    | .error f => .error (.flt f)
    | .ok (s, ls) =>
      let d := dieOfCore s.issCore
      if (s.die d).pins.length < Config.pinEntries && decide ((s.die d).pinned + x.2 ≤ Config.pinBytes) then
        let s := ls.foldl (fun t q => t.pinFetch d s q.1.1 q.1.2) s
        let pin : Pin := ⟨s.issTeam.getD 0, s.issAsid, x.1, x.2, ls.map (·.1),
          ls.foldl (fun m x => if m.contains x.2 then m else m ++ [x.2]) []⟩
        .ok ((s.modDie d fun k => { k with pins := k.pins ++ [pin] }).putP l r.pd.toNat true)
      else .ok (s.putP l r.pd.toNat false)

/-- DEDUCED (log 16). -/
def runL2unpin (r : RAB) (s : State) : State :=
  s.forParts fun s l =>
    let x := lineRange (s.rd64 l r.a).toNat (s.rd l r.b []).toNat
    .ok (s.modDie (dieOfCore s.issCore) fun k =>
      match k.pins.find? fun p => some p.team == s.issTeam && p.va == x.1 && p.len == x.2 with
      | some p => { k with pins := k.pins.erase p }
      | none => k)

/-! ### Meanings -/

def execLd (r : MemOp) (s : State) : Out1 := .next (s.issue (.ld r) (runLd r))
def execSt (r : MemOp) (s : State) : Out1 := .next (s.issue (.st r) (runSt r))
def execAtomAdd (r : AtomOp) (s : State) : Out1 := .next (s.issue (.atomAdd r) (runAtomAdd r))
def execAtomMin (r : AtomOp) (s : State) : Out1 := .next (s.issue (.atomMin r) (runAtomMin r))
def execAtomMax (r : AtomOp) (s : State) : Out1 := .next (s.issue (.atomMax r) (runAtomMax r))
def execAtomAnd (r : AtomOp) (s : State) : Out1 := .next (s.issue (.atomAnd r) (runAtomAnd r))
def execAtomOr (r : AtomOp) (s : State) : Out1 := .next (s.issue (.atomOr r) (runAtomOr r))
def execAtomXor (r : AtomOp) (s : State) : Out1 := .next (s.issue (.atomXor r) (runAtomXor r))
def execAtomExch (r : AtomOp) (s : State) : Out1 := .next (s.issue (.atomExch r) (runAtomExch r))
def execAtomCas (r : AtomCasOp) (s : State) : Out1 := .next (s.issue (.atomCas r) (runAtomCas r))
def execLdt (r : LdtOp) (s : State) : Out1 := .next (s.issue (.ldt r) (runLdt r))
def execUnpk (r : UnpkOp) (s : State) : Out1 := .next (s.issue (.unpk r) (runUnpk r))
def execCmoClean (r : CmoOp) (s : State) : Out1 := .next (s.issue (.cmoClean r) (runCmoClean r))
def execCmoInv (r : CmoOp) (s : State) : Out1 := .next (s.issue (.cmoInv r) (runCmoInv r))
def execCmoCinv (r : CmoOp) (s : State) : Out1 := .next (s.issue (.cmoCinv r) (runCmoCinv r))
def execL2pin (r : L2pinOp) (s : State) : Out1 := .next (s.issue (.l2pin r) (runL2pin r))
def execL2unpin (r : RAB) (s : State) : Out1 := .next (s.issue (.l2unpin r) (runL2unpin r))

/-! ### Evictions (R182) -/

/-- A copy leaves a cache: its dirty bytes go down one place and the copy is dropped; pinned lines stay. DEDUCED (log 43). -/
def evEviction (lvl : CacheLevel) (n q : Nat) (s : State) : Option State :=
  match lvl with
  | .l1 => (nfind (s.core n).l1 q).map fun _ => s.evictL1 n q
  | .l2 =>
    if s.isPinned n q then none
    else (nfind (s.die n).l2 q).map fun _ => s.evictL2 n q
  | .llc => (nfind s.llc q).map fun _ => s.evictLlc q

/-- An eviction: dirty data leaves a cache (R182). -/
def execEviction (lvl : CacheLevel) (n q : Nat) (s : State) : Out1 := .next ((evEviction lvl n q s).getD s)

end Sys2Proof.Machine
end

