-- ==== Sys2Proof/Machine/Sync.lean ====
section
/-! DEFINITION. Synchronisation, majors 0x16 and 0x17 (spec/08_ordering.md R206 to R223), and the completion of barrier
phases and object grants (R79, R174, R175, R179, R210, R211, R217, R220). -/

namespace Sys2Proof.Machine
open Sys2Proof

/-! ### FENCE (R207) -/

/-- An agent's earlier loads have not all delivered: every other access is performed when it issues. DESIGN CHOICE (log 5). -/
def State.loadsOut (s : State) (w : Who) : Bool :=
  match w with
  | .thread k t => s.fills.any fun f => f.team == k && f.t == t && (match f.val with
    | .words _ => true
    | .late _ _ _ _ _ _ => true
    | .stopped _ _ _ _ => true
    | _ => false)
  | _ => false

/-- A FENCE of a scope waits: for earlier loads, and from domain scope on for writes to peers that wait for their port (R207);
every other access is performed when it issues. DESIGN CHOICE (log 5). -/
def State.fenceWaits (s : State) (scope : Nat) (w : Who) : Bool :=
  s.loadsOut w || (decide (5 ≤ scope) && s.outbox.any fun x => x.1 == w && (decide (6 ≤ scope) || isPeer x.2.1))

def runFence (scope : BitVec 3) (s : State) : State :=
  s.forParts fun s l => if s.fenceWaits scope.toNat (s.whoOf l) then .error .retry else .ok s

/-! ### Team barriers (R79, R174, R175, R217, R218) -/

/-- The quads of a team that hold a live thread, numbered 16 × band + quad. -/
def Team.liveQuads (t : Team) : List Nat := dedup (t.liveThreads.map (· / 4))

/-- The wait of a BAR, BARG or REL before it counts: its fence and its sealed batches (R212, R217, R220). -/
def State.settlingOf (s : State) (sup : Bool) (scope : Nat) (w : Who) : Option Out :=
  if s.fenceWaits scope w then some .retry else s.batchWait sup w fun _ => true

/-- The same for what the agent runs now. -/
def State.settling (s : State) (scope : Nat) (w : Who) : Option Out := s.settlingOf (s.inHandler w) scope w

/-- A thread executes its next team barrier (R79, R217): where the phase is complete it goes on at once; else its waits, of a
FENCE.package among them, then its quad arrives and it waits. -/
def runBarWith (req : Option (Nat × Nat)) (s : State) : State :=
  match s.iss.who with
  | .gang k b _ =>
    s.forParts fun s l =>
      let i := 64 * b + l
      let t := s.team k
      let n := (t.thread i).barK + 1
      if n ≤ t.barDone then .ok (s.lane l fun x => { x with barK := n, inBar := none })
      else match s.settling 4 (.thread k i) with
        | some .retry => .error (.bar n req)
        | some o => .error o
        | none =>
          .ok (((s.noteCarve k n req).modTeam k fun t =>
            { t with barArr := if t.barArr.contains (n, i / 4) then t.barArr else t.barArr ++ [(n, i / 4)] }).lane l
              fun x => { x with barK := n, inBar := none, stat := .atBar n })
  | _ => s

def runBar (s : State) : State := runBarWith none s
def runBarCarve (r : BarCarveOp) (s : State) : State := runBarWith (some (r.scrg.toNat, r.slice.toNat)) s

/-- Threads waiting at a team phase. -/
def Team.barWaiters (t : Team) (n : Nat) : List Tix :=
  t.liveThreads.filter fun i => match (t.thread i).stat with | .atBar k => k == n | _ => false

/-- A place in the team's scratchpad allocation or lane slices (R175). -/
def Loc.inScratch (k : Nat) : Loc → Bool
  | .scr t _ => t == k
  | .slice t _ _ => t == k
  | _ => false

/-- The agent works for a team: its threads, or the Shuttle that serves it. -/
def State.worksFor (s : State) (k : Nat) : Who → Bool
  | .thread t _ => t == k
  | .shuttle c => (s.shuttle c).team == some k
  | _ => false

/-- The team's carve request is grantable (R174). DEDUCED (log 18). -/
def State.carveOk (s : State) (k scrg slice : Nat) : Bool :=
  decide (4096 * slice ≤ 16384 * scrg) &&
    decide (((s.teamsOfCore (coreOfTeam k)).map fun j => (s.team j).heldg + if j = k then scrg else (s.team j).scrg).sum +
      Config.minL1 ≤ Config.granules)

/-- Grant a carve request: bytes below the lesser sizes are kept, the rest read 0 (R174). -/
def Team.carve (t : Team) (scrg slice : Nat) : Team :=
  let n := { t with scrg := scrg, slice := slice, denied := false }
  let sl := min t.sl n.sl
  { n with scratch := mbelow t.scratch (min t.sa n.sa), slices := t.slices.filter fun c => decide (c.1 % 4096 < sl) }

/-- Apply the phase's carve request, if it has one; granules it takes from the L1 leave that first, and `keep` ends the streams
whose walks leave the new allocation (R174, R175).
DEDUCED (log 18). -/
def State.applyCarve (s : State) (k n : Nat) (keep : State → Nat → State) : State :=
  match (s.team k).carveReq.find? fun c => c.1 == n with
  | none => s
  | some (_, scrg, slice) =>
    let s := s.modTeam k fun t => { t with carveReq := t.carveReq.filter fun c => c.1 != n }
    if s.carveOk k scrg slice then
      let s := if (s.team k).scrg < scrg then s.takeGranules (coreOfTeam k) else s
      keep (s.modTeam k fun t => t.carve scrg slice) k
    else s.modTeam k fun t => { t with denied := true }

/-- A phase completes: with HEMREC valid, one HEMHIT record, and the released threads park (R179). -/
def State.releasePhase (s : State) (k : Nat) (ts : List Tix) : State :=
  let hem := (s.team k).hemrec.toNat % 2 == 1
  let s := s.modTeam k fun t => t.release s.fresh ts
  let s := s.modCore (coreOfTeam k) fun c => c.count 10 1
  if hem && !ts.isEmpty then
    (s.modTeam k fun t => ts.foldl (fun t i => t.modThread i fun x => { x with stat := .hemParked }) t).hemHit k
  else if hem then s.hemHit k
  else s

/-- Every live quad has arrived at the next phase, and the waits of every thread that executed that BAR are done, also of one that
is parked there (R217). -/
def State.barReady (s : State) (k : Nat) : Bool :=
  let t := s.team k
  let n := t.barDone + 1
  t.live && (t.barArr.any fun a => a.1 == n) && (t.liveQuads.all fun q => t.barArr.contains (n, q)) &&
    !(t.liveThreads.any fun i => (t.thread i).inBar == some n && (s.settling 4 (.thread k i)).isSome)

/-- The next phase carries a carve request that the core can grant (R174). DEDUCED (log 18). -/
def State.willCarve (s : State) (k : Nat) : Bool :=
  (s.team k).carveReq.any fun c => c.1 == (s.team k).barDone + 1 && s.carveOk k c.2.1 c.2.2

/-- The next phase could complete now, and it carries a carve request. -/
def State.carveDue (s : State) (k : Nat) (busy : Bool) : Bool :=
  s.barReady k && !(s.willCarve k && busy) && (s.team k).carveReq.any fun c => c.1 == (s.team k).barDone + 1

/-- Of the teams of a core whose phases carry requests and could complete now, the lower slots come first (R174).
DEDUCED (log 18). -/
def State.carveBefore (s : State) (k : Nat) (busy : Nat → Bool) : Bool :=
  s.carveDue k (busy k) && (List.range (slotOfTeam k)).any fun j => s.carveDue (8 * coreOfTeam k + j) (busy (8 * coreOfTeam k + j))

/-- Completion of a team barrier phase; a grant waits while the team's scratchpad is `busy`, and `keep` settles the
streams (R175). -/
def State.completeBar (s : State) (k : Nat) (busy : Bool) (keep : State → Nat → State) : Option State :=
  if s.barReady k && !(s.willCarve k && busy) then
    let n := (s.team k).barDone + 1
    let ts := (s.team k).barWaiters n
    let s := s.applyCarve k n keep
    let s := s.modTeam k fun t => { t with barDone := n, barArr := t.barArr.filter fun a => a.1 != n }
    some (s.releasePhase k ts)
  else none

/-! ### Group barriers (R220) -/

/-- The members of a group: grid and curve index (R368). -/
def State.groupOf (s : State) (p g : Nat) : List (Nat × Nat) := nget (s.part p).groups g []

def State.isMember (s : State) (k g : Nat) : Bool :=
  let t := s.team k
  (s.groupOf (partOfCore (coreOfTeam k)) g).contains (t.grid, t.teamix)

def runBarg (r : BargOp) (s : State) : State :=
  let g := r.group.toNat
  match s.iss.who with
  | .gang k b _ =>
    s.forParts fun s l =>
      let i := 64 * b + l
      let t := s.team k
      let n := nget (t.thread i).bargK g 0 + 1
      if !s.isMember k g then .error (.flt (flt .perm))
      else if n ≤ nget t.bargDone g 0 then .ok (s.lane l fun x => { x with bargK := nput x.bargK g n })
      else match s.settling r.scope.toNat (.thread k i) with
        | some o => .error o
        | none =>
            .ok ((s.modTeam k fun t =>
              { t with bargArr := if t.bargArr.contains (g, n, i / 4) then t.bargArr
                                  else t.bargArr ++ [(g, n, i / 4)] }).lane l
                fun x => { x with bargK := nput x.bargK g n, stat := .atBarg g n })
  | _ => s

def Team.bargWaiters (t : Team) (g n : Nat) : List Tix :=
  t.liveThreads.filter fun i => match (t.thread i).stat with | .atBarg h k => h == g && k == n | _ => false

/-- The slot of a running team by grid and curve index. -/
def State.teamAt (s : State) (grid ix : Nat) : Option Nat :=
  (s.teams.find? fun e => e.2.live && e.2.grid == grid && e.2.teamix == ix).map (·.1)

/-- A member that has not started yet, or that pre-emption has swapped out, holds the group (R220); one that has ended does
not. -/
def State.notStarted (s : State) (grid ix : Nat) : Bool :=
  (s.teamAt grid ix).isNone && s.grids.any fun g => g.id == grid && !g.ended.contains ix

/-- The running teams of a group. -/
def State.groupTeams (s : State) (p g : Nat) : List Nat := (s.groupOf p g).filterMap fun m => s.teamAt m.1 m.2

/-- A running team that was run again has not come back to a phase its team had completed (R229). DEDUCED (log 23). -/
def State.behind (s : State) (g k : Nat) : Bool :=
  let t := s.team k
  match s.detFind (.team t.grid t.teamix) with
  | some d => t.det && decide (nget t.bargDone g 0 < nget d.barg g 0)
  | none => false

/-- A running member has all its quads arrived at its next phase of the group. -/
def State.bargReady (s : State) (g k : Nat) : Bool :=
  let t := s.team k
  t.liveQuads.all fun q => t.bargArr.contains (g, nget t.bargDone g 0 + 1, q)

/-- A running member's phase of the group completes; `merged` says that it was a merge point of its units (R227). -/
def State.passBarg (g : Nat) (merged : Bool) (s : State) (k : Nat) : State :=
  let t := s.team k
  let n := nget t.bargDone g 0 + 1
  let s := { s with det := s.det.map fun (d : DetUnit) =>
    if d.key.group = t.grid && d.team = t.teamix then
      { d with barg := nput d.barg g (max n (nget d.barg g 0)), phases := if merged then nput d.phases g n else d.phases }
    else d }
  let ts := t.bargWaiters g n
  let s := s.modTeam k fun t => { t with
    bargDone := nput t.bargDone g n
    bargArr := t.bargArr.filter fun a => !(a.1 == g && a.2.1 == n) }
  s.releasePhase k ts

/-- A group's phase completes when every running member has arrived (R220); a team that was run again completes the phases it had
completed by itself, without a merge (R229). -/
def evGroupBarrierPhaseCompletion (p g : Nat) (s : State) : Option State :=
  let ks := s.groupTeams p g
  match ks.find? fun k => s.behind g k && s.bargReady g k with
  | some k => some (s.passBarg g false k)
  | none =>
  if !(ks.any fun k => !(s.team k).bargArr.isEmpty && (s.team k).bargArr.any fun a => a.1 == g) then none
  else if (s.groupOf p g).any fun m => s.notStarted m.1 m.2 then none
  else if !(ks.all fun k => s.bargReady g k) || ks.any (s.behind g) then none
  else
    -- a merge point where all the group's teams run in deterministic mode: its set takes in members that have ended (R227)
    let ms := s.groupOf p g
    let merges := ks.all fun k => (s.team k).det
    let s := if merges then
        s.mergeGates fun d => match d.key with
          | .team gr i => ms.contains (gr, i)
          | .chunk gr _ => ms.contains (gr, d.team)
          | _ => false
      else s
    some (ks.foldl (State.passBarg g merges) s)

/-! ### Objects (R209 to R212, R216) -/

/-- The regions an object binds (R208). -/
def State.objRegions (s : State) (asid obj : Nat) : List Region :=
  ((s.space asid).regions.map (·.2)).filter fun r => r.obj == obj

/-- ACQ, TRYACQ and REL complete at once in a deterministic unit on an object all of whose regions are deterministic
(R216). -/
def State.detObject (s : State) (u : UnitKey) (asid obj : Nat) : Bool :=
  let rs := s.objRegions asid obj
  u != .plain && !rs.isEmpty && rs.all (·.det)

/-- The sectors of an object's regions, as physical sector numbers; an unmapped page has none. DEDUCED (log 15). -/
def State.regionSectors (s : State) (asid obj : Nat) : List Nat :=
  (s.objRegions asid obj).flatMap fun r => (pagesOf r.start r.len).flatMap fun va =>
    match s.walk asid va with
    | .ok lf =>
      let n := min (r.start + r.len) (va / 65536 * 65536 + 65536) - va
      (match targetOf (lf.pa va) with
       | .hbm => rangeFrom (lf.pa va / 32) (n / 32)
       | _ => [])
    | .error _ => []

/-- A request is grantable on a word's value (R210), earlier waiting requests aside. -/
def grantable (v : Nat) (excl : Bool) : Bool :=
  if excl then bits v 16 1 == 0 && bits v 0 16 == 0 else bits v 16 1 == 0 && decide (bits v 0 16 < 65535)

/-- No earlier waiting request stands in the way (R210). -/
def State.noneBefore (s : State) (pa : Nat) (excl : Bool) : Bool :=
  !(s.objReqs.any fun q => q.obj == pa && (excl || q.excl))

/-- Grant an object to an agent of a core: the word changes, and the copies of its regions' sectors are dropped (R211,
R216). -/
def State.grantTo (s : State) (c asid va pa : Nat) (excl : Bool) : State :=
  let s := (s.homeAtomic c pa 8 fun v => if excl then v ||| 65536 else v + 1).1
  (s.regionSectors asid va).foldl (fun s q => (s.dropL1 c q).dropRemote (dieOfCore c) q) s

/-- Check an object address as an atomic (R191, R216): its physical address. Only virtual addresses are taken (R384). -/
def State.objAt (s : State) (va : Nat) : Except Flt (State × Nat) :=
  if va % 8 ≠ 0 then .error (flt .align)
  else match s.translate (.core s.issCore) s.issAsid va .atomic with
    | .error f => .error f
    | .ok (s, pa, _) => .ok (s, pa)

/-- The Shuttle's hold of the current mode. -/
def Shuttle.curHold (h : Shuttle) : Hold := if h.mode then h.supHold else h.hold
def Shuttle.setHold (h : Shuttle) (x : Hold) : Shuttle := if h.mode then { h with supHold := x } else { h with hold := x }

def runAcq (r : AcqOp) (s : State) : State :=
  let excl := !r.mode
  s.forParts fun s l =>
    let va := (s.rd64 l r.a).toNat
    match s.objAt va with
    | .error f => .error (.flt f)
    | .ok (s, pa) =>
      let w := s.whoOf l
      if s.detObject (s.unitOf w) s.issAsid va then .ok s
      else
        let s := s.surrender s.issCore pa 8
        match s.iss.who with
        | .gang k b _ =>
          if grantable (s.homeNat pa 8) excl && s.noneBefore pa excl then .ok (s.grantTo s.issCore s.issAsid va pa excl)
          else .ok (({ s with objReqs := s.objReqs ++ [(⟨pa, .thread k (64 * b + l), excl, va, s.issAsid⟩ : ObjReq)] }).lane l
            fun x => { x with stat := .atAcq pa va excl })
        | .shuttle c =>
          if (s.shuttle c).curHold = .gotAcq pa excl then .ok (s.modShuttle c fun h => h.setHold .none)
          else if (s.shuttle c).curHold = .waitAcq pa excl then .error .retry
          else if grantable (s.homeNat pa 8) excl && s.noneBefore pa excl then
            .ok (s.grantTo s.issCore s.issAsid va pa excl)
          else .error (.acq pa va excl)
        | _ => .ok s

/-- DEDUCED (log 12). -/
def runTryacq (r : TryacqOp) (s : State) : State :=
  let excl := !r.mode
  s.forParts fun s l =>
    let va := (s.rd64 l r.a).toNat
    match s.objAt va with
    | .error f => .error (.flt f)
    | .ok (s, pa) =>
      if s.detObject (s.unitOf (s.whoOf l)) s.issAsid va then .ok (s.putP l r.pd.toNat true)
      else
        let s := s.surrender s.issCore pa 8
        if grantable (s.homeNat pa 8) excl && s.noneBefore pa excl then
          .ok ((s.grantTo s.issCore s.issAsid va pa excl).putP l r.pd.toNat true)
        else .ok (s.putP l r.pd.toNat false)

/-- The object word after a REL (R216). -/
def relWord (excl : Bool) (v : Nat) : Nat :=
  if excl then
    (if bits v 16 1 = 1 then (v - 65536) % 2 ^ 32 + (v / 2 ^ 32 + 1) % 2 ^ 32 * 2 ^ 32 else v)
  else if 0 < bits v 0 16 then v - 1 else v

/-- The dirty sectors of the object's regions in a core's L1 go to their home slices, and the object's word changes (R212,
R216). DEDUCED (log 15). -/
def State.release (s : State) (c asid va pa : Nat) (excl : Bool) : State :=
  let s := (s.regionSectors asid va).foldl (fun s q => (s.cleanL1 c q).cleanRemote (dieOfCore c) q) s
  (s.homeAtomic c pa 8 (relWord excl)).1

/-- The Shuttle's REL goes on: done while the handler ran, still waiting, or done now (R232). -/
def State.relAgain (s : State) (x : RelWork) : Except Out State :=
  let c := s.issCore
  let ended (s : State) : State := s.modShuttle c fun h => { h with rel := none }
  if x.done then .ok (ended s)
  else match s.settling 4 (.shuttle c) with
    | some o => .error o
    | none => .ok (ended (s.release c s.issAsid x.va x.pa x.excl))

/-- The REL that waits in the program of a Shuttle. -/
def State.relHeld (s : State) : Option RelWork :=
  match s.iss.who with
  | .shuttle c => if (s.shuttle c).mode then none else (s.shuttle c).rel
  | _ => none

/-- DEDUCED (log 15). -/
def runRel (r : AcqOp) (s : State) : State :=
  s.forParts fun s l =>
    match s.relHeld with
    | some x => s.relAgain x
    | none =>
      let va := (s.rd64 l r.a).toNat
      match s.objAt va with
      | .error f => .error (.flt f)
      | .ok (s, pa) =>
        let w := s.whoOf l
        if s.detObject (s.unitOf w) s.issAsid va then .ok s
        else match s.settling 4 w, w with
          | some .retry, .shuttle _ => .error (.rel va pa (!r.mode))
          | some o, _ => .error o
          | none, _ => .ok (s.release s.issCore s.issAsid va pa (!r.mode))

/-- The RELs of Shuttles that run the handler do their work once what they wait for is done (R232). -/
def State.sweepRels (s : State) : State :=
  s.cores.foldl (fun s e =>
    match e.2.shuttle.rel with
    | none => s
    | some x =>
      if e.2.shuttle.mode && !e.2.shuttle.parked && !x.done && (s.settlingOf false 4 (.shuttle e.1)).isNone then
        (s.release e.1 (s.part (partOfCore e.1)).asid x.va x.pa x.excl).modShuttle e.1 fun h =>
          { h with rel := some { x with done := true } }
      else s) s

/-- The first waiting request of an object that is grantable now (R210). -/
def firstGrant (v : Nat) : Bool → List ObjReq → Option ObjReq
  | _, [] => none
  | sharedOnly, q :: r =>
    if q.excl then (if sharedOnly then none else if grantable v true then some q else none)
    else if grantable v false then some q else firstGrant v true r

def State.coreOfWho (s : State) : Who → Nat
  | .thread k _ => coreOfTeam k
  | .shuttle c => c
  | .bobbin b => (s.bobbin b).trapCore
  | _ => 0

/-- A waiting request is granted, and its agent goes on (R210, R211). -/
def evObjectGrant (pa : Nat) (s : State) : Option State :=
  match firstGrant (s.homeNat pa 8) false (s.objReqs.filter fun q => q.obj == pa) with
  | none => none
  | some q =>
    let s := { s with objReqs := s.objReqs.erase q }
    let s := s.grantTo (s.coreOfWho q.who) q.asid q.va pa q.excl
    some (match q.who with
      | .thread k i => s.modTeam k fun t => t.makeReady s.fresh [i]
      | .shuttle c => s.modShuttle c fun h =>
          if h.hold = .waitAcq pa q.excl then { h with hold := .gotAcq pa q.excl }
          else { h with supHold := .gotAcq pa q.excl }
      | _ => s)

/-! ### REGION (R208, R215) -/

/-- Two byte ranges share a byte. -/
def rangesMeet (a n b m : Nat) : Bool := decide (a < b + m) && decide (b < a + n) && decide (0 < n) && decide (0 < m)

/-- The translation of a bind's pages: NOTMAPPED, PERM as a store, a frame outside the permitted ranges (R215, R396); the state,
whether all lie in HBM, and the first page with D = 0. DESIGN CHOICE (log 76): the object's own page is among those whose D is
tested under DET. -/
def State.bindPages (s : State) : List Nat → Except Flt (State × Bool × Option Nat)
  | [] => .ok (s, true, none)
  | va :: r =>
    match s.lookup (.core s.issCore) s.issAsid va with
    | .error f => .error f
    | .ok (s, lf) =>
      let refused : Bool := match s.checkLeaf lf va .write with
        | some f => f.code != Code.cow
        | none => false
      if refused then .error ⟨.perm, va, 0⟩
      else if !s.permitted s.issAsid (lf.pa va) then .error ⟨.freeze, va, 0⟩
      else match State.bindPages s r with
        | .error f => .error f
        | .ok (s, ok, d0) =>
          .ok (s, ok && targetOf (lf.pa va) == Target.hbm, if bits lf.e 8 1 = 0 then some va else d0)

/-- The reason a bind is refused, in the order of R215, or 0. -/
def State.bindReason (s : State) (asid st n o : Nat) (inHbm : Bool) : Nat :=
  let rs := (s.space asid).regions.map (·.2)
  if n = 0 then 3
  else if !inHbm then 4
  else if rs.any fun r => rangesMeet st n r.start r.len then 2
  else if rangesMeet st n o 8 || (rs.any fun r => rangesMeet st n r.obj 8) || (rs.any fun r => rangesMeet o 8 r.start r.len)
  then 7
  else if rs.length ≥ Config.regionEntries then 1
  else 0

/-- The lowest free entry of a region table. -/
def freeRegion (m : NMap Region) : Nat := ((List.range 512).find? fun e => (nfind m e).isNone).getD 0

/-- Write REGION's status and success. -/
def State.regionStatus (s : State) (l d pd : Nat) (reason v : Nat) : State :=
  (s.put32 l d (BitVec.ofNat 32 (if reason = 0 then v else 0x80000000 + reason))).putP l pd (reason == 0)

/-- DEDUCED (log 12). -/
def runRegion (r : RegionOp) (s : State) : State :=
  s.forParts fun s l =>
    let st := (s.rd64 l r.a).toNat
    let n := (s.rd l r.b []).toNat
    let o := (s.rd64 l r.obj).toNat
    if st % 32 ≠ 0 || n % 32 ≠ 0 || o % 8 ≠ 0 then .error (.flt (flt .align))
    else match s.bindPages (pagesOf st n ++ [o]) with
      | .error f => .error (.flt f)
      | .ok (s, hbm, d0) =>
        match (if r.det then d0 else none) with
        | some va => .error (.flt ⟨.perm, va, 0⟩)
        | none =>
          let reason := s.bindReason s.issAsid st n o hbm
          let e := freeRegion (s.space s.issAsid).regions
          let s := if reason = 0 then
              s.modSpace s.issAsid fun p => { p with regions := nput p.regions e ⟨st, n, o, r.det⟩ }
            else s
          .ok (s.regionStatus l r.d.toNat r.pd.toNat reason e)

/-- An object is held: EXCL or SHARED of its word (R209). DEDUCED (log 22). -/
def State.objHeld (s : State) (asid obj : Nat) : Bool :=
  match s.walk asid obj with
  | .ok lf => let v := s.homeNat (lf.pa obj) 8; bits v 16 1 == 1 || decide (0 < bits v 0 16)
  | .error _ => false

/-- DEDUCED (log 12). DEDUCED (log 22). -/
def runRegionFree (r : RegionFreeOp) (s : State) : State :=
  s.forParts fun s l =>
    let e := (s.rd l r.a []).toNat
    let a := s.issAsid
    match (if e > 511 then none else nfind (s.space a).regions e) with
    | none => .ok (s.regionStatus l r.d.toNat r.pd.toNat 6 0)
    | some x =>
      if s.objHeld a x.obj then .ok (s.regionStatus l r.d.toNat r.pd.toNat 5 0)
      else .ok ((s.modSpace a fun p => { p with regions := ndel p.regions e }).regionStatus l r.d.toNat r.pd.toNat 0 0)

/-! ### WAITGE (R223) -/

def runWaitge (r : RAB) (s : State) : State :=
  s.forParts fun s l =>
    let ch := bits (s.rd l r.a []).toNat 0 4
    if ((s.cluster (clusterOfCore s.issCore)).channel ch).wp ≥ (s.rd64 l r.b).toNat then .ok s else .error .retry

/-! ### Meanings -/

def execFence (scope : BitVec 3) (s : State) : Out1 := .next (s.issue (.fence scope) (runFence scope))
def execBar (s : State) : Out1 := .next (s.issue .bar runBar)
def execBarCarve (r : BarCarveOp) (s : State) : Out1 := .next (s.issue (.barCarve r) (runBarCarve r))
def execBarg (r : BargOp) (s : State) : Out1 := .next (s.issue (.barg r) (runBarg r))
def execAcq (r : AcqOp) (s : State) : Out1 := .next (s.issue (.acq r) (runAcq r))
def execTryacq (r : TryacqOp) (s : State) : Out1 := .next (s.issue (.tryacq r) (runTryacq r))
def execRel (r : AcqOp) (s : State) : Out1 := .next (s.issue (.rel r) (runRel r))
def execRegion (r : RegionOp) (s : State) : Out1 := .next (s.issue (.region r) (runRegion r))
def execRegionFree (r : RegionFreeOp) (s : State) : Out1 := .next (s.issue (.regionFree r) (runRegionFree r))
def execWaitge (r : RAB) (s : State) : Out1 := .next (s.issue (.waitge r) (runWaitge r))
/-- A waiting request is granted (R211). -/
def execObjectGrant (obj : Nat) (s : State) : Out1 := .next ((evObjectGrant obj s).getD s)
/-- Completion of a group barrier phase (R220). -/
def execGroupBarrierPhaseCompletion (p g : Nat) (s : State) : Out1 :=
  .next ((evGroupBarrierPhaseCompletion p g s).getD s)

end Sys2Proof.Machine
end

