-- ==== Sys2Proof/Machine/Tensor.lean ====
section
/-! DEFINITION. Operands that name ranges: tensor-identifier entries (spec/11_quilt_product.md R265, R266), the
allocation an effective address names and the check of a whole range against it (spec/07_memory.md R180), and the bytes
of engines and channels at a place (spec/10_shuttle.md R244, spec/11_quilt_product.md R268, R275). -/

namespace Sys2Proof.Machine
open Sys2Proof

/-! ### Tensor-identifier entries (R265) -/

/-- The entry of an identifier: one never written reads as zero (R382). -/
def State.tid (s : State) (asid ix : Nat) : List Byte := nget (s.space asid).tids ix (List.replicate 64 0)

def tidFmt (e : List Byte) : Nat := bits (bnat e 0 1) 0 7
def tidNdim (e : List Byte) : Nat := bits (bnat e 1 1) 0 2 + 1
def tidLocal (e : List Byte) : Bool := bits (bnat e 1 1) 2 1 == 1
def tidSparse (e : List Byte) : Bool := bits (bnat e 1 1) 3 1 == 1
def tidValid (e : List Byte) : Bool := bits (bnat e 1 1) 7 1 == 1
def tidShift (e : List Byte) : Nat := bnat e 2 1
def tidBase (e : List Byte) : Nat := bnat e 8 8
def tidSbase (e : List Byte) : Nat := bnat e 16 8
/-- The extent of dimension d; beyond NDIM it reads as 1. -/
def tidSize (e : List Byte) (d : Nat) : Nat := if d < tidNdim e then bnat e (0x18 + 4 * d) 4 else 1
/-- The stride of dimension d in elements; dimension 0 has stride 1. -/
def tidStride (e : List Byte) (d : Nat) : Nat := if d = 0 then 1 else bnat e (0x24 + 4 * d) 4
def tidPatref (e : List Byte) : Nat := bnat e 0x34 2

/-- The reserved bits of an entry are 0 (R381). -/
def tidReservedOk (e : List Byte) : Bool :=
  bits (bnat e 0 1) 7 1 == 0 && bits (bnat e 1 1) 4 3 == 0 && bnat e 3 1 == 0 && bnat e 0x38 8 == 0

/-- Formats (R147): 0 f32, 1 f16, 2 bf16, 5 bfp; an FMT byte holds MW in its bits [6:4]. -/
def fmtCode (f : Nat) : Nat := bits f 0 4
/-- The mantissa bits of a BFP format byte: MW + 2 (R147). -/
def fmtM (f : Nat) : Nat := bits f 4 3 + 2

/-- Bytes of an element of a format code; 0 where it has none. -/
def fmtSize (code : Nat) : Nat :=
  match code with
  | 0 => 4 | 1 => 2 | 2 => 2 | 3 => 4 | 4 => 4 | 6 => 2 | 7 => 2 | 8 => 1 | 9 => 1 | _ => 0

/-- The element number of a dense tensor's element (R266). -/
def tidElem (e : List Byte) (e0 e1 e2 e3 : Nat) : Nat :=
  e0 + e1 * tidStride e 1 + e2 * tidStride e 2 + e3 * tidStride e 3

/-! ### Ranges in an allocation (R180) -/

/-- The place of an effective address of the issuing agent, with the offsets in its storage between which its allocation lies
(none: no bound). A lane slice is named only where `slices` allows. -/
def State.rangeAt (s : State) (l space ea : Nat) (slices : Bool) : Except Flt (Loc × Option (Nat × Nat)) :=
  match space with
  | 0 => (match s.globAt ea with | .ok p => .ok (p, none) | .error f => .error f)
  | 1 =>
    let ea := ea % 2 ^ 32
    let k := s.issTeam.getD 0
    let size (n : Nat) : Nat := if s.issTeam.isSome then n else 0
    if bits ea 31 1 = 0 then .ok (.scr k ea, some (0, size (s.team k).sa))
    else
      (match s.iss.who with
       | .gang _ _ _ => .ok (.slice k l (bits ea 0 31), some (0, if slices then size (s.team k).sl else 0))
       | _ => .ok (.slice k 0 (bits ea 0 31), some (0, 0)))
  | 2 =>
    let t := s.sharedTeam (ea % 2 ^ 32)
    if !(s.team t.1).live then .ok (.scr t.1 t.2, some (0, 0))
    else if (s.team t.1).asid ≠ s.issAsid then .error (flt .freeze)
    else .ok (.scr t.1 t.2, some (0, (s.team t.1).sa))
  | _ =>
    let ea := ea % 2 ^ 32
    let d := dieOfCore s.issCore
    let half := halfBase (partOfCore s.issCore)
    if s.issSup then .ok (.chip d (half + ea), some (half, half + 16777216))
    else match s.issTeam with
      | some k =>
        let t := s.team k
        .ok (.chip d (t.chipBase + ea), some (t.chipBase, t.chipBase + t.chipSize))
      | none => .ok (.chip d (half + ea), some (half, half))

/-- The offset of a place in its storage, or its address. -/
def Loc.off : Loc → Nat
  | .glob va => va
  | .phys pa => pa
  | .scr _ o => o
  | .slice _ _ o => o
  | .chip _ o => o

/-- The storage of a place: two places can share bytes only in one storage (R222). -/
def Loc.storage : Loc → Nat × Nat × Nat
  | .glob _ => (0, 0, 0)
  | .phys _ => (1, 0, 0)
  | .scr k _ => (2, k, 0)
  | .slice k l _ => (3, k, l)
  | .chip d _ => (4, d, 0)

/-- A place moved by a signed distance; global addresses wrap (R168). -/
def Loc.move (p : Loc) (d : Int) : Loc :=
  match p with
  | .glob va => .glob (wrap (va + d) 64)
  | .phys pa => .phys (wrap (pa + d) 64)
  | .scr k o => .scr k (o + d).toNat
  | .slice k l o => .slice k l (o + d).toNat
  | .chip c o => .chip c (o + d).toNat

/-- Bytes lo up to, not including, hi from a place lie inside its allocation; an empty range always does. -/
def insideRange (p : Loc) (bound : Option (Nat × Nat)) (lo hi : Int) : Bool :=
  match bound with
  | none => true
  | some n => decide (hi ≤ lo) || (decide ((n.1 : Int) ≤ (p.off : Int) + lo) && decide ((p.off : Int) + hi ≤ n.2))

/-- The bytes of an allocation as it stands now: an access beyond them reads 0 and writes nothing. -/
def State.nearSize (s : State) (p : Loc) : Nat :=
  match p with
  | .scr k _ => (s.team k).sa
  | .slice k _ _ => (s.team k).sl
  | .chip _ _ => 33554432
  | _ => 0

/-! ### Bytes that channels and engines read and write -/

/-- A read inside one page by a channel or an engine of core c, translated by the cluster's tile translation engine (R268, R399); a
peer's port that is not ACTIVE delays it (R420). -/
def State.unitPage (s : State) (c asid : Nat) (u : UnitKey) (va n : Nat) (a : Acc) : Except Flt (State × List Byte) :=
  match s.translate (.tile (clusterOfCore c)) asid va a with
  | .error f => .error f
  | .ok (s, pa, _) =>
    match s.reach c pa with
    | .error f => .error f
    | .ok _ => .ok (s, if s.viewed u asid va then s.viewRead u pa n else s.homeRead pa n)

/-- A write inside one page. -/
def State.unitPut (s : State) (c asid : Nat) (u : UnitKey) (va : Nat) (bs : List Byte) : Except Flt State :=
  match s.translate (.tile (clusterOfCore c)) asid va .write with
  | .error f => .error f
  | .ok (s, pa, _) =>
    match s.reach c pa with
    | .error f => .error f
    | .ok _ => .ok (if s.viewed u asid va then s.viewWrite u pa va bs else s.engineStore c pa bs)

/-- How many of the bytes [va, va + n) from p on lie in p's page. -/
def pageRoom (va n p : Nat) : Nat := min (va + n) (p / 65536 * 65536 + 65536) - p

/-- A read of n bytes by a channel or an engine of core c (R244, R268), page by page. -/
def State.unitRead (s : State) (c asid : Nat) (u : UnitKey) (p : Loc) (n : Nat) (a : Acc) :
    Except Flt (State × List Byte) :=
  match p with
  | .glob va =>
    (pagesOf va n).foldlM (fun (x : State × List Byte) p =>
      (x.1.unitPage c asid u p (pageRoom va n p) a).map fun y => (y.1, x.2 ++ y.2)) (s, [])
  | .phys pa =>
    (match s.reach c pa with
     | .error f => .error f
     | .ok _ => if s.permitted asid pa then .ok (s, s.homeRead pa n) else .error (flt .freeze))
  | p => .ok (s, if p.off + n ≤ s.nearSize p then s.nearRead p n else List.replicate n 0)

/-- A write of bytes by a channel or an engine of core c (R244, R275). -/
def State.unitWrite (s : State) (c asid : Nat) (u : UnitKey) (p : Loc) (bs : List Byte) : Except Flt State :=
  match p with
  | .glob va =>
    (pagesOf va bs.length).foldlM (fun (s : State) p =>
      s.unitPut c asid u p (bslice bs (p - va) (pageRoom va bs.length p))) s
  | .phys pa =>
    (match s.reach c pa with
     | .error f => .error f
     | .ok _ => if s.permitted asid pa then .ok (s.engineStore c pa bs) else .error (flt .freeze))
  | p => .ok (if p.off + bs.length ≤ s.nearSize p then s.nearWrite p bs else s)

/-! ### Whole ranges of the issuing agent: all of it is checked first, and virtual addresses only are taken (R180, R384) -/

/-- A range of n bytes at an effective address: its place, or NOTMAPPED, or EXTENT. DEDUCED (log 28). -/
def State.rangeOf (s : State) (l space ea n : Nat) (slices : Bool) : Except Flt Loc :=
  if space = 0 then (if ea ≥ 2 ^ 55 then .error (notMappedAt ea 3) else .ok (.glob ea))
  else match s.rangeAt l space ea slices with
    | .error f => .error f
    | .ok (p, b) => if insideRange p b 0 n then .ok p else .error (flt .extent)

/-- Read global bytes sector by sector; `home` reads along the home slice path (R268), else as a load (R203). -/
def State.readSectors (s : State) (home : Bool) (c asid : Nat) (u : UnitKey) :
    List (Nat × Nat × Nat) → Except Flt (State × List Byte)
  | [] => .ok (s, [])
  | x :: r =>
    let va := 32 * x.1 + x.2.1
    let one : Except Flt (State × List Byte) :=
      if home then
        (match s.translate (.core c) asid va .read with
         | .error f => .error f
         | .ok (s, pa, _) =>
           (match s.reach c pa with
            | .error f => .error f
            | .ok _ => .ok (s, if s.viewed u asid va then s.viewRead u pa x.2.2 else s.homeRead pa x.2.2)))
      else s.globalLoad c asid u va x.2.2
    match one with
    | .error f => .error f
    | .ok (s, bs) =>
      match State.readSectors s home c asid u r with
      | .error f => .error f
      | .ok (s, cs) => .ok (s, bs ++ cs)

/-- Write global bytes sector by sector as a store. -/
def State.writeSectors (s : State) (w : Who) (c asid : Nat) (u : UnitKey) : List (Nat × Nat × Nat) → List Byte → Except Flt State
  | [], _ => .ok s
  | x :: r, bs =>
    match s.globalStore w c asid u (32 * x.1 + x.2.1) (bs.take x.2.2) (fun _ => false) with
    | .error f => .error f
    | .ok s => State.writeSectors s w c asid u r (bs.drop x.2.2)

/-- Read a checked range of participant l. -/
def State.loadRange (s : State) (l : Nat) (p : Loc) (n : Nat) (home : Bool) : Except Flt (State × List Byte) :=
  match p with
  | .glob va =>
    (match s.translateAll (.core s.issCore) s.issAsid .read (pagesOf va n) with
     | .error f => .error f
     | .ok s => s.readSectors home s.issCore s.issAsid (s.unitOf (s.whoOf l)) (pieces (n + 1) va n))
  | p => .ok (s, s.nearRead p n)

/-- Write a checked range of participant l. -/
def State.storeRange (s : State) (l : Nat) (p : Loc) (bs : List Byte) : Except Flt State :=
  match p with
  | .glob va =>
    (match s.translateAll (.core s.issCore) s.issAsid .write (pagesOf va bs.length) with
     | .error f => .error f
     | .ok s => s.writeSectors (s.whoOf l) s.issCore s.issAsid (s.unitOf (s.whoOf l)) (pieces (bs.length + 1) va bs.length) bs)
  | p => .ok (s.nearWrite p bs)

/-- The address operand of an instruction that names a space (R168): a 64-bit base in global space, else 32 bits. -/
def State.addrOf (s : State) (l : Nat) (space : BitVec 2) (f : BitVec 7) : Nat :=
  if space = 0 then (s.rd64 l f).toNat else (s.rd l f []).toNat

/-- The issuer is the Shuttle in supervisor mode, so a fault of its work freezes the Shuttle (R385). A frame outside the
permitted ranges freezes the unit (R390); any other fault writes a record that names it. -/
def State.unitFault (s : State) (c src slot who asid : Nat) (sup : Bool) (f : Flt) (frozen : State → State) : State :=
  if sup then s.freezeShuttle c
  else match f.code with
    | .freeze => frozen s
    | _ => s.faultSource c src slot who asid f 0

/-- The slot a record of an issuer's work names. -/
def State.slotOfWho (s : State) : Who → Nat
  | .thread k _ => slotOfTeam k
  | .shuttle c => (match (s.shuttle c).team with | some k => slotOfTeam k | none => 0)
  | _ => 0

end Sys2Proof.Machine
end

