-- ==== Sys2Proof/Machine/Pattern.lean ====
section
/-! DEFINITION. Pattern programs, ranks and walks, and the instructions of major 0x1C (spec/14_pattern.md R311 to R332). -/

namespace Sys2Proof.Machine
open Sys2Proof

/-! ### Programs (R313 to R317) -/

/-- The set a program describes. -/
inductive PatSet where
  | band (lo hi : Int)
  | dil (stride offset : Nat)
  | blkd (size : Nat)
  | hash (k : Nat) (bij : Bool) (seed : Nat)
  | kron (bh bw : Nat) (p q : PatSet)
  | union (a b : PatSet)
  | inter (a b : PatSet)
  | shift (dr dc : Int) (a : PatSet)
  | clip (rlo rhi clo chi : Nat) (a : PatSet)
  deriving DecidableEq, Repr

/-- Argument words of an operation code; a reserved code has none. -/
def patArgs (code : Nat) : Nat :=
  match code with
  | 1 => 2 | 2 => 2 | 3 => 1 | 4 => 2 | 5 => 1 | 0xA => 2 | 0xB => 4 | _ => 0

/-- One operation other than EMIT on the expression stack, top first; a malformed one gives nothing (R317). -/
def patOp (w : Nat) (a : List Nat) (st : List PatSet) : Option (List PatSet) :=
  let x (i : Nat) : Nat := a.getD i 0
  let push (ok : Bool) (e : PatSet) : Option (List PatSet) := if ok && st.length < 8 then some (e :: st) else none
  let plain := bits w 0 28 == 0
  match bits w 28 4, st with
  | 1, _ => push (plain && decide (sgn (x 0) 32 ≤ sgn (x 1) 32)) (.band (sgn (x 0) 32) (sgn (x 1) 32))
  | 2, _ => push (plain && x 0 != 0 && decide (x 1 < x 0)) (.dil (x 0) (x 1))
  | 3, _ => push (plain && x 0 != 0) (.blkd (x 0))
  | 5, _ => push (bits w 0 23 == 0) (.hash (bits w 24 4 + 1) (bits w 23 1 == 1) (x 0))
  | 4, q :: p :: r => if plain && x 0 != 0 && x 1 != 0 then some (.kron (x 0) (x 1) p q :: r) else none
  | 8, b :: c :: r => if plain then some (.union c b :: r) else none
  | 9, b :: c :: r => if plain then some (.inter c b :: r) else none
  | 0xA, c :: r => if plain then some (.shift (sgn (x 0) 32) (sgn (x 1) 32) c :: r) else none
  | 0xB, c :: r =>
    if plain && decide (x 0 ≤ x 1) && decide (x 2 ≤ x 3) then some (.clip (x 0) (x 1) (x 2) (x 3) c :: r) else none
  | _, _ => none

/-- Constructors of a set: a program holds at most 16 (R317). -/
def PatSet.constructors : PatSet → Nat
  | .kron _ _ p q => p.constructors + q.constructors
  | .union a b => a.constructors + b.constructors
  | .inter a b => a.constructors + b.constructors
  | .shift _ _ a => a.constructors
  | .clip _ _ _ _ a => a.constructors
  | _ => 1

/-- Evaluate a program's words; `fuel` bounds the operations. -/
def patEval : Nat → List Nat → List PatSet → Option PatSet
  | 0, _, _ => none
  | _, [], _ => none
  | fuel + 1, w :: r, st =>
    if bits w 28 4 = 0xF then
      (match st with
       | [e] => if bits w 0 28 = 0 && e.constructors ≤ 16 then some e else none
       | _ => none)
    else
      let n := patArgs (bits w 28 4)
      if r.length < n then none
      else match patOp w (r.take n) st with
        | none => none
        | some st => patEval fuel (r.drop n) st

/-- The set of a program, from its words; the first 64 count (R317). -/
def patSet (ws : List Word) : Option PatSet := patEval 65 ((ws.take 64).map (·.toNat)) []

/-- The words of a program up to and including EMIT. -/
def patLen : Nat → List Nat → Nat
  | 0, _ => 0
  | _, [] => 0
  | fuel + 1, w :: r =>
    if bits w 28 4 = 0xF then 1 else
      let n := min (patArgs (bits w 28 4)) r.length
      1 + n + patLen fuel (r.drop n)

/-- A program without a non-bijective HASH (R319). -/
def PatSet.invertible : PatSet → Bool
  | .hash _ b _ => b
  | .kron _ _ p q => p.invertible && q.invertible
  | .union a b => a.invertible && b.invertible
  | .inter a b => a.invertible && b.invertible
  | .shift _ _ a => a.invertible
  | .clip _ _ _ _ a => a.invertible
  | _ => true

/-- A counted program (R320). -/
def PatSet.counted : PatSet → Bool
  | .hash _ b _ => !b
  | .kron _ _ p q => p.counted || q.counted
  | .union _ _ => true
  | .inter _ _ => true
  | .shift _ _ a => a.counted
  | .clip _ _ _ _ a => a.counted
  | _ => false

/-- The conditions on the grid (R317). -/
def PatSet.gridOk : PatSet → Nat → Nat → Bool
  | .hash _ b _, nr, nc => !b || (nr == nc && decide (16 ≤ nc) && nc == 2 ^ Nat.log2 nc)
  | .kron bh bw p q, nr, nc => nr % bh == 0 && nc % bw == 0 && p.gridOk (nr / bh) (nc / bw) && q.gridOk bh bw
  | .union a b, nr, nc => a.gridOk nr nc && b.gridOk nr nc
  | .inter a b, nr, nc => a.gridOk nr nc && b.gridOk nr nc
  | .shift _ _ a, nr, nc => a.gridOk nr nc
  | .clip _ _ _ _ a, nr, nc => a.gridOk nr nc
  | _, _, _ => true

/-- MIX of a bijective HASH on 2^b (R316). -/
def hashMix (b seed x : Nat) : Nat :=
  let h := (b + 1) / 2
  let x := (x + seed) % 2 ^ b
  let x := x ^^^ (x / 2 ^ h)
  let x := x * 0x045D9F3B % 2 ^ b
  x ^^^ (x / 2 ^ h)

/-- The column of slot j of row r of a HASH (R316). -/
def hashCol (bij : Bool) (seed nc r j : Nat) : Nat :=
  if bij then hashMix (Nat.log2 nc) seed (r + j * 0x9E3779B9)
  else (drawWord (BitVec.ofNat 32 seed) (BitVec.ofNat 32 r) (BitVec.ofNat 32 j)).toNat % nc

/-- Membership of (r, c) over a grid (R315). -/
def PatSet.mem : PatSet → Nat → Nat → Int → Int → Bool
  | e, nr, nc, r, c =>
    if r < 0 || c < 0 || (nr : Int) ≤ r || (nc : Int) ≤ c then false
    else match e with
      | .band lo hi => decide (lo ≤ c - r) && decide (c - r ≤ hi)
      | .dil st off => (c - r - off) % (st : Int) == 0
      | .blkd n => r / (n : Int) == c / (n : Int)
      | .hash k b seed => (List.range k).any fun j => hashCol b seed nc r.toNat j == c.toNat
      | .kron bh bw p q => p.mem (nr / bh) (nc / bw) (r / (bh : Int)) (c / (bw : Int)) &&
          q.mem bh bw (r % (bh : Int)) (c % (bw : Int))
      | .union a b => a.mem nr nc r c || b.mem nr nc r c
      | .inter a b => a.mem nr nc r c && b.mem nr nc r c
      | .shift dr dc a => a.mem nr nc (r - dr) (c - dc)
      | .clip rlo rhi clo chi a => a.mem nr nc r c && decide ((rlo : Int) ≤ r) && decide (r < rhi) &&
          decide ((clo : Int) ≤ c) && decide (c < chi)

/-! ### Ranks and walks (R318, R322) -/

/-- Members of row r in columns below c. -/
def PatSet.countRow (e : PatSet) (nr nc r c : Nat) : Nat := ((List.range c).filter fun (j : Nat) => e.mem nr nc r j).length

/-- The rank of the first member of a row, or of a place in it (R318). -/
def PatSet.rank (e : PatSet) (nr nc r c : Nat) : Nat :=
  ((List.range r).map fun i => e.countRow nr nc i nc).sum + e.countRow nr nc r c

/-- The first member of a walk from a cursor: the rest of its line, then the later lines of the window. Lines and positions
are rows and columns, or for `tr` columns and rows. -/
def PatSet.next (e : PatSet) (nr nc : Nat) (tr : Bool) (line pos lineLo lineHi posLo posHi : Nat) : Option (Nat × Nat) :=
  let has (l p : Nat) : Bool := if tr then e.mem nr nc p l else e.mem nr nc l p
  let from_ (l lo : Nat) : Option (Nat × Nat) := ((rangeFrom lo (posHi - lo)).find? (has l)).map fun p => (l, p)
  let first := if lineLo ≤ line && line < lineHi then from_ line (max pos posLo) else none
  match first with
  | some x => some x
  | none =>
    let l0 := max lineLo (if line < lineLo then lineLo else line + 1)
    (rangeFrom l0 (lineHi - l0)).findSome? fun l => from_ l posLo

/-- The members of one line of a window, ascending. -/
def PatSet.line (e : PatSet) (nr nc : Nat) (tr : Bool) (l lo hi : Nat) : List Nat :=
  (rangeFrom lo (hi - lo)).filter fun p => if tr then e.mem nr nc p l else e.mem nr nc l p

def PatCtx.set (x : PatCtx) : PatSet := (patSet x.prog).getD (.band 0 0)

/-- The window's next coordinate under a cursor, as (row, column). -/
def PatCtx.next (x : PatCtx) (tr : Bool) : Option (Nat × Nat) :=
  if tr then (x.set.next x.nrow x.ncol true x.tcol x.tpos x.colLo x.colHi x.rowLo x.rowHi).map fun p => (p.2, p.1)
  else x.set.next x.nrow x.ncol false x.frow x.fpos x.rowLo x.rowHi x.colLo x.colHi

/-- The row base of the context is the one its program gives: ranks are exact (R331). DEDUCED (log 24). -/
def PatCtx.exact (x : PatCtx) : Bool :=
  !x.set.counted || (if x.crow ≤ x.nrow then x.set.rank x.nrow x.ncol x.crow 0 == x.cbase else false)

/-- The rank of a member; a free value where the restored row base is wrong (R331). DEDUCED (log 24). -/
def PatCtx.rankOf (x : PatCtx) (fresh r c : Nat) : Dword :=
  if x.exact then BitVec.ofNat 64 (x.set.rank x.nrow x.ncol r c) else Config.freeRank fresh (r * x.ncol + c)

/-- A counted program's row base moves to the furthest row looked up (R320). DEDUCED (log 24). -/
def PatCtx.count (x : PatCtx) (r : Nat) : PatCtx :=
  if x.set.counted && x.exact && decide (x.crow < r) then
    { x with crow := r, cbase := x.set.rank x.nrow x.ncol r 0 }
  else x

/-- After handing out (r, c) the cursor becomes (r, c + 1), or transposed (R322). -/
def PatCtx.advance (x : PatCtx) (tr : Bool) (r c : Nat) : PatCtx :=
  let x := x.count r
  if tr then { x with tcol := c, tpos := r + 1 } else { x with frow := r, fpos := c + 1 }

/-! ### Pattern memory (R311) -/

/-- An index lies in a partition's half. -/
def inHalf (part x : Nat) : Bool := decide (part % 2 * 2048 ≤ x) && decide (x < part % 2 * 2048 + 2048)

/-- The words from an index to the end of the die's memory, at most 64. DESIGN CHOICE (log 80): a program whose PREF lies in a half
may run on past its end (R326). -/
def State.patWords (s : State) (die x : Nat) : List Word :=
  (List.range (min 64 (4096 - x))).map fun i => nget (s.die die).pattern (x + i) 0

/-- The program at an index, as a use binds it: its words up to EMIT. -/
def State.patProg (s : State) (die x : Nat) : List Word :=
  let ws := s.patWords die x
  ws.take (patLen 65 (ws.map (·.toNat)))

/-- Bind a program to a grid: PATTERN where it breaks R317. -/
def patBindOk (ws : List Word) (nr nc : Nat) : Bool :=
  match patSet ws with
  | none => false
  | some e => e.gridOk nr nc && decide (0 < nr) && decide (0 < nc)

/-! ### PATLD (R325) -/

/-- Read a program word by word up to EMIT and its arguments: the words read. `args` is what the last operation still
takes. -/
def State.readProg (s : State) (l : Nat) (space ea : Nat) : Nat → Nat → Except Flt (State × List Word)
  | 0, _ => .ok (s, [])
  | fuel + 1, args =>
    match s.rangeOf l space ea 4 true with
    | .error f => .error f
    | .ok p =>
      match s.loadRange l p 4 true with
      | .error f => .error f
      | .ok (s, bs) =>
        let w := leNat bs
        if args = 0 && bits w 28 4 = 0xF then .ok (s, [BitVec.ofNat 32 w])
        else
          let left := if args = 0 then patArgs (bits w 28 4) else args - 1
          match State.readProg s l space (ea + 4) fuel left with
          | .error f => .error f
          | .ok (s, ws) => .ok (s, BitVec.ofNat 32 w :: ws)

/-- Write pattern words. -/
def State.putPattern (s : State) (die x : Nat) (ws : List Word) : State :=
  s.modDie die fun d => { d with pattern := (indexed ws).foldl (fun m w => nput m (x + w.1) w.2) d.pattern }

/-- DEDUCED (log 28). -/
def runPatld (r : PatldOp) (s : State) : State :=
  if s.parts_.isEmpty then s
  else
    let l := s.t0
    let ea := s.addrOf l r.space r.a
    let x := (s.rd l r.b [r.a]).toNat
    if ea % 4 ≠ 0 then s.allFault (flt .align)
    else match s.readProg l r.space.toNat ea 64 0 with
      | .error f => s.allFault f
      | .ok (s, ws) =>
        let part := partOfCore s.issCore
        if (patSet ws).isNone then s.allFault (flt .pattern)
        else if !(inHalf part x && inHalf part (x + ws.length - 1)) then s.allFault (flt .perm)
        else
          let s := s.putPattern (dieOfCore s.issCore) x ws
          s.parts_.foldl (fun s m => s.put32 m r.d.toNat (BitVec.ofNat 32 ws.length)) s

/-! ### PATBIND (R326) -/

/-- The team whose context the issue acts on. -/
def State.genTeam (s : State) : Option Nat := s.issTeam
def State.genCtx (s : State) : Option PatCtx :=
  match s.issTeam with
  | some k => (s.team k).pat
  | none => none
def State.setCtx (s : State) (x : Option PatCtx) : State :=
  match s.issTeam with
  | some k => s.modTeam k fun t => { t with pat := x }
  | none => s

/-- The checks of a binding from step 2 on: the fault, or nothing (R326). -/
def State.bindFault (s : State) (pref nr nc : Nat) (tdecl : Bool) (rowLo rowHi colLo colHi : Nat) : Option Code :=
  if !inHalf (partOfCore s.issCore) pref then some .perm
  else
    let ws := s.patProg (dieOfCore s.issCore) pref
    if !patBindOk ws nr nc then some .pattern
    else if !(rowLo ≤ rowHi && rowHi ≤ nr && colLo ≤ colHi && colHi ≤ nc) then some .qShape
    else if tdecl && !((patSet ws).any PatSet.invertible) then some .nonInv
    else none

def runPatbind (r : RA) (s : State) : State :=
  if s.parts_.isEmpty then s
  else
    let w (i : Nat) : Nat := (s.rblk s.t0 r.a i).toNat
    let pref := bits (w 0) 0 12
    let td := bits (w 0) 12 1 == 1
    if bits (w 0) 13 19 ≠ 0 || w 7 ≠ 0 then s.allFault (flt .illInst)
    else match s.bindFault pref (w 1) (w 2) td (w 3) (w 4) (w 5) (w 6) with
      | some c => s.allFault (flt c)
      | none => s.setCtx (some
          { pref := pref, tdecl := td, nrow := w 1, ncol := w 2, rowLo := w 3, rowHi := w 4, colLo := w 5, colHi := w 6,
            frow := w 3, fpos := w 5, tcol := w 5, tpos := w 3, crow := 0, cbase := 0,
            prog := s.patProg (dieOfCore s.issCore) pref })

/-! ### PATNEXT (R327) -/

/-- Serve the participants in ascending LANE; `first` is the first coordinate handed out. -/
def State.takeCoords (s : State) (r : PatnextOp) (x : PatCtx) (first : Option (Nat × Nat)) : List Nat → State × PatCtx
  | [] => (s, x)
  | l :: rest =>
    let line (p : Nat × Nat) : Nat := if r.dir then p.2 else p.1
    let none_ : State := (s.lane l fun t => (t.setGs r.d.toNat [0xFFFFFFFF, 0xFFFFFFFF, 0xFFFFFFFF, 0xFFFFFFFF]).setP
      r.pd.toNat false)
    match x.next r.dir with
    | none => State.takeCoords none_ r x first rest
    | some p =>
      if r.line && (match first with | some q => line q != line p | none => false) then
        State.takeCoords none_ r x first rest
      else
        let k := x.rankOf s.fresh p.1 p.2
        let s := s.lane l fun t => (t.setGs r.d.toNat [BitVec.ofNat 32 p.1, BitVec.ofNat 32 p.2,
          BitVec.ofNat 32 k.toNat, BitVec.ofNat 32 (k.toNat / 4294967296)]).setP r.pd.toNat true
        State.takeCoords s r (x.advance r.dir p.1 p.2) (some (first.getD p)) rest

def runPatnext (r : PatnextOp) (s : State) : State :=
  match s.genCtx with
  | none => s.allFault (flt .pattern)
  | some x =>
    if r.dir && !x.set.invertible then s.allFault (flt .nonInv)
    else
      let y := s.takeCoords r x none s.parts_
      if s.parts_.isEmpty then s else y.1.setCtx (some y.2)

/-! ### PATMERGE (R328, R329) -/

/-- One step of the merge at a time: `gs` are the generated members left with their ranks; `cur` is the stored position
under the cursor. The state, the entries written and the fault's element, if any. `fuel` is the number of entries there
can be. -/
def State.mergeLoop (s : State) (mode : Bool) (a o : Loc) (n : Nat) : Nat → Nat → Nat → Option Nat →
    List (Nat × Dword) → State × Nat × Option Nat
  | 0, _, cnt, _, _ => (s, cnt, none)
  | fuel + 1, i, cnt, cur, gs =>
    match cur, gs with
    | none, [] => (s, cnt, none)
    | _, _ =>
      let g := gs.head?
      let p := match cur, g with
        | some v, some x => min v x.1
        | some v, none => v
        | none, some x => x.1
        | none, none => 0
      let inS := cur == some p
      let inG := g.any fun x => x.1 == p
      let entry := leBytes 4 p ++ leBytes 4 (if inS then i else 0xFFFFFFFF) ++
        leBytes 8 (if inG then (match g with | some x => x.2.toNat | none => 0) else 2 ^ 64 - 1)
      let wr := mode || (inS && inG)
      let s := if wr then s.nearWrite (o.move (16 * cnt)) entry else s
      let cnt := if wr then cnt + 1 else cnt
      let gs := if inG then gs.drop 1 else gs
      if inS then
        let i := i + 1
        if i < n then
          let v := leNat (s.nearRead (a.move (4 * i)) 4)
          if v ≤ p then (s, cnt, some i) else State.mergeLoop s mode a o n fuel i cnt (some v) gs
        else State.mergeLoop s mode a o n fuel i cnt none gs
      else State.mergeLoop s mode a o n fuel i cnt cur gs

/-- A counted program's row base moves over the rows whose ranks a merge looks up: its line, or for a column the rows of its
members (R320, R333). DEDUCED (log 24). -/
def State.countMerge (s : State) (x : PatCtx) (tr : Bool) (line : Nat) (ps : List Nat) : State :=
  let y := ps.foldl (fun y p => y.count (if tr then p else line)) x
  if y = x then s else s.setCtx (some y)

def runPatmerge (r : PatmergeOp) (s : State) : State :=
  s.forParts fun s l =>
    let w (i : Nat) : Nat := (s.rg l (r.a.toNat + i)).toNat
    let fault (f : Flt) : Except Out State := .error (.flt f)
    match s.genCtx with
    | none => fault (flt .pattern)
    | some x =>
      let lo := if r.dir then x.colLo else x.rowLo
      let hi := if r.dir then x.colHi else x.rowHi
      let plo := if r.dir then x.rowLo else x.colLo
      let phi := if r.dir then x.rowHi else x.colHi
      let n := w 2
      let span := phi - plo
      if r.dir && !x.set.invertible then fault (flt .nonInv)
      else if !(lo ≤ w 0 && w 0 < hi) || n > 16384 || span > 16384 then fault (flt .qShape)
      else if w 1 % 4 ≠ 0 || w 3 % 16 ≠ 0 then fault (flt .align)
      else match s.rangeOf l r.ssp.toNat (w 1) (4 * n) true,
          s.rangeOf l r.osp.toNat (w 3) (16 * if r.mode then n + span else min n span) true with
        | .error f, _ => fault f
        | _, .error f => fault f
        | .ok a, .ok o =>
          let ps := x.set.line x.nrow x.ncol r.dir (w 0) plo phi
          let gs := ps.map fun p =>
            (p, if r.dir then x.rankOf s.fresh p (w 0) else x.rankOf s.fresh (w 0) p)
          let cur := if n = 0 then none else some (leNat (s.nearRead a 4))
          let y := s.mergeLoop r.mode a o n (n + span + 1) 0 0 cur gs
          match y.2.2 with
          | some i => .ok (y.1.dropLane l (.flt ⟨.sortViol, 0, i⟩))
          | none => .ok ((y.1.countMerge x r.dir (w 0) ps).put32 l r.d.toNat (BitVec.ofNat 32 y.2.1))

/-! ### PATSAVE and PATRESTORE (R330, R331) -/

/-- The context image; the bytes the device recomputes are free values. DEDUCED (log 24). -/
def patImage (fresh : Nat) (x : Option PatCtx) : List Byte :=
  match x with
  | none => List.replicate 256 0
  | some x =>
    let w (v : Nat) : List Byte := leBytes 4 v
    leBytes 2 x.pref ++ [if x.tdecl then 3 else 1, 0] ++ w x.nrow ++ w x.ncol ++ w x.rowLo ++ w x.rowHi ++ w x.colLo ++
      w x.colHi ++ w 0 ++ w x.frow ++ w x.fpos ++ w x.tcol ++ w x.tpos ++ w x.crow ++ w 0 ++ leBytes 8 x.cbase ++
      (List.range 192).map fun i => Config.freeByte fresh i

def runPatsave (r : PatsaveOp) (s : State) : State :=
  if s.parts_.isEmpty then s
  else
    let l := s.t0
    let ea := s.addrOf l r.space r.a
    if ea % 32 ≠ 0 then s.allFault (flt .align)
    else match s.rangeOf l r.space.toNat ea 256 true with
      | .error f => s.allFault f
      | .ok p =>
        match s.storeRange l p (patImage s.fresh s.genCtx) with
        | .error f => s.allFault f
        | .ok t => t.bump

/-- DESIGN CHOICE (log 80): reserved bits of the image are ignored (R331). -/
def runPatrestore (r : PatsaveOp) (s : State) : State :=
  if s.parts_.isEmpty then s
  else
    let l := s.t0
    let ea := s.addrOf l r.space r.a
    if ea % 32 ≠ 0 then s.allFault (flt .align)
    else match s.rangeOf l r.space.toNat ea 256 true with
      | .error f => s.allFault f
      | .ok p =>
        match s.loadRange l p 256 false with
        | .error f => s.allFault f
        | .ok (s, bs) =>
          let w (o : Nat) : Nat := bnat bs o 4
          if bnat bs 2 1 % 2 = 0 then s.setCtx none
          else
            let td := bits (bnat bs 2 1) 1 1 == 1
            let pref := bnat bs 0 2
            match s.bindFault pref (w 4) (w 8) td (w 0xC) (w 0x10) (w 0x14) (w 0x18) with
            | some c => s.allFault (flt c)
            | none => s.setCtx (some
                { pref := pref, tdecl := td, nrow := w 4, ncol := w 8, rowLo := w 0xC, rowHi := w 0x10, colLo := w 0x14,
                  colHi := w 0x18, frow := w 0x20, fpos := w 0x24, tcol := w 0x28, tpos := w 0x2C, crow := w 0x30,
                  cbase := bnat bs 0x38 8, prog := s.patProg (dieOfCore s.issCore) pref })

/-! ### Meanings -/

/-- Load a pattern program (R325). -/
def execPatld (r : PatldOp) (s : State) : Out1 := .next (s.issue (.patld r) (runPatld r))
/-- Bind the team's context (R326). -/
def execPatbind (r : RA) (s : State) : Out1 := .next (s.issue (.patbind r) (runPatbind r))
/-- Take coordinates (R327). -/
def execPatnext (r : PatnextOp) (s : State) : Out1 := .next (s.issue (.patnext r) (runPatnext r))
/-- Merge with a stored stream (R329). -/
def execPatmerge (r : PatmergeOp) (s : State) : Out1 := .next (s.issue (.patmerge r) (runPatmerge r))
/-- Save the context (R331). -/
def execPatsave (r : PatsaveOp) (s : State) : Out1 := .next (s.issue (.patsave r) (runPatsave r))
/-- Restore the context (R331). -/
def execPatrestore (r : PatsaveOp) (s : State) : Out1 := .next (s.issue (.patrestore r) (runPatrestore r))

end Sys2Proof.Machine
end

