-- ==== Sys2Proof/Machine/Quilt.lean ====
section
/-! DEFINITION. Quilt product records and major 0x1A (spec/11_quilt_product.md R255 to R283): the tile queue, tokens and the
order in which records start; the issue checks; operands; the exact arithmetic of products; QWAIT and QPOLL. -/

namespace Sys2Proof.Machine
open Sys2Proof

/-! ### Records and descriptors (R261, R262) -/

def Rec.n (r : Rec) (o w : Nat) : Nat := bnat r.bytes o w
def Rec.kind (r : Rec) : Nat := r.n 0 1
/-- The accumulator handle AH: bank AH mod 2 of engine AH / 2 (R255). -/
def Rec.ah (r : Rec) : Nat := bits (r.n 1 1) 0 3
def Rec.m (r : Rec) : Nat := r.n 4 1 + 1
def Rec.cols (r : Rec) : Nat := r.n 5 1 + 1
def Rec.k (r : Rec) : Nat := r.n 6 2 + 1
def Rec.cluster (r : Rec) : Nat := clusterOfCore r.core

/-- An operand of a record: its descriptor, its format byte, its captured words by lane and its tensor entry. -/
structure Opnd where
  d   : Nat
  fmt : Nat
  cap : List (List Word)
  tid : List Byte
  deriving DecidableEq, Repr

def Rec.opA (r : Rec) : Opnd := ⟨r.n 0x20 16, r.n 8 1, r.capA, r.tidA⟩
def Rec.opB (r : Rec) : Opnd := ⟨r.n 0x30 16, r.n 9 1, r.capB, r.tidB⟩

def Opnd.src (o : Opnd) : Nat := bits o.d 0 2
def Opnd.rf (o : Opnd) : Nat := bits o.d 2 7
def Opnd.w (o : Opnd) : Nat := bits o.d 9 4 + 1
def Opnd.c0 (o : Opnd) : Nat := bits o.d 13 6
def Opnd.sp (o : Opnd) : Nat := bits o.d 2 1
def Opnd.rot (o : Opnd) : Nat := bits o.d 3 3
def Opnd.pwb (o : Opnd) : Nat := bits o.d 6 8
def Opnd.rp (o : Opnd) : Nat := bits o.d 16 16
def Opnd.base (o : Opnd) : Nat := bits o.d 32 32
def Opnd.tp (o : Opnd) : Nat := bits o.d 64 32
def Opnd.id (o : Opnd) : Nat := bits o.d 2 10
def Opnd.o (o : Opnd) (i : Nat) : Nat :=
  match i with
  | 0 => bits o.d 32 32
  | 1 => bits o.d 64 32
  | 2 => bits o.d 96 16
  | _ => bits o.d 112 16

/-- Every bit not assigned to the selected source is 0 (R262). -/
def Opnd.reservedOk (o : Opnd) : Bool :=
  match o.src with
  | 0 => o.d == 0
  | 1 => bits o.d 19 109 == 0
  | 2 => bits o.d 14 2 == 0 && bits o.d 96 32 == 0
  | _ => bits o.d 12 20 == 0

def Opnd.code (o : Opnd) : Nat := fmtCode o.fmt
def Opnd.mw (o : Opnd) : Nat := fmtM o.fmt
def Opnd.isBfp (o : Opnd) : Bool := o.code == 5
/-- Bytes of an f32, f16 or bf16 element. -/
def Opnd.size (o : Opnd) : Nat := if o.code = 0 then 4 else 2

/-- A known format byte (R147, R265). -/
def fmtByteOk (f : Nat) : Bool :=
  bits f 7 1 == 0 && decide (fmtCode f ≤ 9) && (if fmtCode f = 5 then bits f 4 3 != 7 else bits f 4 3 == 0)

/-- Bytes of a row of n elements, or of n blocks of 32 for BFP (R264). -/
def Opnd.rowBytes (o : Opnd) (n : Nat) : Nat :=
  if o.isBfp then n * 4 * o.mw + (n + 3) / 4 * 4 else n * o.size

/-- The byte of a row that holds its byte b, under rotation (R264). -/
def Opnd.rotate (o : Opnd) (row rb b : Nat) : Nat := if o.rot = 0 then b else (b + 4 * (row * o.rot % 32)) % rb

/-! ### Where a record's scratchpad addresses lie (R169, R170) -/

/-- A core-scratchpad address (space 0) lies in the team's allocation, a cluster-shared one in that of the team it names. -/
def recLoc (team : Option Nat) (core sp ea : Nat) : Loc :=
  if sp = 0 then .scr (team.getD 0) (ea % 2 ^ 32)
  else .scr (8 * (core / 4 * 4 + bits ea 30 2) + bits ea 27 3) (bits ea 0 27)

/-- The check of a whole range [ea + lo, ea + hi) (R180): EXTENT, or the freeze of a foreign team's slot (R170). -/
def State.recRange (s : State) (team : Option Nat) (core asid sp ea hi : Nat) : Option Flt :=
  if sp = 0 then
    (match team with
     | some k => if ea + hi ≤ (s.team k).sa then none else some (flt .extent)
     | none => some (flt .extent))
  else
    let k := 8 * (core / 4 * 4 + bits ea 30 2) + bits ea 27 3
    if !(s.team k).live then some (flt .extent)
    else if (s.team k).asid ≠ asid then some (flt .freeze)
    else if bits ea 0 27 + hi ≤ (s.team k).sa then none else some (flt .extent)

/-! ### The issue checks (R278) -/

/-- Who issues a record: its team or none for a tile node, core, space, handles, rule slots, and the allotment where
registers can be named (none for the Shuttle and nodes). -/
structure RecEnv where
  team    : Option Nat
  core    : Nat
  asid    : Nat
  handles : List Nat
  slots   : List Nat
  allot   : Option Nat
  deriving DecidableEq, Repr

/-- A REG descriptor names registers below the allotment, and a thread issued it (R263, R278). -/
def Opnd.regOk (o : Opnd) (e : RecEnv) (acc : Bool) : Bool :=
  o.src != 1 || ((match e.allot with
    | some a => decide (o.rf < 112) && decide (o.rf + o.w ≤ a)
    | none => false) && (acc || o.c0 == 0))

/-- Step 1: ILLINST. DESIGN CHOICE (log 78): MM1 or NM1 above 63 is among its causes (R261, R278). -/
def recIll (r : Rec) (e : RecEnv) : Bool :=
  let h := r.n 1 1
  let op := r.n 2 1
  let a := r.opA
  let b := r.opB
  let prod := r.kind ≤ 2
  bits h 5 3 != 0 || (bits h 4 1 == 1 && r.kind != 2) || bits (r.n 3 1) 2 6 != 0 || r.n 0xA 2 != 0 ||
    decide (63 < r.n 4 1) || decide (63 < r.n 5 1) ||
    (r.kind != 4 && r.n 0xC 4 != 0) || (prod && op != 0) || (r.kind == 3 && (decide (4 < op) || bits h 3 1 == 1)) ||
    (r.kind == 4 && decide (5 < op)) || (!prod && (r.n 6 2 != 0 || b.d != 0 || b.fmt != 0)) ||
    !fmtByteOk a.fmt || !fmtByteOk b.fmt || !a.reservedOk || !b.reservedOk ||
    (match r.kind with
     | 1 => a.src == 0 || b.src == 0
     | 2 => a.src != 3 || b.src == 0
     | 3 => (match op with | 0 => a.src != 0 | 1 => a.src != 1 | 2 => a.src != 1 | _ => decide (a.src < 2))
     | _ => decide (a.src < 2)) ||
    !a.regOk e (r.kind == 3) || !b.regOk e false ||
    (!prod && a.src == 2 && (a.pwb != 0 || a.tp != 0))

/-- Step 2: ALIGN. -/
def recAlign (r : Rec) : Bool :=
  let bad (o : Opnd) : Bool := o.src == 2 && (o.base % 4 != 0 || o.rp % 4 != 0 || o.tp % 4 != 0)
  r.n 0x18 8 % 8 != 0 || bad r.opA || bad r.opB

/-- A TID operand's window breaks R267: n0 elements along dimension 0 and n1 along dimension 1, exchanged for `tr`.
DEDUCED (log 25). -/
def Opnd.windowBad (o : Opnd) (n0 n1 : Nat) (sparse tr : Bool) : Bool :=
  let t := o.tid
  let s0 := if tr then tidSize t 1 else tidSize t 0
  let s1 := if tr then tidSize t 0 else tidSize t 1
  !tidValid t || tidFmt t != o.fmt || tidSparse t != sparse || decide (tidSize t 2 ≤ o.o 2) || decide (tidSize t 3 ≤ o.o 3) ||
    decide (s0 < o.o 0 + n0) || decide (s1 < o.o 1 + n1) ||
    (o.isBfp && (decide (tidShift t < 5) || decide (31 < tidShift t) || o.o 0 % 32 != 0 || tidStride t 1 % 32 != 0 ||
      tidStride t 2 % 32 != 0 || tidStride t 3 % 32 != 0))

/-- An operand of a product breaks R263, R264 or R267. -/
def Opnd.productBad (o : Opnd) (rows k : Nat) (sparse tr : Bool) : Bool :=
  match o.src with
  | 1 => o.isBfp || decide (o.w * (4 / o.size) < k)
  | 2 => o.pwb == 0 || (o.rot != 0 && o.rowBytes (if o.isBfp then o.pwb else 32 * o.pwb) % 128 != 0)
  | _ => o.windowBad k rows sparse tr

/-- The memory side of QACC or QCVT breaks R267, R280 or R281. -/
def Opnd.memBad (o : Opnd) (rows cols : Nat) : Bool :=
  if o.src = 2 then o.rot != 0 && o.rowBytes (if o.isBfp then cols / 32 else cols) % 128 != 0
  else o.windowBad cols rows false false || (o.isBfp && tidShift o.tid != 5)

/-- Step 4: QSHAPE. DEDUCED (log 25). -/
def recShapeBad (r : Rec) : Bool :=
  let a := r.opA
  let b := r.opB
  let float (c : Nat) : Bool := decide (c ≤ 2)
  match r.kind with
  | 1 => a.code != b.code || !(float a.code || (a.isBfp && r.k % 32 == 0)) || a.productBad r.m r.k false false ||
      b.productBad r.cols r.k false false
  | 2 => a.code != b.code || !float a.code || a.productBad r.m r.k true (bits (r.n 1 1) 4 1 == 1) ||
      b.productBad r.cols r.k false false
  | 3 => (match r.n 2 1 with
      | 0 => false
      | 1 => r.cols != a.c0 + a.w || decide (64 < a.c0 + a.w)
      | 2 => r.cols != a.c0 + a.w || decide (64 < a.c0 + a.w)
      | _ => a.code != 0 || a.memBad r.m r.cols)
  | _ => !(float a.code || (a.isBfp && r.cols % 32 == 0)) || a.memBad r.m r.cols

/-- The bytes a scratchpad operand of a product covers from its base (R264). -/
def Opnd.productSpan (o : Opnd) (rows k : Nat) : Nat :=
  let per := 32 * o.pwb
  ((k + per - 1) / per - 1) * o.tp + (rows - 1) * o.rp + o.rowBytes (if o.isBfp then o.pwb else per)

/-- The bytes the memory side of QACC or QCVT covers. -/
def Opnd.memSpan (o : Opnd) (rows cols : Nat) : Nat :=
  (rows - 1) * o.rp + o.rowBytes (if o.isBfp then cols / 32 else cols)

/-- Step 5: EXTENT. -/
def State.recExtent (s : State) (r : Rec) (e : RecEnv) : Option Flt :=
  let chk (o : Opnd) (hi : Nat) : Option Flt :=
    if o.src = 2 then s.recRange e.team e.core e.asid o.sp o.base hi else none
  match r.kind with
  | 1 => (chk r.opA (r.opA.productSpan r.m r.k)).or (chk r.opB (r.opB.productSpan r.cols r.k))
  | 2 => chk r.opB (r.opB.productSpan r.cols r.k)
  | _ => chk r.opA (r.opA.memSpan r.m r.cols)

/-- Step 6: TOKADDR's page, as an atomic store. -/
def State.recToken (s : State) (r : Rec) (e : RecEnv) : Except Flt State :=
  if r.n 0x18 8 = 0 then .ok s
  else match s.translate (.core e.core) e.asid (r.n 0x18 8) .atomic with
    | .error f => .error f
    | .ok (s, _, _) => .ok s

/-- Step 7, QSPMM: the program its tensor names, latched and bound to its grid (R311, R317, R319, R323). -/
def State.recPattern (s : State) (r : Rec) (e : RecEnv) : Except Flt (List Word) :=
  let t := r.tidA
  let x := tidPatref t
  let ws := s.patProg (dieOfCore e.core) x
  if !inHalf (partOfCore e.core) x then .error (flt .perm)
  else if !patBindOk ws (tidSize t 1) (tidSize t 0) then .error (flt .pattern)
  else if bits (r.n 1 1) 4 1 = 1 && !((patSet ws).any PatSet.invertible) then .error (flt .nonInv)
  else .ok ws

/-- The checks of a product record in order (R278): the record with its program latched. -/
def State.checkProduct (s : State) (r : Rec) (e : RecEnv) : Except Flt (State × Rec) :=
  if recIll r e then .error (flt .illInst)
  else if recAlign r then .error (flt .align)
  else if !e.handles.contains r.ah then .error (flt .perm)
  else if recShapeBad r then .error (flt .qShape)
  else match s.recExtent r e with
    | some f => .error f
    | none =>
      match s.recToken r e with
      | .error f => .error f
      | .ok s =>
        if r.kind = 2 then
          (match s.recPattern r e with
           | .error f => .error f
           | .ok ws => .ok (s, { r with pat := ws }))
        else .ok (s, r)

/-! ### The queue (R256 to R258) -/

def State.queueOf (s : State) (cl : Nat) : List Rec := s.records.filter fun r => r.cluster == cl
def State.recsOfTeam (s : State) (k : Nat) : List Rec := s.records.filter fun r => r.team == some k

/-- The token after a count: it skips 0 (R258). -/
def nextToken (n : Word) : Word := if n + 1 = 0 then 1 else n + 1

/-- The queue has a place for a record of the team. -/
def State.hasPlace (s : State) (k cl : Nat) : Bool :=
  decide ((s.recsOfTeam k).length < Config.teamRecords) && decide ((s.queueOf cl).length < Config.clusterRecords)

/-- A blank record: the bytes with their KIND written by the issuing instruction (R261). -/
def newRec (kind : Nat) (bytes : List Byte) (e : RecEnv) (w : Who) (u : UnitKey) (sup : Bool) (tidOf : Nat → List Byte) :
    Rec :=
  let bs := BitVec.ofNat 8 kind :: bytes.drop 1
  { id := 0, tok := 0, team := e.team, node := none, who := w, unit := u, asid := e.asid, core := e.core, sup := sup,
    bytes := bs, regThr := [], capA := [], capB := [], tidA := tidOf (bits (bnat bs 0x20 16) 2 10),
    tidB := tidOf (bits (bnat bs 0x30 16) 2 10), pat := [], rule := [], round := 0, started := false, engine := 0,
    progress := 0, finished := false, parked := false, frozen := false, flags := 0, prev := 0, deps := [], wave := [] }

/-- The registers W words from RF of every lane of a band, for the lanes that take part (R263). -/
def State.capture (s : State) (o : Opnd) : List (List Word) :=
  (List.range 64).map fun l =>
    if s.parts_.contains l then (List.range o.w).map fun i => s.rg l (o.rf + i) else List.replicate o.w 0

/-- The registers a product record names that are empty in a participant: it blocks on them (R51, R52). A recurrence record
names none. DEDUCED (log 26). -/
def State.regEmpties (s : State) (r : Rec) (l : Nat) : List Nat :=
  if 0x10 ≤ r.kind then [] else
  let named (o : Opnd) : List Nat := if o.src = 1 then (List.range o.w).map (o.rf + ·) else []
  let t := s.laneThread l
  ((named r.opA) ++ (named r.opB)).filter fun g => !t.full g

/-- The issuing agent's environment. -/
def State.recEnv (s : State) : RecEnv :=
  let k := s.issTeam
  let t := s.team (k.getD 0)
  { team := k, core := s.issCore, asid := s.issAsid
    handles := if k.isSome then t.handles else [], slots := if k.isSome then t.rslots else []
    allot := match s.iss.who with | .gang _ _ _ => some t.allotment | _ => none }

/-- The record block of the issue: 64 bytes from t0's registers (R276). -/
def State.recBlock (s : State) (f : BitVec 7) : List Byte := (List.range 16).flatMap fun i => leBytes 4 (s.rblk s.t0 f i).toNat

/-- The issue of one record (R277), with the checks of its kind: for a gang, lanes whose captured registers are empty leave
first, and the rest issue (each round loses a lane). DEDUCED (log 26). -/
def State.issueRec (s : State) (kind : Nat) (r : R2) (check : State → Rec → RecEnv → Except Flt (State × Rec)) :
    Nat → State
  | 0 => s
  | fuel + 1 =>
    if s.parts_.isEmpty then s
    else
      let e := s.recEnv
      let w := s.whoOf s.t0
      let rec0 := newRec kind (s.recBlock r.a) e w (s.unitOf w) s.issSup (s.tid s.issAsid)
      match check s rec0 e with
      | .error f => s.allFault f
      | .ok (s1, rec1) =>
        let late := match s.iss.who with
          | .gang _ _ ls => ls.filter fun l => !(s.regEmpties rec1 l).isEmpty
          | _ => []
        if !late.isEmpty then
          (late.foldl (fun s l => s.dropLane l (.held (s.regEmpties rec1 l) [])) s).issueRec kind r check fuel
        else match e.team with
          | none => s1
          | some k =>
            if !s1.hasPlace k (clusterOfCore e.core) then
              (match s.iss.who with
               | .gang _ _ _ => s.allRetry
               | _ => s1.put32 0 r.d.toNat 0)
            else
              let tok := nextToken (s1.team k).tokens
              let readBack := kind == 3 && rec1.n 2 1 == 1
              let thr := match s.iss.who with
                | .gang _ b ls => if readBack then (ls.filter fun l => decide (l < rec1.m)).map (64 * b + ·) else []
                | _ => []
              let cap (o : Opnd) : List (List Word) := if o.src = 1 && !readBack && kind < 0x10 then s1.capture o else []
              let rm := if rec1.n 2 1 = 5 then (s1.team k).fctl.toNat else rec1.n 2 1
              let deps := if bits (rec1.n 3 1) 0 1 = 0 then []
                else s1.sealedCopies rec1.sup rec1.who (BitVec.ofNat 32 (rec1.n 0x10 4))
              let rec2 := { rec1 with id := s1.fresh, tok := tok, regThr := thr, capA := cap rec1.opA,
                                      capB := cap rec1.opB, round := if kind = 4 then rm else 0,
                                      prev := (s1.team k).tokens, deps := deps }
              let s1 := { s1.bump with records := s1.records ++ [rec2] }
              let s1 := s1.modTeam k fun t =>
                let t := { t with tokens := tok }
                thr.foldl (fun t i => t.modThread i fun x =>
                  ((List.range rec2.opA.w).map (rec2.opA.rf + ·)).foldl Thread.clearFull x) t
              s1.parts_.foldl (fun s l => s.put32 l r.d.toNat tok) s1

/-! ### Starting (R257) -/

/-- A record's batches are complete (DB): those sealed before it was issued, whose issuer may have ended, and any sealed since;
and so are its records (DT). -/
def State.depsDone (s : State) (r : Rec) : Bool :=
  let dfl := r.n 3 1
  let batch := BitVec.ofNat 32 (r.n 0x10 4)
  let tok := BitVec.ofNat 32 (r.n 0x14 4)
  (bits dfl 0 1 == 0 || (r.deps.all s.copyDone && s.sealedDone r.sup r.who batch)) &&
    (bits dfl 1 1 == 0 || !(s.records.any fun x => x.team == r.team && decide ((tok - x.tok).toNat < 2147483648)))

/-- The engine of a record's handle. -/
def State.engineOf (s : State) (r : Rec) : Engine := (s.cluster r.cluster).engine (r.ah / 2)

/-- A record that names a rule slot, issued after a QRULE of its team that waits to write the slot, does not start (R302). -/
def State.slotPending (s : State) (r : Rec) : Bool :=
  (r.kind == 0x10 || r.kind == 0x11) &&
    s.ruleWaits.any fun w => some w.team == r.team && w.slot == r.n 2 1 && decide (w.before ≤ r.id)

/-- The oldest record of its team (or node) that has not started, with its dependences done and its engine free. -/
def State.canStart (s : State) (r : Rec) : Bool :=
  !r.started && (match (s.queueOf r.cluster).find? fun x => x.team == r.team && x.node == r.node && !x.started with
    | some x => x.id == r.id
    | none => false) &&
    s.depsDone r && !s.slotPending r && (s.engineOf r).busy.isNone && !(s.engineOf r).frozen

def State.modRec (s : State) (id : Nat) (f : Rec → Rec) : State :=
  { s with records := s.records.map fun r => if r.id = id then f r else r }

/-- The record's partition is not halted. -/
def State.recRuns (s : State) (r : Rec) : Bool := !(s.part (partOfCore r.core)).halted

/-- Start a record: its engine is busy with it, and it copies its rule slot (R257, R286). -/
def State.startRec (s : State) (r : Rec) : State :=
  let s := s.modCluster r.cluster fun c => c.modEngine (r.ah / 2) fun e => { e with busy := some r.id }
  let rule := nget (s.cluster r.cluster).rules (r.n 2 1 % 16) []
  s.modRec r.id fun x => { x with started := true, engine := r.ah / 2, rule := if 0x10 ≤ r.kind then rule else [] }

/-- The k-th record of a cluster's queue where it can run now: already started and stopped by nothing, or the earliest issued
of those that can start. -/
def State.runnable (s : State) (cl k : Nat) (sel : Rec → Bool) : Option (State × Rec) :=
  match (s.queueOf cl)[k]? with
  | none => none
  | some r =>
    if !sel r || !s.recRuns r || r.finished || r.parked || r.frozen then none
    else if r.started then some (s, r)
    else if s.canStart r && !(((s.queueOf cl).take k).any fun x => s.canStart x && s.recRuns x) then
      let s := s.startRec r
      ((s.queueOf cl)[k]?).map fun r => (s, r)
    else none

/-- A fault met by a running record: it stops before the term, keeping its progress (R259). An access that its port only holds
back is no fault: the term is tried again (R420). -/
def State.parkRec (s : State) (r : Rec) (f : Flt) : State :=
  if f.code = .delayed then s else
  (s.modRec r.id fun x => { x with parked := true }).unitFault r.core 4
    (match r.team with | some k => slotOfTeam k | none => 0) r.tok.toNat r.asid r.sup f fun s =>
    ((s.modRec r.id fun x => { x with parked := false, frozen := true }).modCluster r.cluster fun c =>
      c.modEngine (r.ah / 2) fun e => { e with frozen := true }).report (7000000 + 4 * r.cluster + r.ah / 2)

/-- All terms are done. -/
def State.finishRec (s : State) (id : Nat) : State := s.modRec id fun x => { x with finished := true }

/-! ### Accumulator banks (R255) -/

def State.bank (s : State) (cl ah : Nat) : NMap Word :=
  let e := (s.cluster cl).engine (ah / 2)
  if ah % 2 = 0 then e.acc0 else e.acc1

def State.setBank (s : State) (cl ah : Nat) (f : NMap Word → NMap Word) : State :=
  s.modCluster cl fun c => c.modEngine (ah / 2) fun e =>
    if ah % 2 = 0 then { e with acc0 := f e.acc0 } else { e with acc1 := f e.acc1 }

def cellKey (i j : Nat) : Nat := 64 * i + j
def cellOf (m : NMap Word) (i j : Nat) : Word := nget m (cellKey i j) 0
def putCells (m : NMap Word) (cs : List (Nat × Nat × Word)) : NMap Word :=
  cs.foldl (fun m c => nput m (cellKey c.1 c.2.1) c.2.2) m

/-- The cells i < m, j < n of a region, in rows. -/
def cellsOf (m n : Nat) : List (Nat × Nat) := (List.range m).flatMap fun i => (List.range n).map fun j => (i, j)

/-! ### Reading operands (R263, R264, R266) -/

/-- Apply a reading function to a list in order; the first fault ends it. -/
def readEach {α β : Type} (f : State → α → Except Flt (State × β)) (s : State) : List α → Except Flt (State × List β)
  | [] => .ok (s, [])
  | x :: r =>
    match f s x with
    | .error e => .error e
    | .ok (s, v) =>
      match readEach f s r with
      | .error e => .error e
      | .ok (s, vs) => .ok (s, v :: vs)

def Rec.read (r : Rec) (s : State) (p : Loc) (n : Nat) : Except Flt (State × List Byte) :=
  s.unitRead r.core r.asid r.unit p n .read

/-- The place of byte b of a row of a scratchpad operand. -/
def Rec.rowByte (r : Rec) (o : Opnd) (panel row rb b : Nat) : Loc :=
  (recLoc r.team r.core o.sp o.base).move (panel * o.tp + row * o.rp + o.rotate row rb b : Nat)

/-- The virtual address of element (e0, e1) of a TID operand of plain elements. -/
def Opnd.elemVa (o : Opnd) (e0 e1 : Nat) : Nat := tidBase o.tid + o.size * tidElem o.tid e0 e1 (o.o 2) (o.o 3)

/-- Element k of row `row` of a product operand, as a pattern (R263, R264, R266). -/
def Rec.elem (r : Rec) (o : Opnd) (s : State) (x : Nat × Nat) : Except Flt (State × Nat) :=
  let row := x.1
  let k := x.2
  match o.src with
  | 1 =>
    let ws := o.cap.getD row []
    .ok (s, if o.size = 4 then (ws.getD k 0).toNat else bits (ws.getD (k / 2) 0).toNat (16 * (k % 2)) 16)
  | 2 =>
    let per := 32 * o.pwb
    (match r.read s (r.rowByte o (k / per) row (o.rowBytes per) (o.size * (k % per))) o.size with
     | .error f => .error f
     | .ok (s, bs) => .ok (s, leNat bs))
  | _ =>
    (match r.read s (.glob (o.elemVa (o.o 0 + k) (o.o 1 + row))) o.size with
     | .error f => .error f
     | .ok (s, bs) => .ok (s, leNat bs))

/-- A byte of the exponents of a TID operand, through the engine's scale cache of 128 sectors; the sector that came in first
leaves a full one (R268). DESIGN CHOICE (log 65). -/
def Rec.scaleByte (r : Rec) (s : State) (va : Nat) : Except Flt (State × List Byte) :=
  let c := (s.engineOf r).scale
  match c.find? fun e => e.1 == va / 32 with
  | some e => .ok (s, bslice e.2 (va % 32) 1)
  | none =>
    match r.read s (.glob (va / 32 * 32)) 32 with
    | .error f => .error (if f.addr = va / 32 * 32 then { f with addr := va } else f)
    | .ok (s, bs) =>
      .ok (s.modCluster r.cluster fun x => x.modEngine (r.ah / 2) fun e =>
        { e with scale := (if c.length < Config.scaleSectors then c else c.drop 1) ++ [(va / 32, bs)] }, bslice bs (va % 32) 1)

/-- Block q of row `row` of a BFP operand: its mantissas and its exponent (R127, R264, R266). -/
def Rec.block (r : Rec) (o : Opnd) (s : State) (x : Nat × Nat) : Except Flt (State × Nat × Nat) :=
  let row := x.1
  let q := x.2
  let read (s : State) (man : List Loc) (n : Nat) (exp : State → Except Flt (State × List Byte)) :
      Except Flt (State × Nat × Nat) :=
    match readEach (fun s p => r.read s p n) s man with
    | .error f => .error f
    | .ok (s, bs) =>
      match exp s with
      | .error f => .error f
      | .ok (s, e) => .ok (s, leNat bs.flatten, leNat e)
  if o.src = 2 then
    let rb := o.rowBytes o.pwb
    let at_ (b : Nat) : Loc := r.rowByte o (q / o.pwb) row rb b
    read s ((List.range (4 * o.mw)).map fun i => at_ (q % o.pwb * 4 * o.mw + i)) 1 fun s =>
      r.read s (at_ (o.pwb * 4 * o.mw + q % o.pwb)) 1
  else
    let j := tidElem o.tid (o.o 0 + 32 * q) (o.o 1 + row) (o.o 2) (o.o 3)
    read s ((List.range o.mw).map fun i => Loc.glob (tidBase o.tid + j / 32 * 4 * o.mw + 4 * i)) 4 fun s =>
      r.scaleByte s (tidSbase o.tid + j / 2 ^ tidShift o.tid)

/-! ### Terms (R270 to R273) -/

/-- One addition into a cell: RNE, FP32. -/
def addTerm (acc : Word) (t : FRes) : Word × BitVec 5 :=
  let x := addVals 0 (F32.decode acc.toNat) t.1
  let d := F32.deliver 0 x
  (BitVec.ofNat 32 d.1, d.2 ||| t.2)

/-- The exact sum of products of a BFP block (R270). -/
def bfpTerm (ma mb : Nat) (a b : Nat × Nat) : FRes :=
  if a.2 = 255 || b.2 = 255 then (.nan false, 0)
  else if a.2 = 0 || b.2 = 0 then (.fin false 0 0, 0)
  else
    let p : Int := ((List.range 32).map fun k => sgn (bits a.1 (ma * k) ma) ma * sgn (bits b.1 (mb * k) mb) mb).sum
    (.fin (p < 0) p.natAbs ((a.2 : Int) + b.2 - 254 - (ma - 1 : Nat) - (mb - 1 : Nat)), 0)

/-- The float format of a code: 1 f16, 2 bf16, else f32 (R147). -/
def fmtOf (code : Nat) : Fmt := if code = 1 then F16 else if code = 2 then BF16 else F32

/-- The exact sum of a group of products (R271). -/
def groupTerm (f : Fmt) (xs ys : List Nat) : FRes :=
  let ps := (xs.zip ys).map fun p => mulVals (f.operand p.1) (f.operand p.2)
  let t := sumVals 0 (ps.map (·.1))
  let sig := sigNV ((xs ++ ys).map f.operand)
  (t.1, ps.foldl (fun a p => a ||| p.2) t.2 ||| sig)

/-- acc + a × b rounded once (R272). -/
def fmaTerm (acc : Word) (x y : Nat) : Word × BitVec 5 :=
  let d := F32.deliver 0 (fmaVals 0 (F32.decode x) (F32.decode y) (F32.decode acc.toNat))
  (BitVec.ofNat 32 d.1, d.2)

/-- A cell after one term of plain elements: one product for f32, else a group. -/
def elemTerm (code : Nat) (acc : Word) (xs ys : List Nat) : Word × BitVec 5 :=
  if code = 0 then fmaTerm acc (xs.headD 0) (ys.headD 0) else addTerm acc (groupTerm (fmtOf code) xs ys)

/-- The reduction indices of term t: one for f32, a group of 8 for the 16-bit formats. -/
def termKs (code k t : Nat) : List Nat := if code = 0 then [t] else rangeFrom (8 * t) (min (8 * t + 8) k - 8 * t)

/-- Terms of a product. -/
def Rec.terms (r : Rec) : Nat :=
  match r.opA.code with
  | 0 => r.k
  | 5 => r.k / 32
  | _ => (r.k + 7) / 8

/-- Write the cells a term changed, and OR its flags into the record. -/
def State.applyTerm (s : State) (r : Rec) (cs : List (Nat × Nat × Word × BitVec 5)) : State :=
  (s.setBank r.cluster r.ah fun m => putCells m (cs.map fun c => (c.1, c.2.1, c.2.2.1))).modRec r.id fun x =>
    { x with flags := cs.foldl (fun f c => f ||| c.2.2.2) x.flags, progress := x.progress + 1 }

/-- One term of QMMA for every cell. -/
def State.qmmaTerm (s : State) (r : Rec) (t : Nat) : Except Flt State :=
  let m := r.m
  let n := r.cols
  let a := r.opA
  let b := r.opB
  if a.isBfp then
    match readEach (r.block a) s ((List.range m).map fun i => (i, t)) with
    | .error f => .error f
    | .ok (s, xs) =>
      match readEach (r.block b) s ((List.range n).map fun j => (j, t)) with
      | .error f => .error f
      | .ok (s, ys) =>
        let acc := s.bank r.cluster r.ah
        .ok (s.applyTerm r ((indexed xs).flatMap fun x => (indexed ys).map fun y =>
          (x.1, y.1, addTerm (cellOf acc x.1 y.1) (bfpTerm a.mw b.mw x.2 y.2))))
  else
    let ks := termKs a.code r.k t
    match readEach (fun s i => readEach (r.elem a) s (ks.map fun k => (i, k))) s (List.range m) with
    | .error f => .error f
    | .ok (s, xs) =>
      match readEach (fun s j => readEach (r.elem b) s (ks.map fun k => (j, k))) s (List.range n) with
      | .error f => .error f
      | .ok (s, ys) =>
        let acc := s.bank r.cluster r.ah
        .ok (s.applyTerm r ((indexed xs).flatMap fun x => (indexed ys).map fun y =>
          (x.1, y.1, elemTerm a.code (cellOf acc x.1 y.1) x.2 y.2)))

/-- Run the first of the terms that remain: a fault stops before its term, and after the last one the record is finished
(R259, R260). -/
def State.runTerm {α : Type} (s : State) (r : Rec) (f : State → α → Except Flt State) : List α → State
  | [] => s.finishRec r.id
  | t :: ts =>
    match f s t with
    | .error e => s.parkRec r e
    | .ok s => if ts.isEmpty then s.finishRec r.id else s

/-- With Z = 1 every cell of the region is first set to +0, before the first term. -/
def State.zeroFirst (s : State) (r : Rec) : State :=
  if bits (r.n 1 1) 3 1 = 1 && r.progress == 0 then
    s.setBank r.cluster r.ah fun m => putCells m ((cellsOf r.m r.cols).map fun c => (c.1, c.2, 0))
  else s

def evQmmaRun (cl k : Nat) (s : State) : Option State :=
  (s.runnable cl k fun r => r.kind == 1).map fun x =>
    let r := x.2
    (x.1.zeroFirst r).runTerm r (fun s t => s.qmmaTerm r t) (rangeFrom r.progress (r.terms - r.progress))

/-! ### QSPMM (R279, R323) -/

/-- The members of tile row i: reduction index and rank, ascending. -/
def Rec.sparseRow (r : Rec) (i : Nat) : List (Nat × Nat) :=
  let a := r.opA
  let e := (patSet r.pat).getD (.band 0 0)
  let nr := tidSize r.tidA 1
  let nc := tidSize r.tidA 0
  let tr := bits (r.n 1 1) 4 1 == 1
  let l := a.o 1 + i
  (e.line nr nc tr l (a.o 0) (a.o 0 + r.k)).map fun p => (p - a.o 0, if tr then e.rank nr nc p l else e.rank nr nc l p)

/-- Cut a list into groups of n. -/
def groupsOf {α : Type} (n : Nat) : Nat → List α → List (List α)
  | 0, _ => []
  | fuel + 1, l => if l.isEmpty then [] else l.take n :: groupsOf n fuel (l.drop n)

/-- The terms of a QSPMM record: a row and the members of one term. -/
def Rec.sparseTerms (r : Rec) : List (Nat × List (Nat × Nat)) :=
  (List.range r.m).flatMap fun i =>
    let ms := r.sparseRow i
    (groupsOf (if r.opA.code = 0 then 1 else 8) (ms.length + 1) ms).map fun g => (i, g)

/-- The virtual address of a non-zero by its rank (R266). -/
def Rec.sparseVa (r : Rec) (rank : Nat) : Nat :=
  let a := r.opA
  tidBase r.tidA + a.size * (rank + a.o 2 * tidStride r.tidA 2 + a.o 3 * tidStride r.tidA 3)

/-- The value of a non-zero by its rank (R266). -/
def Rec.sparseVal (r : Rec) (s : State) (rank : Nat) : Except Flt (State × Nat) :=
  match r.read s (.glob (r.sparseVa rank)) r.opA.size with
  | .error f => .error f
  | .ok (s, bs) => .ok (s, leNat bs)

def State.qspmmTerm (s : State) (r : Rec) (t : Nat × List (Nat × Nat)) : Except Flt State :=
  let b := r.opB
  match readEach r.sparseVal s (t.2.map (·.2)) with
  | .error f => .error f
  | .ok (s, xs) =>
    match readEach (fun s j => readEach (r.elem b) s (t.2.map fun g => (j, g.1))) s (List.range r.cols) with
    | .error f => .error f
    | .ok (s, ys) =>
      let acc := s.bank r.cluster r.ah
      .ok (s.applyTerm r ((indexed ys).map fun y => (t.1, y.1, elemTerm b.code (cellOf acc t.1 y.1) xs y.2)))

def evQspmmRun (cl k : Nat) (s : State) : Option State :=
  (s.runnable cl k fun r => r.kind == 2).map fun x =>
    let r := x.2
    (x.1.zeroFirst r).runTerm r (fun s t => s.qspmmTerm r t) (r.sparseTerms.drop r.progress)

/-! ### QACC (R280) -/

/-- A record of QACC with an operation. -/
def Rec.isAcc (op : Nat) (r : Rec) : Bool := r.kind == 3 && r.n 2 1 == op

def evQaccZero (cl k : Nat) (s : State) : Option State :=
  (s.runnable cl k (Rec.isAcc 0)).map fun x =>
    let r := x.2
    (x.1.setBank cl r.ah fun m => putCells m ((cellsOf r.m r.cols).map fun c => (c.1, c.2, 0))).finishRec r.id

def evQaccRead (cl k : Nat) (s : State) : Option State :=
  (s.runnable cl k (Rec.isAcc 1)).map fun x =>
    let r := x.2
    let a := r.opA
    let acc := x.1.bank cl r.ah
    match r.team with
    | none => x.1.finishRec r.id
    | some tk =>
      (r.regThr.foldl (fun s i =>
        if ((s.team tk).thread i).isLive then
          s.modThread tk i fun t => t.setGs a.rf ((List.range a.w).map fun w => cellOf acc (i % 64) (a.c0 + w))
        else s) x.1).finishRec r.id

def evQaccWrite (cl k : Nat) (s : State) : Option State :=
  (s.runnable cl k (Rec.isAcc 2)).map fun x =>
    let r := x.2
    let a := r.opA
    (x.1.setBank cl r.ah fun m => putCells m ((cellsOf r.m a.w).map fun c =>
      (c.1, a.c0 + c.2, (a.cap.getD c.1 []).getD c.2 0))).finishRec r.id

/-- The place of cell j of row i of the memory side, plain elements (R280). -/
def Rec.cellLoc (r : Rec) (o : Opnd) (i j : Nat) : Loc :=
  if o.src = 2 then r.rowByte o 0 i (o.rowBytes r.cols) (o.size * j) else .glob (o.elemVa (o.o 0 + j) (o.o 1 + i))

/-- Write bytes at several places in order. -/
def Rec.writeEach (r : Rec) (s : State) : List (Loc × List Byte) → Except Flt State
  | [] => .ok s
  | x :: rest =>
    match s.unitWrite r.core r.asid r.unit x.1 x.2 with
    | .error f => .error f
    | .ok s => Rec.writeEach r s rest

/-- One more row of a row-by-row record is done. -/
def State.rowDone (s : State) (id : Nat) : State := s.modRec id fun x => { x with progress := x.progress + 1 }

def evQaccStore (cl k : Nat) (s : State) : Option State :=
  (s.runnable cl k (Rec.isAcc 3)).map fun x =>
    let r := x.2
    let acc := x.1.bank cl r.ah
    x.1.runTerm r (fun s i =>
      match r.writeEach s ((List.range r.cols).map fun j => (r.cellLoc r.opA i j, leBytes 4 (cellOf acc i j).toNat)) with
      | .error f => .error f
      | .ok s => .ok (s.rowDone r.id)) (rangeFrom r.progress (r.m - r.progress))

def evQaccLoad (cl k : Nat) (s : State) : Option State :=
  (s.runnable cl k (Rec.isAcc 4)).map fun x =>
    let r := x.2
    x.1.runTerm r (fun s i =>
      match readEach (fun s j => r.read s (r.cellLoc r.opA i j) 4) s (List.range r.cols) with
      | .error f => .error f
      | .ok (s, vs) => .ok ((s.setBank cl r.ah fun m => putCells m ((indexed vs).map fun v =>
          (i, v.1, BitVec.ofNat 32 (leNat v.2)))).rowDone r.id)) (rangeFrom r.progress (r.m - r.progress))

/-! ### QCVT (R281) -/

/-- acc × SCALE, RNE, FP32. -/
def scaleCell (acc scale : Nat) : Nat × BitVec 5 :=
  F32.deliver 0 (mulVals (F32.decode acc) (F32.decode scale))

/-- A block of 32 scaled cells in BFPm: mantissas, exponent and flags. -/
def bfpBlock (mode m : Nat) (vs : List Nat) : List Nat × Nat × BitVec 5 :=
  let xs := vs.map F32.decode
  if xs.any fun v => v.isNan || v.isInf then (vs.map fun _ => 0, 255, flagIf (xs.any FVal.isInf) fNV)
  else if xs.all FVal.isZero then (vs.map fun _ => 0, 0, 0)
  else
    let emax := vs.foldl (fun a v => max a (bits v 23 8)) 0
    let e := min (max emax 1 + 1) 254
    let cs := vs.map (toBfp mode m e)
    (cs.map (·.1), e, cs.foldl (fun f c => f ||| c.2) 0)

/-- The writes of row i and the flags it raises. -/
def Rec.cvtRow (r : Rec) (acc : NMap Word) (i : Nat) : List (Loc × List Byte) × BitVec 5 :=
  let o := r.opA
  let vs := (List.range r.cols).map fun j => scaleCell (cellOf acc i j).toNat (r.n 0xC 4)
  let f0 := vs.foldl (fun f v => f ||| v.2) (0 : BitVec 5)
  if o.isBfp then
    let nb := r.cols / 32
    let blocks := (List.range nb).map fun q => (q, bfpBlock r.round o.mw (((vs.drop (32 * q)).take 32).map (·.1)))
    let ws := blocks.flatMap fun b =>
      let man := leBytes (4 * o.mw) ((indexed b.2.1).foldl (fun a x => a + x.2 * 2 ^ (o.mw * x.1)) 0)
      if o.src = 2 then
        let rb := o.rowBytes nb
        ((indexed man).map fun x => (r.rowByte o 0 i rb (b.1 * 4 * o.mw + x.1), [x.2])) ++
          [(r.rowByte o 0 i rb (nb * 4 * o.mw + b.1), leBytes 1 b.2.2.1)]
      else
        let j := tidElem o.tid (o.o 0 + 32 * b.1) (o.o 1 + i) (o.o 2) (o.o 3)
        ((List.range o.mw).map fun w => (Loc.glob (tidBase o.tid + j / 32 * 4 * o.mw + 4 * w), bslice man (4 * w) 4)) ++
          [(Loc.glob (tidSbase o.tid + j / 2 ^ tidShift o.tid), leBytes 1 b.2.2.1)]
    (ws, blocks.foldl (fun f b => f ||| b.2.2.2) f0)
  else
    let cs := vs.map fun v => if o.code = 0 then (v.1, (0 : BitVec 5)) else narrow (fmtOf o.code) r.round v.1
    ((indexed cs).map fun c => (r.cellLoc o i c.1, leBytes o.size c.2.1), cs.foldl (fun f c => f ||| c.2) f0)

/-- With Z = 1 the cells are set to +0 once all of them have been read. -/
def State.zeroLast (s : State) (r : Rec) : State :=
  if bits (r.n 1 1) 3 1 = 1 && s.records.any (fun x => x.id == r.id && x.finished) then
    s.setBank r.cluster r.ah fun m => putCells m ((cellsOf r.m r.cols).map fun c => (c.1, c.2, 0))
  else s

def evQcvtRun (cl k : Nat) (s : State) : Option State :=
  (s.runnable cl k fun r => r.kind == 4).map fun x =>
    let r := x.2
    let acc := x.1.bank cl r.ah
    (x.1.runTerm r (fun s i =>
      let w := r.cvtRow acc i
      match r.writeEach s w.1 with
      | .error f => .error f
      | .ok s => .ok ((s.modRec r.id fun y => { y with flags := y.flags ||| w.2 }).rowDone r.id))
      (rangeFrom r.progress (r.m - r.progress))).zeroLast r

/-! ### QWAIT and QPOLL (R282, R283) -/

/-- Every record of the team that a token covers, and that was issued before a QWAIT began, is complete. -/
def State.tokensDone (s : State) (k before : Nat) (g : Word) : Bool :=
  (s.recsOfTeam k).all fun r => before ≤ r.id || (g - r.tok).toNat ≥ 2147483648

/-- A fault kept for a QWAIT that covers its record, and that no earlier lane of the issue has taken. DEDUCED (log 27). -/
def State.tokenFault (s : State) (k before : Nat) (g : Word) : Option HeldFault :=
  s.held.find? fun h => (match h.who, h.tok with
    | .thread j _, some t => j == k && decide (h.work < before) && decide ((g - t).toNat < 2147483648)
    | _, _ => false) && !(s.iss.outs.any fun o => match o.2.2 with | .late w _ => w == h.work | _ => false)

/-- DEDUCED (log 27). -/
def runQwait (r : RA) (s : State) : State :=
  match s.iss.who with
  | .gang k _ _ =>
    s.forParts fun s l =>
      let g := s.rd l r.a []
      let before := (s.laneThread l).since.getD s.fresh
      if !s.tokensDone k before g then .error (.tokens before)
      else match s.tokenFault k before g with
        | some h => .error (.late h.work h.flt)
        | none => .ok (if (s.laneThread l).since.isSome then s.lane l fun t => { t with since := none } else s)
  | _ => s

/-- The latest token that is complete together with every token before it. DEDUCED (log 27). -/
def State.watermark (s : State) (k : Nat) : Word :=
  match s.recsOfTeam k with
  | [] => (s.team k).tokens
  | r :: _ => r.prev

/-- DEDUCED (log 27). -/
def runQpoll (r : RD) (s : State) : State :=
  match s.issTeam with
  | some k => let w := s.watermark k; s.parts_.foldl (fun s l => s.put32 l r.d.toNat w) s
  | none => s.parts_.foldl (fun s l => s.put32 l r.d.toNat 0) s

/-! ### Meanings -/

def execQmma (r : R2) (s : State) : Out1 := .next (s.issue (.qmma r) fun s => s.issueRec 1 r State.checkProduct 65)
def execQspmm (r : R2) (s : State) : Out1 := .next (s.issue (.qspmm r) fun s => s.issueRec 2 r State.checkProduct 65)
def execQacc (r : R2) (s : State) : Out1 := .next (s.issue (.qacc r) fun s => s.issueRec 3 r State.checkProduct 65)
def execQcvt (r : R2) (s : State) : Out1 := .next (s.issue (.qcvt r) fun s => s.issueRec 4 r State.checkProduct 65)
/-- Wait for records (R282). -/
def execQwait (r : RA) (s : State) : Out1 := .next (s.issue (.qwait r) (runQwait r))
/-- Read the watermark (R283). -/
def execQpoll (r : RD) (s : State) : Out1 := .next (s.issue (.qpoll r) (runQpoll r))
/-- A QMMA record runs (R270 to R272, R279). -/
def execQmmaRun (cl k : Nat) (s : State) : Out1 := .next ((evQmmaRun cl k s).getD s)
/-- A QSPMM record runs (R279). -/
def execQspmmRun (cl k : Nat) (s : State) : Out1 := .next ((evQspmmRun cl k s).getD s)
/-- QACC zero (R280). -/
def execQaccZero (cl k : Nat) (s : State) : Out1 := .next ((evQaccZero cl k s).getD s)
/-- QACC read-back (R280). -/
def execQaccRead (cl k : Nat) (s : State) : Out1 := .next ((evQaccRead cl k s).getD s)
/-- QACC write from registers (R280). -/
def execQaccWrite (cl k : Nat) (s : State) : Out1 := .next ((evQaccWrite cl k s).getD s)
/-- QACC store (R280). -/
def execQaccStore (cl k : Nat) (s : State) : Out1 := .next ((evQaccStore cl k s).getD s)
/-- QACC load (R280). -/
def execQaccLoad (cl k : Nat) (s : State) : Out1 := .next ((evQaccLoad cl k s).getD s)
/-- A QCVT record runs (R281). -/
def execQcvtRun (cl k : Nat) (s : State) : Out1 := .next ((evQcvtRun cl k s).getD s)

end Sys2Proof.Machine
end

