-- ==== Sys2Proof/Machine/Recurrence.lean ====
section
/-! DEFINITION. Quilt recurrence records and major 0x1B (spec/12_quilt_recurrence.md R284 to R308, R442): rule slots, the
cell arithmetic, QREC, QRECB, QTRACE and QRULE; and the completion of records of every kind (R258). -/

namespace Sys2Proof.Machine
open Sys2Proof

/-! ### Rules (R287 to R289) -/

/-- A rule image as a record uses it. -/
abbrev Rule := List Byte

def ruleW (x : Rule) : Nat := bnat x 0 8
def ruleOpc (x : Rule) : Nat := bits (ruleW x) 0 2
def ruleF32 (x : Rule) : Bool := bits (ruleW x) 2 1 == 1
def ruleSsrc (x : Rule) : Nat := bits (ruleW x) 3 2
def ruleGapm (x : Rule) : Nat := bits (ruleW x) 5 2
def ruleFloor (x : Rule) : Bool := bits (ruleW x) 7 1 == 1
def ruleTie (x : Rule) : Nat := bits (ruleW x) 8 3
def ruleTrc (x : Rule) : Bool := bits (ruleW x) 11 1 == 1
def ruleMoves (x : Rule) : Nat := bits (ruleW x) 12 3
/-- Move code 0 D, 1 U, 2 L is enabled. -/
def ruleMove (x : Rule) (c : Nat) : Bool := bits (ruleW x) (12 + c) 1 == 1
/-- A constant or table entry at an offset. DEDUCED (log 30). -/
def ruleConst (x : Rule) (o : Nat) : Nat := bnat x o 4

/-- A malformed rule word (R289). -/
def ruleBad (x : Rule) : Bool :=
  bits (ruleW x) 15 49 != 0 || ruleGapm x == 3 || decide (6 ≤ ruleTie x) || ruleMoves x == 0 ||
    (ruleOpc x == 2 && !ruleF32 x) || (ruleFloor x && decide (2 ≤ ruleOpc x)) || (ruleTrc x && ruleOpc x == 3) ||
    (ruleOpc x == 3 && (ruleMoves x != 7 || ruleGapm x != 0))

/-- Moves in TIE order (R288). -/
def tieOrder (t : Nat) : List Nat :=
  match t with
  | 0 => [0, 1, 2] | 1 => [0, 2, 1] | 2 => [1, 0, 2] | 3 => [1, 2, 0] | 4 => [2, 0, 1] | _ => [2, 1, 0]

/-- The diagonal score is read (R442). -/
def ruleReadsS (x : Rule) : Bool :=
  ruleMove x 0 || (ruleGapm x == 1 && (ruleMove x 1 || ruleMove x 2)) || ruleOpc x == 3

/-- Planes of the score layout in order: 0 diagonal, 1 up, 2 left (R297). -/
def rulePlanes (x : Rule) : List Nat := (if ruleSsrc x = 2 then [0] else []) ++ if ruleGapm x = 2 then [1, 2] else []
/-- A plane of the layout is read (R442). -/
def rulePlaneRead (x : Rule) (q : Nat) : Bool :=
  match q with
  | 0 => ruleReadsS x
  | c => ruleMove x c

/-! ### Cell arithmetic (R290 to R294) -/

/-- A value with the flags it raised. -/
abbrev VF := Nat × BitVec 5

/-- An i32 pattern as a number: 0x8000_0000 reads as −(2³¹ − 1) (R291). DEDUCED (log 30). -/
def i32In (v : Nat) : Int := max (sgn v 32) (-2147483647)
/-- DEDUCED (log 30). -/
def i32Out (v : Int) : Nat := wrap (max (-2147483647) (min v 2147483647)) 32

/-- Sum and difference in the rule's value type (R291). -/
def vAdd (f : Bool) (x y : Nat) : VF :=
  if f then F32.deliver 0 (addVals 0 (F32.decode x) (F32.decode y)) else (i32Out (i32In x + i32In y), 0)
def vSub (f : Bool) (x y : Nat) : VF :=
  if f then F32.deliver 0 (subVals 0 (F32.decode x) (F32.decode y)) else (i32Out (i32In x - i32In y), 0)
def vAbs (f : Bool) (x : Nat) : Nat := if f then bits x 0 31 else i32Out (if i32In x < 0 then -i32In x else i32In x)
/-- x < y as numbers; false with a NaN. -/
def vLt (f : Bool) (x y : Nat) : Bool :=
  if f then !(F32.decode x).isNan && !(F32.decode y).isNan && (F32.decode x).lt (F32.decode y) else decide (i32In x < i32In y)
def vNan (f : Bool) (x : Nat) : Bool := f && (F32.decode x).isNan
/-- A word read as an input: an i32 keeps its clamped reading. DEDUCED (log 30). -/
def vIn (f : Bool) (x : Nat) : Nat := if f then x else i32Out (i32In x)

/-- What a cell reads: its three neighbours, its score and its gaps. -/
structure CellIn where
  d  : Nat
  u  : Nat
  l  : Nat
  s  : VF
  gu : Nat
  gl : Nat
  deriving DecidableEq, Repr

/-- The candidate of a move (R290). -/
def CellIn.cand (c : CellIn) (f : Bool) (m : Nat) : VF :=
  match m with
  | 0 => vAdd f c.d c.s.1
  | 1 => vAdd f c.u c.gu
  | _ => vAdd f c.l c.gl

/-- The best candidate: the first in TIE order that no other one beats; a NaN only where all are NaN (R292). -/
def bestMove (f mx : Bool) (cs : List (Nat × Nat)) : Nat × Nat :=
  match cs.filter fun c => !vNan f c.2 with
  | [] => ((cs.headD (0, 0)).1, F32.nan)
  | c :: r => r.foldl (fun b x => if (if mx then vLt f b.2 x.2 else vLt f x.2 b.2) then x else b) c

/-- The enabled candidates in TIE order, with the OR of their flags. -/
def CellIn.cands (c : CellIn) (x : Rule) : List (Nat × Nat) × BitVec 5 :=
  let ms := (tieOrder (ruleTie x)).filter (ruleMove x)
  (ms.map fun m => (m, (c.cand (ruleF32 x) m).1), ms.foldl (fun a m => a ||| (c.cand (ruleF32 x) m).2) 0)

/-- EXP and LOG of R293. -/
def mulF (x y : Nat) : VF := F32.deliver 0 (mulVals (F32.decode x) (F32.decode y))
def expF (x : Nat) : VF :=
  let p := mulF x 0x3FB8AA3B
  let r := F32.deliver 0 (exp2Val (F32.decode p.1))
  (r.1, p.2 ||| r.2)
def logF (y : Nat) : VF :=
  let r := F32.deliver 0 (log2Val (F32.decode y))
  let p := mulF r.1 0x3F317218
  (p.1, r.2 ||| p.2)

/-- The log-sum-exp of the enabled candidates (R293). -/
def CellIn.lse (c : CellIn) (x : Rule) : VF :=
  let cs := c.cands x
  let mx := (bestMove true true cs.1).2
  if cs.1.any fun a => vNan true a.2 then (F32.nan, cs.2)
  else if (F32.decode mx).isInf then (mx, cs.2)
  else
    let e := ([0, 1, 2].filter (ruleMove x)).foldl (fun (e : VF) m =>
      let d := vSub true (c.cand true m).1 mx
      let p := expF d.1
      let a := vAdd true e.1 p.1
      (a.1, e.2 ||| d.2 ||| p.2 ||| a.2)) (0, 0)
    let l := logF e.1
    let h := vAdd true mx l.1
    (h.1, cs.2 ||| e.2 ||| l.2 ||| h.2)

/-- A cell: its value, its trace code and its flags (R292 to R295). -/
def CellIn.eval (c : CellIn) (x : Rule) : Nat × Nat × BitVec 5 :=
  let f := ruleF32 x
  if ruleOpc x = 3 then
    let a := vAdd f c.s.1 c.u
    let b := vAdd f a.1 c.l
    let h := vSub f b.1 c.d
    (h.1, 0, c.s.2 ||| a.2 ||| b.2 ||| h.2)
  else
    let cs := c.cands x
    let mx := ruleOpc x != 0
    let b := bestMove f mx cs.1
    if ruleOpc x = 2 then
      let h := c.lse x
      (h.1, b.1, c.s.2 ||| h.2)
    else if ruleFloor x && !vNan f b.2 && !(if mx then vLt f 0 b.2 else vLt f b.2 0) then (0, 3, c.s.2 ||| cs.2)
    else (b.2, b.1, c.s.2 ||| cs.2)

/-! ### Record fields (R296, R307) -/

def Rec.spc (r : Rec) : Nat := r.n 8 1 % 2
def Rec.np (r : Rec) : Nat := r.n 6 1 + 1
def Rec.tb (r : Rec) : Nat := r.n 7 1
def Rec.srp (r : Rec) : Nat := r.n 0x3C 2
/-- KEEP of a QREC. -/
def Rec.keep (r : Rec) : Bool := bits (r.n 1 1) 3 1 == 1
/-- The distance between problems; 0 where a record has one. -/
def Rec.pitch (r : Rec) : Nat := if r.kind = 0x10 && 1 < r.np then r.n 0xC 4 else 0

/-- The operands a record uses outside the score planes: offset of the address field, bytes of one problem up to the highest it
touches, alignment (R297, R442). Only U reads the last word of TOP, and only L that of LEFT. -/
def Rec.fields (r : Rec) (x : Rule) : List (Nat × Nat × Nat) :=
  let m := r.m
  let n := r.cols
  let e := if ruleSsrc x = 3 then 4 else 1
  let seq := ruleReadsS x && ruleSsrc x != 2
  (if ruleMove x 1 then [(0x20, 4 * n, 4)] else if ruleMove x 0 then [(0x20, 4 * (n - 1), 4)] else []) ++
    (if ruleMove x 2 then [(0x24, 4 * m, 4)] else if ruleMove x 0 then [(0x24, 4 * (m - 1), 4)] else []) ++
    (if ruleMove x 0 then [(0x28, 4, 4)] else []) ++
    [(0x2C, if r.kind = 0x11 then 0x210 + 0x204 else 0x204, 4)] ++
    (if seq then [(0x30, e * m, e), (0x34, e * n, e)] else [])

/-- Planes of the score layout that are read, and for QRECB gradient planes that are written: address field, planes in one
problem, and the highest plane touched. -/
def Rec.planes (r : Rec) (x : Rule) : List (Nat × Nat × Nat) :=
  let ps := rulePlanes x
  let read := (indexed ps).filter fun p => rulePlaneRead x p.2
  (if read.isEmpty then [] else [(0x38, ps.length, read.foldl (fun a p => max a p.1) 0)]) ++
    if r.kind = 0x11 && !ps.isEmpty then [(0xC, ps.length, ps.length - 1)] else []

/-! ### Issue checks (R298) -/

def recurIll (r : Rec) : Bool :=
  let h := r.n 1 1
  bits (r.n 3 1) 2 6 != 0 || decide (63 < r.n 4 1) || decide (63 < r.n 5 1) || decide (3 < r.n 7 1) || decide (1 < r.n 8 1) ||
    (if r.kind = 0x12 then bits h 3 5 != 0 || r.n 2 1 != 0 || r.n 6 1 != 0 || r.n 9 7 != 0 || r.n 0x28 24 != 0
     else bits h 4 4 != 0 || decide (15 < r.n 2 1) || r.n 9 3 != 0 || r.n 0x3E 2 != 0 ||
      (r.kind == 0x11 && (r.keep || r.n 6 1 != 0)))

def recurAlign (r : Rec) (x : Rule) : Bool :=
  r.n 0x18 8 % 8 != 0 ||
    (if r.kind = 0x12 then r.n 0x24 4 % 8 != 0
     else (r.fields x).any (fun f => r.n f.1 4 % f.2.2 != 0) || (r.planes x).any (fun p => r.n p.1 4 % 4 != 0) ||
      (!(r.planes x).isEmpty && r.srp % 4 != 0) || (r.kind == 0x10 && decide (1 < r.np) && r.n 0xC 4 % 4 != 0))

/-- The largest span of one problem that PPITCH separates: the out block's 0x210 bytes, where no vector has more than 256. -/
def problemSpan : Nat := 0x210

def recurShape (r : Rec) (x : Rule) : Bool :=
  r.kind != 0x12 &&
    ((ruleTrc x && decide (4 < r.tb + r.np)) || (r.keep && decide (1 < r.np)) ||
      (!(r.planes x).isEmpty && decide (r.srp < 4 * r.cols)) ||
      (decide (1 < r.np) && decide (r.n 0xC 4 < problemSpan)))

def State.recurExtent (s : State) (r : Rec) (e : RecEnv) (x : Rule) : Option Flt :=
  let chk (ea hi : Nat) : Option Flt := s.recRange e.team e.core e.asid r.spc ea hi
  if r.kind = 0x12 then (chk (r.n 0x20 4) 128).or (chk (r.n 0x24 4) 8)
  else
    ((r.fields x).foldl (fun a f => a.or
      (if f.2.1 = 0 then none else chk (r.n f.1 4) ((r.np - 1) * r.pitch + f.2.1))) none).or
      ((r.planes x).foldl (fun a p => a.or (chk (r.n p.1 4)
        ((((r.np - 1) * p.2.1 + p.2.2) * 64 + r.m - 1) * r.srp + 4 * r.cols))) none)

/-- The checks of a recurrence record in order (R298), by the image that stands in its slot at the issue. DESIGN CHOICE (log 79). -/
def State.checkRecur (s : State) (r : Rec) (e : RecEnv) : Except Flt (State × Rec) :=
  let x := nget (s.cluster (clusterOfCore e.core)).rules (r.n 2 1 % 16) []
  if recurIll r then .error (flt .illInst)
  else if recurAlign r x then .error (flt .align)
  else if !e.handles.contains r.ah || (r.kind != 0x12 && !e.slots.contains (r.n 2 1)) ||
      (r.kind == 0x11 && !e.handles.contains (r.ah ^^^ 1)) then .error (flt .perm)
  else if r.kind ≠ 0x12 && ruleMoves x = 0 then .error (flt .rule)
  else if recurShape r x then .error (flt .qShape)
  else match s.recurExtent r e x with
    | some f => .error f
    | none =>
      match s.recToken r e with
      | .error f => .error f
      | .ok s => .ok (s, r)

/-! ### Reading and writing a record's scratchpad operands (R297) -/

/-- Bytes of a record's operand; beyond the allocation they read 0. DESIGN CHOICE (log 79). -/
def State.recBytes (s : State) (r : Rec) (ea n : Nat) : List Byte :=
  let p := recLoc r.team r.core r.spc ea
  if p.off + n ≤ s.nearSize p then s.nearRead p n else List.replicate n 0

/-- Write bytes of a record's operand; beyond the allocation nothing is written. DESIGN CHOICE (log 79). -/
def State.recWrite (s : State) (r : Rec) (ea : Nat) (bs : List Byte) : State :=
  let p := recLoc r.team r.core r.spc ea
  if p.off + bs.length ≤ s.nearSize p then s.nearWrite p bs else s

def State.recWord (s : State) (r : Rec) (ea : Nat) : Nat := leNat (s.recBytes r ea 4)

/-- Word i of an operand of problem p. -/
def State.recVec (s : State) (r : Rec) (field p i : Nat) : Nat := s.recWord r (r.n field 4 + p * r.pitch + 4 * i)

/-- Cell (i, j) of score plane kind c of problem p, 0 where the layout has none. -/
def State.recPlane (s : State) (r : Rec) (p c i j : Nat) : Nat :=
  match (indexed (rulePlanes r.rule)).find? fun q => q.2 == c with
  | some q => s.recWord r (r.n 0x38 4 + ((p * (rulePlanes r.rule).length + q.1) * 64 + i) * r.srp + 4 * j)
  | none => 0

/-- The score of a cell (R290). -/
def State.recScore (s : State) (r : Rec) (p i j : Nat) : VF :=
  let x := r.rule
  let f := ruleF32 x
  let byte (field k : Nat) : Nat := leNat (s.recBytes r (r.n field 4 + p * r.pitch + k) 1)
  if !ruleReadsS x then (0, 0)
  else match ruleSsrc x with
    | 0 => (vIn f (ruleConst x (if byte 0x30 i = byte 0x34 j then 8 else 12)), 0)
    | 1 => (vIn f (ruleConst x (0x20 + 4 * (16 * (byte 0x30 i % 16) + byte 0x34 j % 16))), 0)
    | 2 => (vIn f (s.recPlane r p 0 i j), 0)
    | _ => let d := vSub f (s.recVec r 0x30 p i) (s.recVec r 0x34 p j); (vAbs f d.1, d.2)

/-- What cell (i, j) of problem p reads besides its neighbours. -/
def State.recIn (s : State) (r : Rec) (p i j d u l : Nat) : CellIn :=
  let x := r.rule
  let f := ruleF32 x
  let sc := s.recScore r p i j
  { d := d, u := u, l := l, s := sc
    gu := (match ruleGapm x with | 0 => vIn f (ruleConst x 16) | 1 => sc.1 | _ => vIn f (s.recPlane r p 1 i j))
    gl := (match ruleGapm x with | 0 => vIn f (ruleConst x 20) | 1 => sc.1 | _ => vIn f (s.recPlane r p 2 i j)) }

/-- The neighbours D, U, L of cell (i, j) of problem p: cells of the region by `h`, else the in-selvedge (R284). -/
def State.recNbrs (s : State) (r : Rec) (p : Nat) (h : Nat → Nat → Nat) (i j : Nat) : Nat × Nat × Nat :=
  let f := ruleF32 r.rule
  let top (j : Nat) : Nat := vIn f (s.recVec r 0x20 p j)
  let left (i : Nat) : Nat := vIn f (s.recVec r 0x24 p i)
  (if i = 0 then (if j = 0 then vIn f (s.recVec r 0x28 p 0) else top (j - 1))
     else if j = 0 then left (i - 1) else h (i - 1) (j - 1),
   if i = 0 then top j else h (i - 1) j, if j = 0 then left i else h i (j - 1))

/-- What cell (i, j) of problem p reads, its neighbours in the region given by `h`. -/
def State.recCell (s : State) (r : Rec) (p : Nat) (h : Nat → Nat → Nat) (i j : Nat) : CellIn :=
  let x := s.recNbrs r p h i j
  s.recIn r p i j x.1 x.2.1 x.2.2

/-- The cells of an anti-diagonal of an m × n region. -/
def antiDiagonal (m n w : Nat) : List (Nat × Nat) :=
  ((List.range m).filter fun i => decide (i ≤ w) && decide (w - i < n)).map fun i => (i, w - i)

/-! ### QREC (R285, R303, R310) -/

/-- The step latency L (R309). -/
def stepLatency (x : Rule) : Nat := if ruleOpc x = 2 then 24 else if ruleF32 x then 6 else 2

/-- The problems that compute a step in a cycle of the sweep, with their steps: problem p enters step w at cycle L·w + p
(R285). -/
def Rec.frontsAt (r : Rec) (t : Nat) : List (Nat × Nat) :=
  let l := stepLatency r.rule
  (List.range r.np).filterMap fun p =>
    if p ≤ t && (t - p) % l == 0 && decide ((t - p) / l < r.m + r.cols - 1) then some (p, (t - p) / l) else none

/-- The next cycle of the sweep, from t on, in which a problem computes. -/
def Rec.nextFront (r : Rec) (t : Nat) : Option Nat :=
  (rangeFrom t (stepLatency r.rule)).find? fun u => !(r.frontsAt u).isEmpty

/-- The key of a cell of problem p among the values a record holds. -/
def waveKey (p i j : Nat) : Nat := 4096 * p + cellKey i j

/-- The value of a cell computed before. -/
def Rec.held (r : Rec) (p i j : Nat) : Nat := nget r.wave (waveKey p i j) 0

/-- Write the out block of a problem from the values of its last row and column (R297). -/
def State.recOut (s : State) (r : Rec) (p : Nat) (h : Nat → Nat → Nat) : State :=
  let o := r.n 0x2C 4 + p * r.pitch
  let m := r.m - 1
  let n := r.cols - 1
  let s := s.recWrite r o ((List.range r.cols).flatMap fun j => leBytes 4 (h m j))
  let s := s.recWrite r (o + 0x100) ((List.range r.m).flatMap fun i => leBytes 4 (h i n))
  s.recWrite r (o + 0x200) (leBytes 4 (h m n))

/-- The key of a cell of a traceback tile of a handle (R295). -/
def traceKey (ah tile i j : Nat) : Nat := 4096 * (4 * (ah % 2) + tile) + cellKey i j

/-- Write the trace codes of cells. -/
def State.setTrace (s : State) (r : Rec) (tile : Nat) (cs : List (Nat × Nat × Nat)) : State :=
  s.modCluster r.cluster fun c => c.modEngine (r.ah / 2) fun e =>
    { e with trace := cs.foldl (fun m c => nput m (traceKey r.ah tile c.1 c.2.1) (BitVec.ofNat 2 c.2.2)) e.trace }

/-- One step of one problem: the cells of anti-diagonal w, their trace codes, the bank under KEEP, and after the last step the
out block. Of the problem's values the record keeps those of the last two steps, the last row and the last column, and none
once the problem is done (R303, R310). -/
def State.recFront (s : State) (r : Rec) (f : Nat × Nat) : State :=
  let p := f.1
  let w := f.2
  let m := r.m
  let n := r.cols
  let last := w + 2 == m + n
  let cs := (antiDiagonal m n w).map fun c => (c.1, c.2, (s.recCell r p (r.held p) c.1 c.2).eval r.rule)
  let wave := cs.foldl (fun v c => nput v (waveKey p c.1 c.2.1) c.2.2.1) r.wave
  let needed (k : Nat) : Bool :=
    let i := k % 4096 / 64
    let j := k % 64
    decide (w ≤ i + j + 1) || i + 1 == m || j + 1 == n
  let s := if ruleTrc r.rule then s.setTrace r (r.tb + p) (cs.map fun c => (c.1, c.2.1, c.2.2.2.1)) else s
  let s := if r.keep then s.setBank r.cluster r.ah fun b => putCells b (cs.map fun c => (c.1, c.2.1, BitVec.ofNat 32 c.2.2.1)) else s
  let s := if last then s.recOut r p fun i j => nget wave (waveKey p i j) 0 else s
  s.modRec r.id fun y =>
    { y with
      flags := cs.foldl (fun a c => a ||| c.2.2.2.2) y.flags
      wave := y.wave.filter (fun e => decide (e.1 / 4096 < p)) ++
        (if last then [] else wave.filter fun e => e.1 / 4096 == p && needed e.1) ++
        y.wave.filter fun e => decide (p < e.1 / 4096) }

/-- One more step of a record is done; after the last one it is finished. -/
def State.stepDone (s : State) (r : Rec) (next : Nat) (more : Bool) : State :=
  let s := s.modRec r.id fun x => { x with progress := next }
  if more then s else s.finishRec r.id

def evQrecRun (cl k : Nat) (s : State) : Option State :=
  (s.runnable cl k fun r => r.kind == 0x10).map fun x =>
    let r := x.2
    match r.nextFront r.progress with
    | none => x.1.finishRec r.id
    | some t => ((r.frontsAt t).foldl (fun s f => s.recFront r f) x.1).stepDone r (t + 1) (r.nextFront (t + 1)).isSome

/-! ### QRECB (R304 to R306) -/

def fOne : Nat := 0x3F800000

/-- The weights of a cell: D, U, L and s, with the flags of their computation (R305). -/
def CellIn.weights (c : CellIn) (x : Rule) (h : Nat) : Nat × Nat × Nat × Nat × BitVec 5 :=
  let f := ruleF32 x
  if ruleOpc x = 3 then (0xBF800000, fOne, fOne, fOne, 0)
  else
    let e := c.eval x
    let hf := F32.decode h
    let w (m : Nat) : VF :=
      if !ruleMove x m then (0, 0)
      else if ruleOpc x = 2 then
        let v := c.cand f m
        if v.1 = F32.inf true || hf.isNan || hf.isInf then (0, 0)
        else let d := vSub true v.1 h; let p := expF d.1; (p.1, d.2 ||| p.2)
      else (if e.2.1 = m then fOne else 0, 0)
    let d := w 0
    let u := w 1
    let l := w 2
    let a := vAdd true d.1 u.1
    let b := vAdd true a.1 l.1
    let ws : VF := if ruleGapm x = 1 then (b.1, a.2 ||| b.2) else (d.1, 0)
    let cf := if ruleOpc x = 2 then c.s.2 ||| (c.cands x).2 else e.2.2
    (d.1, u.1, l.1, ws.1, d.2 ||| u.2 ||| l.2 ||| ws.2 ||| cf)

/-- FADD(g, a, b): a product and a sum rounded once (R306). -/
def faddF (g : VF) (a b : Nat) : VF :=
  let x := F32.deliver 0 (fmaVals 0 (F32.decode a) (F32.decode b) (F32.decode g.1))
  (x.1, g.2 ||| x.2)

def addF (g : VF) (a : Nat) : VF := let x := vAdd true g.1 a; (x.1, g.2 ||| x.2)

/-- The weights of cell (i, j) from the forward values in bank AH (R305). -/
def State.recWeights (s : State) (r : Rec) (i j : Nat) : Nat × Nat × Nat × Nat × BitVec 5 :=
  let f := ruleF32 r.rule
  let bank := s.bank r.cluster r.ah
  let h (i j : Nat) : Nat := vIn f (cellOf bank i j).toNat
  (s.recCell r 0 h i j).weights r.rule (h i j)

/-- The gradient of a cell that is done, in bank AH xor 1 (R304). -/
def State.gradOf (s : State) (r : Rec) (i j : Nat) : Nat := (cellOf (s.bank r.cluster (r.ah ^^^ 1)) i j).toNat

/-- The gradient of one cell from those of its successors, their weights and its seeds (R306). -/
def State.recGrad (s : State) (r : Rec) (i j : Nat) : VF :=
  let m := r.m
  let n := r.cols
  let seed (o : Nat) : Nat := s.recWord r (r.n 0x2C 4 + o)
  let v : VF := (0, 0)
  let v := if i + 1 < m && j + 1 < n then faddF v (s.gradOf r (i + 1) (j + 1)) (r.held 0 (i + 1) (j + 1)) else v
  let v := if i + 1 < m then faddF v (s.gradOf r (i + 1) j) (r.held 1 (i + 1) j) else v
  let v := if j + 1 < n then faddF v (s.gradOf r i (j + 1)) (r.held 2 i (j + 1)) else v
  let v := if i + 1 = m then addF v (seed (4 * j)) else v
  let v := if j + 1 = n then addF v (seed (0x100 + 4 * i)) else v
  if i + 1 = m && j + 1 = n then addF v (seed 0x200) else v

/-- Write values with their flags, and OR the flags into the record. -/
def State.recWrites (s : State) (r : Rec) (ws : List (Nat × VF)) : State :=
  (ws.foldl (fun s y => s.recWrite r y.1 (leBytes 4 y.2.1)) s).modRec r.id fun y =>
    { y with flags := ws.foldl (fun a y => a ||| y.2.2) y.flags }

/-- One reverse step: the gradients of anti-diagonal w and their planes. The record keeps the move weights of the last two steps,
of the first row and of the first column (R306, R310). -/
def State.recBack (s : State) (r : Rec) (w : Nat) : State :=
  let gs := (antiDiagonal r.m r.cols w).map fun c => (c, s.recWeights r c.1 c.2, s.recGrad r c.1 c.2)
  let planes := (indexed (rulePlanes r.rule)).flatMap fun q => gs.map fun g =>
    let x := g.2.1
    let v := match q.2 with | 0 => x.2.2.2.1 | 1 => x.2.1 | _ => x.2.2.1
    (r.n 0xC 4 + (q.1 * 64 + g.1.1) * r.srp + 4 * g.1.2, mulF g.2.2.1 v)
  let s := s.setBank r.cluster (r.ah ^^^ 1) fun b => putCells b (gs.map fun g => (g.1.1, g.1.2, BitVec.ofNat 32 g.2.2.1))
  let needed (k : Nat) : Bool :=
    let i := k % 4096 / 64
    let j := k % 64
    decide (i + j ≤ w + 1) || i == 0 || j == 0
  (s.recWrites r planes).modRec r.id fun y =>
    { y with
      flags := gs.foldl (fun a g => a ||| g.2.1.2.2.2.2 ||| g.2.2.2) y.flags
      wave := (gs.foldl (fun v g => nput (nput (nput v (waveKey 0 g.1.1 g.1.2) g.2.1.1) (waveKey 1 g.1.1 g.1.2) g.2.1.2.1)
        (waveKey 2 g.1.1 g.1.2) g.2.1.2.2.1) y.wave).filter fun e => needed e.1 }

/-- The in-gradient block, after the last reverse step (R306). -/
def State.recInGrads (s : State) (r : Rec) : State :=
  let m := r.m
  let n := r.cols
  let o := r.n 0x2C 4 + 0x210
  let zero : VF := (0, 0)
  let top (j : Nat) : VF :=
    faddF (if j + 1 < n then faddF zero (s.gradOf r 0 (j + 1)) (r.held 0 0 (j + 1)) else zero) (s.gradOf r 0 j) (r.held 1 0 j)
  let left (i : Nat) : VF :=
    faddF (if i + 1 < m then faddF zero (s.gradOf r (i + 1) 0) (r.held 0 (i + 1) 0) else zero) (s.gradOf r i 0) (r.held 2 i 0)
  s.recWrites r ((List.range n).map (fun j => (o + 4 * j, top j)) ++ (List.range m).map (fun i => (o + 0x100 + 4 * i, left i)) ++
    [(o + 0x200, faddF zero (s.gradOf r 0 0) (r.held 0 0 0))])

def evQrecbRun (cl k : Nat) (s : State) : Option State :=
  (s.runnable cl k fun r => r.kind == 0x11).map fun x =>
    let r := x.2
    let steps := r.m + r.cols - 1
    if r.progress < steps then (x.1.recBack r (steps - 1 - r.progress)).stepDone r (r.progress + 1) true
    else (x.1.recInGrads r).stepDone r (steps + 1) false

/-! ### QTRACE (R308) -/

/-- Where a walk goes from cell (i, j) by a code: on to a cell, or to a stop with its KIND. -/
def traceMove (c i j : Nat) : (Nat × Nat) ⊕ (Int × Int × Nat) :=
  let ni : Int := if c = 2 then i else (i : Int) - 1
  let nj : Int := if c = 1 then j else (j : Int) - 1
  if c = 3 then .inr (i, j, 3)
  else if ni < 0 && nj < 0 then .inr (ni, nj, 2)
  else if ni < 0 then .inr (ni, nj, 0)
  else if nj < 0 then .inr (ni, nj, 1)
  else .inl (ni.toNat, nj.toNat)

/-- One code of the walk, and at its stop the result word. -/
def evQtraceRun (cl k : Nat) (s : State) : Option State :=
  (s.runnable cl k fun r => r.kind == 0x12).map fun x =>
    let s := x.1
    let r := x.2
    let i := nget r.wave 0 (r.n 4 1)
    let j := nget r.wave 1 (r.n 5 1)
    let c := (nget (s.engineOf r).trace (traceKey r.ah r.tb i j) 0).toNat
    let steps := r.progress + 1
    let s := s.recWrite r (r.n 0x20 4 + r.progress) [BitVec.ofNat 8 c]
    match traceMove c i j with
    | .inl p => (s.modRec r.id fun y => { y with wave := [(0, p.1), (1, p.2)] }).stepDone r steps true
    | .inr e => (s.recWrite r (r.n 0x24 4) (leBytes 8 (wrap e.1 8 + 256 * wrap e.2.1 8 + 65536 * e.2.2 +
        4294967296 * steps))).stepDone r steps false

/-! ### QRULE (R302) -/

/-- A record of the team that was issued before the given number and names the slot has not started. -/
def State.slotBusy (s : State) (k slot before : Nat) : Bool :=
  s.records.any fun r => r.team == some k && (r.kind == 0x10 || r.kind == 0x11) && r.n 2 1 == slot && decide (r.id < before) &&
    !r.started

/-- DEDUCED (log 28). -/
def runQrule (r : QruleOp) (s : State) : State :=
  if s.parts_.isEmpty then s
  else
    let l := s.t0
    let ea := s.addrOf l r.space r.a
    let slot := r.slot.toNat
    let cl := clusterOfCore s.issCore
    match s.issTeam with
    | none => s.allFault (flt (if ea % 32 ≠ 0 then .align else .perm))
    | some k =>
      if ea % 32 ≠ 0 then s.allFault (flt .align)
      else if !(s.team k).rslots.contains slot then s.allFault (flt .perm)
      else match s.rangeOf l r.space.toNat ea 1056 true with
        | .error f => s.allFault f
        | .ok p =>
          match s.loadRange l p 1056 true with
          | .error f => s.allFault f
          | .ok (t, img) =>
            let before := match s.ruleWaits.find? fun w => w.who == s.whoOf l with | some w => w.before | none => s.fresh
            if s.slotBusy k slot before then s.parts_.foldl (fun s m => s.dropLane m (.rule slot)) s
            else
              let whos := s.parts_.map s.whoOf
              let t := { t with ruleWaits := t.ruleWaits.filter fun w => !whos.contains w.who }
              if ruleBad img then t.allFault (flt .rule)
              else t.modCluster cl fun c => { c with rules := nput c.rules slot img }

/-! ### Records of tile nodes (R370, R443) -/

/-- A tile node's record as the scheduler hands it to the queue: its AH, and its RSLOT where it names one, are the
node's. DESIGN CHOICE (log 31). -/
def nodeRecBytes (n : Node) (bs : List Byte) : List Byte :=
  let k := bnat bs 0 1
  let b2 := if k = 0x10 || k = 0x11 then leBytes 1 (n.rslot.getD 0) else bslice bs 2 1
  bs.take 1 ++ leBytes 1 (bnat bs 1 1 / 8 * 8 + n.handle) ++ b2 ++ bs.drop 3

/-- A node fails: it ends in error, nothing more of it runs, and its packet's queue records the code (R443, R363). -/
def State.failNode (s : State) (id code : Nat) : State :=
  let s := s.modNode id fun n => { n with err := true, fin := true, nextRec := 256 }
  match (s.nodes.find? fun n => n.id == id).bind fun n => s.packets.find? fun p => p.id == n.pkt with
  | some p => s.noteErr p.queue (BitVec.ofNat 64 p.idx) code
  | none => s

/-- Issue the next record of a tile node, or fail the node (R370, R443); with no place in the queue it waits (R256), and
while a port holds its record back (R420).
DESIGN CHOICE (log 31). -/
def State.issueNodeRec (s : State) (id : Nat) : State :=
  match s.nodes.find? fun n => n.id == id with
  | none => s
  | some n =>
    if bnat n.bytes 0x38 1 ≤ n.nextRec then s.modNode id fun n => { n with fin := true }
    else if Config.clusterRecords ≤ (s.queueOf n.unitAt).length then s
    else
      match s.packets.find? fun p => p.id == n.pkt with
      | none => s
      | some pk =>
        let core := 4 * n.unitAt
        let asid := (s.queue pk.queue).asid
        let w : Who := .node id
        let at_ (i : Nat) : Loc := .glob (bnat n.bytes 0x28 8 + 64 * n.nextRec + 32 * i)
        let read (s : State) (i : Nat) : Except Flt (State × List Byte) := s.unitRead core asid (s.unitOf w) (at_ i) 32 .read
        match readEach read s [0, 1] with
        | .error f => if f.code = .delayed then s else s.failNode id 7
        | .ok (s, bs) =>
          let bytes := nodeRecBytes n bs.flatten
          let kind := bnat bytes 0 1
          let e : RecEnv := ⟨none, core, asid, [n.handle], n.rslot.toList, none⟩
          let r0 := newRec kind bytes e w (s.unitOf w) false (s.tid asid)
          let known := [1, 2, 3, 4, 0x10, 0x11, 0x12].contains kind
          let chk := if kind ≤ 4 then s.checkProduct r0 e else s.checkRecur r0 e
          if !known || bnat bytes 3 1 ≠ 0 then s.failNode id 7
          else match chk with
            | .error _ => s.failNode id 7
            | .ok (s, r) =>
              let rm := if r.n 2 1 = 5 then 0 else r.n 2 1
              let r := { r with id := s.fresh, node := some id, round := if kind = 4 then rm else 0 }
              ({ s.bump with records := s.records ++ [r] }).modNode id fun n => { n with nextRec := n.nextRec + 1 }

/-! ### Completion (R258) -/

/-- The tile nodes that run in a cluster, the earliest first. -/
def State.tileNodes (s : State) (cl : Nat) : List Nat :=
  (s.nodes.filter fun n => bnat n.bytes 0 1 == 2 && n.stat == .running && n.unitAt == cl && !n.fin).map (·.id)

/-- The tile nodes of a cluster that have no record in the queue issue their next one. -/
def State.issueTiles (s : State) (cl : Nat) : State :=
  (s.tileNodes cl).foldl (fun s n => if s.records.any fun x => x.node == some n then s else s.issueNodeRec n) s

/-- The tile nodes of every cluster that had to wait for a record or for a place issue it. -/
def State.sweepTiles (s : State) : State :=
  (dedup ((s.nodes.filter fun n => bnat n.bytes 0 1 == 2 && n.stat == .running && !n.fin).map (·.unitAt))).foldl
    State.issueTiles s

/-- A record leaves the queue and its engine is free; tile nodes that have no record in the queue issue their next one. -/
def State.removeRec (s : State) (r : Rec) : State :=
  let s := { s with records := s.records.filter fun x => x.id != r.id }
  let s := if r.started then
      (s.modCluster r.cluster fun c => c.modEngine r.engine fun e => { e with busy := none, scale := [] }).modCore
        (4 * r.cluster + r.engine) fun k => k.count 0x0B 1
    else s
  s.issueTiles r.cluster

/-- The flags of a record enter its team's FSTAT, once; a tile node's are discarded (R258, R370). -/
def State.recFlags (s : State) (r : Rec) : State :=
  match r.team with
  | some k => (s.modTeam k fun t => { t with fstat := t.fstat ||| r.flags }).modRec r.id fun x => { x with flags := 0 }
  | none => s

/-- The k-th record of a queue, all its terms done, completes: its flags, then its token word; a fault of the word parks
the record (R259, R299). -/
def evRecordCompletion (cl k : Nat) (s : State) : Option State :=
  match (s.queueOf cl)[k]? with
  | none => none
  | some r =>
    if !r.finished || r.parked || r.frozen || !s.recRuns r then none
    else
      let s := s.recFlags r
      if r.n 0x18 8 = 0 then some (s.removeRec r)
      else match s.unitWrite r.core r.asid r.unit (.glob (r.n 0x18 8)) (leBytes 8 r.tok.toNat) with
        | .error f => some (s.parkRec r f)
        | .ok s => some (s.removeRec r)

/-! ### Meanings -/

def execQrec (r : R2) (s : State) : Out1 := .next (s.issue (.qrec r) fun s => s.issueRec 0x10 r State.checkRecur 65)
def execQrecb (r : R2) (s : State) : Out1 := .next (s.issue (.qrecb r) fun s => s.issueRec 0x11 r State.checkRecur 65)
def execQtrace (r : R2) (s : State) : Out1 := .next (s.issue (.qtrace r) fun s => s.issueRec 0x12 r State.checkRecur 65)
/-- Load a rule slot (R302). -/
def execQrule (r : QruleOp) (s : State) : Out1 := .next (s.issue (.qrule r) (runQrule r))
/-- A QREC record runs (R303). -/
def execQrecRun (cl k : Nat) (s : State) : Out1 := .next ((evQrecRun cl k s).getD s)
/-- A QRECB record runs (R306). -/
def execQrecbRun (cl k : Nat) (s : State) : Out1 := .next ((evQrecbRun cl k s).getD s)
/-- A QTRACE record runs (R308). -/
def execQtraceRun (cl k : Nat) (s : State) : Out1 := .next ((evQtraceRun cl k s).getD s)
/-- A record completes (R258). -/
def execRecordCompletion (cl k : Nat) (s : State) : Out1 := .next ((evRecordCompletion cl k s).getD s)

end Sys2Proof.Machine
end

