-- ==== Sys2Proof/Machine/Shuttle.lean ====
section
/-! DEFINITION. Shuttle, stream and copy instructions, majors 0x18 and 0x19 (spec/10_shuttle.md R233 to R254), and the
steps of a stream, a copy channel and a chunk draw (R241, R244, R251). -/

namespace Sys2Proof.Machine
open Sys2Proof

/-! ### Scalar instructions (R235 to R237) -/

/-- Write a register of the issuing Shuttle. -/
def State.putS (s : State) (d : BitVec 7) (v : Dword) : State :=
  match s.iss.who with
  | .shuttle c => s.setS c d.toNat v
  | _ => s

/-- A three-register Shuttle operation (R235). -/
def runSalu (r : S3) (f : Dword → Dword → Dword) (s : State) : State := s.putS r.d (f (s.rd64 0 r.a) (s.rd64 0 r.b))

/-- Shifts by B unsigned; 64 or more leaves no bit, or the sign (R235). -/
def sshlD (a b : Dword) : Dword := if b.toNat ≥ 64 then 0 else a <<< b.toNat
def sshrD (a b : Dword) : Dword := if b.toNat ≥ 64 then 0 else a >>> b.toNat
def ssarD (a b : Dword) : Dword :=
  if b.toNat ≥ 64 then (if a.msb then BitVec.allOnes 64 else 0) else a.sshiftRight b.toNat

def runSaddi (r : SaddiOp) (s : State) : State := s.putS r.d (s.rd64 0 r.a + r.imm.signExtend 64)
def runSldi (r : SldiOp) (s : State) : State := s.putS r.d (r.imm.signExtend 64)

/-- A 64-bit compare of two Shuttle registers (R237). -/
def State.scond (s : State) (cond : BitVec 4) (a b : BitVec 7) : Bool :=
  condHolds 64 cond.toNat (s.rd64 0 a).toNat (s.rd64 0 b).toNat

def runSset (r : SsetOp) (s : State) : State := s.putS r.d (if s.scond r.cond r.a r.b then 1 else 0)

def runSbr (r : SbrOp) (s : State) : State :=
  if r.cond = 12 || s.scond r.cond r.a r.b then
    (match nearTarget s.iss.pc r.off with
     | some pc => s.transfer 0 pc
     | none => s)
  else s

def runSbrf (r : SbrfOp) (s : State) : State :=
  match s.farTarget r.ovl.toNat r.tpkt.toNat with
  | .ok pc => s.transfer 0 pc
  | .error o => s.dropLane 0 o

def runSdone (s : State) : State :=
  match s.iss.who with
  | .shuttle c => s.modShuttle c fun h => { h with active := false, chunk := none }
  | _ => s

/-- The team the issuing Shuttle serves. DEDUCED (log 29). -/
def State.served (s : State) : Option Nat :=
  match s.iss.who with
  | .shuttle c => (s.shuttle c).team
  | _ => none

/-! ### Decisions (R239) -/

/-- Append an entry; a pop that was waiting for it takes it (R97). -/
def State.pushDecision (s : State) (k : Nat) (v : Dword) : State :=
  let t := s.team k
  let pos := t.dqFirst + t.dq.length
  let words (pair : Bool) : List Word :=
    BitVec.ofNat 32 v.toNat :: if pair then [BitVec.ofNat 32 (v.toNat / 4294967296)] else []
  let s := { s with fills := s.fills.map fun (f : Fill) =>
    if f.team = k then
      (match f.val with
       | .decision p w => if p = pos then { f with val := .words (words w) } else f
       | _ => f)
    else f }
  s.modTeam k fun t => { t with dq := t.dq ++ [v] }.retireDq

def runDqpush (a : BitVec 7) (s : State) : State :=
  match s.served with
  | none => s
  | some k =>
    if (s.team k).dq.length ≥ Config.decisionDepth then s.dropLane 0 .retry else s.pushDecision k (s.rd64 0 a)

/-! ### Streams (R240 to R243) -/

/-- The descriptor of R240 in five registers. -/
structure StreamDesc where
  d0 : Nat
  d1 : Nat
  d2 : Nat
  d3 : Nat
  d4 : Nat
  deriving DecidableEq, Repr

def State.streamDesc (s : State) (f : BitVec 7) : StreamDesc :=
  let r (i : Nat) : Nat := match s.iss.who with | .shuttle c => (s.viewS c (f.toNat + i)).toNat | _ => 0
  ⟨r 0, r 1, r 2, r 3, r 4⟩

def StreamDesc.es (d : StreamDesc) : Nat := bits d.d4 32 2
def StreamDesc.space (d : StreamDesc) : Nat := bits d.d4 35 2
def StreamDesc.tid (d : StreamDesc) : Bool := bits d.d4 37 1 == 1
def StreamDesc.size (d : StreamDesc) : Nat := match d.es with | 0 => 4 | 1 => 2 | _ => 1
def StreamDesc.counts (d : StreamDesc) : List Nat := (List.range 4).map fun i => bits d.d1 (16 * i) 16 + 1
def StreamDesc.strides (d : StreamDesc) : List Int :=
  [sgn (bits d.d2 0 32) 32, sgn (bits d.d2 32 32) 32, sgn (bits d.d3 0 32) 32, sgn (bits d.d3 32 32) 32]

/-- Reserved fields and ES (R240, R241). -/
def StreamDesc.bad (d : StreamDesc) : Bool :=
  d.es == 3 || bits d.d4 38 26 != 0 || (d.tid && (d.space != 0 || bits d.d0 10 6 != 0))

/-- The tensor entry breaks R240: invalid, sparse, BFP, or another element size. -/
def streamEntryBad (e : List Byte) (size : Nat) : Bool :=
  !tidValid e || tidSparse e || fmtCode (tidFmt e) == 5 || fmtSize (fmtCode (tidFmt e)) != size

/-- The walk's base (in bytes) and its strides in bytes: a tensor's are scaled by its element size. -/
def StreamDesc.walk (d : StreamDesc) (e : List Byte) : Int × List Int × Int :=
  let ls := sgn (bits d.d4 0 32) 32
  if d.tid then
    let z : Int := d.size
    ((tidBase e : Int) + sgn (bits d.d0 16 48) 48 * z, d.strides.map (· * z), ls * z)
  else (if d.space = 0 then d.d0 else bits d.d0 0 32, d.strides, ls)

/-- The least and the greatest offset of i × stride for i from `lo` to `hi`. -/
def spanOf (lo hi : Nat) (st : Int) : Int × Int := (min (lo * st) (hi * st), max (lo * st) (hi * st))

/-- The least and the greatest byte offset of a box of the walk: ranges of the four indices, all 64 lanes, and the element. -/
def boxSpan (rs : List (Nat × Nat)) (strides : List Int) (ls : Int) (size : Nat) : Int × Int :=
  let ps := (rs.zip strides).map (fun x => spanOf x.1.1 x.1.2 x.2) ++ [spanOf 0 63 ls]
  (ps.foldl (fun a p => a + p.1) 0, ps.foldl (fun a p => a + p.2) (size : Int))

/-- The entry numbered pos in walk order as its four indices, i0 first. -/
def walkIndex (counts : List Nat) (pos : Nat) : List Nat :=
  (counts.foldl (fun (a : List Nat × Nat) c => (a.1 ++ [a.2 % c], a.2 / c)) ([], pos)).1

/-- The boxes that the walk from entry pos on is made of: the rest of the innermost row, then what remains outside it. -/
def walkBoxes (counts : List Nat) (pos : Nat) : List (List (Nat × Nat)) :=
  let ix := walkIndex counts pos
  (List.range counts.length).filterMap fun d =>
    let lo := ix.getD d 0 + if d = 0 then 0 else 1
    let hi := counts.getD d 1 - 1
    if lo ≤ hi then some ((List.range counts.length).map fun j =>
      if j < d then (0, counts.getD j 1 - 1) else if j = d then (lo, hi) else (ix.getD j 0, ix.getD j 0))
    else none

/-- The walk from entry pos on stays inside the allocation of its base. -/
def walkInside (p : Loc) (bound : Option (Nat × Nat)) (counts : List Nat) (pos : Nat) (strides : List Int) (ls : Int)
    (size : Nat) : Bool :=
  (walkBoxes counts pos).all fun b => let x := boxSpan b strides ls size; insideRange p bound x.1 x.2

/-- DEDUCED (log 28). DEDUCED (log 29). -/
def runStream (r : StreamOp) (s : State) : State :=
  match s.iss.who with
  | .shuttle c =>
    let d := s.streamDesc r.a
    let e := s.tid s.issAsid (bits d.d0 0 10)
    let fault (f : Flt) : State := s.dropLane 0 (.flt f)
    if d.bad then fault (flt .illInst)
    else if d.tid && streamEntryBad e d.size then fault (flt .qShape)
    else
      let w := d.walk e
      if !(([w.1, w.2.2] ++ w.2.1).all fun v => decide (v % (d.size : Int) = 0)) then fault (flt .align)
      else
        let at_ : Except Flt (Loc × Option (Nat × Nat)) :=
          if d.space = 0 then .ok (.glob (wrap w.1 64), none) else s.rangeAt 0 d.space w.1.toNat false
        match at_ with
        | .error f => fault f
        | .ok (p, bound) =>
          if !walkInside p bound d.counts 0 w.2.1 w.2.2 d.size then fault (flt .extent)
          else match s.served with
            | none => s
            | some k =>
              if ((s.team k).queue r.q.toNat).stream.running then s.dropLane 0 .retry
              else s.modTeam k fun t => t.modQueue r.q.toNat fun o => { o with stream :=
                { base := p, counts := d.counts, strides := w.2.1, lstride := w.2.2, esize := d.size,
                  sext := bits d.d4 34 1 == 1, pos := 0, pushed := 0, running := true, paused := false,
                  frozen := false, sup := s.issSup, unit := s.unitOf (.shuttle c) } }
  | _ => s

/-- The byte distance of an entry's element 0 from the base. -/
def Stream.delta (st : Stream) : Int :=
  ((walkIndex st.counts st.pos).zip st.strides).foldl (fun a x => a + x.1 * x.2) 0

/-- Read the element of one lane as a Shuttle load does (R241), translated by the cluster's tile translation engine (R399). -/
def State.streamElem (s : State) (c asid : Nat) (st : Stream) (l : Nat) : Except Flt (State × Word) :=
  let p := st.base.move (st.delta + l * st.lstride)
  let ext (bs : List Byte) : Word :=
    if st.sext then BitVec.ofInt 32 (sgn (leNat bs) (8 * st.esize)) else BitVec.ofNat 32 (leNat bs)
  match p with
  | .glob va =>
    (match s.loadBy (.tile (clusterOfCore c)) c asid st.unit va st.esize with
     | .error f => .error f
     | .ok (s, bs) => .ok (s, ext bs))
  | p => .ok (s, ext (if p.off + st.esize ≤ s.nearSize p then s.nearRead p st.esize else []))

/-- The 64 elements of an entry; the first that faults is the stream's fault. -/
def State.streamElems (s : State) (c asid : Nat) (st : Stream) : List Nat → Except Flt (State × List Word)
  | [] => .ok (s, [])
  | l :: r =>
    match s.streamElem c asid st l with
    | .error f => .error f
    | .ok (s, w) =>
      match State.streamElems s c asid st r with
      | .error f => .error f
      | .ok (s, ws) => .ok (s, w :: ws)

/-- An instruction that issued with an underflowing pop takes the entry (R49). -/
def Fill.take (f : Fill) (q pos : Nat) (ws : List Word) : Fill :=
  match f.val with
  | .result i pfx pops srcs =>
    if pops.contains (q, pos) then
      let srcs := srcs ++ [(1000 + 1000000 * q + pos, ws.getD (f.t % 64) 0)]
      { f with val := .result i pfx (pops.filter fun p => p != (q, pos)) srcs }
    else f
  | _ => f

def evStreamEntryPush (k q : Nat) (s : State) : Option State :=
  let t := s.team k
  let o := t.queue q
  let st := o.stream
  let c := coreOfTeam k
  if !t.live || t.liveThreads.isEmpty || (s.part (partOfCore c)).halted || !st.running || st.paused || st.frozen ||
      decide (Config.queueDepth ≤ o.entries.length) then none
  else
    match s.streamElems c t.asid st (List.range 64) with
    | .error ⟨.delayed, _, _⟩ => none
    | .error f =>
      let pause (s : State) : State := s.modTeam k fun t => t.modQueue q fun o => { o with stream := { st with paused := true } }
      some ((pause s).unitFault c 2 (slotOfTeam k) q t.asid st.sup f fun s =>
        (s.modTeam k fun t => t.modQueue q fun o => { o with stream := { st with frozen := true } }).report
          (5000000 + 16 * k + q))
    | .ok (s, ws) =>
      let pos := o.first + o.entries.length
      let total := st.counts.foldl (· * ·) 1
      let s := { s with fills := s.fills.map fun (f : Fill) => if f.team = k then f.take q pos ws else f }
      some (s.modTeam k fun t => (t.modQueue q fun o => { o with
        entries := o.entries ++ [ws]
        stream := { st with pos := st.pos + 1, pushed := st.pushed + 1,
                            running := decide (st.pos + 1 < total) } }).retireQ q)

def runSqstop (r : SqstopOp) (s : State) : State :=
  match s.served with
  | none => s.putS r.d 0
  | some k =>
    let st := ((s.team k).queue r.q.toNat).stream
    if st.running && (st.paused || st.frozen) then s.dropLane 0 .retry
    else (s.modTeam k fun t => t.modQueue r.q.toNat fun o => { o with stream := { o.stream with running := false } }).putS
      r.d (BitVec.ofNat 64 st.pushed)

/-- After a grant, streams whose remaining walks leave the new allocation end (R175). -/
def State.trimStreams (s : State) (k : Nat) : State :=
  let trim (o : OpQueue) : OpQueue :=
    let st := o.stream
    if st.running && st.base.inScratch k &&
        !walkInside st.base (some (0, s.nearSize st.base)) st.counts st.pos st.strides st.lstride st.esize then
      { o with stream := { st with running := false, paused := false } }
    else o
  s.modTeam k fun t => { t with queues := t.queues.map fun e => (e.1, trim e.2) }

/-! ### Copies (R244 to R247) -/

/-- Copies a channel holds. -/
def State.channelCopies (s : State) (cl ch : Nat) : List Copy := s.copies.filter fun c => c.cluster == cl && c.ch == ch

/-- Rows of bytes: base offset, row bytes, rows, pitch. -/
structure Rows where
  off : Nat
  w   : Nat
  h   : Nat
  p   : Int
  deriving DecidableEq, Repr

/-- Row [a, a + w) shares a byte with one of the rows, which ascend (R222, R247). -/
def Rows.meets (x : Rows) (a w : Nat) : Bool :=
  if x.w = 0 || x.h = 0 || w = 0 then false
  else
    let d : Int := (a : Int) - x.off - x.w
    let j : Int := if x.h ≤ 1 || x.p ≤ 0 then 0 else max 0 (d / x.p + 1)
    decide (j < x.h) && decide ((x.off : Int) + j * x.p < a + w) && decide ((a : Int) < x.off + j * x.p + x.w)

def Rows.overlap (x y : Rows) : Bool := (List.range x.h).any fun r => y.meets ((x.off + r * x.p : Int).toNat) x.w

def Copy.rowsOf (c : Copy) : Rows := ⟨c.dst.off, c.width, c.rows, c.dstPitch⟩

/-- The destination overlaps that of an outstanding copy of the space on another channel (R222). -/
def State.destOverlap (s : State) (cl ch asid : Nat) (dst : Loc) (x : Rows) : Bool :=
  s.copies.any fun c => !(c.cluster == cl && c.ch == ch) && c.asid == asid && c.ovl.isNone &&
    c.dst.storage == dst.storage && x.overlap c.rowsOf

/-- Accept a copy: its span on the channel's byte axis, and its place in the issuer's open batch (R244, R246). -/
def State.acceptCopy (s : State) (w : Who) (ch : Nat) (dst src : Loc) (x : Nat × Nat) (sp dp : Int)
    (ovl : Option (Nat × Nat × Nat)) : State × Nat :=
  let cl := clusterOfCore s.issCore
  let start := ((s.cluster cl).channel ch).tail
  let id := s.fresh
  let cp : Copy :=
    { id := id, cluster := cl, ch := ch, core := s.issCore, who := w, unit := s.unitOf w, asid := s.issAsid, dst := dst,
      src := src, width := x.1, rows := x.2, srcPitch := sp, dstPitch := dp, start := start, moved := 0, ovl := ovl,
      stopped := false, frozen := false, sup := s.issSup }
  let b := s.batches w
  let s := { s.bump with copies := s.copies ++ [cp] }
  let s := s.modCluster cl fun k => k.modChannel ch fun h => { h with tail := h.tail + x.1 * x.2 }
  (s.setBatches w { b with opened := b.opened ++ [id] }, start)

/-- One participant's copy (R247). -/
def State.copyOne (s : State) (l : Nat) (r : CpyOp) (w h : Nat) (sp dp : Int) : Except Out State :=
  let d := (s.rd64 l r.a).toNat
  let c := (s.rd64 l r.b).toNat
  let cut (space v : Nat) : Nat := if space = 0 then v else v % 2 ^ 32
  let d := cut r.dsp.toNat d
  let c := cut r.ssp.toNat c
  let al : Bool := decide (d % 4 = 0) && decide (c % 4 = 0) && decide (w % 4 = 0) && decide (sp % 4 = 0) && decide (dp % 4 = 0)
  let last : Int := (h : Int) - 1
  if !al then .error (.flt (flt .align))
  else if h > 1 && decide (dp < w) then .error (.flt (flt .extent))
  else match s.rangeAt l r.dsp.toNat d true, s.rangeAt l r.ssp.toNat c true with
    | .error f, _ => .error (.flt f)
    | _, .error f => .error (.flt f)
    | .ok (dst, db), .ok (src, sb) =>
      let n := w * h
      let full (p : Loc) (b : Option (Nat × Nat)) (pitch : Int) : Bool :=
        n == 0 || insideRange p b (min 0 (last * pitch)) (max 0 (last * pitch) + w)
      if !full dst db dp || !full src sb sp then .error (.flt (flt .extent))
      else if s.destOverlap (clusterOfCore s.issCore) r.ch.toNat s.issAsid dst ⟨dst.off, w, h, dp⟩ then
        .error (.flt (flt .destOvl))
      else if (s.channelCopies (clusterOfCore s.issCore) r.ch.toNat).length ≥ Config.channelDepth then .error .retry
      else
        let x := s.acceptCopy (s.whoOf l) r.ch.toNat dst src (w, h) sp dp none
        .ok (if r.ret then x.1.put64 l r.d.toNat (BitVec.ofNat 64 (x.2 + n)) else x.1)

def runCpy (r : CpyOp) (s : State) : State :=
  s.forParts fun s l =>
    let n := (s.rg l r.len.toNat).toNat
    s.copyOne l r n 1 n n

def runCpy2d (r : CpyOp) (s : State) : State :=
  s.forParts fun s l =>
    let g (i : Nat) : Nat := (s.rg l (r.len.toNat + i)).toNat
    s.copyOne l r (g 0) (g 1) (sgn (g 2) 32) (g 3)

/-! ### SEAL, BWAIT, WPTR (R248 to R250) -/

def runSeal (r : SealOp) (s : State) : State :=
  s.forParts fun s l =>
    let w := s.whoOf l
    let b := s.batches w
    let n := b.count + 1
    .ok ((s.setBatches w ⟨n, [], b.sealed ++ [(n, b.opened)]⟩).put32 l r.d.toNat n)

def runBwait (r : BwaitOp) (s : State) : State :=
  s.forParts fun s l =>
    let n := s.rd l r.a []
    match s.batchWait s.issSup (s.whoOf l) fun b => decide ((n - b).toNat < 2147483648) with
    | some o => .error o
    | none => .ok s

def runWptr (r : WptrOp) (s : State) : State :=
  s.forParts fun s l =>
    let ch := bits (s.rd l r.a []).toNat 0 4
    .ok (s.put64 l r.d.toNat (BitVec.ofNat 64 ((s.cluster (clusterOfCore s.issCore)).channel ch).wp))

/-! ### OVL (R253) -/

/-- A counter of a live thread of the core, or of its Shuttle, lies in the slot. -/
def State.slotInUse (s : State) (c slot : Nat) : Bool :=
  ((s.teamsOfCore c).any fun k => let t := s.team k; t.liveThreads.any fun i => pcSlot (t.thread i).pc == slot) ||
    (((s.shuttle c).active || (s.shuttle c).mode) && pcSlot (s.shuttle c).pc == slot) ||
    ((s.shuttle c).mode && (s.shuttle c).active && pcSlot (s.shuttle c).upc == slot)

/-- DEDUCED (log 29). -/
def runOvl (r : OvlOp) (s : State) : State :=
  match s.iss.who with
  | .shuttle c =>
    let a := (s.rd64 0 r.a).toNat
    let src := (s.rd64 0 r.b).toNat
    let k := bits a 16 13
    let slot := r.slot.toNat
    if slot = 3 && !s.issSup then s.dropLane 0 (.flt (flt .priv))
    else if bits a 10 6 ≠ 0 || bits a 29 35 ≠ 0 then s.dropLane 0 (.flt (flt .illInst))
    else if src % 4 ≠ 0 then s.dropLane 0 (.flt (flt .align))
    else if k = 0 || k > 5461 then s.putS r.d 2
    else if slot = 3 || s.slotInUse c slot then s.putS r.d 1
    else if (s.channelCopies (clusterOfCore c) r.ch.toNat).length ≥ Config.channelDepth then s.dropLane 0 .retry
    else
      let p : Loc := match s.globAt src with | .ok p => p | .error _ => .glob src
      let image := match s.served with | some t => (s.team t).image | none => 0
      let s := s.modCore c fun x => { x with
        slots := ndel x.slots slot
        imem := moutside x.imem (65536 * slot + 12 * k) (65536 * slot + 65536) }
      (s.acceptCopy (.shuttle c) r.ch.toNat (.glob 0) p (12 * k, 1) (12 * k) (12 * k)
        (some (slot, image, bits a 0 10))).1.putS r.d 0
  | _ => s

/-! ### A channel moves bytes (R244, R245) -/

def State.modCopy (s : State) (id : Nat) (f : Copy → Copy) : State :=
  { s with copies := s.copies.map fun c => if c.id = id then f c else c }

/-- The core whose overlay slot an OVL loads. -/
def State.ovlWrite (s : State) (c slot o : Nat) (bs : List Byte) : State :=
  s.modCore c fun k => { k with imem := mwrite k.imem (65536 * slot + o) bs }

/-- The write pointer passes every byte of the axis before the given one. -/
def State.passTo (s : State) (cl ch n : Nat) : State :=
  s.modCluster cl fun k => k.modChannel ch fun h => { h with wp := max h.wp n }

/-- The source address an OVL names: virtual, or physical with bit 63 set. -/
def Loc.srcAddr : Loc → Nat
  | .phys pa => 2 ^ 63 + pa
  | p => p.off

/-- A copy leaves its channel. A completed OVL makes its overlay resident. -/
def State.finishCopy (s : State) (c : Copy) (done : Bool) : State :=
  let s := { s with copies := s.copies.filter fun x => x.id != c.id }
  let s := match c.who with
    | .node n => s.modNode n fun x => { x with fin := true }
    | _ => s
  let s := s.passTo c.cluster c.ch (c.start + c.width * c.rows)
  match c.ovl with
  | some (slot, image, v) =>
    if done then s.modCore c.core fun k => { k with slots := nput k.slots slot ⟨image, v, c.src.srcAddr, c.width⟩ } else s
  | none => s

/-- The next piece: source and destination distances from their bases, and its length, inside one 32-byte sector of each. -/
def Copy.piece (c : Copy) : Int × Int × Nat :=
  let r := c.moved / c.width
  let x := c.moved % c.width
  let so : Int := r * c.srcPitch + x
  let d : Int := r * c.dstPitch + x
  let room (p : Loc) : Nat := 32 - p.off % 32
  (so, d, min (c.width - x) (min (room (c.src.move so)) (room (c.dst.move d))))

/-- A fault of a copy's sector stops the channel at it (R245). -/
def State.stopCopy (s : State) (c : Copy) (f : Flt) : State :=
  (s.modCopy c.id fun x => { x with stopped := true }).unitFault c.core 3 (s.slotOfWho c.who) c.ch c.asid c.sup f fun s =>
    (s.modCopy c.id fun x => { x with frozen := true }).report (6000000 + 16 * c.cluster + c.ch)

/-- The oldest copy of a channel moves its next piece, or is done. DEDUCED (log 29). -/
def evCopyPerform (cl ch : Nat) (s : State) : Option State :=
  match s.channelCopies cl ch with
  | [] => none
  | c :: _ =>
    if c.stopped || c.frozen || (s.part (partOfCluster cl)).halted then none
    else if c.moved ≥ c.width * c.rows then some (s.finishCopy c true)
    else
      let p := c.piece
      let n := p.2.2
      match s.unitRead c.core c.asid c.unit (c.src.move p.1) n (if c.ovl.isSome then .overlay else .read) with
      | .error ⟨.delayed, _, _⟩ => none
      | .error f => some (s.stopCopy c f)
      | .ok (s1, bs) =>
        let w : Except Flt State := match c.ovl with
          | some (slot, _, _) => .ok (s1.ovlWrite c.core slot c.moved bs)
          | none => s1.unitWrite c.core c.asid c.unit (c.dst.move p.2.1) bs
        match w with
        | .error ⟨.delayed, _, _⟩ => none
        | .error f => some (s.stopCopy c f)
        | .ok s2 =>
          let s2 := (s2.modCopy c.id fun x => { x with moved := x.moved + n }).passTo cl ch (c.start + c.moved + n)
          -- a copy node's bytes were asked for by no issuer of a core (R406)
          let s2 := match c.who with | .node _ => s2 | _ => s2.modCore c.core fun k => k.count 0x0E n
          some (if c.moved + n ≥ c.width * c.rows then s2.finishCopy c true else s2)

/-! ### Chunk draws (R251, R252) -/

/-- The checks of a record's address (R252): its physical address. -/
def State.recordAt (s : State) (va : Nat) : Except Flt (State × Nat) :=
  if va % 32 ≠ 0 then .error (flt .align)
  else match s.globAt va with
    | .error f => .error f
    | .ok (.phys pa) =>
      (match s.physOk pa with
       | .error f => .error f
       | .ok _ => if isStackLocal pa then .ok (s, pa) else .error ⟨.perm, va, 0⟩)
    | .ok _ =>
      match s.lookup (.core s.issCore) s.issAsid va with
      | .error f => .error f
      | .ok (s, lf) =>
        if !isStackLocal (lf.pa va) then .error ⟨.perm, va, 0⟩
        else match s.translate (.core s.issCore) s.issAsid va .atomic with
          | .error f => .error f
          | .ok (s, pa, _) => .ok (s, pa)

/-- Send a draw to its record's engine; its destinations are empty until it returns (R50). DEDUCED (log 19). -/
def State.sendDraw (s : State) (w : Who) (ts : List Tix) (d pa va : Nat) : State :=
  let s := match s.iss.who with
    | .gang k _ _ => s.modTeam k fun t => ts.foldl (fun t i => t.modThread i fun x =>
        [d, d + 1, d + 2].foldl Thread.clearFull x) t
    | .shuttle c => s.modShuttle c fun h => h.setHold (.draw s.fresh)
    | _ => s
  { s with draws := s.draws ++ [⟨s.fresh, w, ts, d, pa, s.issSup, va, s.unitOf w⟩], fresh := s.fresh + 1 }

def runChunk (r : ChunkOp) (s : State) : State :=
  match s.iss.who with
  | .gang _ b ls =>
    if r.gang then
      (if ls.isEmpty then s
       else match s.recordAt (s.rd64 s.t0 r.a).toNat with
        | .error f => s.allFault f
        | .ok (s, pa) => s.sendDraw (s.whoOf s.t0) (ls.map (64 * b + ·)) r.d.toNat pa (s.rd64 s.t0 r.a).toNat)
    else s.forParts fun s l =>
      match s.recordAt (s.rd64 l r.a).toNat with
      | .error f => .error (.flt f)
      | .ok (s, pa) => .ok (s.sendDraw (s.whoOf l) [64 * b + l] r.d.toNat pa (s.rd64 l r.a).toNat)
  | .shuttle c =>
    (match s.recordAt (s.rd64 0 r.a).toNat with
     | .error f => s.dropLane 0 (.flt f)
     | .ok (s, pa) => s.sendDraw (.shuttle c) [] r.d.toNat pa (s.rd64 0 r.a).toNat)
  | _ => s

/-- The values of one draw from a record's NEXT, END, MIN, MAX and WORKERS (R252): start and size. -/
def drawOf (next stop mn mx workers : Nat) : Nat × Nat :=
  let rem := stop - next
  let w := max workers 1
  let lo := max mn 1
  let hi := max mx lo
  (next, if rem = 0 then 0 else min rem (max lo (min ((rem + 2 * w - 1) / (2 * w)) hi)))

/-- One indivisible step at a record (R252, R351). -/
def State.drawStep (s : State) (pa : Nat) : State × Nat × Nat :=
  let n (o w : Nat) : Nat := s.homeNat (pa + o) w
  let x := drawOf (n 0 8) (n 8 8) (n 16 4) (n 20 4) (n 24 4)
  (s.bobbinWrite pa (leBytes 8 ((x.1 + x.2) % 2 ^ 64)), x)

/-- A draw on a record of a deterministic region acts on the unit's view (R226). -/
def State.drawView (s : State) (u : UnitKey) (pa va : Nat) : State × Nat × Nat :=
  let n (o w : Nat) : Nat := leNat (s.viewRead u (pa + o) w)
  let x := drawOf (n 0 8) (n 8 8) (n 16 4) (n 20 4) (n 24 4)
  (s.viewWrite u pa va (leBytes 8 ((x.1 + x.2) % 2 ^ 64)), x)

/-- The chunk a forwarded draw gets, where its grid has one to give again (R229, R375). -/
def State.redrawn (s : State) (d : Draw) : Option Chunk :=
  match s.grids.find? fun g => g.id == d.unit.group with
  | some g => if d.unit = .plain then none else g.redraw.find? fun c => c.pa == d.pa
  | none => none

/-- A draw of core c is performed: its chunk (R226, R252). DEDUCED (log 23). -/
def State.performDraw (s : State) (c asid : Nat) (d : Draw) : State × Chunk :=
  match s.redrawn d with
  | some x => ({ s with grids := s.grids.map fun g =>
      if g.id = d.unit.group then { g with redraw := g.redraw.filter fun y => y != x } else g }, x)
  | none =>
    let r := if s.viewed d.unit asid d.va then s.drawView d.unit d.pa d.va else (s.surrender c d.pa 32).drawStep d.pa
    (r.1, ⟨r.2.1, r.2.2, d.pa, d.id⟩)

/-- The chunk an agent works on after a draw; a chunk of a deterministic team starts its unit, for the Shuttle's user program
also while it stands in the handler (R225, R232). -/
def State.beginChunk (s : State) (c asid : Nat) (w : Who) (x : Chunk) : State :=
  let ch := if x.size = 0 then none else some x
  let s := match w with
    | .thread k i => s.modThread k i fun t => { t with chunk := ch }
    | .shuttle c => s.modShuttle c fun h => { h with chunk := ch }
    | _ => s
  let u := match w with
    | .shuttle c => s.shuttleUnit c
    | w => s.unitOf w
  let k := match w with
    | .thread k _ => k
    | _ => (s.shuttle c).team.getD 0
  match u with
  | .chunk g x => s.startUnit (.chunk g x) asid c (s.team k).teamix (slotOfTeam k) g
  | _ => s

/-- The k-th forwarded draw is performed; draws of one core on one record stay in order. DEDUCED (log 19). -/
def evChunkDraw (k : Nat) (s : State) : Option State :=
  match s.draws[k]? with
  | none => none
  | some d =>
    let c := s.coreOfWho d.who
    if (s.draws.take k).any fun e => e.pa == d.pa && s.coreOfWho e.who == c then none
    else
      let asid := (s.part (partOfCore c)).asid
      let x := s.performDraw c asid d
      let s := { x.1 with draws := s.draws.filter fun e => e.id != d.id }
      some (match d.who with
        | .thread tk _ =>
          d.ts.foldl (fun s i =>
            if ((s.team tk).thread i).isLive then
              (s.modThread tk i fun t => t.setGs d.reg [BitVec.ofNat 32 x.2.start, BitVec.ofNat 32 (x.2.start / 4294967296),
                BitVec.ofNat 32 x.2.size]).beginChunk c asid (.thread tk i) x.2
            else s) s
        | .shuttle _ =>
          let h := s.shuttle c
          if (if d.sup then h.supHold else h.hold) = .draw d.id then
            let s := s.modShuttle c fun h =>
              let h := (h.setBank d.sup d.reg (BitVec.ofNat 64 x.2.start)).setBank d.sup (d.reg + 1) (BitVec.ofNat 64 x.2.size)
              if d.sup then { h with supHold := .none } else { h with hold := .none }
            if d.sup then s else s.beginChunk c asid (.shuttle c) x.2
          else s
        | _ => s)

/-! ### Meanings -/

def execSadd (r : S3) (s : State) : Out1 := .next (s.issue (.sadd r) (runSalu r fun a b => a + b))
def execSsub (r : S3) (s : State) : Out1 := .next (s.issue (.ssub r) (runSalu r fun a b => a - b))
def execSmul (r : S3) (s : State) : Out1 := .next (s.issue (.smul r) (runSalu r fun a b => a * b))
def execSand (r : S3) (s : State) : Out1 := .next (s.issue (.sand r) (runSalu r fun a b => a &&& b))
def execSor (r : S3) (s : State) : Out1 := .next (s.issue (.sor r) (runSalu r fun a b => a ||| b))
def execSxor (r : S3) (s : State) : Out1 := .next (s.issue (.sxor r) (runSalu r fun a b => a ^^^ b))
def execSshl (r : S3) (s : State) : Out1 := .next (s.issue (.sshl r) (runSalu r sshlD))
def execSshr (r : S3) (s : State) : Out1 := .next (s.issue (.sshr r) (runSalu r sshrD))
def execSsar (r : S3) (s : State) : Out1 := .next (s.issue (.ssar r) (runSalu r ssarD))
/-- End the Shuttle program (R238). -/
def execSdone (s : State) : Out1 := .next (s.issue .sdone runSdone)
/-- Add an immediate (R236). -/
def execSaddi (r : SaddiOp) (s : State) : Out1 := .next (s.issue (.saddi r) (runSaddi r))
/-- Load an immediate (R236). -/
def execSldi (r : SldiOp) (s : State) : Out1 := .next (s.issue (.sldi r) (runSldi r))
/-- Set on a condition (R237). -/
def execSset (r : SsetOp) (s : State) : Out1 := .next (s.issue (.sset r) (runSset r))
/-- Branch (R237). -/
def execSbr (r : SbrOp) (s : State) : Out1 := .next (s.issue (.sbr r) (runSbr r))
/-- Far branch (R237). -/
def execSbrf (r : SbrfOp) (s : State) : Out1 := .next (s.issue (.sbrf r) (runSbrf r))
/-- Push a decision (R239). -/
def execDqpush (a : BitVec 7) (s : State) : Out1 := .next (s.issue (.dqpush a) (runDqpush a))
/-- Start a stream (R241). -/
def execStream (r : StreamOp) (s : State) : Out1 := .next (s.issue (.stream r) (runStream r))
/-- Stop a stream (R243). -/
def execSqstop (r : SqstopOp) (s : State) : Out1 := .next (s.issue (.sqstop r) (runSqstop r))
/-- Copy (R247). -/
def execCpy (r : CpyOp) (s : State) : Out1 := .next (s.issue (.cpy r) (runCpy r))
/-- Copy in two dimensions (R247). -/
def execCpy2d (r : CpyOp) (s : State) : Out1 := .next (s.issue (.cpy2d r) (runCpy2d r))
/-- Seal the open batch (R248). -/
def execSeal (r : SealOp) (s : State) : Out1 := .next (s.issue (.seal r) (runSeal r))
/-- Wait for batches (R249). -/
def execBwait (r : BwaitOp) (s : State) : Out1 := .next (s.issue (.bwait r) (runBwait r))
/-- Read a write pointer (R250). -/
def execWptr (r : WptrOp) (s : State) : Out1 := .next (s.issue (.wptr r) (runWptr r))
/-- Draw a chunk (R252). -/
def execChunk (r : ChunkOp) (s : State) : Out1 := .next (s.issue (.chunk r) (runChunk r))
/-- Load an overlay (R253). -/
def execOvl (r : OvlOp) (s : State) : Out1 := .next (s.issue (.ovl r) (runOvl r))
/-- A stream pushes one entry (R241). -/
def execStreamEntryPush (k q : Nat) (s : State) : Out1 := .next ((evStreamEntryPush k q s).getD s)
/-- A channel moves bytes (R244). -/
def execCopyPerform (cl ch : Nat) (s : State) : Out1 := .next ((evCopyPerform cl ch s).getD s)
/-- A draw is performed (R251). -/
def execChunkDraw (k : Nat) (s : State) : Out1 := .next ((evChunkDraw k s).getD s)

end Sys2Proof.Machine
end

