-- ==== Sys2Proof/Machine/Barrier.lean ====
section
/-! DEFINITION. The completion of a team barrier phase (spec/08_ordering.md R217, spec/07_memory.md R174, R175, R179): what
work of the team holds back a carve grant. -/

namespace Sys2Proof.Machine
open Sys2Proof

/-- The rule of a record: its copy, or its slot's while it has not started (R286). -/
def State.ruleOf (s : State) (r : Rec) : Rule :=
  if r.started then r.rule else nget (s.cluster r.cluster).rules (r.n 2 1 % 16) []

/-- A record with a rule names the team's scratchpad in one of its operands (R175, R299). DEDUCED (log 18). -/
def Rec.namesScratch (r : Rec) (x : Rule) (k : Nat) : Bool :=
  let opnd (o : Opnd) : Bool := o.src == 2 && (recLoc r.team r.core o.sp o.base).inScratch k
  let at_ (f : Nat) : Bool := (recLoc r.team r.core r.spc (r.n f 4)).inScratch k
  if r.kind ≤ 4 then opnd r.opA || opnd r.opB
  else if r.kind = 0x12 then at_ 0x20 || at_ 0x24
  else r.spc == 0 || at_ 0x2C || (r.fields x).any (fun f => at_ f.1) || (r.planes x).any fun p => at_ p.1

/-- Work of the team, or of the Shuttle that serves it, that reads or writes its scratchpad is outstanding (R175).
DEDUCED (log 18). -/
def State.scratchBusy (s : State) (k : Nat) : Bool :=
  (s.records.any fun r => (r.team == some k || s.worksFor k r.who) && r.namesScratch (s.ruleOf r) k) ||
    s.copies.any fun c => s.worksFor k c.who && (c.dst.inScratch k || c.src.inScratch k)

def evBarrierPhaseCompletion (k : Nat) (s : State) : Option State :=
  if s.carveBefore k s.scratchBusy then none else s.completeBar k (s.scratchBusy k) State.trimStreams

/-- Completion of a team barrier phase (R217). -/
def execBarrierPhaseCompletion (k : Nat) (s : State) : Out1 := .next ((evBarrierPhaseCompletion k s).getD s)

end Sys2Proof.Machine
end

