-- ==== Sys2Proof/WellFormed.lean ====
section
/-! DEFINITION. Which instructions are well formed: the static limits their entries put on their fields, whoever
issues them. The decoder refuses the others as ILLINST (spec/02_words.md R6, R44). What depends on the issuing agent
(allotment, pairs, queues; R46 to R48) is checked when the instruction issues. -/

namespace Sys2Proof

/-- Two written predicate fields name the same predicate only where both are p7 (R117). -/
def predsDiffer (p q : BitVec 3) : Bool := p != q || p == 7

/-- The limits of CVT (R147). -/
def cvtWf (r : CvtOp) : Bool :=
  decide (r.dst.toNat ≤ 9) && decide (r.src.toNat ≤ 9) && ((r.dst == 0) != (r.src == 0)) &&
    (if r.dst == 5 || r.src == 5 then r.mw != 7 else r.mw == 0 && r.b == 0 && !r.eb) &&
    (!r.hi || r.dst == 1 || r.dst == 2 || r.src == 1 || r.src == 2)

/-- The combinations of R190 for an operation with or without the float types f32 and bf16x2. A destination field is 0
where nothing is returned. -/
def atomWf (r : AtomOp) (f32 bf16 : Bool) : Bool :=
  (decide (r.ty.toNat < 3) || (f32 && r.ty == 3) || (bf16 && r.ty == 4)) && (r.ret || r.d == 0)

/-- The instruction keeps the limits of its entry. A hardware step has none. -/
def Instr.wf : Instr → Bool
  | .br _ => true
  | .call _ => true
  | .brf r => decide (r.tpkt.toNat ≤ 5460)
  | .callf r => decide (r.tpkt.toNat ≤ 5460)
  | .jt _ => true
  | .jtc _ => true
  | .ret _ => true
  | .nop => true
  | .pad _ => true
  | .join _ => true
  | .jmaskZ _ => true
  | .jmaskG _ => true
  | .jmaskR _ => true
  | .jmaskGet _ => true
  | .exit => true
  | .yield => true
  | .dqpop _ => true
  | .trap code => decide (0x80 ≤ code.toNat) && decide (code.toNat ≤ 0xFE)
  | .bkpt _ => true
  | .add _ => true
  | .sub _ => true
  | .and _ => true
  | .or _ => true
  | .xor _ => true
  | .shl _ => true
  | .shr _ => true
  | .sar _ => true
  | .mul _ => true
  | .mulhI32 _ => true
  | .mulhN32 _ => true
  | .mac _ => true
  | .divI32 _ => true
  | .divN32 _ => true
  | .remI32 _ => true
  | .remN32 _ => true
  | .addB64 _ => true
  | .subB64 _ => true
  | .mulwI32 _ => true
  | .mulwN32 _ => true
  | .cmp r => decide (r.cond.toNat < 12) && decide (r.comb.toNat < 3) && (r.comb != 0 || r.cp == 0)
  | .bfx r => decide (0 < r.len.toNat) && decide (r.pos.toNat + r.len.toNat ≤ 32)
  | .bfi r => decide (0 < r.len.toNat) && decide (r.pos.toNat + r.len.toNat ≤ 32)
  | .lea _ => true
  | .addi _ => true
  | .shi _ => true
  | .movi _ => true
  | .cmpi _ => true
  | .bind _ => true
  | .unbind => true
  | .ladd r => predsDiffer r.pc r.pv
  | .ladc r => predsDiffer r.pc r.pv
  | .lsub r => predsDiffer r.pc r.pv
  | .lsbc r => predsDiffer r.pc r.pv
  | .lneg r => predsDiffer r.pc r.pv
  | .lcmp r => predsDiffer r.pe r.pltu && predsDiffer r.pe r.plt && predsDiffer r.pltu r.plt
  | .lmulw r => r.h != r.d
  | .lshl _ => true
  | .lshr _ => true
  | .lshrI _ => true
  | .fadd _ => true
  | .fsub _ => true
  | .fmul _ => true
  | .fma _ => true
  | .fmin _ => true
  | .fmax _ => true
  | .fminp _ => true
  | .fmaxp _ => true
  | .fdiv _ => true
  | .fsqrt _ => true
  | .frcp _ => true
  | .frsq _ => true
  | .fexp2 _ => true
  | .flog2 _ => true
  | .fclass _ => true
  | .fcmp r => decide (r.comb.toNat < 3) && (r.comb != 0 || r.cp == 0)
  | .fsgn r => r.mode != 3 || (r.b == 0 && !r.eb)
  | .faddBf16x2 _ => true
  | .fsubBf16x2 _ => true
  | .fmulBf16x2 _ => true
  | .fmaBf16x2 _ => true
  | .fminBf16x2 _ => true
  | .fmaxBf16x2 _ => true
  | .fdotBf16x2 _ => true
  | .faddF16x2 _ => true
  | .fsubF16x2 _ => true
  | .fmulF16x2 _ => true
  | .fmaF16x2 _ => true
  | .fminF16x2 _ => true
  | .fmaxF16x2 _ => true
  | .fdotF16x2 _ => true
  | .cvt r => cvtWf r
  | .cvtp r => r.dst == 1 || r.dst == 2
  | .shfl r => (!r.useimm || (r.b == 0 && !r.eb)) && (r.fbr || r.fb == 0)
  | .bcast _ => true
  | .vote r => decide (r.mode.toNat < 5) && (if r.mode == 4 then r.pd == 7 && r.cn != r.d && r.cn.toNat != r.d.toNat + 1 else r.d == 0) &&
    (r.cw || r.cn == 0)
  | .match_ _ => true
  | .compact _ => true
  | .greduce r => decide (r.op.toNat < 11) && decide (r.seg.toNat < 5)
  | .gscan r => decide (r.op.toNat < 11) && decide (r.seg.toNat < 5)
  | .regput r => r.pd != 7
  | .regtake _ => true
  | .regflush _ => true
  | .rand _ => true
  | .randf _ => true
  | .ld r => r.size != 7
  | .st r => decide (r.size.toNat < 5)
  | .atomAdd r => atomWf r true true
  | .atomMin r => atomWf r true true
  | .atomMax r => atomWf r true true
  | .atomAnd r => atomWf r false false
  | .atomOr r => atomWf r false false
  | .atomXor r => atomWf r false false
  | .atomExch r => atomWf r true false
  | .atomCas r => r.ty.toNat < 4 && r.ret
  | .ldt r => r.nc != 3
  | .unpk r => r.mw != 7 && decide (r.pos.toNat + (r.mw.toNat + 2) * 2 ^ r.kc.toNat ≤ 64)
  | .cmoClean _ => true
  | .cmoInv _ => true
  | .cmoCinv _ => true
  | .l2pin r => r.pd != 7
  | .l2unpin _ => true
  | .fence scope => scope != 7
  | .bar => true
  | .barCarve r => decide (r.scrg.toNat ≤ 47)
  | .barg r => decide (4 ≤ r.scope.toNat) && decide (r.scope.toNat ≤ 6)
  | .acq _ => true
  | .tryacq r => r.pd != 7
  | .rel _ => true
  | .region r => r.pd != 7
  | .regionFree r => r.pd != 7
  | .waitge _ => true
  | .sadd _ => true
  | .ssub _ => true
  | .smul _ => true
  | .sand _ => true
  | .sor _ => true
  | .sxor _ => true
  | .sshl _ => true
  | .sshr _ => true
  | .ssar _ => true
  | .sdone => true
  | .saddi _ => true
  | .sldi _ => true
  | .sset r => decide (r.cond.toNat < 12)
  | .sbr r => decide (r.cond.toNat < 13) && (r.cond != 12 || (r.a == 0 && r.b == 0))
  | .sbrf r => decide (r.tpkt.toNat ≤ 5460)
  | .dqpush _ => true
  | .stream _ => true
  | .sqstop _ => true
  | .cpy r => r.ret || r.d == 0
  | .cpy2d r => r.ret || r.d == 0
  | .seal _ => true
  | .bwait _ => true
  | .wptr _ => true
  | .chunk _ => true
  | .ovl _ => true
  | .qmma _ => true
  | .qspmm _ => true
  | .qacc _ => true
  | .qcvt _ => true
  | .qwait _ => true
  | .qpoll _ => true
  | .qrec _ => true
  | .qrecb _ => true
  | .qtrace _ => true
  | .qrule _ => true
  | .patld _ => true
  | .patbind _ => true
  | .patnext _ => true
  | .patmerge r => r.ssp != 0 && r.osp != 0
  | .patsave _ => true
  | .patrestore _ => true
  | .gspawn _ => true
  | .gdone _ => true
  | .tidset _ => true
  | .tidget _ => true
  | .mfs _ => true
  | .mts r => r.num.toNat != 8 && r.num.toNat != 9 && r.num.toNat != 0x12
  | .mtsFstat _ => true
  | .mtsFctl _ => true
  | .mtsCarve _ => true
  | .eret => true
  | .eretTerm => true
  | .tlbinvPage _ => true
  | .tlbinvAsid _ => true
  | .tlbinvAll _ => true
  | .pgshare _ => true
  | .pgrel _ => true
  | .ctxsave _ => true
  | .ctxload _ => true
  | .ctxsaveMem _ => true
  | .ctxloadMem _ => true
  | .haltStop => true
  | .haltRun => true
  | .bAdd _ => true
  | .bSub _ => true
  | .bMul _ => true
  | .bAnd _ => true
  | .bOr _ => true
  | .bXor _ => true
  | .bShl _ => true
  | .bShr _ => true
  | .bSar _ => true
  | .slt _ => true
  | .sltu _ => true
  | .bAddi _ => true
  | .ldi _ => true
  | .bCc r => decide (r.cond.toNat < 6)
  | .bAl _ => true
  | .ldl _ => true
  | .stl _ => true
  | .ldh _ => true
  | .sth _ => true
  | .ldv r => decide (r.v.toNat ≤ 15)
  | .stv r => decide (r.v.toNat ≤ 15)
  | .vadd r => decide (r.d.toNat ≤ 15) && decide (r.a.toNat ≤ 15) && decide (r.b.toNat ≤ 15)
  | .vsub r => decide (r.d.toNat ≤ 15) && decide (r.a.toNat ≤ 15) && decide (r.b.toNat ≤ 15)
  | .vmul r => decide (r.d.toNat ≤ 15) && decide (r.a.toNat ≤ 15) && decide (r.b.toNat ≤ 15)
  | .vfma r => decide (r.d.toNat ≤ 15) && decide (r.a.toNat ≤ 15) && decide (r.b.toNat ≤ 15) && decide (r.c.toNat ≤ 15)
  | .vbc r => decide (r.d.toNat ≤ 15)
  | .chase _ => true
  | .sample _ => true
  | .adamw _ => true
  | .faddc _ => true
  | .signal _ => true
  | .waitn _ => true
  | .bDone => true
  | .joinCompletion _ _ _ _ => true
  | .regtakeServe _ _ => true
  | .destinationFill _ => true
  | .eviction _ _ _ => true
  | .uncorrectableError _ => true
  | .barrierPhaseCompletion _ => true
  | .groupBarrierPhaseCompletion _ _ => true
  | .objectGrant _ => true
  | .streamEntryPush _ _ => true
  | .copyPerform _ _ => true
  | .chunkDraw _ => true
  | .qmmaRun _ _ => true
  | .qspmmRun _ _ => true
  | .qaccZero _ _ => true
  | .qaccRead _ _ => true
  | .qaccWrite _ _ => true
  | .qaccStore _ _ => true
  | .qaccLoad _ _ => true
  | .qcvtRun _ _ => true
  | .recordCompletion _ _ => true
  | .qrecRun _ _ => true
  | .qrecbRun _ _ => true
  | .qtraceRun _ _ => true
  | .haltRequest _ => true
  | .trapHandlerEntry _ => true
  | .pageWalk _ _ _ _ => true
  | .teamStart _ _ => true
  | .teamEnd _ => true
  | .notifyRegisterWrite _ _ _ _ _ => true
  | .graphPacket _ => true
  | .gridPacket _ => true
  | .copyPacket _ => true
  | .bobbinPacket _ => true
  | .barrierAndPacket _ => true
  | .barrierAndRecheck _ => true
  | .signalPacket _ => true
  | .packetCompletion _ => true
  | .nodeDispatch _ _ => true
  | .nodeCompletion _ => true
  | .coreRetirement _ => true
  | .monitorRelease _ => true
  | .waitnPoll _ => true
  | .flitReceive _ _ _ => true
  | .portRetrain _ _ _ => true
  | .fabricAccess _ _ _ _ => true
  | .windowCreate _ => true
  | .windowContribution _ _ _ _ => true
  | .stateClone _ _ _ _ _ _ => true
  | .apertureRequest _ _ _ _ => true
  | .ideKm _ => true
  | .ideIntegrityFailure _ => true
  | .flr _ => true
  | .attestationRequest _ => true
  | .powerOn _ _ _ => true
  | .dieHot => true
  | .overheat => true
  | .supplyFault => true
  | .partitionRestart _ => true
  | .hbmRowFailure _ _ => true

end Sys2Proof
end

