-- ==== Sys2Proof/Decode.lean ====
section
/-! DEFINITION. The decoders of the core and the Bobbin instruction sets, total on any words (spec/02_words.md R31 to
R44; spec/16_bobbin.md R340, R341), and the encoder written from the same bit tables. -/

namespace Sys2Proof

/-- The little-endian word at the head of a list of bytes (R5). -/
def wordOfBytes : List Byte → Option (Word × List Byte)
  | b0 :: b1 :: b2 :: b3 :: r =>
    some (BitVec.ofNat 32 (b0.toNat + 256 * b1.toNat + 65536 * b2.toNat + 16777216 * b3.toNat), r)
  | _ => none

/-- The bytes of a word, lowest address first (R5). -/
def bytesOfWord (w : Word) : List Byte :=
  [BitVec.ofNat 8 w.toNat, BitVec.ofNat 8 (w.toNat / 256), BitVec.ofNat 8 (w.toNat / 65536),
   BitVec.ofNat 8 (w.toNat / 16777216)]

/-- Field [lo + len − 1 : lo] of a word. -/
def fld (w : Word) (lo len : Nat) : BitVec len := BitVec.ofNat len (w.toNat / 2 ^ lo)

/-- Bit `lo` of a word. -/
def bit (w : Word) (lo : Nat) : Bool := w.toNat / 2 ^ lo % 2 == 1

/-- Every listed field (first bit, length, value) of a word holds its value. -/
def fixedBits (w : Word) (fs : List (Nat × Nat × Nat)) : Bool :=
  fs.all fun f => w.toNat / 2 ^ f.1 % 2 ^ f.2.1 == f.2.2

/-- What a word decodes to: an instruction (and whether it takes the next word as its extension); a word of that instruction
with an illegal field, which raises ILLINST once the faults of its group are ruled out (R45); or the fault of an undecodable
word (R39, R44). -/
inductive Dec where
  | ok (i : Instr) (ext : Bool)
  | bad (i : Instr) (ext : Bool)
  | illInst
  | illPacket
  deriving DecidableEq, Repr

/-- Major 0x1F with kind 01: an extension word (R39). -/
def isExt (w : Word) : Bool := w.toNat / 2 ^ 24 % 128 == 125

/-- Major 0x1F with kind 00: a prefix word (R40). -/
def isPfx (w : Word) : Bool := w.toNat / 2 ^ 24 % 128 == 124

/-- An instruction of one word whose fixed bits are listed. -/
def single (i : Instr) (w : Word) (fs : List (Nat × Nat × Nat)) : Dec :=
  if fixedBits w fs && i.wf then .ok i false else .bad i false

/-- An X instruction: chain bit 1 and an extension word next (R39, else ILLPACKET), then the fixed bits of both. -/
def double (f : Word → Instr) (w : Word) (n : Option Word) (fs xs : List (Nat × Nat × Nat)) : Dec :=
  match n with
  | none => .illPacket
  | some x =>
    if bit w 31 && isExt x then
      if fixedBits w fs && fixedBits x xs && (f x).wf then .ok (f x) true else .bad (f x) true
    else .illPacket

/-- The second reading where the first is no instruction: entries that share a word's minor field. -/
def orElse (a b : Dec) : Dec :=
  match a with
  | .illInst => b
  | .bad _ _ => b
  | _ => a

/-- A word from its bits. -/
def wordOf (n : Nat) : Word := BitVec.ofNat 32 n

/-- The prefix word's fields, where its policy and rounding codes and reserved bits are legal (R40). -/
def decodePfx (w : Word) : Option Pfx :=
  let p : Pfx := ⟨fld w 21 3, bit w 20, fld w 18 2, fld w 15 3, fld w 8 7, bit w 7⟩
  if p.policy == 3 || p.round == 6 || p.round == 7 || w.toNat % 128 != 0 then none else some p

/-- The prefix word with the given fields (R40). -/
def encodePfx (p : Pfx) : Word :=
  wordOf (0x7C000000 + p.maskp.toNat * 0x200000 + p.maskn.toNat * 0x100000 + p.policy.toNat * 0x40000 +
    p.round.toNat * 0x8000 + p.c4.toNat * 0x100 + p.ec.toNat * 0x80)

/-- Decoding of major 0x00; `n` is the word after `w` in its packet, where there is one. -/
def decodeMajor0 (w : Word) (_ : Option Word) : Dec :=
  match (fld w 19 3 : BitVec 3).toNat with
  | 1 => single (.br ⟨fld w 23 3, bit w 22, fld w 0 19⟩) w [(19, 3, 1)]
  | _ => .illInst

/-- Decoding of major 0x01; `n` is the word after `w` in its packet, where there is one. -/
def decodeMajor1 (w : Word) (n : Option Word) : Dec :=
  match (fld w 19 3 : BitVec 3).toNat with
  | 0 => double (fun x => .call ⟨fld w 23 3, bit w 22, fld w 0 19, fld x 10 7⟩) w n [(19, 3, 0)] [(0, 10, 0), (17, 7, 0)]
  | 1 => double (fun x => .brf ⟨fld w 23 3, bit w 22, fld w 0 13, fld x 0 10⟩) w n [(13, 9, 64)] [(10, 14, 0)]
  | 2 => double (fun x => .callf ⟨fld w 23 3, bit w 22, fld w 0 13, fld x 0 10, fld x 10 7⟩) w n [(13, 9, 128)] [(17, 7, 0)]
  | _ => .illInst

/-- Decoding of major 0x02; `n` is the word after `w` in its packet, where there is one. -/
def decodeMajor2 (w : Word) (n : Option Word) : Dec :=
  match (fld w 0 3 : BitVec 3).toNat with
  | 0 => double (fun x => .jt ⟨fld w 12 7, fld w 5 7, bit w 4, bit w 3, fld x 16 8, fld x 0 16⟩) w n [(0, 3, 0), (19, 7, 0)] []
  | 1 => double (fun x => .jtc ⟨fld w 19 7, fld w 12 7, fld w 5 7, bit w 4, bit w 3, fld x 16 8, fld x 0 16⟩) w n [(0, 3, 1)] []
  | 2 => single (.ret ⟨fld w 12 7, bit w 4⟩) w [(0, 4, 2), (5, 7, 0), (19, 7, 0)]
  | _ => .illInst

/-- Decoding of major 0x03; `n` is the word after `w` in its packet, where there is one. -/
def decodeMajor3 (w : Word) (_ : Option Word) : Dec :=
  match (fld w 16 3 : BitVec 3).toNat with
  | 0 => single (.nop) w [(0, 26, 0)]
  | 1 => single (.pad (fld w 0 16)) w [(16, 10, 1)]
  | 2 => single (.join (fld w 19 3)) w [(0, 19, 131072), (22, 4, 0)]
  | 3 =>
    match (fld w 3 2 : BitVec 2).toNat with
    | 0 => single (.jmaskZ (fld w 0 3)) w [(3, 23, 24576)]
    | 1 => single (.jmaskG (fld w 0 3)) w [(3, 23, 24577)]
    | 2 => single (.jmaskR ⟨fld w 19 7, fld w 0 3⟩) w [(3, 16, 24578)]
    | _ => single (.jmaskGet ⟨fld w 19 7, fld w 0 3⟩) w [(3, 16, 24579)]
  | 4 => single (.exit) w [(0, 26, 262144)]
  | 5 => single (.yield) w [(0, 26, 327680)]
  | 6 => single (.dqpop ⟨fld w 19 7, bit w 0⟩) w [(1, 18, 196608)]
  | 7 => orElse (single (.trap (fld w 0 8)) w [(8, 18, 1792)])
      (single (.bkpt (fld w 0 8)) w [(8, 18, 1793)])
  | _ => .illInst

/-- Decoding of major 0x04; `n` is the word after `w` in its packet, where there is one. -/
def decodeMajor4 (w : Word) (_ : Option Word) : Dec :=
  match (fld w 0 3 : BitVec 3).toNat with
  | 0 => single (.add ⟨fld w 19 7, fld w 12 7, fld w 5 7, bit w 4, bit w 3⟩) w [(0, 3, 0)]
  | 1 => single (.sub ⟨fld w 19 7, fld w 12 7, fld w 5 7, bit w 4, bit w 3⟩) w [(0, 3, 1)]
  | 2 => single (.and ⟨fld w 19 7, fld w 12 7, fld w 5 7, bit w 4, bit w 3⟩) w [(0, 3, 2)]
  | 3 => single (.or ⟨fld w 19 7, fld w 12 7, fld w 5 7, bit w 4, bit w 3⟩) w [(0, 3, 3)]
  | 4 => single (.xor ⟨fld w 19 7, fld w 12 7, fld w 5 7, bit w 4, bit w 3⟩) w [(0, 3, 4)]
  | 5 => single (.shl ⟨fld w 19 7, fld w 12 7, fld w 5 7, bit w 4, bit w 3⟩) w [(0, 3, 5)]
  | 6 => single (.shr ⟨fld w 19 7, fld w 12 7, fld w 5 7, bit w 4, bit w 3⟩) w [(0, 3, 6)]
  | 7 => single (.sar ⟨fld w 19 7, fld w 12 7, fld w 5 7, bit w 4, bit w 3⟩) w [(0, 3, 7)]
  | _ => .illInst

/-- Decoding of major 0x05; `n` is the word after `w` in its packet, where there is one. -/
def decodeMajor5 (w : Word) (_ : Option Word) : Dec :=
  match (fld w 0 3 : BitVec 3).toNat with
  | 0 => single (.mul ⟨fld w 19 7, fld w 12 7, fld w 5 7, bit w 4, bit w 3⟩) w [(0, 3, 0)]
  | 1 => single (.mulhI32 ⟨fld w 19 7, fld w 12 7, fld w 5 7, bit w 4, bit w 3⟩) w [(0, 3, 1)]
  | 2 => single (.mulhN32 ⟨fld w 19 7, fld w 12 7, fld w 5 7, bit w 4, bit w 3⟩) w [(0, 3, 2)]
  | 3 => single (.mac ⟨fld w 19 7, fld w 12 7, fld w 5 7, bit w 4, bit w 3⟩) w [(0, 3, 3)]
  | 4 => single (.divI32 ⟨fld w 19 7, fld w 12 7, fld w 5 7, bit w 4, bit w 3⟩) w [(0, 3, 4)]
  | 5 => single (.divN32 ⟨fld w 19 7, fld w 12 7, fld w 5 7, bit w 4, bit w 3⟩) w [(0, 3, 5)]
  | 6 => single (.remI32 ⟨fld w 19 7, fld w 12 7, fld w 5 7, bit w 4, bit w 3⟩) w [(0, 3, 6)]
  | 7 => single (.remN32 ⟨fld w 19 7, fld w 12 7, fld w 5 7, bit w 4, bit w 3⟩) w [(0, 3, 7)]
  | _ => .illInst

/-- Decoding of major 0x06; `n` is the word after `w` in its packet, where there is one. -/
def decodeMajor6 (w : Word) (n : Option Word) : Dec :=
  match (fld w 0 3 : BitVec 3).toNat with
  | 0 => single (.addB64 ⟨fld w 19 7, fld w 12 7, fld w 5 7, bit w 4, bit w 3⟩) w [(0, 3, 0)]
  | 1 => single (.subB64 ⟨fld w 19 7, fld w 12 7, fld w 5 7, bit w 4, bit w 3⟩) w [(0, 3, 1)]
  | 2 => single (.mulwI32 ⟨fld w 19 7, fld w 12 7, fld w 5 7, bit w 4, bit w 3⟩) w [(0, 3, 2)]
  | 3 => single (.mulwN32 ⟨fld w 19 7, fld w 12 7, fld w 5 7, bit w 4, bit w 3⟩) w [(0, 3, 3)]
  | 4 => double (fun x => .cmp ⟨fld w 12 7, fld w 5 7, bit w 4, bit w 3, fld x 21 3, fld x 17 4, fld x 15 2, fld x 12 3, bit x 11⟩) w n [(0, 3, 4), (19, 7, 0)] [(0, 11, 0)]
  | 5 => double (fun x => .bfx ⟨fld w 19 7, fld w 12 7, bit w 4, bit x 23, fld x 18 5, fld x 12 6⟩) w n [(0, 4, 5), (5, 7, 0)] [(0, 12, 0)]
  | 6 => double (fun x => .bfi ⟨fld w 19 7, fld w 12 7, bit w 4, fld x 18 5, fld x 12 6⟩) w n [(0, 4, 6), (5, 7, 0)] [(0, 12, 0), (23, 1, 0)]
  | 7 => double (fun x => .lea ⟨fld w 19 7, fld w 12 7, fld w 5 7, bit w 4, bit w 3, bit x 23, fld x 20 3, fld x 0 20⟩) w n [(0, 3, 7)] []
  | _ => .illInst

/-- Decoding of major 0x07; `n` is the word after `w` in its packet, where there is one. -/
def decodeMajor7 (w : Word) (n : Option Word) : Dec :=
  match (fld w 9 2 : BitVec 2).toNat with
  | 0 => single (.addi ⟨fld w 19 7, fld w 12 7, bit w 11, fld w 0 9⟩) w [(9, 2, 0)]
  | 1 => single (.shi ⟨fld w 19 7, fld w 12 7, bit w 11, fld w 7 2, fld w 0 5⟩) w [(5, 2, 0), (9, 2, 1)]
  | 2 => double (fun x => .movi ⟨fld w 19 7, fld w 0 9, fld x 0 23⟩) w n [(9, 10, 2)] [(23, 1, 0)]
  | 3 => single (.cmpi ⟨fld w 23 3, fld w 20 3, fld w 12 7, bit w 11, fld w 0 9⟩) w [(9, 2, 3), (19, 1, 0)]
  | _ => .illInst

/-- Decoding of major 0x09; `n` is the word after `w` in its packet, where there is one. -/
def decodeMajor9 (w : Word) (n : Option Word) : Dec :=
  match (fld w 0 3 : BitVec 3).toNat with
  | 3 => double (fun x => .bind (fld x 21 3)) w n [(0, 26, 3)] [(0, 21, 0)]
  | 4 => single (.unbind) w [(0, 26, 4)]
  | 0 => single (.lshl ⟨fld w 19 7, fld w 12 7, fld w 5 7, bit w 4, bit w 3⟩) w [(0, 3, 0)]
  | 1 => single (.lshr ⟨fld w 19 7, fld w 12 7, fld w 5 7, bit w 4, bit w 3⟩) w [(0, 3, 1)]
  | 2 => single (.lshrI ⟨fld w 19 7, fld w 12 7, fld w 5 7, bit w 4, bit w 3⟩) w [(0, 3, 2)]
  | _ => .illInst

/-- Decoding of major 0x08; `n` is the word after `w` in its packet, where there is one. -/
def decodeMajor8 (w : Word) (n : Option Word) : Dec :=
  match (fld w 0 3 : BitVec 3).toNat with
  | 0 => double (fun x => .ladd ⟨fld w 19 7, fld w 12 7, fld w 5 7, bit w 4, bit w 3, fld x 21 3, fld x 18 3⟩) w n [(0, 3, 0)] [(0, 18, 0)]
  | 1 => double (fun x => .ladc ⟨fld w 19 7, fld w 12 7, fld w 5 7, bit w 4, bit w 3, fld x 21 3, fld x 18 3, fld x 15 3⟩) w n [(0, 3, 1)] [(0, 15, 0)]
  | 2 => double (fun x => .lsub ⟨fld w 19 7, fld w 12 7, fld w 5 7, bit w 4, bit w 3, fld x 21 3, fld x 18 3⟩) w n [(0, 3, 2)] [(0, 18, 0)]
  | 3 => double (fun x => .lsbc ⟨fld w 19 7, fld w 12 7, fld w 5 7, bit w 4, bit w 3, fld x 21 3, fld x 18 3, fld x 15 3⟩) w n [(0, 3, 3)] [(0, 15, 0)]
  | 4 => double (fun x => .lneg ⟨fld w 19 7, fld w 12 7, bit w 4, fld x 21 3, fld x 18 3⟩) w n [(0, 4, 4), (5, 7, 0)] [(0, 18, 0)]
  | 5 => double (fun x => .lcmp ⟨fld w 12 7, fld w 5 7, bit w 4, bit w 3, fld x 21 3, fld x 18 3, fld x 15 3⟩) w n [(0, 3, 5), (19, 7, 0)] [(0, 15, 0)]
  | 6 => double (fun x => .lmulw ⟨fld w 19 7, fld w 12 7, fld w 5 7, bit w 4, bit w 3, fld x 17 7⟩) w n [(0, 3, 6)] [(0, 17, 0)]
  | _ => .illInst

/-- Decoding of major 0x0A; `n` is the word after `w` in its packet, where there is one. -/
def decodeMajor10 (w : Word) (_ : Option Word) : Dec :=
  match (fld w 0 3 : BitVec 3).toNat with
  | 0 => single (.fadd ⟨fld w 19 7, fld w 12 7, fld w 5 7, bit w 4, bit w 3⟩) w [(0, 3, 0)]
  | 1 => single (.fsub ⟨fld w 19 7, fld w 12 7, fld w 5 7, bit w 4, bit w 3⟩) w [(0, 3, 1)]
  | 2 => single (.fmul ⟨fld w 19 7, fld w 12 7, fld w 5 7, bit w 4, bit w 3⟩) w [(0, 3, 2)]
  | 3 => single (.fma ⟨fld w 19 7, fld w 12 7, fld w 5 7, bit w 4, bit w 3⟩) w [(0, 3, 3)]
  | 4 => single (.fmin ⟨fld w 19 7, fld w 12 7, fld w 5 7, bit w 4, bit w 3⟩) w [(0, 3, 4)]
  | 5 => single (.fmax ⟨fld w 19 7, fld w 12 7, fld w 5 7, bit w 4, bit w 3⟩) w [(0, 3, 5)]
  | 6 => single (.fminp ⟨fld w 19 7, fld w 12 7, fld w 5 7, bit w 4, bit w 3⟩) w [(0, 3, 6)]
  | 7 => single (.fmaxp ⟨fld w 19 7, fld w 12 7, fld w 5 7, bit w 4, bit w 3⟩) w [(0, 3, 7)]
  | _ => .illInst

/-- Decoding of major 0x0B; `n` is the word after `w` in its packet, where there is one. -/
def decodeMajor11 (w : Word) (_ : Option Word) : Dec :=
  match (fld w 0 3 : BitVec 3).toNat with
  | 0 => single (.fdiv ⟨fld w 19 7, fld w 12 7, fld w 5 7, bit w 4, bit w 3⟩) w [(0, 3, 0)]
  | 1 => single (.fsqrt ⟨fld w 19 7, fld w 12 7, bit w 4⟩) w [(0, 4, 1), (5, 7, 0)]
  | 2 => single (.frcp ⟨fld w 19 7, fld w 12 7, bit w 4⟩) w [(0, 4, 2), (5, 7, 0)]
  | 3 => single (.frsq ⟨fld w 19 7, fld w 12 7, bit w 4⟩) w [(0, 4, 3), (5, 7, 0)]
  | 4 => single (.fexp2 ⟨fld w 19 7, fld w 12 7, bit w 4⟩) w [(0, 4, 4), (5, 7, 0)]
  | 5 => single (.flog2 ⟨fld w 19 7, fld w 12 7, bit w 4⟩) w [(0, 4, 5), (5, 7, 0)]
  | 6 => single (.fclass ⟨fld w 19 7, fld w 12 7, bit w 4⟩) w [(0, 4, 6), (5, 7, 0)]
  | _ => .illInst

/-- Decoding of major 0x0C; `n` is the word after `w` in its packet, where there is one. -/
def decodeMajor12 (w : Word) (n : Option Word) : Dec :=
  match (fld w 0 3 : BitVec 3).toNat with
  | 0 => double (fun x => .fcmp ⟨fld w 12 7, fld w 5 7, bit w 4, bit w 3, fld x 21 3, fld x 18 3, fld x 16 2, fld x 13 3, bit x 12⟩) w n [(0, 3, 0), (19, 7, 0)] [(0, 12, 0)]
  | 1 => double (fun x => .fsgn ⟨fld w 19 7, fld w 12 7, fld w 5 7, bit w 4, bit w 3, fld x 22 2⟩) w n [(0, 3, 1)] [(0, 22, 0)]
  | _ => .illInst

/-- Decoding of major 0x0D; `n` is the word after `w` in its packet, where there is one. -/
def decodeMajor13 (w : Word) (_ : Option Word) : Dec :=
  match (fld w 0 3 : BitVec 3).toNat with
  | 0 => single (.faddBf16x2 ⟨fld w 19 7, fld w 12 7, fld w 5 7, bit w 4, bit w 3⟩) w [(0, 3, 0)]
  | 1 => single (.fsubBf16x2 ⟨fld w 19 7, fld w 12 7, fld w 5 7, bit w 4, bit w 3⟩) w [(0, 3, 1)]
  | 2 => single (.fmulBf16x2 ⟨fld w 19 7, fld w 12 7, fld w 5 7, bit w 4, bit w 3⟩) w [(0, 3, 2)]
  | 3 => single (.fmaBf16x2 ⟨fld w 19 7, fld w 12 7, fld w 5 7, bit w 4, bit w 3⟩) w [(0, 3, 3)]
  | 4 => single (.fminBf16x2 ⟨fld w 19 7, fld w 12 7, fld w 5 7, bit w 4, bit w 3⟩) w [(0, 3, 4)]
  | 5 => single (.fmaxBf16x2 ⟨fld w 19 7, fld w 12 7, fld w 5 7, bit w 4, bit w 3⟩) w [(0, 3, 5)]
  | 6 => single (.fdotBf16x2 ⟨fld w 19 7, fld w 12 7, fld w 5 7, bit w 4, bit w 3⟩) w [(0, 3, 6)]
  | _ => .illInst

/-- Decoding of major 0x0E; `n` is the word after `w` in its packet, where there is one. -/
def decodeMajor14 (w : Word) (_ : Option Word) : Dec :=
  match (fld w 0 3 : BitVec 3).toNat with
  | 0 => single (.faddF16x2 ⟨fld w 19 7, fld w 12 7, fld w 5 7, bit w 4, bit w 3⟩) w [(0, 3, 0)]
  | 1 => single (.fsubF16x2 ⟨fld w 19 7, fld w 12 7, fld w 5 7, bit w 4, bit w 3⟩) w [(0, 3, 1)]
  | 2 => single (.fmulF16x2 ⟨fld w 19 7, fld w 12 7, fld w 5 7, bit w 4, bit w 3⟩) w [(0, 3, 2)]
  | 3 => single (.fmaF16x2 ⟨fld w 19 7, fld w 12 7, fld w 5 7, bit w 4, bit w 3⟩) w [(0, 3, 3)]
  | 4 => single (.fminF16x2 ⟨fld w 19 7, fld w 12 7, fld w 5 7, bit w 4, bit w 3⟩) w [(0, 3, 4)]
  | 5 => single (.fmaxF16x2 ⟨fld w 19 7, fld w 12 7, fld w 5 7, bit w 4, bit w 3⟩) w [(0, 3, 5)]
  | 6 => single (.fdotF16x2 ⟨fld w 19 7, fld w 12 7, fld w 5 7, bit w 4, bit w 3⟩) w [(0, 3, 6)]
  | _ => .illInst

/-- Decoding of major 0x0F; `n` is the word after `w` in its packet, where there is one. -/
def decodeMajor15 (w : Word) (n : Option Word) : Dec :=
  match (fld w 0 3 : BitVec 3).toNat with
  | 0 => double (fun x => .cvt ⟨fld w 19 7, fld w 12 7, fld w 5 7, bit w 4, bit w 3, fld x 20 4, fld x 16 4, fld x 13 3, bit x 12⟩) w n [(0, 3, 0)] [(0, 12, 0)]
  | 1 => double (fun x => .cvtp ⟨fld w 19 7, fld w 12 7, fld w 5 7, bit w 4, bit w 3, fld x 20 4⟩) w n [(0, 3, 1)] [(0, 20, 0)]
  | _ => .illInst

/-- Decoding of major 0x10; `n` is the word after `w` in its packet, where there is one. -/
def decodeMajor16 (w : Word) (n : Option Word) : Dec :=
  match (fld w 0 3 : BitVec 3).toNat with
  | 0 => double (fun x => .shfl ⟨fld w 19 7, fld w 12 7, fld w 5 7, bit w 4, bit w 3, fld x 22 2, fld x 19 3, fld x 12 7, bit x 11, bit x 10, bit x 9, fld x 3 6⟩) w n [(0, 3, 0)] [(0, 3, 0)]
  | 1 => single (.bcast ⟨fld w 19 7, fld w 12 7, bit w 4⟩) w [(0, 4, 1), (5, 7, 0)]
  | 2 => double (fun x => .vote ⟨fld w 19 7, fld x 21 3, fld x 18 3, bit x 17, fld x 14 3, bit x 13, fld x 6 7⟩) w n [(0, 19, 2)] [(0, 6, 0)]
  | 3 => double (fun x => .match_ ⟨fld w 19 7, fld w 12 7, bit w 4, bit x 23, fld x 20 3⟩) w n [(0, 4, 3), (5, 7, 0)] [(0, 20, 0)]
  | 4 => double (fun x => .compact ⟨fld w 19 7, fld w 12 7, bit w 4, fld x 21 3, bit x 20, fld x 17 3⟩) w n [(0, 4, 4), (5, 7, 0)] [(0, 17, 0)]
  | 5 => double (fun x => .greduce ⟨fld w 19 7, fld w 12 7, bit w 4, fld x 20 4, fld x 17 3⟩) w n [(0, 4, 5), (5, 7, 0)] [(0, 17, 0)]
  | 6 => double (fun x => .gscan ⟨fld w 19 7, fld w 12 7, bit w 4, fld x 20 4, fld x 17 3, bit x 16⟩) w n [(0, 4, 6), (5, 7, 0)] [(0, 16, 0)]
  | _ => .illInst

/-- Decoding of major 0x11; `n` is the word after `w` in its packet, where there is one. -/
def decodeMajor17 (w : Word) (n : Option Word) : Dec :=
  match (fld w 0 3 : BitVec 3).toNat with
  | 0 => double (fun x => .regput ⟨fld w 12 7, fld w 5 7, bit w 4, bit w 3, fld x 21 3, fld x 18 3⟩) w n [(0, 3, 0), (19, 7, 0)] [(0, 18, 0)]
  | 1 => double (fun x => .regtake ⟨fld w 19 7, fld w 12 7, bit w 4, fld x 21 3⟩) w n [(0, 4, 1), (5, 7, 0)] [(0, 21, 0)]
  | 2 => single (.regflush ⟨fld w 12 7, bit w 4⟩) w [(0, 4, 2), (5, 7, 0), (19, 7, 0)]
  | 3 => single (.rand ⟨fld w 19 7⟩) w [(0, 19, 3)]
  | 4 => single (.randf ⟨fld w 19 7⟩) w [(0, 19, 4)]
  | _ => .illInst

/-- Decoding of major 0x12; `n` is the word after `w` in its packet, where there is one. -/
def decodeMajor18 (w : Word) (_ : Option Word) : Dec :=
  single (.ld ⟨fld w 19 7, fld w 12 7, bit w 11, fld w 8 3, fld w 6 2, fld w 0 6⟩) w []

/-- Decoding of major 0x13; `n` is the word after `w` in its packet, where there is one. -/
def decodeMajor19 (w : Word) (_ : Option Word) : Dec :=
  single (.st ⟨fld w 19 7, fld w 12 7, bit w 11, fld w 8 3, fld w 6 2, fld w 0 6⟩) w []

/-- Decoding of major 0x14; `n` is the word after `w` in its packet, where there is one. -/
def decodeMajor20 (w : Word) (n : Option Word) : Dec :=
  match (fld w 8 3 : BitVec 3).toNat with
  | 0 => double (fun x => .atomAdd ⟨fld w 19 7, fld w 12 7, bit w 11, fld w 6 2, fld w 0 6, fld x 21 3, bit x 20, fld x 13 7⟩) w n [(8, 3, 0)] [(0, 13, 0)]
  | 1 => double (fun x => .atomMin ⟨fld w 19 7, fld w 12 7, bit w 11, fld w 6 2, fld w 0 6, fld x 21 3, bit x 20, fld x 13 7⟩) w n [(8, 3, 1)] [(0, 13, 0)]
  | 2 => double (fun x => .atomMax ⟨fld w 19 7, fld w 12 7, bit w 11, fld w 6 2, fld w 0 6, fld x 21 3, bit x 20, fld x 13 7⟩) w n [(8, 3, 2)] [(0, 13, 0)]
  | 3 => double (fun x => .atomAnd ⟨fld w 19 7, fld w 12 7, bit w 11, fld w 6 2, fld w 0 6, fld x 21 3, bit x 20, fld x 13 7⟩) w n [(8, 3, 3)] [(0, 13, 0)]
  | 4 => double (fun x => .atomOr ⟨fld w 19 7, fld w 12 7, bit w 11, fld w 6 2, fld w 0 6, fld x 21 3, bit x 20, fld x 13 7⟩) w n [(8, 3, 4)] [(0, 13, 0)]
  | 5 => double (fun x => .atomXor ⟨fld w 19 7, fld w 12 7, bit w 11, fld w 6 2, fld w 0 6, fld x 21 3, bit x 20, fld x 13 7⟩) w n [(8, 3, 5)] [(0, 13, 0)]
  | 6 => double (fun x => .atomExch ⟨fld w 19 7, fld w 12 7, bit w 11, fld w 6 2, fld w 0 6, fld x 21 3, bit x 20, fld x 13 7⟩) w n [(8, 3, 6)] [(0, 13, 0)]
  | 7 => double (fun x => .atomCas ⟨fld w 19 7, fld w 12 7, bit w 11, fld w 6 2, fld w 0 6, fld x 21 3, bit x 20, fld x 13 7, fld x 6 7, bit x 5⟩) w n [(8, 3, 7)] [(0, 5, 0)]
  | _ => .illInst

/-- Decoding of major 0x15; `n` is the word after `w` in its packet, where there is one. -/
def decodeMajor21 (w : Word) (n : Option Word) : Dec :=
  match (fld w 0 3 : BitVec 3).toNat with
  | 0 => double (fun x => .ldt ⟨fld w 19 7, fld w 12 7, fld w 5 7, bit w 4, bit w 3, bit x 23, fld x 21 2, bit x 20⟩) w n [(0, 3, 0)] [(0, 20, 0)]
  | 1 => double (fun x => .unpk ⟨fld w 19 7, fld w 12 7, bit w 4, fld x 21 3, fld x 19 2, fld x 13 6, bit x 12⟩) w n [(0, 4, 1), (5, 7, 0)] [(0, 12, 0)]
  | 2 => orElse (double (fun x => .cmoClean ⟨fld w 12 7, fld w 5 7, bit w 4, bit w 3, fld x 20 2⟩) w n [(0, 3, 2), (19, 7, 0)] [(0, 20, 0), (22, 2, 0)])
      (orElse (double (fun x => .cmoInv ⟨fld w 12 7, fld w 5 7, bit w 4, bit w 3, fld x 20 2⟩) w n [(0, 3, 2), (19, 7, 0)] [(0, 20, 0), (22, 2, 1)])
      (double (fun x => .cmoCinv ⟨fld w 12 7, fld w 5 7, bit w 4, bit w 3, fld x 20 2⟩) w n [(0, 3, 2), (19, 7, 0)] [(0, 20, 0), (22, 2, 2)]))
  | 3 => double (fun x => .l2pin ⟨fld w 12 7, fld w 5 7, bit w 4, bit w 3, fld x 21 3⟩) w n [(0, 3, 3), (19, 7, 0)] [(0, 21, 0)]
  | 4 => single (.l2unpin ⟨fld w 12 7, fld w 5 7, bit w 4, bit w 3⟩) w [(0, 3, 4), (19, 7, 0)]
  | _ => .illInst

/-- Decoding of major 0x16; `n` is the word after `w` in its packet, where there is one. -/
def decodeMajor22 (w : Word) (_ : Option Word) : Dec :=
  match (fld w 16 3 : BitVec 3).toNat with
  | 2 => single (.fence (fld w 0 3)) w [(3, 23, 16384)]
  | 0 => orElse (single (.bar) w [(0, 26, 0)])
      (single (.barCarve ⟨fld w 9 6, fld w 3 6⟩) w [(0, 3, 0), (15, 11, 1)])
  | 1 => single (.barg ⟨fld w 8 3, fld w 0 8⟩) w [(11, 15, 32)]
  | _ => .illInst

/-- Decoding of major 0x17; `n` is the word after `w` in its packet, where there is one. -/
def decodeMajor23 (w : Word) (n : Option Word) : Dec :=
  match (fld w 0 3 : BitVec 3).toNat with
  | 0 => double (fun x => .acq ⟨fld w 12 7, bit w 4, bit x 23⟩) w n [(0, 4, 0), (5, 7, 0), (19, 7, 0)] [(0, 23, 0)]
  | 1 => double (fun x => .tryacq ⟨fld w 12 7, bit w 4, bit x 23, fld x 20 3⟩) w n [(0, 4, 1), (5, 7, 0), (19, 7, 0)] [(0, 20, 0)]
  | 2 => double (fun x => .rel ⟨fld w 12 7, bit w 4, bit x 23⟩) w n [(0, 4, 2), (5, 7, 0), (19, 7, 0)] [(0, 23, 0)]
  | 3 => orElse (double (fun x => .region ⟨fld w 19 7, fld w 12 7, fld w 5 7, bit w 4, bit w 3, fld x 17 7, bit x 16, bit x 15, fld x 11 3⟩) w n [(0, 3, 3)] [(0, 11, 0), (14, 1, 0)])
      (double (fun x => .regionFree ⟨fld w 19 7, fld w 12 7, bit w 4, fld x 11 3⟩) w n [(0, 4, 3), (5, 7, 0)] [(0, 11, 0), (14, 10, 1)])
  | 4 => single (.waitge ⟨fld w 12 7, fld w 5 7, bit w 4, bit w 3⟩) w [(0, 3, 4), (19, 7, 0)]
  | _ => .illInst

/-- Decoding of major 0x18; `n` is the word after `w` in its packet, where there is one. -/
def decodeMajor24 (w : Word) (n : Option Word) : Dec :=
  match (fld w 0 5 : BitVec 5).toNat with
  | 0 => single (.sadd ⟨fld w 19 7, fld w 12 7, fld w 5 7⟩) w [(0, 5, 0)]
  | 8 => single (.ssub ⟨fld w 19 7, fld w 12 7, fld w 5 7⟩) w [(0, 5, 8)]
  | 16 => single (.smul ⟨fld w 19 7, fld w 12 7, fld w 5 7⟩) w [(0, 5, 16)]
  | 1 => single (.sand ⟨fld w 19 7, fld w 12 7, fld w 5 7⟩) w [(0, 5, 1)]
  | 9 => single (.sor ⟨fld w 19 7, fld w 12 7, fld w 5 7⟩) w [(0, 5, 9)]
  | 17 => single (.sxor ⟨fld w 19 7, fld w 12 7, fld w 5 7⟩) w [(0, 5, 17)]
  | 2 => single (.sshl ⟨fld w 19 7, fld w 12 7, fld w 5 7⟩) w [(0, 5, 2)]
  | 10 => single (.sshr ⟨fld w 19 7, fld w 12 7, fld w 5 7⟩) w [(0, 5, 10)]
  | 18 => single (.ssar ⟨fld w 19 7, fld w 12 7, fld w 5 7⟩) w [(0, 5, 18)]
  | 26 => single (.sdone) w [(0, 26, 26)]
  | 3 => double (fun x => .saddi ⟨fld w 19 7, fld w 12 7, fld x 0 24⟩) w n [(0, 12, 3)] []
  | 11 => double (fun x => .sldi ⟨fld w 19 7, fld x 0 24⟩) w n [(0, 19, 11)] []
  | 4 => double (fun x => .sset ⟨fld w 19 7, fld w 12 7, fld w 5 7, fld x 20 4⟩) w n [(0, 5, 4)] [(0, 20, 0)]
  | 12 => double (fun x => .sbr ⟨fld w 12 7, fld w 5 7, fld x 20 4, fld x 0 19⟩) w n [(0, 5, 12), (19, 7, 0)] [(19, 1, 0)]
  | 20 => double (fun x => .sbrf ⟨fld x 13 10, fld x 0 13⟩) w n [(0, 26, 20)] [(23, 1, 0)]
  | 5 => single (.dqpush (fld w 12 7)) w [(0, 12, 5), (19, 7, 0)]
  | 6 => double (fun x => .stream ⟨fld w 12 7, fld x 20 4⟩) w n [(0, 12, 6), (19, 7, 0)] [(0, 20, 0)]
  | 7 => double (fun x => .sqstop ⟨fld w 19 7, fld x 20 4⟩) w n [(0, 19, 7)] [(0, 20, 0)]
  | _ => .illInst

/-- Decoding of major 0x19; `n` is the word after `w` in its packet, where there is one. -/
def decodeMajor25 (w : Word) (n : Option Word) : Dec :=
  match (fld w 0 3 : BitVec 3).toNat with
  | 0 => double (fun x => .cpy ⟨fld w 19 7, fld w 12 7, fld w 5 7, bit w 4, bit w 3, fld x 17 7, bit x 16, fld x 12 4, fld x 10 2, fld x 8 2, bit x 7⟩) w n [(0, 3, 0)] [(0, 7, 0)]
  | 1 => double (fun x => .cpy2d ⟨fld w 19 7, fld w 12 7, fld w 5 7, bit w 4, bit w 3, fld x 17 7, bit x 16, fld x 12 4, fld x 10 2, fld x 8 2, bit x 7⟩) w n [(0, 3, 1)] [(0, 7, 0)]
  | 2 => single (.seal ⟨fld w 19 7, bit w 4, bit w 3⟩) w [(0, 3, 2), (5, 14, 0)]
  | 3 => single (.bwait ⟨fld w 12 7, bit w 4, bit w 3⟩) w [(0, 3, 3), (5, 7, 0), (19, 7, 0)]
  | 4 => single (.wptr ⟨fld w 19 7, fld w 12 7, bit w 4, bit w 3⟩) w [(0, 3, 4), (5, 7, 0)]
  | 5 => double (fun x => .chunk ⟨fld w 19 7, fld w 12 7, bit w 4, bit w 3, bit x 23⟩) w n [(0, 3, 5), (5, 7, 0)] [(0, 23, 0)]
  | 6 => double (fun x => .ovl ⟨fld w 19 7, fld w 12 7, fld w 5 7, bit w 4, bit w 3, fld x 22 2, fld x 18 4⟩) w n [(0, 3, 6)] [(0, 18, 0)]
  | _ => .illInst

/-- Decoding of major 0x1A; `n` is the word after `w` in its packet, where there is one. -/
def decodeMajor26 (w : Word) (_ : Option Word) : Dec :=
  match (fld w 0 3 : BitVec 3).toNat with
  | 0 => single (.qmma ⟨fld w 19 7, fld w 12 7, bit w 4⟩) w [(0, 4, 0), (5, 7, 0)]
  | 1 => single (.qspmm ⟨fld w 19 7, fld w 12 7, bit w 4⟩) w [(0, 4, 1), (5, 7, 0)]
  | 2 => single (.qacc ⟨fld w 19 7, fld w 12 7, bit w 4⟩) w [(0, 4, 2), (5, 7, 0)]
  | 3 => single (.qcvt ⟨fld w 19 7, fld w 12 7, bit w 4⟩) w [(0, 4, 3), (5, 7, 0)]
  | 4 => single (.qwait ⟨fld w 12 7, bit w 4⟩) w [(0, 4, 4), (5, 7, 0), (19, 7, 0)]
  | 5 => single (.qpoll ⟨fld w 19 7⟩) w [(0, 19, 5)]
  | _ => .illInst

/-- Decoding of major 0x1B; `n` is the word after `w` in its packet, where there is one. -/
def decodeMajor27 (w : Word) (n : Option Word) : Dec :=
  match (fld w 0 3 : BitVec 3).toNat with
  | 0 => single (.qrec ⟨fld w 19 7, fld w 12 7, bit w 4⟩) w [(0, 4, 0), (5, 7, 0)]
  | 1 => single (.qrecb ⟨fld w 19 7, fld w 12 7, bit w 4⟩) w [(0, 4, 1), (5, 7, 0)]
  | 2 => single (.qtrace ⟨fld w 19 7, fld w 12 7, bit w 4⟩) w [(0, 4, 2), (5, 7, 0)]
  | 3 => double (fun x => .qrule ⟨fld w 12 7, bit w 4, fld x 20 4, fld x 18 2⟩) w n [(0, 4, 3), (5, 7, 0), (19, 7, 0)] [(0, 18, 0)]
  | _ => .illInst

/-- Decoding of major 0x1C; `n` is the word after `w` in its packet, where there is one. -/
def decodeMajor28 (w : Word) (n : Option Word) : Dec :=
  match (fld w 0 3 : BitVec 3).toNat with
  | 0 => double (fun x => .patld ⟨fld w 19 7, fld w 12 7, fld w 5 7, bit w 4, bit w 3, fld x 22 2⟩) w n [(0, 3, 0)] [(0, 22, 0)]
  | 1 => single (.patbind ⟨fld w 12 7, bit w 4⟩) w [(0, 4, 1), (5, 7, 0), (19, 7, 0)]
  | 2 => double (fun x => .patnext ⟨fld w 19 7, bit x 23, bit x 22, fld x 19 3⟩) w n [(0, 19, 2)] [(0, 19, 0)]
  | 3 => double (fun x => .patmerge ⟨fld w 19 7, fld w 12 7, bit w 4, bit x 23, bit x 22, fld x 20 2, fld x 18 2⟩) w n [(0, 4, 3), (5, 7, 0)] [(0, 18, 0)]
  | 4 => double (fun x => .patsave ⟨fld w 12 7, bit w 4, fld x 22 2⟩) w n [(0, 4, 4), (5, 7, 0), (19, 7, 0)] [(0, 22, 0)]
  | 5 => double (fun x => .patrestore ⟨fld w 12 7, bit w 4, fld x 22 2⟩) w n [(0, 4, 5), (5, 7, 0), (19, 7, 0)] [(0, 22, 0)]
  | _ => .illInst

/-- Decoding of major 0x1D; `n` is the word after `w` in its packet, where there is one. -/
def decodeMajor29 (w : Word) (_ : Option Word) : Dec :=
  match (fld w 0 3 : BitVec 3).toNat with
  | 0 => single (.gspawn ⟨fld w 19 7, fld w 12 7, fld w 5 7, bit w 4, bit w 3⟩) w [(0, 3, 0)]
  | 1 => single (.gdone ⟨fld w 12 7, fld w 5 7, bit w 4, bit w 3⟩) w [(0, 3, 1), (19, 7, 0)]
  | 2 => single (.tidset ⟨fld w 12 7, fld w 5 7, bit w 4, bit w 3⟩) w [(0, 3, 2), (19, 7, 0)]
  | 3 => single (.tidget ⟨fld w 19 7, fld w 5 7, bit w 3⟩) w [(0, 3, 3), (4, 1, 0), (12, 7, 0)]
  | _ => .illInst

/-- Decoding of major 0x1E; `n` is the word after `w` in its packet, where there is one. -/
def decodeMajor30 (w : Word) (n : Option Word) : Dec :=
  match (fld w 0 3 : BitVec 3).toNat with
  | 0 => double (fun x => .mfs ⟨fld w 19 7, fld x 0 10⟩) w n [(0, 19, 0)] [(10, 14, 0)]
  | 1 => orElse (double (fun _ => .mtsFstat ⟨fld w 12 7, bit w 4⟩) w n [(0, 4, 1), (5, 7, 0), (19, 7, 0)] [(0, 24, 8)])
      (orElse (double (fun _ => .mtsFctl ⟨fld w 12 7, bit w 4⟩) w n [(0, 4, 1), (5, 7, 0), (19, 7, 0)] [(0, 24, 9)])
      (orElse (double (fun _ => .mtsCarve ⟨fld w 12 7, bit w 4⟩) w n [(0, 4, 1), (5, 7, 0), (19, 7, 0)] [(0, 24, 18)])
      (double (fun x => .mts ⟨fld w 12 7, bit w 4, fld x 0 10⟩) w n [(0, 4, 1), (5, 7, 0), (19, 7, 0)] [(10, 14, 0)])))
  | 2 => orElse (single (.eret) w [(0, 26, 2)])
      (single (.eretTerm) w [(0, 26, 524290)])
  | 3 => orElse (single (.tlbinvPage ⟨fld w 12 7, fld w 5 7, bit w 4, bit w 3⟩) w [(0, 3, 3), (19, 7, 0)])
      (orElse (single (.tlbinvAsid ⟨fld w 5 7, bit w 4, bit w 3⟩) w [(0, 3, 3), (12, 14, 128)])
      (single (.tlbinvAll ⟨bit w 4, bit w 3⟩) w [(0, 3, 3), (5, 21, 32768)]))
  | 4 => single (.pgshare ⟨fld w 19 7, fld w 12 7, fld w 5 7, bit w 4, bit w 3⟩) w [(0, 3, 4)]
  | 5 => single (.pgrel ⟨fld w 19 7, fld w 12 7, fld w 5 7, bit w 4, bit w 3⟩) w [(0, 3, 5)]
  | 6 => orElse (double (fun x => .ctxsave ⟨fld w 19 7, bit x 21⟩) w n [(0, 19, 6)] [(0, 21, 0), (22, 2, 0)])
      (orElse (double (fun x => .ctxload ⟨fld w 19 7, bit x 21⟩) w n [(0, 19, 6)] [(0, 21, 0), (22, 2, 2)])
      (orElse (double (fun x => .ctxsaveMem ⟨fld w 19 7, fld w 12 7, bit x 21⟩) w n [(0, 12, 6)] [(0, 21, 0), (22, 2, 1)])
      (double (fun x => .ctxloadMem ⟨fld w 19 7, fld w 12 7, bit x 21⟩) w n [(0, 12, 6)] [(0, 21, 0), (22, 2, 3)])))
  | 7 => orElse (single (.haltStop) w [(0, 26, 7)])
      (single (.haltRun) w [(0, 26, 524295)])
  | _ => .illInst

/-- A core or Shuttle word, with the word after it where the packet holds one: the instruction, or the fault by
name (R39, R44, R85 and the other minor maps). -/
def decodeCore (w : Word) (n : Option Word) : Dec :=
  match (fld w 26 5 : BitVec 5).toNat with
  | 0 => decodeMajor0 w n
  | 1 => decodeMajor1 w n
  | 2 => decodeMajor2 w n
  | 3 => decodeMajor3 w n
  | 4 => decodeMajor4 w n
  | 5 => decodeMajor5 w n
  | 6 => decodeMajor6 w n
  | 7 => decodeMajor7 w n
  | 9 => decodeMajor9 w n
  | 8 => decodeMajor8 w n
  | 10 => decodeMajor10 w n
  | 11 => decodeMajor11 w n
  | 12 => decodeMajor12 w n
  | 13 => decodeMajor13 w n
  | 14 => decodeMajor14 w n
  | 15 => decodeMajor15 w n
  | 16 => decodeMajor16 w n
  | 17 => decodeMajor17 w n
  | 18 => decodeMajor18 w n
  | 19 => decodeMajor19 w n
  | 20 => decodeMajor20 w n
  | 21 => decodeMajor21 w n
  | 22 => decodeMajor22 w n
  | 23 => decodeMajor23 w n
  | 24 => decodeMajor24 w n
  | 25 => decodeMajor25 w n
  | 26 => decodeMajor26 w n
  | 27 => decodeMajor27 w n
  | 28 => decodeMajor28 w n
  | 29 => decodeMajor29 w n
  | 30 => decodeMajor30 w n
  | _ => .illInst

/-- A Bobbin word (R340, R341): the instruction, or subcode ILL. -/
def decodeBobbin (w : Word) : Dec :=
  match (fld w 26 6 : BitVec 6).toNat with
  | 1 => match (fld w 0 4 : BitVec 4).toNat with
    | 0 => single (.bAdd ⟨fld w 21 5, fld w 16 5, fld w 11 5⟩) w [(0, 11, 0)]
    | 1 => single (.bSub ⟨fld w 21 5, fld w 16 5, fld w 11 5⟩) w [(0, 11, 1)]
    | 2 => single (.bMul ⟨fld w 21 5, fld w 16 5, fld w 11 5⟩) w [(0, 11, 2)]
    | 3 => single (.bAnd ⟨fld w 21 5, fld w 16 5, fld w 11 5⟩) w [(0, 11, 3)]
    | 4 => single (.bOr ⟨fld w 21 5, fld w 16 5, fld w 11 5⟩) w [(0, 11, 4)]
    | 5 => single (.bXor ⟨fld w 21 5, fld w 16 5, fld w 11 5⟩) w [(0, 11, 5)]
    | 6 => single (.bShl ⟨fld w 21 5, fld w 16 5, fld w 11 5⟩) w [(0, 11, 6)]
    | 7 => single (.bShr ⟨fld w 21 5, fld w 16 5, fld w 11 5⟩) w [(0, 11, 7)]
    | 8 => single (.bSar ⟨fld w 21 5, fld w 16 5, fld w 11 5⟩) w [(0, 11, 8)]
    | 9 => single (.slt ⟨fld w 21 5, fld w 16 5, fld w 11 5⟩) w [(0, 11, 9)]
    | 10 => single (.sltu ⟨fld w 21 5, fld w 16 5, fld w 11 5⟩) w [(0, 11, 10)]
    | _ => .illInst
  | 2 => single (.bAddi ⟨fld w 21 5, fld w 16 5, fld w 0 16⟩) w []
  | 3 => single (.ldi ⟨fld w 21 5, fld w 16 2, fld w 0 16⟩) w [(18, 3, 0)]
  | 4 => if (fld w 13 3 : BitVec 3) = 6 then single (.bAl (fld w 0 13)) w [(13, 13, 6)]
         else single (.bCc ⟨fld w 21 5, fld w 16 5, fld w 13 3, fld w 0 13⟩) w []
  | 5 => single (.ldl ⟨fld w 21 5, fld w 16 5, bit w 15, fld w 0 15⟩) w []
  | 6 => single (.stl ⟨fld w 21 5, fld w 16 5, bit w 15, fld w 0 15⟩) w []
  | 7 => single (.ldh ⟨fld w 21 5, fld w 16 5, bit w 15, fld w 0 15⟩) w []
  | 8 => single (.sth ⟨fld w 21 5, fld w 16 5, bit w 15, fld w 0 15⟩) w []
  | 9 => single (.ldv ⟨fld w 21 5, fld w 16 5, bit w 15, fld w 0 15⟩) w []
  | 10 => single (.stv ⟨fld w 21 5, fld w 16 5, bit w 15, fld w 0 15⟩) w []
  | 11 => match (fld w 0 4 : BitVec 4).toNat with
    | 0 => single (.vadd ⟨fld w 21 5, fld w 16 5, fld w 11 5⟩) w [(0, 11, 0)]
    | 1 => single (.vsub ⟨fld w 21 5, fld w 16 5, fld w 11 5⟩) w [(0, 11, 1)]
    | 2 => single (.vmul ⟨fld w 21 5, fld w 16 5, fld w 11 5⟩) w [(0, 11, 2)]
    | 3 => single (.vfma ⟨fld w 21 5, fld w 16 5, fld w 11 5, fld w 6 5⟩) w [(0, 6, 3)]
    | 4 => single (.vbc ⟨fld w 21 5, fld w 16 5⟩) w [(0, 16, 4)]
    | _ => .illInst
  | 12 => single (.chase ⟨fld w 21 5, fld w 16 5, fld w 11 5, fld w 6 5, fld w 0 6⟩) w []
  | 13 => single (.sample ⟨fld w 21 5, fld w 16 5, fld w 11 5⟩) w [(0, 11, 0)]
  | 14 => single (.adamw ⟨fld w 16 5, fld w 11 5, fld w 6 5⟩) w [(0, 6, 0), (21, 5, 0)]
  | 15 => single (.faddc ⟨fld w 21 5, fld w 16 5⟩) w [(0, 16, 0)]
  | 16 => single (.signal ⟨fld w 16 5, fld w 11 5⟩) w [(0, 11, 0), (21, 5, 0)]
  | 17 => single (.waitn ⟨fld w 16 5, fld w 11 5⟩) w [(0, 11, 0), (21, 5, 0)]
  | 18 => single (.bDone) w [(0, 26, 0)]
  | _ => .illInst

/-- The words of an instruction, from the bit tables of its entry; `c` is the chain bit (of the word, or of the
extension word where the instruction has one), which an instruction that stands alone and a Bobbin word do not have.
A hardware step has no words. -/
def encode (c : Bool) : Instr → List Word
  | .br r => [wordOf (c.toNat * 0x80000000 + 0x00080000 + r.g.toNat * 0x800000 + r.n.toNat * 0x400000 + r.off.toNat)]
  | .call r => [wordOf (0x84000000 + r.g.toNat * 0x800000 + r.n.toNat * 0x400000 + r.off.toNat), wordOf (c.toNat * 0x80000000 + 0x7D000000 + r.link.toNat * 0x400)]
  | .brf r => [wordOf (0x84080000 + r.g.toNat * 0x800000 + r.n.toNat * 0x400000 + r.tpkt.toNat), wordOf (c.toNat * 0x80000000 + 0x7D000000 + r.ovl.toNat)]
  | .callf r => [wordOf (0x84100000 + r.g.toNat * 0x800000 + r.n.toNat * 0x400000 + r.tpkt.toNat), wordOf (c.toNat * 0x80000000 + 0x7D000000 + r.ovl.toNat + r.link.toNat * 0x400)]
  | .jt r => [wordOf (0x88000000 + r.a.toNat * 0x1000 + r.b.toNat * 0x20 + r.ea.toNat * 0x10 + r.eb.toNat * 0x8), wordOf (c.toNat * 0x80000000 + 0x7D000000 + r.bound.toNat * 0x10000 + r.label.toNat)]
  | .jtc r => [wordOf (0x88000001 + r.d.toNat * 0x80000 + r.a.toNat * 0x1000 + r.b.toNat * 0x20 + r.ea.toNat * 0x10 + r.eb.toNat * 0x8), wordOf (c.toNat * 0x80000000 + 0x7D000000 + r.bound.toNat * 0x10000 + r.label.toNat)]
  | .ret r => [wordOf (c.toNat * 0x80000000 + 0x08000002 + r.a.toNat * 0x1000 + r.ea.toNat * 0x10)]
  | .nop => [wordOf (c.toNat * 0x80000000 + 0x0C000000)]
  | .pad label => [wordOf (c.toNat * 0x80000000 + 0x0C010000 + label.toNat)]
  | .join j => [wordOf (0x0C020000 + j.toNat * 0x80000)]
  | .jmaskZ j => [wordOf (c.toNat * 0x80000000 + 0x0C030000 + j.toNat)]
  | .jmaskG j => [wordOf (c.toNat * 0x80000000 + 0x0C030008 + j.toNat)]
  | .jmaskR r => [wordOf (c.toNat * 0x80000000 + 0x0C030010 + r.d.toNat * 0x80000 + r.j.toNat)]
  | .jmaskGet r => [wordOf (c.toNat * 0x80000000 + 0x0C030018 + r.d.toNat * 0x80000 + r.j.toNat)]
  | .exit => [wordOf (0x0C040000)]
  | .yield => [wordOf (0x0C050000)]
  | .dqpop r => [wordOf (c.toNat * 0x80000000 + 0x0C060000 + r.d.toNat * 0x80000 + r.w.toNat)]
  | .trap code => [wordOf (0x0C070000 + code.toNat)]
  | .bkpt tag => [wordOf (0x0C070100 + tag.toNat)]
  | .add r => [wordOf (c.toNat * 0x80000000 + 0x10000000 + r.d.toNat * 0x80000 + r.a.toNat * 0x1000 + r.b.toNat * 0x20 + r.ea.toNat * 0x10 + r.eb.toNat * 0x8)]
  | .sub r => [wordOf (c.toNat * 0x80000000 + 0x10000001 + r.d.toNat * 0x80000 + r.a.toNat * 0x1000 + r.b.toNat * 0x20 + r.ea.toNat * 0x10 + r.eb.toNat * 0x8)]
  | .and r => [wordOf (c.toNat * 0x80000000 + 0x10000002 + r.d.toNat * 0x80000 + r.a.toNat * 0x1000 + r.b.toNat * 0x20 + r.ea.toNat * 0x10 + r.eb.toNat * 0x8)]
  | .or r => [wordOf (c.toNat * 0x80000000 + 0x10000003 + r.d.toNat * 0x80000 + r.a.toNat * 0x1000 + r.b.toNat * 0x20 + r.ea.toNat * 0x10 + r.eb.toNat * 0x8)]
  | .xor r => [wordOf (c.toNat * 0x80000000 + 0x10000004 + r.d.toNat * 0x80000 + r.a.toNat * 0x1000 + r.b.toNat * 0x20 + r.ea.toNat * 0x10 + r.eb.toNat * 0x8)]
  | .shl r => [wordOf (c.toNat * 0x80000000 + 0x10000005 + r.d.toNat * 0x80000 + r.a.toNat * 0x1000 + r.b.toNat * 0x20 + r.ea.toNat * 0x10 + r.eb.toNat * 0x8)]
  | .shr r => [wordOf (c.toNat * 0x80000000 + 0x10000006 + r.d.toNat * 0x80000 + r.a.toNat * 0x1000 + r.b.toNat * 0x20 + r.ea.toNat * 0x10 + r.eb.toNat * 0x8)]
  | .sar r => [wordOf (c.toNat * 0x80000000 + 0x10000007 + r.d.toNat * 0x80000 + r.a.toNat * 0x1000 + r.b.toNat * 0x20 + r.ea.toNat * 0x10 + r.eb.toNat * 0x8)]
  | .mul r => [wordOf (c.toNat * 0x80000000 + 0x14000000 + r.d.toNat * 0x80000 + r.a.toNat * 0x1000 + r.b.toNat * 0x20 + r.ea.toNat * 0x10 + r.eb.toNat * 0x8)]
  | .mulhI32 r => [wordOf (c.toNat * 0x80000000 + 0x14000001 + r.d.toNat * 0x80000 + r.a.toNat * 0x1000 + r.b.toNat * 0x20 + r.ea.toNat * 0x10 + r.eb.toNat * 0x8)]
  | .mulhN32 r => [wordOf (c.toNat * 0x80000000 + 0x14000002 + r.d.toNat * 0x80000 + r.a.toNat * 0x1000 + r.b.toNat * 0x20 + r.ea.toNat * 0x10 + r.eb.toNat * 0x8)]
  | .mac r => [wordOf (c.toNat * 0x80000000 + 0x14000003 + r.d.toNat * 0x80000 + r.a.toNat * 0x1000 + r.b.toNat * 0x20 + r.ea.toNat * 0x10 + r.eb.toNat * 0x8)]
  | .divI32 r => [wordOf (c.toNat * 0x80000000 + 0x14000004 + r.d.toNat * 0x80000 + r.a.toNat * 0x1000 + r.b.toNat * 0x20 + r.ea.toNat * 0x10 + r.eb.toNat * 0x8)]
  | .divN32 r => [wordOf (c.toNat * 0x80000000 + 0x14000005 + r.d.toNat * 0x80000 + r.a.toNat * 0x1000 + r.b.toNat * 0x20 + r.ea.toNat * 0x10 + r.eb.toNat * 0x8)]
  | .remI32 r => [wordOf (c.toNat * 0x80000000 + 0x14000006 + r.d.toNat * 0x80000 + r.a.toNat * 0x1000 + r.b.toNat * 0x20 + r.ea.toNat * 0x10 + r.eb.toNat * 0x8)]
  | .remN32 r => [wordOf (c.toNat * 0x80000000 + 0x14000007 + r.d.toNat * 0x80000 + r.a.toNat * 0x1000 + r.b.toNat * 0x20 + r.ea.toNat * 0x10 + r.eb.toNat * 0x8)]
  | .addB64 r => [wordOf (c.toNat * 0x80000000 + 0x18000000 + r.d.toNat * 0x80000 + r.a.toNat * 0x1000 + r.b.toNat * 0x20 + r.ea.toNat * 0x10 + r.eb.toNat * 0x8)]
  | .subB64 r => [wordOf (c.toNat * 0x80000000 + 0x18000001 + r.d.toNat * 0x80000 + r.a.toNat * 0x1000 + r.b.toNat * 0x20 + r.ea.toNat * 0x10 + r.eb.toNat * 0x8)]
  | .mulwI32 r => [wordOf (c.toNat * 0x80000000 + 0x18000002 + r.d.toNat * 0x80000 + r.a.toNat * 0x1000 + r.b.toNat * 0x20 + r.ea.toNat * 0x10 + r.eb.toNat * 0x8)]
  | .mulwN32 r => [wordOf (c.toNat * 0x80000000 + 0x18000003 + r.d.toNat * 0x80000 + r.a.toNat * 0x1000 + r.b.toNat * 0x20 + r.ea.toNat * 0x10 + r.eb.toNat * 0x8)]
  | .cmp r => [wordOf (0x98000004 + r.a.toNat * 0x1000 + r.b.toNat * 0x20 + r.ea.toNat * 0x10 + r.eb.toNat * 0x8), wordOf (c.toNat * 0x80000000 + 0x7D000000 + r.pd.toNat * 0x200000 + r.cond.toNat * 0x20000 + r.comb.toNat * 0x8000 + r.cp.toNat * 0x1000 + r.w.toNat * 0x800)]
  | .bfx r => [wordOf (0x98000005 + r.d.toNat * 0x80000 + r.a.toNat * 0x1000 + r.ea.toNat * 0x10), wordOf (c.toNat * 0x80000000 + 0x7D000000 + r.s.toNat * 0x800000 + r.pos.toNat * 0x40000 + r.len.toNat * 0x1000)]
  | .bfi r => [wordOf (0x98000006 + r.d.toNat * 0x80000 + r.a.toNat * 0x1000 + r.ea.toNat * 0x10), wordOf (c.toNat * 0x80000000 + 0x7D000000 + r.pos.toNat * 0x40000 + r.len.toNat * 0x1000)]
  | .lea r => [wordOf (0x98000007 + r.d.toNat * 0x80000 + r.a.toNat * 0x1000 + r.b.toNat * 0x20 + r.ea.toNat * 0x10 + r.eb.toNat * 0x8), wordOf (c.toNat * 0x80000000 + 0x7D000000 + r.s.toNat * 0x800000 + r.sh.toNat * 0x100000 + r.disp.toNat)]
  | .addi r => [wordOf (c.toNat * 0x80000000 + 0x1C000000 + r.d.toNat * 0x80000 + r.a.toNat * 0x1000 + r.ea.toNat * 0x800 + r.imm.toNat)]
  | .shi r => [wordOf (c.toNat * 0x80000000 + 0x1C000200 + r.d.toNat * 0x80000 + r.a.toNat * 0x1000 + r.ea.toNat * 0x800 + r.kind.toNat * 0x80 + r.amt.toNat)]
  | .movi r => [wordOf (0x9C000400 + r.d.toNat * 0x80000 + r.imm.toNat), wordOf (c.toNat * 0x80000000 + 0x7D000000 + r.hi.toNat)]
  | .cmpi r => [wordOf (c.toNat * 0x80000000 + 0x1C000600 + r.pd.toNat * 0x800000 + r.cond.toNat * 0x100000 + r.a.toNat * 0x1000 + r.ea.toNat * 0x800 + r.imm.toNat)]
  | .bind wcode => [wordOf (0xA4000003), wordOf (c.toNat * 0x80000000 + 0x7D000000 + wcode.toNat * 0x200000)]
  | .unbind => [wordOf (c.toNat * 0x80000000 + 0x24000004)]
  | .ladd r => [wordOf (0xA0000000 + r.d.toNat * 0x80000 + r.a.toNat * 0x1000 + r.b.toNat * 0x20 + r.ea.toNat * 0x10 + r.eb.toNat * 0x8), wordOf (c.toNat * 0x80000000 + 0x7D000000 + r.pc.toNat * 0x200000 + r.pv.toNat * 0x40000)]
  | .ladc r => [wordOf (0xA0000001 + r.d.toNat * 0x80000 + r.a.toNat * 0x1000 + r.b.toNat * 0x20 + r.ea.toNat * 0x10 + r.eb.toNat * 0x8), wordOf (c.toNat * 0x80000000 + 0x7D000000 + r.pc.toNat * 0x200000 + r.pv.toNat * 0x40000 + r.pin.toNat * 0x8000)]
  | .lsub r => [wordOf (0xA0000002 + r.d.toNat * 0x80000 + r.a.toNat * 0x1000 + r.b.toNat * 0x20 + r.ea.toNat * 0x10 + r.eb.toNat * 0x8), wordOf (c.toNat * 0x80000000 + 0x7D000000 + r.pc.toNat * 0x200000 + r.pv.toNat * 0x40000)]
  | .lsbc r => [wordOf (0xA0000003 + r.d.toNat * 0x80000 + r.a.toNat * 0x1000 + r.b.toNat * 0x20 + r.ea.toNat * 0x10 + r.eb.toNat * 0x8), wordOf (c.toNat * 0x80000000 + 0x7D000000 + r.pc.toNat * 0x200000 + r.pv.toNat * 0x40000 + r.pin.toNat * 0x8000)]
  | .lneg r => [wordOf (0xA0000004 + r.d.toNat * 0x80000 + r.a.toNat * 0x1000 + r.ea.toNat * 0x10), wordOf (c.toNat * 0x80000000 + 0x7D000000 + r.pc.toNat * 0x200000 + r.pv.toNat * 0x40000)]
  | .lcmp r => [wordOf (0xA0000005 + r.a.toNat * 0x1000 + r.b.toNat * 0x20 + r.ea.toNat * 0x10 + r.eb.toNat * 0x8), wordOf (c.toNat * 0x80000000 + 0x7D000000 + r.pe.toNat * 0x200000 + r.pltu.toNat * 0x40000 + r.plt.toNat * 0x8000)]
  | .lmulw r => [wordOf (0xA0000006 + r.d.toNat * 0x80000 + r.a.toNat * 0x1000 + r.b.toNat * 0x20 + r.ea.toNat * 0x10 + r.eb.toNat * 0x8), wordOf (c.toNat * 0x80000000 + 0x7D000000 + r.h.toNat * 0x20000)]
  | .lshl r => [wordOf (c.toNat * 0x80000000 + 0x24000000 + r.d.toNat * 0x80000 + r.a.toNat * 0x1000 + r.b.toNat * 0x20 + r.ea.toNat * 0x10 + r.eb.toNat * 0x8)]
  | .lshr r => [wordOf (c.toNat * 0x80000000 + 0x24000001 + r.d.toNat * 0x80000 + r.a.toNat * 0x1000 + r.b.toNat * 0x20 + r.ea.toNat * 0x10 + r.eb.toNat * 0x8)]
  | .lshrI r => [wordOf (c.toNat * 0x80000000 + 0x24000002 + r.d.toNat * 0x80000 + r.a.toNat * 0x1000 + r.b.toNat * 0x20 + r.ea.toNat * 0x10 + r.eb.toNat * 0x8)]
  | .fadd r => [wordOf (c.toNat * 0x80000000 + 0x28000000 + r.d.toNat * 0x80000 + r.a.toNat * 0x1000 + r.b.toNat * 0x20 + r.ea.toNat * 0x10 + r.eb.toNat * 0x8)]
  | .fsub r => [wordOf (c.toNat * 0x80000000 + 0x28000001 + r.d.toNat * 0x80000 + r.a.toNat * 0x1000 + r.b.toNat * 0x20 + r.ea.toNat * 0x10 + r.eb.toNat * 0x8)]
  | .fmul r => [wordOf (c.toNat * 0x80000000 + 0x28000002 + r.d.toNat * 0x80000 + r.a.toNat * 0x1000 + r.b.toNat * 0x20 + r.ea.toNat * 0x10 + r.eb.toNat * 0x8)]
  | .fma r => [wordOf (c.toNat * 0x80000000 + 0x28000003 + r.d.toNat * 0x80000 + r.a.toNat * 0x1000 + r.b.toNat * 0x20 + r.ea.toNat * 0x10 + r.eb.toNat * 0x8)]
  | .fmin r => [wordOf (c.toNat * 0x80000000 + 0x28000004 + r.d.toNat * 0x80000 + r.a.toNat * 0x1000 + r.b.toNat * 0x20 + r.ea.toNat * 0x10 + r.eb.toNat * 0x8)]
  | .fmax r => [wordOf (c.toNat * 0x80000000 + 0x28000005 + r.d.toNat * 0x80000 + r.a.toNat * 0x1000 + r.b.toNat * 0x20 + r.ea.toNat * 0x10 + r.eb.toNat * 0x8)]
  | .fminp r => [wordOf (c.toNat * 0x80000000 + 0x28000006 + r.d.toNat * 0x80000 + r.a.toNat * 0x1000 + r.b.toNat * 0x20 + r.ea.toNat * 0x10 + r.eb.toNat * 0x8)]
  | .fmaxp r => [wordOf (c.toNat * 0x80000000 + 0x28000007 + r.d.toNat * 0x80000 + r.a.toNat * 0x1000 + r.b.toNat * 0x20 + r.ea.toNat * 0x10 + r.eb.toNat * 0x8)]
  | .fdiv r => [wordOf (c.toNat * 0x80000000 + 0x2C000000 + r.d.toNat * 0x80000 + r.a.toNat * 0x1000 + r.b.toNat * 0x20 + r.ea.toNat * 0x10 + r.eb.toNat * 0x8)]
  | .fsqrt r => [wordOf (c.toNat * 0x80000000 + 0x2C000001 + r.d.toNat * 0x80000 + r.a.toNat * 0x1000 + r.ea.toNat * 0x10)]
  | .frcp r => [wordOf (c.toNat * 0x80000000 + 0x2C000002 + r.d.toNat * 0x80000 + r.a.toNat * 0x1000 + r.ea.toNat * 0x10)]
  | .frsq r => [wordOf (c.toNat * 0x80000000 + 0x2C000003 + r.d.toNat * 0x80000 + r.a.toNat * 0x1000 + r.ea.toNat * 0x10)]
  | .fexp2 r => [wordOf (c.toNat * 0x80000000 + 0x2C000004 + r.d.toNat * 0x80000 + r.a.toNat * 0x1000 + r.ea.toNat * 0x10)]
  | .flog2 r => [wordOf (c.toNat * 0x80000000 + 0x2C000005 + r.d.toNat * 0x80000 + r.a.toNat * 0x1000 + r.ea.toNat * 0x10)]
  | .fclass r => [wordOf (c.toNat * 0x80000000 + 0x2C000006 + r.d.toNat * 0x80000 + r.a.toNat * 0x1000 + r.ea.toNat * 0x10)]
  | .fcmp r => [wordOf (0xB0000000 + r.a.toNat * 0x1000 + r.b.toNat * 0x20 + r.ea.toNat * 0x10 + r.eb.toNat * 0x8), wordOf (c.toNat * 0x80000000 + 0x7D000000 + r.pd.toNat * 0x200000 + r.cond.toNat * 0x40000 + r.comb.toNat * 0x10000 + r.cp.toNat * 0x2000 + r.sig.toNat * 0x1000)]
  | .fsgn r => [wordOf (0xB0000001 + r.d.toNat * 0x80000 + r.a.toNat * 0x1000 + r.b.toNat * 0x20 + r.ea.toNat * 0x10 + r.eb.toNat * 0x8), wordOf (c.toNat * 0x80000000 + 0x7D000000 + r.mode.toNat * 0x400000)]
  | .faddBf16x2 r => [wordOf (c.toNat * 0x80000000 + 0x34000000 + r.d.toNat * 0x80000 + r.a.toNat * 0x1000 + r.b.toNat * 0x20 + r.ea.toNat * 0x10 + r.eb.toNat * 0x8)]
  | .fsubBf16x2 r => [wordOf (c.toNat * 0x80000000 + 0x34000001 + r.d.toNat * 0x80000 + r.a.toNat * 0x1000 + r.b.toNat * 0x20 + r.ea.toNat * 0x10 + r.eb.toNat * 0x8)]
  | .fmulBf16x2 r => [wordOf (c.toNat * 0x80000000 + 0x34000002 + r.d.toNat * 0x80000 + r.a.toNat * 0x1000 + r.b.toNat * 0x20 + r.ea.toNat * 0x10 + r.eb.toNat * 0x8)]
  | .fmaBf16x2 r => [wordOf (c.toNat * 0x80000000 + 0x34000003 + r.d.toNat * 0x80000 + r.a.toNat * 0x1000 + r.b.toNat * 0x20 + r.ea.toNat * 0x10 + r.eb.toNat * 0x8)]
  | .fminBf16x2 r => [wordOf (c.toNat * 0x80000000 + 0x34000004 + r.d.toNat * 0x80000 + r.a.toNat * 0x1000 + r.b.toNat * 0x20 + r.ea.toNat * 0x10 + r.eb.toNat * 0x8)]
  | .fmaxBf16x2 r => [wordOf (c.toNat * 0x80000000 + 0x34000005 + r.d.toNat * 0x80000 + r.a.toNat * 0x1000 + r.b.toNat * 0x20 + r.ea.toNat * 0x10 + r.eb.toNat * 0x8)]
  | .fdotBf16x2 r => [wordOf (c.toNat * 0x80000000 + 0x34000006 + r.d.toNat * 0x80000 + r.a.toNat * 0x1000 + r.b.toNat * 0x20 + r.ea.toNat * 0x10 + r.eb.toNat * 0x8)]
  | .faddF16x2 r => [wordOf (c.toNat * 0x80000000 + 0x38000000 + r.d.toNat * 0x80000 + r.a.toNat * 0x1000 + r.b.toNat * 0x20 + r.ea.toNat * 0x10 + r.eb.toNat * 0x8)]
  | .fsubF16x2 r => [wordOf (c.toNat * 0x80000000 + 0x38000001 + r.d.toNat * 0x80000 + r.a.toNat * 0x1000 + r.b.toNat * 0x20 + r.ea.toNat * 0x10 + r.eb.toNat * 0x8)]
  | .fmulF16x2 r => [wordOf (c.toNat * 0x80000000 + 0x38000002 + r.d.toNat * 0x80000 + r.a.toNat * 0x1000 + r.b.toNat * 0x20 + r.ea.toNat * 0x10 + r.eb.toNat * 0x8)]
  | .fmaF16x2 r => [wordOf (c.toNat * 0x80000000 + 0x38000003 + r.d.toNat * 0x80000 + r.a.toNat * 0x1000 + r.b.toNat * 0x20 + r.ea.toNat * 0x10 + r.eb.toNat * 0x8)]
  | .fminF16x2 r => [wordOf (c.toNat * 0x80000000 + 0x38000004 + r.d.toNat * 0x80000 + r.a.toNat * 0x1000 + r.b.toNat * 0x20 + r.ea.toNat * 0x10 + r.eb.toNat * 0x8)]
  | .fmaxF16x2 r => [wordOf (c.toNat * 0x80000000 + 0x38000005 + r.d.toNat * 0x80000 + r.a.toNat * 0x1000 + r.b.toNat * 0x20 + r.ea.toNat * 0x10 + r.eb.toNat * 0x8)]
  | .fdotF16x2 r => [wordOf (c.toNat * 0x80000000 + 0x38000006 + r.d.toNat * 0x80000 + r.a.toNat * 0x1000 + r.b.toNat * 0x20 + r.ea.toNat * 0x10 + r.eb.toNat * 0x8)]
  | .cvt r => [wordOf (0xBC000000 + r.d.toNat * 0x80000 + r.a.toNat * 0x1000 + r.b.toNat * 0x20 + r.ea.toNat * 0x10 + r.eb.toNat * 0x8), wordOf (c.toNat * 0x80000000 + 0x7D000000 + r.dst.toNat * 0x100000 + r.src.toNat * 0x10000 + r.mw.toNat * 0x2000 + r.hi.toNat * 0x1000)]
  | .cvtp r => [wordOf (0xBC000001 + r.d.toNat * 0x80000 + r.a.toNat * 0x1000 + r.b.toNat * 0x20 + r.ea.toNat * 0x10 + r.eb.toNat * 0x8), wordOf (c.toNat * 0x80000000 + 0x7D000000 + r.dst.toNat * 0x100000)]
  | .shfl r => [wordOf (0xC0000000 + r.d.toNat * 0x80000 + r.a.toNat * 0x1000 + r.b.toNat * 0x20 + r.ea.toNat * 0x10 + r.eb.toNat * 0x8), wordOf (c.toNat * 0x80000000 + 0x7D000000 + r.mode.toNat * 0x400000 + r.pf.toNat * 0x80000 + r.fb.toNat * 0x1000 + r.efb.toNat * 0x800 + r.fbr.toNat * 0x400 + r.useimm.toNat * 0x200 + r.imm.toNat * 0x8)]
  | .bcast r => [wordOf (c.toNat * 0x80000000 + 0x40000001 + r.d.toNat * 0x80000 + r.a.toNat * 0x1000 + r.ea.toNat * 0x10)]
  | .vote r => [wordOf (0xC0000002 + r.d.toNat * 0x80000), wordOf (c.toNat * 0x80000000 + 0x7D000000 + r.mode.toNat * 0x200000 + r.ps.toNat * 0x40000 + r.psn.toNat * 0x20000 + r.pd.toNat * 0x4000 + r.cw.toNat * 0x2000 + r.cn.toNat * 0x40)]
  | .match_ r => [wordOf (0xC0000003 + r.d.toNat * 0x80000 + r.a.toNat * 0x1000 + r.ea.toNat * 0x10), wordOf (c.toNat * 0x80000000 + 0x7D000000 + r.w.toNat * 0x800000 + r.pd.toNat * 0x100000)]
  | .compact r => [wordOf (0xC0000004 + r.d.toNat * 0x80000 + r.a.toNat * 0x1000 + r.ea.toNat * 0x10), wordOf (c.toNat * 0x80000000 + 0x7D000000 + r.ps.toNat * 0x200000 + r.psn.toNat * 0x100000 + r.pd.toNat * 0x20000)]
  | .greduce r => [wordOf (0xC0000005 + r.d.toNat * 0x80000 + r.a.toNat * 0x1000 + r.ea.toNat * 0x10), wordOf (c.toNat * 0x80000000 + 0x7D000000 + r.op.toNat * 0x100000 + r.seg.toNat * 0x20000)]
  | .gscan r => [wordOf (0xC0000006 + r.d.toNat * 0x80000 + r.a.toNat * 0x1000 + r.ea.toNat * 0x10), wordOf (c.toNat * 0x80000000 + 0x7D000000 + r.op.toNat * 0x100000 + r.seg.toNat * 0x20000 + r.incl.toNat * 0x10000)]
  | .regput r => [wordOf (0xC4000000 + r.a.toNat * 0x1000 + r.b.toNat * 0x20 + r.ea.toNat * 0x10 + r.eb.toNat * 0x8), wordOf (c.toNat * 0x80000000 + 0x7D000000 + r.wn.toNat * 0x200000 + r.pd.toNat * 0x40000)]
  | .regtake r => [wordOf (0xC4000001 + r.d.toNat * 0x80000 + r.a.toNat * 0x1000 + r.ea.toNat * 0x10), wordOf (c.toNat * 0x80000000 + 0x7D000000 + r.wn.toNat * 0x200000)]
  | .regflush r => [wordOf (c.toNat * 0x80000000 + 0x44000002 + r.a.toNat * 0x1000 + r.ea.toNat * 0x10)]
  | .rand r => [wordOf (c.toNat * 0x80000000 + 0x44000003 + r.d.toNat * 0x80000)]
  | .randf r => [wordOf (c.toNat * 0x80000000 + 0x44000004 + r.d.toNat * 0x80000)]
  | .ld r => [wordOf (c.toNat * 0x80000000 + 0x48000000 + r.d.toNat * 0x80000 + r.base.toNat * 0x1000 + r.eb.toNat * 0x800 + r.size.toNat * 0x100 + r.space.toNat * 0x40 + r.off.toNat)]
  | .st r => [wordOf (c.toNat * 0x80000000 + 0x4C000000 + r.d.toNat * 0x80000 + r.base.toNat * 0x1000 + r.eb.toNat * 0x800 + r.size.toNat * 0x100 + r.space.toNat * 0x40 + r.off.toNat)]
  | .atomAdd r => [wordOf (0xD0000000 + r.data.toNat * 0x80000 + r.base.toNat * 0x1000 + r.eb.toNat * 0x800 + r.space.toNat * 0x40 + r.off.toNat), wordOf (c.toNat * 0x80000000 + 0x7D000000 + r.ty.toNat * 0x200000 + r.ret.toNat * 0x100000 + r.d.toNat * 0x2000)]
  | .atomMin r => [wordOf (0xD0000100 + r.data.toNat * 0x80000 + r.base.toNat * 0x1000 + r.eb.toNat * 0x800 + r.space.toNat * 0x40 + r.off.toNat), wordOf (c.toNat * 0x80000000 + 0x7D000000 + r.ty.toNat * 0x200000 + r.ret.toNat * 0x100000 + r.d.toNat * 0x2000)]
  | .atomMax r => [wordOf (0xD0000200 + r.data.toNat * 0x80000 + r.base.toNat * 0x1000 + r.eb.toNat * 0x800 + r.space.toNat * 0x40 + r.off.toNat), wordOf (c.toNat * 0x80000000 + 0x7D000000 + r.ty.toNat * 0x200000 + r.ret.toNat * 0x100000 + r.d.toNat * 0x2000)]
  | .atomAnd r => [wordOf (0xD0000300 + r.data.toNat * 0x80000 + r.base.toNat * 0x1000 + r.eb.toNat * 0x800 + r.space.toNat * 0x40 + r.off.toNat), wordOf (c.toNat * 0x80000000 + 0x7D000000 + r.ty.toNat * 0x200000 + r.ret.toNat * 0x100000 + r.d.toNat * 0x2000)]
  | .atomOr r => [wordOf (0xD0000400 + r.data.toNat * 0x80000 + r.base.toNat * 0x1000 + r.eb.toNat * 0x800 + r.space.toNat * 0x40 + r.off.toNat), wordOf (c.toNat * 0x80000000 + 0x7D000000 + r.ty.toNat * 0x200000 + r.ret.toNat * 0x100000 + r.d.toNat * 0x2000)]
  | .atomXor r => [wordOf (0xD0000500 + r.data.toNat * 0x80000 + r.base.toNat * 0x1000 + r.eb.toNat * 0x800 + r.space.toNat * 0x40 + r.off.toNat), wordOf (c.toNat * 0x80000000 + 0x7D000000 + r.ty.toNat * 0x200000 + r.ret.toNat * 0x100000 + r.d.toNat * 0x2000)]
  | .atomExch r => [wordOf (0xD0000600 + r.data.toNat * 0x80000 + r.base.toNat * 0x1000 + r.eb.toNat * 0x800 + r.space.toNat * 0x40 + r.off.toNat), wordOf (c.toNat * 0x80000000 + 0x7D000000 + r.ty.toNat * 0x200000 + r.ret.toNat * 0x100000 + r.d.toNat * 0x2000)]
  | .atomCas r => [wordOf (0xD0000700 + r.data.toNat * 0x80000 + r.base.toNat * 0x1000 + r.eb.toNat * 0x800 + r.space.toNat * 0x40 + r.off.toNat), wordOf (c.toNat * 0x80000000 + 0x7D000000 + r.ty.toNat * 0x200000 + r.ret.toNat * 0x100000 + r.d.toNat * 0x2000 + r.cv.toNat * 0x40 + r.ecv.toNat * 0x20)]
  | .ldt r => [wordOf (0xD4000000 + r.d.toNat * 0x80000 + r.a.toNat * 0x1000 + r.b.toNat * 0x20 + r.ea.toNat * 0x10 + r.eb.toNat * 0x8), wordOf (c.toNat * 0x80000000 + 0x7D000000 + r.sz.toNat * 0x800000 + r.nc.toNat * 0x200000 + r.sp.toNat * 0x100000)]
  | .unpk r => [wordOf (0xD4000001 + r.d.toNat * 0x80000 + r.a.toNat * 0x1000 + r.ea.toNat * 0x10), wordOf (c.toNat * 0x80000000 + 0x7D000000 + r.mw.toNat * 0x200000 + r.kc.toNat * 0x80000 + r.pos.toNat * 0x2000 + r.s.toNat * 0x1000)]
  | .cmoClean r => [wordOf (0xD4000002 + r.a.toNat * 0x1000 + r.b.toNat * 0x20 + r.ea.toNat * 0x10 + r.eb.toNat * 0x8), wordOf (c.toNat * 0x80000000 + 0x7D000000 + r.level.toNat * 0x100000)]
  | .cmoInv r => [wordOf (0xD4000002 + r.a.toNat * 0x1000 + r.b.toNat * 0x20 + r.ea.toNat * 0x10 + r.eb.toNat * 0x8), wordOf (c.toNat * 0x80000000 + 0x7D400000 + r.level.toNat * 0x100000)]
  | .cmoCinv r => [wordOf (0xD4000002 + r.a.toNat * 0x1000 + r.b.toNat * 0x20 + r.ea.toNat * 0x10 + r.eb.toNat * 0x8), wordOf (c.toNat * 0x80000000 + 0x7D800000 + r.level.toNat * 0x100000)]
  | .l2pin r => [wordOf (0xD4000003 + r.a.toNat * 0x1000 + r.b.toNat * 0x20 + r.ea.toNat * 0x10 + r.eb.toNat * 0x8), wordOf (c.toNat * 0x80000000 + 0x7D000000 + r.pd.toNat * 0x200000)]
  | .l2unpin r => [wordOf (c.toNat * 0x80000000 + 0x54000004 + r.a.toNat * 0x1000 + r.b.toNat * 0x20 + r.ea.toNat * 0x10 + r.eb.toNat * 0x8)]
  | .fence scope => [wordOf (c.toNat * 0x80000000 + 0x58020000 + scope.toNat)]
  | .bar => [wordOf (0x58000000)]
  | .barCarve r => [wordOf (0x58008000 + r.scrg.toNat * 0x200 + r.slice.toNat * 0x8)]
  | .barg r => [wordOf (0x58010000 + r.scope.toNat * 0x100 + r.group.toNat)]
  | .acq r => [wordOf (0xDC000000 + r.a.toNat * 0x1000 + r.ea.toNat * 0x10), wordOf (c.toNat * 0x80000000 + 0x7D000000 + r.mode.toNat * 0x800000)]
  | .tryacq r => [wordOf (0xDC000001 + r.a.toNat * 0x1000 + r.ea.toNat * 0x10), wordOf (c.toNat * 0x80000000 + 0x7D000000 + r.mode.toNat * 0x800000 + r.pd.toNat * 0x100000)]
  | .rel r => [wordOf (0xDC000002 + r.a.toNat * 0x1000 + r.ea.toNat * 0x10), wordOf (c.toNat * 0x80000000 + 0x7D000000 + r.mode.toNat * 0x800000)]
  | .region r => [wordOf (0xDC000003 + r.d.toNat * 0x80000 + r.a.toNat * 0x1000 + r.b.toNat * 0x20 + r.ea.toNat * 0x10 + r.eb.toNat * 0x8), wordOf (c.toNat * 0x80000000 + 0x7D000000 + r.obj.toNat * 0x20000 + r.eobj.toNat * 0x10000 + r.det.toNat * 0x8000 + r.pd.toNat * 0x800)]
  | .regionFree r => [wordOf (0xDC000003 + r.d.toNat * 0x80000 + r.a.toNat * 0x1000 + r.ea.toNat * 0x10), wordOf (c.toNat * 0x80000000 + 0x7D004000 + r.pd.toNat * 0x800)]
  | .waitge r => [wordOf (c.toNat * 0x80000000 + 0x5C000004 + r.a.toNat * 0x1000 + r.b.toNat * 0x20 + r.ea.toNat * 0x10 + r.eb.toNat * 0x8)]
  | .sadd r => [wordOf (c.toNat * 0x80000000 + 0x60000000 + r.d.toNat * 0x80000 + r.a.toNat * 0x1000 + r.b.toNat * 0x20)]
  | .ssub r => [wordOf (c.toNat * 0x80000000 + 0x60000008 + r.d.toNat * 0x80000 + r.a.toNat * 0x1000 + r.b.toNat * 0x20)]
  | .smul r => [wordOf (c.toNat * 0x80000000 + 0x60000010 + r.d.toNat * 0x80000 + r.a.toNat * 0x1000 + r.b.toNat * 0x20)]
  | .sand r => [wordOf (c.toNat * 0x80000000 + 0x60000001 + r.d.toNat * 0x80000 + r.a.toNat * 0x1000 + r.b.toNat * 0x20)]
  | .sor r => [wordOf (c.toNat * 0x80000000 + 0x60000009 + r.d.toNat * 0x80000 + r.a.toNat * 0x1000 + r.b.toNat * 0x20)]
  | .sxor r => [wordOf (c.toNat * 0x80000000 + 0x60000011 + r.d.toNat * 0x80000 + r.a.toNat * 0x1000 + r.b.toNat * 0x20)]
  | .sshl r => [wordOf (c.toNat * 0x80000000 + 0x60000002 + r.d.toNat * 0x80000 + r.a.toNat * 0x1000 + r.b.toNat * 0x20)]
  | .sshr r => [wordOf (c.toNat * 0x80000000 + 0x6000000A + r.d.toNat * 0x80000 + r.a.toNat * 0x1000 + r.b.toNat * 0x20)]
  | .ssar r => [wordOf (c.toNat * 0x80000000 + 0x60000012 + r.d.toNat * 0x80000 + r.a.toNat * 0x1000 + r.b.toNat * 0x20)]
  | .sdone => [wordOf (c.toNat * 0x80000000 + 0x6000001A)]
  | .saddi r => [wordOf (0xE0000003 + r.d.toNat * 0x80000 + r.a.toNat * 0x1000), wordOf (c.toNat * 0x80000000 + 0x7D000000 + r.imm.toNat)]
  | .sldi r => [wordOf (0xE000000B + r.d.toNat * 0x80000), wordOf (c.toNat * 0x80000000 + 0x7D000000 + r.imm.toNat)]
  | .sset r => [wordOf (0xE0000004 + r.d.toNat * 0x80000 + r.a.toNat * 0x1000 + r.b.toNat * 0x20), wordOf (c.toNat * 0x80000000 + 0x7D000000 + r.cond.toNat * 0x100000)]
  | .sbr r => [wordOf (0xE000000C + r.a.toNat * 0x1000 + r.b.toNat * 0x20), wordOf (c.toNat * 0x80000000 + 0x7D000000 + r.cond.toNat * 0x100000 + r.off.toNat)]
  | .sbrf r => [wordOf (0xE0000014), wordOf (c.toNat * 0x80000000 + 0x7D000000 + r.ovl.toNat * 0x2000 + r.tpkt.toNat)]
  | .dqpush a => [wordOf (c.toNat * 0x80000000 + 0x60000005 + a.toNat * 0x1000)]
  | .stream r => [wordOf (0xE0000006 + r.a.toNat * 0x1000), wordOf (c.toNat * 0x80000000 + 0x7D000000 + r.q.toNat * 0x100000)]
  | .sqstop r => [wordOf (0xE0000007 + r.d.toNat * 0x80000), wordOf (c.toNat * 0x80000000 + 0x7D000000 + r.q.toNat * 0x100000)]
  | .cpy r => [wordOf (0xE4000000 + r.d.toNat * 0x80000 + r.a.toNat * 0x1000 + r.b.toNat * 0x20 + r.ea.toNat * 0x10 + r.eb.toNat * 0x8), wordOf (c.toNat * 0x80000000 + 0x7D000000 + r.len.toNat * 0x20000 + r.el.toNat * 0x10000 + r.ch.toNat * 0x1000 + r.dsp.toNat * 0x400 + r.ssp.toNat * 0x100 + r.ret.toNat * 0x80)]
  | .cpy2d r => [wordOf (0xE4000001 + r.d.toNat * 0x80000 + r.a.toNat * 0x1000 + r.b.toNat * 0x20 + r.ea.toNat * 0x10 + r.eb.toNat * 0x8), wordOf (c.toNat * 0x80000000 + 0x7D000000 + r.len.toNat * 0x20000 + r.el.toNat * 0x10000 + r.ch.toNat * 0x1000 + r.dsp.toNat * 0x400 + r.ssp.toNat * 0x100 + r.ret.toNat * 0x80)]
  | .seal r => [wordOf (c.toNat * 0x80000000 + 0x64000002 + r.d.toNat * 0x80000 + r.ea.toNat * 0x10 + r.eb.toNat * 0x8)]
  | .bwait r => [wordOf (c.toNat * 0x80000000 + 0x64000003 + r.a.toNat * 0x1000 + r.ea.toNat * 0x10 + r.eb.toNat * 0x8)]
  | .wptr r => [wordOf (c.toNat * 0x80000000 + 0x64000004 + r.d.toNat * 0x80000 + r.a.toNat * 0x1000 + r.ea.toNat * 0x10 + r.eb.toNat * 0x8)]
  | .chunk r => [wordOf (0xE4000005 + r.d.toNat * 0x80000 + r.a.toNat * 0x1000 + r.ea.toNat * 0x10 + r.eb.toNat * 0x8), wordOf (c.toNat * 0x80000000 + 0x7D000000 + r.gang.toNat * 0x800000)]
  | .ovl r => [wordOf (0xE4000006 + r.d.toNat * 0x80000 + r.a.toNat * 0x1000 + r.b.toNat * 0x20 + r.ea.toNat * 0x10 + r.eb.toNat * 0x8), wordOf (c.toNat * 0x80000000 + 0x7D000000 + r.slot.toNat * 0x400000 + r.ch.toNat * 0x40000)]
  | .qmma r => [wordOf (c.toNat * 0x80000000 + 0x68000000 + r.d.toNat * 0x80000 + r.a.toNat * 0x1000 + r.ea.toNat * 0x10)]
  | .qspmm r => [wordOf (c.toNat * 0x80000000 + 0x68000001 + r.d.toNat * 0x80000 + r.a.toNat * 0x1000 + r.ea.toNat * 0x10)]
  | .qacc r => [wordOf (c.toNat * 0x80000000 + 0x68000002 + r.d.toNat * 0x80000 + r.a.toNat * 0x1000 + r.ea.toNat * 0x10)]
  | .qcvt r => [wordOf (c.toNat * 0x80000000 + 0x68000003 + r.d.toNat * 0x80000 + r.a.toNat * 0x1000 + r.ea.toNat * 0x10)]
  | .qwait r => [wordOf (c.toNat * 0x80000000 + 0x68000004 + r.a.toNat * 0x1000 + r.ea.toNat * 0x10)]
  | .qpoll r => [wordOf (c.toNat * 0x80000000 + 0x68000005 + r.d.toNat * 0x80000)]
  | .qrec r => [wordOf (c.toNat * 0x80000000 + 0x6C000000 + r.d.toNat * 0x80000 + r.a.toNat * 0x1000 + r.ea.toNat * 0x10)]
  | .qrecb r => [wordOf (c.toNat * 0x80000000 + 0x6C000001 + r.d.toNat * 0x80000 + r.a.toNat * 0x1000 + r.ea.toNat * 0x10)]
  | .qtrace r => [wordOf (c.toNat * 0x80000000 + 0x6C000002 + r.d.toNat * 0x80000 + r.a.toNat * 0x1000 + r.ea.toNat * 0x10)]
  | .qrule r => [wordOf (0xEC000003 + r.a.toNat * 0x1000 + r.ea.toNat * 0x10), wordOf (c.toNat * 0x80000000 + 0x7D000000 + r.slot.toNat * 0x100000 + r.space.toNat * 0x40000)]
  | .patld r => [wordOf (0xF0000000 + r.d.toNat * 0x80000 + r.a.toNat * 0x1000 + r.b.toNat * 0x20 + r.ea.toNat * 0x10 + r.eb.toNat * 0x8), wordOf (c.toNat * 0x80000000 + 0x7D000000 + r.space.toNat * 0x400000)]
  | .patbind r => [wordOf (c.toNat * 0x80000000 + 0x70000001 + r.a.toNat * 0x1000 + r.ea.toNat * 0x10)]
  | .patnext r => [wordOf (0xF0000002 + r.d.toNat * 0x80000), wordOf (c.toNat * 0x80000000 + 0x7D000000 + r.dir.toNat * 0x800000 + r.line.toNat * 0x400000 + r.pd.toNat * 0x80000)]
  | .patmerge r => [wordOf (0xF0000003 + r.d.toNat * 0x80000 + r.a.toNat * 0x1000 + r.ea.toNat * 0x10), wordOf (c.toNat * 0x80000000 + 0x7D000000 + r.dir.toNat * 0x800000 + r.mode.toNat * 0x400000 + r.ssp.toNat * 0x100000 + r.osp.toNat * 0x40000)]
  | .patsave r => [wordOf (0xF0000004 + r.a.toNat * 0x1000 + r.ea.toNat * 0x10), wordOf (c.toNat * 0x80000000 + 0x7D000000 + r.space.toNat * 0x400000)]
  | .patrestore r => [wordOf (0xF0000005 + r.a.toNat * 0x1000 + r.ea.toNat * 0x10), wordOf (c.toNat * 0x80000000 + 0x7D000000 + r.space.toNat * 0x400000)]
  | .gspawn r => [wordOf (c.toNat * 0x80000000 + 0x74000000 + r.d.toNat * 0x80000 + r.a.toNat * 0x1000 + r.b.toNat * 0x20 + r.ea.toNat * 0x10 + r.eb.toNat * 0x8)]
  | .gdone r => [wordOf (c.toNat * 0x80000000 + 0x74000001 + r.a.toNat * 0x1000 + r.b.toNat * 0x20 + r.ea.toNat * 0x10 + r.eb.toNat * 0x8)]
  | .tidset r => [wordOf (c.toNat * 0x80000000 + 0x74000002 + r.a.toNat * 0x1000 + r.b.toNat * 0x20 + r.ea.toNat * 0x10 + r.eb.toNat * 0x8)]
  | .tidget r => [wordOf (c.toNat * 0x80000000 + 0x74000003 + r.d.toNat * 0x80000 + r.b.toNat * 0x20 + r.eb.toNat * 0x8)]
  | .mfs r => [wordOf (0xF8000000 + r.d.toNat * 0x80000), wordOf (c.toNat * 0x80000000 + 0x7D000000 + r.num.toNat)]
  | .mts r => [wordOf (0xF8000001 + r.a.toNat * 0x1000 + r.ea.toNat * 0x10), wordOf (c.toNat * 0x80000000 + 0x7D000000 + r.num.toNat)]
  | .mtsFstat r => [wordOf (0xF8000001 + r.a.toNat * 0x1000 + r.ea.toNat * 0x10), wordOf (c.toNat * 0x80000000 + 0x7D000008)]
  | .mtsFctl r => [wordOf (0xF8000001 + r.a.toNat * 0x1000 + r.ea.toNat * 0x10), wordOf (c.toNat * 0x80000000 + 0x7D000009)]
  | .mtsCarve r => [wordOf (0xF8000001 + r.a.toNat * 0x1000 + r.ea.toNat * 0x10), wordOf (c.toNat * 0x80000000 + 0x7D000012)]
  | .eret => [wordOf (c.toNat * 0x80000000 + 0x78000002)]
  | .eretTerm => [wordOf (c.toNat * 0x80000000 + 0x78080002)]
  | .tlbinvPage r => [wordOf (c.toNat * 0x80000000 + 0x78000003 + r.a.toNat * 0x1000 + r.b.toNat * 0x20 + r.ea.toNat * 0x10 + r.eb.toNat * 0x8)]
  | .tlbinvAsid r => [wordOf (c.toNat * 0x80000000 + 0x78080003 + r.b.toNat * 0x20 + r.ea.toNat * 0x10 + r.eb.toNat * 0x8)]
  | .tlbinvAll r => [wordOf (c.toNat * 0x80000000 + 0x78100003 + r.ea.toNat * 0x10 + r.eb.toNat * 0x8)]
  | .pgshare r => [wordOf (c.toNat * 0x80000000 + 0x78000004 + r.d.toNat * 0x80000 + r.a.toNat * 0x1000 + r.b.toNat * 0x20 + r.ea.toNat * 0x10 + r.eb.toNat * 0x8)]
  | .pgrel r => [wordOf (c.toNat * 0x80000000 + 0x78000005 + r.d.toNat * 0x80000 + r.a.toNat * 0x1000 + r.b.toNat * 0x20 + r.ea.toNat * 0x10 + r.eb.toNat * 0x8)]
  | .ctxsave r => [wordOf (0xF8000006 + r.d.toNat * 0x80000), wordOf (c.toNat * 0x80000000 + 0x7D000000 + r.h.toNat * 0x200000)]
  | .ctxload r => [wordOf (0xF8000006 + r.d.toNat * 0x80000), wordOf (c.toNat * 0x80000000 + 0x7D800000 + r.h.toNat * 0x200000)]
  | .ctxsaveMem r => [wordOf (0xF8000006 + r.d.toNat * 0x80000 + r.a.toNat * 0x1000), wordOf (c.toNat * 0x80000000 + 0x7D400000 + r.h.toNat * 0x200000)]
  | .ctxloadMem r => [wordOf (0xF8000006 + r.d.toNat * 0x80000 + r.a.toNat * 0x1000), wordOf (c.toNat * 0x80000000 + 0x7DC00000 + r.h.toNat * 0x200000)]
  | .haltStop => [wordOf (c.toNat * 0x80000000 + 0x78000007)]
  | .haltRun => [wordOf (c.toNat * 0x80000000 + 0x78080007)]
  | .bAdd r => [wordOf (0x04000000 + r.d.toNat * 0x200000 + r.a.toNat * 0x10000 + r.b.toNat * 0x800)]
  | .bSub r => [wordOf (0x04000001 + r.d.toNat * 0x200000 + r.a.toNat * 0x10000 + r.b.toNat * 0x800)]
  | .bMul r => [wordOf (0x04000002 + r.d.toNat * 0x200000 + r.a.toNat * 0x10000 + r.b.toNat * 0x800)]
  | .bAnd r => [wordOf (0x04000003 + r.d.toNat * 0x200000 + r.a.toNat * 0x10000 + r.b.toNat * 0x800)]
  | .bOr r => [wordOf (0x04000004 + r.d.toNat * 0x200000 + r.a.toNat * 0x10000 + r.b.toNat * 0x800)]
  | .bXor r => [wordOf (0x04000005 + r.d.toNat * 0x200000 + r.a.toNat * 0x10000 + r.b.toNat * 0x800)]
  | .bShl r => [wordOf (0x04000006 + r.d.toNat * 0x200000 + r.a.toNat * 0x10000 + r.b.toNat * 0x800)]
  | .bShr r => [wordOf (0x04000007 + r.d.toNat * 0x200000 + r.a.toNat * 0x10000 + r.b.toNat * 0x800)]
  | .bSar r => [wordOf (0x04000008 + r.d.toNat * 0x200000 + r.a.toNat * 0x10000 + r.b.toNat * 0x800)]
  | .slt r => [wordOf (0x04000009 + r.d.toNat * 0x200000 + r.a.toNat * 0x10000 + r.b.toNat * 0x800)]
  | .sltu r => [wordOf (0x0400000A + r.d.toNat * 0x200000 + r.a.toNat * 0x10000 + r.b.toNat * 0x800)]
  | .bAddi r => [wordOf (0x08000000 + r.d.toNat * 0x200000 + r.a.toNat * 0x10000 + r.imm.toNat)]
  | .ldi r => [wordOf (0x0C000000 + r.d.toNat * 0x200000 + r.h.toNat * 0x10000 + r.imm.toNat)]
  | .bCc r => [wordOf (0x10000000 + r.a.toNat * 0x200000 + r.b.toNat * 0x10000 + r.cond.toNat * 0x2000 + r.off.toNat)]
  | .bAl off => [wordOf (0x1000C000 + off.toNat)]
  | .ldl r => [wordOf (0x14000000 + r.d.toNat * 0x200000 + r.base.toNat * 0x10000 + r.w.toNat * 0x8000 + r.off.toNat)]
  | .stl r => [wordOf (0x18000000 + r.d.toNat * 0x200000 + r.base.toNat * 0x10000 + r.w.toNat * 0x8000 + r.off.toNat)]
  | .ldh r => [wordOf (0x1C000000 + r.d.toNat * 0x200000 + r.base.toNat * 0x10000 + r.w.toNat * 0x8000 + r.off.toNat)]
  | .sth r => [wordOf (0x20000000 + r.d.toNat * 0x200000 + r.base.toNat * 0x10000 + r.w.toNat * 0x8000 + r.off.toNat)]
  | .ldv r => [wordOf (0x24000000 + r.v.toNat * 0x200000 + r.base.toNat * 0x10000 + r.sp.toNat * 0x8000 + r.off.toNat)]
  | .stv r => [wordOf (0x28000000 + r.v.toNat * 0x200000 + r.base.toNat * 0x10000 + r.sp.toNat * 0x8000 + r.off.toNat)]
  | .vadd r => [wordOf (0x2C000000 + r.d.toNat * 0x200000 + r.a.toNat * 0x10000 + r.b.toNat * 0x800)]
  | .vsub r => [wordOf (0x2C000001 + r.d.toNat * 0x200000 + r.a.toNat * 0x10000 + r.b.toNat * 0x800)]
  | .vmul r => [wordOf (0x2C000002 + r.d.toNat * 0x200000 + r.a.toNat * 0x10000 + r.b.toNat * 0x800)]
  | .vfma r => [wordOf (0x2C000003 + r.d.toNat * 0x200000 + r.a.toNat * 0x10000 + r.b.toNat * 0x800 + r.c.toNat * 0x40)]
  | .vbc r => [wordOf (0x2C000004 + r.d.toNat * 0x200000 + r.a.toNat * 0x10000)]
  | .chase r => [wordOf (0x30000000 + r.d.toNat * 0x200000 + r.a.toNat * 0x10000 + r.b.toNat * 0x800 + r.c.toNat * 0x40 + r.k.toNat)]
  | .sample r => [wordOf (0x34000000 + r.d.toNat * 0x200000 + r.a.toNat * 0x10000 + r.b.toNat * 0x800)]
  | .adamw r => [wordOf (0x38000000 + r.a.toNat * 0x10000 + r.b.toNat * 0x800 + r.c.toNat * 0x40)]
  | .faddc r => [wordOf (0x3C000000 + r.d.toNat * 0x200000 + r.a.toNat * 0x10000)]
  | .signal r => [wordOf (0x40000000 + r.a.toNat * 0x10000 + r.b.toNat * 0x800)]
  | .waitn r => [wordOf (0x44000000 + r.a.toNat * 0x10000 + r.b.toNat * 0x800)]
  | .bDone => [wordOf (0x48000000)]
  | .joinCompletion _ _ _ _ => []
  | .regtakeServe _ _ => []
  | .destinationFill _ => []
  | .eviction _ _ _ => []
  | .uncorrectableError _ => []
  | .barrierPhaseCompletion _ => []
  | .groupBarrierPhaseCompletion _ _ => []
  | .objectGrant _ => []
  | .streamEntryPush _ _ => []
  | .copyPerform _ _ => []
  | .chunkDraw _ => []
  | .qmmaRun _ _ => []
  | .qspmmRun _ _ => []
  | .qaccZero _ _ => []
  | .qaccRead _ _ => []
  | .qaccWrite _ _ => []
  | .qaccStore _ _ => []
  | .qaccLoad _ _ => []
  | .qcvtRun _ _ => []
  | .recordCompletion _ _ => []
  | .qrecRun _ _ => []
  | .qrecbRun _ _ => []
  | .qtraceRun _ _ => []
  | .haltRequest _ => []
  | .trapHandlerEntry _ => []
  | .pageWalk _ _ _ _ => []
  | .teamStart _ _ => []
  | .teamEnd _ => []
  | .notifyRegisterWrite _ _ _ _ _ => []
  | .graphPacket _ => []
  | .gridPacket _ => []
  | .copyPacket _ => []
  | .bobbinPacket _ => []
  | .barrierAndPacket _ => []
  | .barrierAndRecheck _ => []
  | .signalPacket _ => []
  | .packetCompletion _ => []
  | .nodeDispatch _ _ => []
  | .nodeCompletion _ => []
  | .coreRetirement _ => []
  | .monitorRelease _ => []
  | .waitnPoll _ => []
  | .flitReceive _ _ _ => []
  | .portRetrain _ _ _ => []
  | .fabricAccess _ _ _ _ => []
  | .windowCreate _ => []
  | .windowContribution _ _ _ _ => []
  | .stateClone _ _ _ _ _ _ => []
  | .apertureRequest _ _ _ _ => []
  | .ideKm _ => []
  | .ideIntegrityFailure _ => []
  | .flr _ => []
  | .attestationRequest _ => []
  | .powerOn _ _ _ => []
  | .dieHot => []
  | .overheat => []
  | .supplyFault => []
  | .partitionRestart _ => []
  | .hbmRowFailure _ _ => []

/-- The instruction read from the words of an instruction in memory order: the core set, else the Bobbin set (the two
share words; a word both sets have is read as a core word here, and by each agent in its own set when it is fetched). -/
def decodeWords : List Word → Option Instr
  | [] => none
  | w :: r =>
    match decodeCore w r.head? with
    | .ok i _ => some i
    | _ =>
      match decodeBobbin w with
      | .ok i _ => some i
      | _ => none

/-- The words of `k` 32-bit words packed in a number, the first lowest. -/
def unpackWords : Nat → Nat → List Word
  | 0, _ => []
  | k + 1, n => wordOf n :: unpackWords k (n / 4294967296)

/-- The instruction the decoder reads from an instruction of `nbits` bits, bit 0 the lowest of its first word; the bits
above are 0, up to the two words of the longest instruction. DESIGN CHOICE (log 8). -/
def decodeTableWord (nbits w : Nat) : Option Instr :=
  decodeWords (unpackWords 2 (w % 2 ^ nbits))

end Sys2Proof
end

