-- ==== Sys2Proof/Machine/Graph.lean ====
section
/-! DEFINITION. Launch and task graph (spec/17_graph.md): user queues and the packet processor (R356 to R363), grids, the
curve, the start and the end of teams (R364 to R368, spec/02_words.md R60 to R65, spec/03_control.md R81), nodes (R369 to
R376, R443) and the instructions of major 0x1D (R378 to R382). -/

namespace Sys2Proof.Machine
open Sys2Proof

/-! ### Images (R60 to R63) -/

/-- An image is known by its handle in its address space (R359). -/
def imageKey (asid handle : Nat) : Nat := 65536 * asid + handle

def Image.hdr (m : Image) (o n : Nat) : Nat := bnat m.bytes o n

/-- Section i: its offset and length (R60). -/
def Image.section_ (m : Image) (i : Nat) : Nat × Nat := (m.hdr (0x10 + 16 * i) 8, m.hdr (0x18 + 16 * i) 8)

def Image.sectionBytes (m : Image) (i : Nat) : List Byte := bslice m.bytes (m.section_ i).1 (m.section_ i).2

/-- Bytes [a, b) of an image are 0. -/
def Image.zeros (m : Image) (a b : Nat) : Bool := (bslice m.bytes a (b - a)).all fun x => x == 0

/-- The sections stand in the table's order, each on a 64-byte boundary behind the header and the ones before it, and none passes
SIG_OFF (R60, R61). -/
def Image.sectionsOk (m : Image) : Bool :=
  (((List.range 8).map m.section_).foldl (fun (acc : Nat × Bool) x =>
    (x.1 + x.2, acc.2 && x.1 % 64 == 0 && decide (acc.1 ≤ x.1))) (256, true)).2 &&
    (List.range 8).all fun i => decide ((m.section_ i).1 + (m.section_ i).2 ≤ m.hdr 0xE0 8)

/-- Entry v of the overlay table keeps the limits of R62. -/
def Image.overlayOk (m : Image) (v : Nat) : Bool :=
  let e := (m.section_ 0).1 + 16 * v
  m.hdr e 8 % 12 == 0 && m.hdr (e + 8) 4 % 12 == 0 && decide (m.hdr (e + 8) 4 ≤ 65532) &&
    (decide (m.hdr (e + 12) 1 ≤ 2) || (m.hdr (e + 12) 1 == 3 && m.hdr 6 2 % 2 == 1)) && m.hdr (e + 13) 3 == 0 &&
    decide (m.hdr e 8 + m.hdr (e + 8) 4 ≤ (m.section_ 1).2)

/-- A section of programs: each header holds a word count within bounds and 0 above it, and its words follow (R312, R336). -/
def programsOk (lo hi : Nat) : Nat → List Byte → Bool
  | _, [] => true
  | 0, _ => false
  | fuel + 1, bs =>
    let n := bnat bs 0 2
    decide (4 + 4 * n ≤ bs.length) && bnat bs 2 2 == 0 && decide (lo ≤ n) && decide (n ≤ hi) &&
      programsOk lo hi fuel (bs.drop (4 + 4 * n))

/-- The runtime loads an image only where its signature verifies, DIGEST is the digest of bytes 0x100 up to SIG_OFF, and its
header, its overlay table and its items keep the rules of R60 to R62, R312, R336 and R377. DEDUCED (log 59).

DESIGN CHOICE (log 75): ENTRY_OVL, ENTRY_PKT, SH_OVL and SH_PKT of any value are accepted, since R61 lists no refusal for them. -/
def Image.ok (m : Image) : Bool :=
  let so := m.hdr 0xE0 8
  m.hdr 0 4 == 0x494C5A41 && m.hdr 4 2 == 1 && m.hdr 6 2 ≤ 1 && m.hdr 8 8 == m.bytes.length && m.hdr 0xE8 4 == 29792 &&
    so + 29792 == m.bytes.length && m.zeros 0x9B 0xA0 && m.zeros 0xFC 0x100 && decide (m.hdr 0x98 1 ≤ 3) &&
    decide (1 ≤ m.hdr 0x99 1) && decide (m.hdr 0x99 1 ≤ 8) && m.sectionsOk &&
    bslice m.bytes 0xA0 64 == Config.shake256 (bslice m.bytes 0x100 (so - 0x100)) &&
    Config.validSig (bslice m.bytes 0xEC 16) (bslice m.bytes 0 256) (bslice m.bytes so 29792) &&
    (m.section_ 0).2 % 16 == 0 && decide ((m.section_ 0).2 ≤ 16384) && (List.range ((m.section_ 0).2 / 16)).all m.overlayOk &&
    programsOk 2 64 (m.section_ 3).2 (m.sectionBytes 3) && programsOk 1 4096 (m.section_ 5).2 (m.sectionBytes 5) &&
    (m.section_ 6).2 % 68 == 0 && (List.range ((m.section_ 6).2 / 68)).all fun i =>
      bits (m.hdr ((m.section_ 6).1 + 68 * i) 4) 10 22 == 0

/-- Bands per team, granules asked for, registers per thread. -/
def Image.bands (m : Image) : Nat := m.hdr 0x99 1
def Image.scratch (m : Image) : Nat := m.hdr 0x9A 1
def Image.allot (m : Image) : BitVec 2 := BitVec.ofNat 2 (m.hdr 0x98 1)
def Image.entryOvl (m : Image) : Nat := m.hdr 0x90 2
def Image.entryPkt (m : Image) : Nat := m.hdr 0x92 2
def Image.shOvl (m : Image) : Nat := m.hdr 0x94 2
def Image.shPkt (m : Image) : Nat := m.hdr 0x96 2

/-- An image with SH_PKT = 0xFFFF has no Shuttle program (R230). -/
def Image.hasShuttle (m : Image) : Bool := m.shPkt != 0xFFFF

/-- Overlay v: its bytes and its preferred slot (R62). -/
def Image.overlay (m : Image) (v : Nat) : List Byte × Nat :=
  let e := (m.section_ 0).1 + 16 * v
  (bslice m.bytes ((m.section_ 1).1 + m.hdr e 8) (m.hdr (e + 8) 4), m.hdr (e + 12) 1)

/-- The programs of a section: a header with the word count, then the words (R312, R336). -/
def programs : Nat → List Byte → List (List Word)
  | 0, _ => []
  | fuel + 1, bs =>
    if bs.length < 4 then []
    else
      let n := bnat bs 0 2
      if n = 0 then [] else wordsOf n (bslice bs 4 (4 * n)) :: programs fuel (bs.drop (4 + 4 * n))

def Image.patterns (m : Image) : List (List Word) := programs (m.section_ 3).2 (m.sectionBytes 3)
def Image.bobbinProgs (m : Image) : List (List Word) := programs (m.section_ 5).2 (m.sectionBytes 5)

/-- The tensor-identifier templates: index and entry (R377). -/
def Image.templates (m : Image) : List (Nat × List Byte) :=
  (List.range ((m.section_ 6).2 / 68)).map fun i =>
    let o := (m.section_ 6).1 + 68 * i
    (bits (m.hdr o 4) 0 10, bslice m.bytes (o + 4) 64)

/-- Where program n of the image lies in the half of partition p (R312): where the runtime put it, or after the ones
before it. DESIGN CHOICE (log 11). -/
def Image.progAt (m : Image) (p n : Nat) : Nat :=
  nget m.pref (8 * n + p) (2048 * (p % 2) + ((m.patterns.take n).map List.length).sum)

/-- At a launch the runtime loads the pattern programs into each partition's half, as PATLD does (R312). DESIGN CHOICE (log 11).

DESIGN CHOICE (log 80): a program that is malformed or does not fit the half is skipped, and the launch goes on. -/
def State.loadPatterns (s : State) (m : Image) (p : Nat) : State :=
  (indexed m.patterns).foldl (fun s x =>
    if (patSet x.2).isSome && inHalf p (m.progAt p x.1) && inHalf p (m.progAt p x.1 + x.2.length - 1) then
      s.putPattern (dieOfPart p) (m.progAt p x.1) x.2 else s) s

/-- At the image's first launch in its address space the runtime writes its templates, as TIDSET does, PATREF replaced by the
index it used in the launch's first partition (R312, R377). DESIGN CHOICE (log 11). -/
def State.placeTemplates (s : State) (key p : Nat) (m : Image) : State :=
  if m.placed then s
  else
    let fix (e : List Byte) : List Byte :=
      if tidSparse e then e.take 0x34 ++ leBytes 2 (m.progAt p (tidPatref e)) ++ e.drop 0x36 else e
    let s := m.templates.foldl (fun s x => s.modSpace m.asid fun a => { a with tids := nput a.tids x.1 (fix x.2) }) s
    { s with images := nput s.images key { m with placed := true } }

/-- A launch of an image on the partitions of a mask (R312, R377). DESIGN CHOICE (log 11). -/
def State.launchImage (s : State) (key : Nat) (ps : List Nat) : State :=
  match nfind s.images key with
  | none => s
  | some m => (ps.foldl (fun s p => s.loadPatterns m p) s).placeTemplates key (ps.headD 0) m

/-! ### The curve (R365) -/

/-- The Hilbert index of a block: `k` halvings of a square whose side is S. -/
def hilbertLoop (S : Nat) : Nat → Nat → Nat → Nat → Nat → Nat
  | 0, _, _, _, h => h
  | k + 1, s, x, y, h =>
    let rx := if x / s % 2 = 1 then 1 else 0
    let ry := if y / s % 2 = 1 then 1 else 0
    let h := h + s * s * ((3 * rx) ^^^ ry)
    let xy := if ry = 0 then (if rx = 1 then (S - 1 - y, S - 1 - x) else (y, x)) else (x, y)
    hilbertLoop S k (s / 2) xy.1 xy.2 h

/-- The number of halvings: the least k with 2^k at least both extents. -/
def curveBits (bx by_ : Nat) : Nat := ((List.range 25).find? fun k => decide (bx ≤ 2 ^ k) && decide (by_ ≤ 2 ^ k)).getD 25

def hilbert (BX BY bx by_ : Nat) : Nat :=
  let k := curveBits BX BY
  hilbertLoop (2 ^ k) k (2 ^ k / 2) bx by_ 0

/-- A block's curve position: how many blocks have a lesser index. -/
def curvePos (BX BY bx by_ : Nat) : Nat :=
  let h := hilbert BX BY bx by_
  ((List.range (BX * BY)).filter fun i => decide (hilbert BX BY (i % BX) (i / BX) < h)).length

/-- The curve index of team (x, y) of a grid of GX × GY teams in blocks of CX × CY. -/
def curveIndex (GX GY CX CY x y : Nat) : Nat :=
  curvePos (GX / CX) (GY / CY) (x / CX) (y / CY) * CX * CY + y % CY * CX + x % CX

/-! ### Grids (R364, R366, R368) -/

def Grid.n (g : Grid) (o w : Nat) : Nat := bnat g.desc o w
/-- Teams of a block, and blocks of the grid. -/
def Grid.block (g : Grid) : Nat := g.n 0x10 1 * g.n 0x11 1
def descBlocks (d : List Byte) : Nat := bnat d 8 4 * bnat d 12 4 / (bnat d 0x10 1 * bnat d 0x11 1)
def Grid.imageKey (g : Grid) : Nat := Machine.imageKey g.asid (g.n 4 2)

/-- The code of a descriptor that breaks R364, or 0. -/
def State.gridCode (s : State) (asid : Nat) (d : List Byte) : Nat :=
  let n (o w : Nat) : Nat := bnat d o w
  if bits (n 6 1) 5 3 ≠ 0 || n 0x28 8 ≠ 0 || n 0x30 8 ≠ 0 then 2
  else if (nfind s.images (imageKey asid (n 4 2))).isNone then 3
  else if bits (n 6 1) 0 4 > 8 || n 7 1 > 4 || n 8 4 = 0 || n 12 4 = 0 || n 8 4 * n 12 4 > 2 ^ 24 || n 0x10 1 = 0 ||
      n 0x11 1 = 0 || n 8 4 % n 0x10 1 ≠ 0 || n 12 4 % n 0x11 1 ≠ 0 || n 0x10 1 * n 0x11 1 > 32 || n 0x12 2 > 1024 ||
      n 0x18 8 % 64 ≠ 0 || n 0x20 8 % 8 ≠ 0 || (n 0x12 2 = 0 && n 0x20 8 ≠ 0) then 4
  else 0

/-- Granules of registers and scratchpad a team of the image needs (R172). -/
def Image.need (m : Image) : Nat := (allotCode m.allot * 4 * 64 * m.bands + 16383) / 16384 + m.scratch

/-- Teams of an image that an empty core can hold (R16, R172, R230). -/
def Image.perCore (m : Image) : Nat :=
  let n := min 8 (8 / m.bands)
  let n := if m.need = 0 then n else min n ((Config.granules - Config.minL1) / m.need)
  if m.hasShuttle then min n 1 else n

/-- The block can be held by some cluster of the partition (R366). -/
def State.blockFits (s : State) (p : Nat) (m : Image) (d : List Byte) : Bool :=
  let teams := bnat d 0x10 1 * bnat d 0x11 1
  decide (bits (bnat d 6 1) 0 4 * teams ≤ 8) && decide (bnat d 7 1 * teams ≤ 16) &&
    (List.range 8).any fun i =>
      decide (teams ≤ m.perCore * ((List.range 4).filter fun j => (s.core (32 * p + 4 * i + j)).enabled).length)

/-- Blocks dealt in contiguous spans to the partitions: (partition, curve position), ascending (R366). -/
def dealBlocks (ps : List Nat) (b : Nat) : List (Nat × Nat) :=
  let span := (b + ps.length - 1) / ps.length
  (List.range b).map fun k => (ps.getD (k / span) 0, k)

/-- Items of a group image: group, first and count, or none where the image is refused (R368). -/
def groupItems (teams : Nat) (bs : List Byte) : Option (List (Nat × Nat × Nat)) :=
  let items := (List.range (bs.length / 8)).map fun i =>
    let v := bnat bs (8 * i) 8
    (bits v 0 8, bits v 8 24, bits v 32 24, bits v 56 8)
  let bad := items.any fun x => x.2.2.2 != 0 || x.2.2.1 == 0 || decide (teams < x.2.1 + x.2.2.1)
  let crowded := items.any fun x =>
    decide (4 < (dedup ((items.filter fun y => decide (y.2.1 ≤ x.2.1) && decide (x.2.1 < y.2.1 + y.2.2.1)).map (·.1))).length)
  if bad || crowded then none else some (items.map fun x => (x.1, x.2.1, x.2.2.1))

/-- Set the group entries an image names, in every partition of the mask (R368). -/
def State.setGroups (s : State) (ps : List Nat) (grid : Nat) (items : List (Nat × Nat × Nat)) : State :=
  ps.foldl (fun s p => s.modPart p fun x =>
    let members (g : Nat) : List (Nat × Nat) :=
      (dedup ((items.filter fun i => i.1 == g).flatMap fun i => rangeFrom i.2.1 i.2.2)).map fun ix => (grid, ix)
    let all := (dedup (items.map (·.1))).foldl (fun m g => nput m g (members g)) x.groups
    { x with groups := all }) s

/-- A grid of a packet at its start (R366, R368). -/
def State.newGrid (s : State) (pk : Packet) (node : Option Nat) (d : List Byte) (items : List (Nat × Nat × Nat)) : Grid :=
  { id := s.fresh, pkt := pk.id, node := node, asid := s.pkAsid pk, pmask := BitVec.ofNat 8 (s.pkMask pk), det := pk.det,
    desc := d, todo := dealBlocks (partsOf (s.pkMask pk)) (descBlocks d), running := 0, redo := [], started := [], ended := [],
    groups := items, grouped := [], redraw := [] }

/-- A partition takes work of an address space: it is open, runs, and the space is its current one (R356, R376, R384).
DEDUCED (log 38). -/
def State.takesWork (s : State) (p asid : Nat) : Bool :=
  let x := s.part p
  x.opened && !x.halted && x.asid == asid

/-- Set a grid's group entries in those partitions of a list that do not hold them yet and take work now; a partition that is
pre-empted holds another context's table until it is restored (R368, R376, R402). -/
def State.setGridGroups (s : State) (g : Grid) (ps : List Nat) : State × Grid :=
  let now := ps.filter fun p => !g.grouped.contains p && s.takesWork p g.asid
  (s.setGroups now g.id g.groups, { g with grouped := g.grouped ++ now })

/-- A grid starts: its blocks are dealt and its groups set; or the code that refuses it. -/
def State.startGrid (s : State) (pk : Packet) (node : Option Nat) (d : List Byte) : Except Nat State :=
  let asid := s.pkAsid pk
  let mask := s.pkMask pk
  let ps := partsOf mask
  let code := s.gridCode asid d
  if code ≠ 0 then .error code
  else match nfind s.images (imageKey asid (bnat d 4 2)) with
    | none => .error 3
    | some m =>
      let todo := dealBlocks ps (descBlocks d)
      if ps.isEmpty || (dedup (todo.map (·.1))).any (fun p => !s.blockFits p m d) then .error 5
      else match s.procRead asid (bnat d 0x20 8) (8 * bnat d 0x12 2) with
        | none => .error 6
        | some (s, bs) =>
          match groupItems (bnat d 8 4 * bnat d 12 4) bs with
          | none => .error 6
          | some items =>
            let x := s.bump.setGridGroups (s.newGrid pk node d items) ps
            .ok ({ x.1 with grids := x.1.grids ++ [x.2] }.launchImage (imageKey asid (bnat d 4 2)) ps)

/-! ### Team start (R63 to R65, R366) -/

/-- Handles and rule slots of a cluster that are taken. -/
def State.usedHandles (s : State) (cl : Nat) : List Nat :=
  ((List.range 32).flatMap fun i => (s.team (32 * cl + i)).handles) ++ (s.cluster cl).nodeHandles
def State.usedSlots (s : State) (cl : Nat) : List Nat :=
  ((List.range 32).flatMap fun i => (s.team (32 * cl + i)).rslots) ++ (s.cluster cl).nodeSlots

/-- Free handles in the order HPAIR selects (R366); the engine of a core out of service has none (R29). -/
def State.freeHandles (s : State) (cl : Nat) (hpair : Bool) : List Nat :=
  (if hpair then List.range 8 else [0, 2, 4, 6, 1, 3, 5, 7]).filter fun h =>
    !(s.usedHandles cl).contains h && (s.core (4 * cl + h / 2)).enabled
def State.freeSlots (s : State) (cl : Nat) : List Nat := (List.range 16).filter fun r => !(s.usedSlots cl).contains r

/-- The slot where an entry overlay is, or can be, resident in slots 0 to 2 of a core: used as it stands, else its
preferred slot, else another; `used` are slots already chosen (R63). DESIGN CHOICE (log 36). -/
def State.entrySlot (s : State) (c key v pref : Nat) (used : List Nat) : Option Nat :=
  let held (f : Resident → Bool) : List Nat := (List.range 3).filter fun sl =>
    match nfind (s.core c).slots sl with | some r => f r | none => false
  match held fun r => r.image == key && r.ovl == v with
  | sl :: _ => some sl
  | [] =>
    let others := held fun r => r.image != key && r.ovl == v
    ((pref :: List.range 3).find? fun sl => decide (sl < 3) && !used.contains sl && !s.slotInUse c sl &&
      others.all fun o => o == sl)

/-- Load an overlay into a slot: the bytes beyond it read as 0 (R62). -/
def State.loadSlot (s : State) (c slot key v src : Nat) (bs : List Byte) : State :=
  s.modCore c fun k => { k with
    slots := nput k.slots slot ⟨key, v, src, bs.length⟩
    imem := mwrite (moutside k.imem (65536 * slot) (65536 * slot + 65536)) (65536 * slot) (bs.take 65536) }

/-- Make an entry overlay resident: the state and its slot. -/
def State.makeResident (s : State) (c key : Nat) (m : Image) (v : Nat) (used : List Nat) : Option (State × Nat) :=
  let o := m.overlay v
  (s.entrySlot c key v o.2 used).map fun sl =>
    match nfind (s.core c).slots sl with
    | some r => if r.image = key && r.ovl = v then (s, sl) else (s.loadSlot c sl key v (nget m.ovlAddr v 0) o.1, sl)
    | none => (s.loadSlot c sl key v (nget m.ovlAddr v 0) o.1, sl)

/-- Both entry overlays: the state and their slots. -/
def State.entryOverlays (s : State) (c key : Nat) (m : Image) : Option (State × Nat × Nat) :=
  match s.makeResident c key m m.entryOvl [] with
  | none => none
  | some (s, a) =>
    if m.hasShuttle then (s.makeResident c key m m.shOvl [a]).map fun x => (x.1, a, x.2) else some (s, a, 0)

/-- The core has a team slot, bands, granules and, for an image with a Shuttle program, its Shuttle free (R16, R172, R230). -/
def State.coreRoom (s : State) (c : Nat) (m : Image) : Bool :=
  let ts := (s.teamsOfCore c).map s.team
  let g := (ts.map fun t => t.heldg + t.scrg).sum
  (s.core c).enabled && decide (ts.length < 8) && decide ((ts.map (·.liveBands)).sum + m.bands ≤ 8) &&
    decide (g + m.need + Config.minL1 ≤ Config.granules) &&
    (!m.hasShuttle || (s.shuttle c).team.isNone)

/-- The state of a thread at entry (R64). -/
def entryThread (pc : Pc) (i ix args : Nat) : Thread :=
  { Thread.gone with
    regs := nput (nput (nput (nput [] 0 (BitVec.ofNat 32 i)) 1 (BitVec.ofNat 32 ix)) 2 (BitVec.ofNat 32 args)) 3
      (BitVec.ofNat 32 (args / 4294967296))
    pc := pc, stat := .ready }

/-- Zero an accumulator bank and its handle's traceback tiles (R255, R295). -/
def Cluster.zeroHandle (cl : Cluster) (h : Nat) : Cluster :=
  cl.modEngine (h / 2) fun e =>
    let e := if h % 2 = 0 then { e with acc0 := [] } else { e with acc1 := [] }
    { e with trace := e.trace.filter fun x => x.1 / 16384 != h % 2 }

/-- A team at its start: its threads, and one gang per band (R64). -/
def newTeam (g : Grid) (m : Image) (ix stamp : Nat) (pc : Pc) (handles rslots : List Nat) (chip : Nat × Nat) : Team :=
  { Team.free with
    live := true, grid := g.id, image := g.imageKey, asid := g.asid, allot := m.allot, bands := m.bands, teamix := ix
    threads := (List.range (64 * m.bands)).map fun i => (i, entryThread pc i ix (g.n 0x18 8))
    ctxs := (List.range m.bands).map fun b => ⟨b, List.range 16, stamp⟩
    rngkey := BitVec.ofNat 32 (g.n 0x14 4), scrg := m.scratch, handles := handles, rslots := rslots
    chipBase := chip.1, chipSize := chip.2, det := g.det }

/-- The Shuttle at its start (R65). -/
def Shuttle.begin_ (h : Shuttle) (k : Nat) (pc : Pc) (args ix size : Nat) : Shuttle :=
  let u : NMap Dword := nput (nput (nput [] 0 (BitVec.ofNat 64 args)) 1 (BitVec.ofNat 64 ix)) 2 (BitVec.ofNat 64 size)
  let h := { h with team := some k, user := u, active := true, hold := .none, parked := false, batch := .none, chunk := none, rel := none }
  if h.mode then { h with upc := pc } else { h with pc := pc, waiting := false }

/-- Start one team on a core of the cluster (R63 to R65, R366). -/
def State.startTeam (s : State) (g : Grid) (m : Image) (c ix : Nat) : Option State :=
  if !s.coreRoom c m then none
  else
    match (List.range 8).find? fun j => !(s.team (8 * c + j)).live, s.entryOverlays c g.imageKey m with
    | some j, some (s, a, b) =>
      let k := 8 * c + j
      let cl := clusterOfCore c
      let p := partOfCore c
      let hs := (s.freeHandles cl (bits (g.n 6 1) 4 1 == 1)).take (bits (g.n 6 1) 0 4)
      let rs := (s.freeSlots cl).take (g.n 7 1)
      if hs.length < bits (g.n 6 1) 0 4 || rs.length < g.n 7 1 then none
      else
        let s := s.modCluster cl fun x => hs.foldl Cluster.zeroHandle { x with rules := rs.foldl ndel x.rules }
        let own := match s.packet g.pkt with | some pk => nget pk.chip p (0, 0) | none => (0, 0)
        let chip := (halfBase p + own.1, own.2)
        let s := s.takeGranules c
        let s := s.modTeam k fun _ => newTeam g m ix s.fresh (pcAt a m.entryPkt) hs rs chip
        let s := if m.hasShuttle then
            s.modShuttle c fun h => h.begin_ k (pcAt b m.shPkt) (g.n 0x18 8) ix (64 * m.bands)
          else s
        some (if g.det then s.startUnit (.team g.id ix) g.asid c ix j g.id else s)
    | _, _ => none

/-- Start the teams of a block in ascending curve index, each on the first core of the cluster with room.
DESIGN CHOICE (log 36). -/
def State.startTeams (s : State) (g : Grid) (m : Image) (cl : Nat) : List Nat → Option State
  | [] => some s
  | ix :: r =>
    match ((List.range 4).map (4 * cl + ·)).findSome? fun c => s.startTeam g m c ix with
    | some s => State.startTeams s g m cl r
    | none => none

/-! ### Team end (R80, R81) -/

/-- The team's work is outstanding: its records and copies, and those its Shuttle issued for it. -/
def State.teamWork (s : State) (k : Nat) : Bool :=
  (s.records.any fun r => r.team == some k && !r.sup) || s.copies.any fun c => s.worksFor k c.who && !c.sup

/-- A grid has no block to start and no team running. -/
def Grid.finished (g : Grid) : Bool := g.todo.isEmpty && g.redo.isEmpty && g.running == 0

/-- The resources of a team are released once its last thread, record and copy are done (R81). -/
def evTeamEnd (k : Nat) (s : State) : Option State :=
  let t := s.team k
  let c := coreOfTeam k
  if !t.live || !t.liveThreads.isEmpty || s.teamWork k then none
  else
    let s := s.modTeam k fun _ => .free
    let s := { s with draws := s.draws.map fun (d : Draw) => match d.who with
      | .thread j _ => if j = k then { d with ts := [] } else d
      | _ => d }
    let s := if (s.shuttle c).team = some k then
        s.modShuttle c fun h => { h with team := none, user := [], active := false, hold := .none, parked := false, batch := .none }
      else s
    let s := { s with grids := s.grids.map fun (g : Grid) => if g.id = t.grid then
      { g with running := g.running - 1, ended := g.ended ++ [t.teamix] } else g }
    some (match s.grids.find? fun g => g.id == t.grid with
      | some g => if g.finished && g.node.isNone then s.modPacket g.pkt fun p => { p with left := p.left - 1 } else s
      | none => s)

/-! ### User queues (R356, R357, R362) -/

/-- A function accepts a memory request: where the policy requires IDE, one carried by its own selective stream, once that is set
up (R418). DESIGN CHOICE (log 48). -/
def State.accepts (s : State) (f : Nat) (stream : Option Nat) : Bool :=
  !s.idePolicy || ((s.func f).ide && stream == some f)

/-- A function answers a request: a frozen one, or one of a device that is not up, does not (R390). -/
def State.answers (s : State) (f : Nat) : Bool := s.boot == .running && decide (f < 32) && !(s.func f).frozen

/-- Unsupported Request (R418). -/
def State.unsupported (s : State) (f : Nat) : State := s.modFunc f fun x => { x with answers := x.answers ++ [none] }

/-- The queue of a page of a function's BAR0: queue number q on page q of the physical function; on a virtual function the pages
of its own queues, packed in ascending number (R357, R417). -/
def State.doorbell (s : State) (f page : Nat) : Option Nat :=
  if f = 0 then (if (nfind s.queues page).isSome then some page else none)
  else ((s.queues.filter fun q => q.2.func == f).map (·.1))[page]?

/-- A host write to a notify register: it sets WRIDX, or is ignored and recorded as DOORBELL (R357); it is refused where it is not
carried by the function's stream (R418). -/
def evNotify (req : HostReq) (page off size : Nat) (v : Dword) (s : State) : Option State :=
  if !s.answers req.func then none
  else if !s.accepts req.func req.stream then some (s.unsupported req.func)
  else match s.doorbell req.func page with
    | none => none
    | some n =>
      let q := s.queue n
      if off ≠ 0 || size ≠ 8 then none
      else if q.devq || !q.en || decide ((v - q.rdidx).toNat > 2 ^ q.log2n) || decide (v.toNat < q.wridx.toNat) then
        some (s.noteErr n v 8)
      else some (s.modQueue n fun x => { x with wridx := v })

/-- The head packet of a queue, where it may start (R360). DEDUCED (log 32). -/
def State.headReady (s : State) (q : Nat) : Option (List Byte) :=
  let x := s.queue q
  if !x.en || decide (x.wridx.toNat ≤ x.started.toNat) ||
      (s.claims.any fun c => c.queue == q && c.idx == x.started.toNat && !c.written) then none
  else match s.procRead x.asid (x.ring + 64 * (x.started.toNat % 2 ^ x.log2n)) 64 with
    | none => none
    | some (_, b) => if bits (bnat b 0 4) 8 1 = 1 && x.rdidx != x.started then none else some b

/-- The queues that could start their head packet, with its bytes and the queue's level (R362). -/
def State.ready (s : State) : List (Nat × List Byte × Nat) :=
  (s.queues.map (·.1)).filterMap fun q => (s.headReady q).map fun b => (q, b, max (bits (bnat b 0 4) 9 2) (s.queue q).level)

/-- The choice among them: the highest level, then the queue whose turn it is (R362). -/
def State.nextQueue (s : State) : Option (Nat × List Byte × Nat) :=
  let r := s.ready
  let lv := r.foldl (fun m x => max m x.2.2) 0
  let tier := r.filter fun x => x.2.2 == lv
  match nfind s.turns lv with
  | none => tier.head?
  | some cur =>
    match tier.find? fun x => x.1 == cur.1 && decide (0 < cur.2) with
    | some x => some x
    | none => match tier.find? fun x => decide (cur.1 < x.1) with
      | some x => some x
      | none => tier.head?

/-- The turn is counted, the queues passed over age, and the one served returns to its packet's level (R362). -/
def State.serveTurn (s : State) (q lv : Nat) : State :=
  let rs := s.ready
  let cur := nget s.turns lv (0, 0)
  let left := if cur.1 = q && 0 < cur.2 then cur.2 else (s.queue q).weight
  let s := { s with turns := nput s.turns lv (q, left - 1) }
  rs.foldl (fun s x => s.modQueue x.1 fun y =>
    if x.1 = q then { y with level := 0, bypass := 0 }
    else if y.bypass + 1 ≥ 64 then { y with level := min 3 (x.2.2 + 1), bypass := 0 }
    else { y with bypass := y.bypass + 1 }) s

/-! ### Packets start (R358 to R361, R363) -/

/-- The payload bytes [lo, hi) that a type uses (R359). DEDUCED (log 34). -/
def usedBytes (ty n : Nat) : List (Nat × Nat) :=
  match ty with
  | 0 => [(4, 6), (8, 12), (16, 24)]
  | 1 => [(4, 0x38)]
  | 2 => [(8, 0x1C)]
  | 3 => [(4, 0x18)]
  | 4 => [(4, 5), (8, 8 + 16 * min n 3)]
  | _ => [(8, 0x1A)]

/-- A reserved bit or byte of a packet is not zero (R363). DEDUCED (log 34). -/
def reservedBad (ty : Nat) (b : List Byte) : Bool :=
  bits (bnat b 0 4) 12 20 != 0 || (bits (bnat b 0 4) 11 1 == 1 && decide (1 < ty)) ||
    (rangeFrom 4 0x34).any fun i =>
      !((usedBytes ty (bnat b 4 1)).any fun u => decide (u.1 ≤ i) && decide (i < u.2)) && bnat b i 1 != 0

/-- A word that the processor adds to: aligned, and its page readable and writable (R361). -/
def State.addable (s : State) (asid va : Nat) : Bool := va % 8 == 0 && (s.procAt asid va .atomic).isSome

/-- An atomic add of the processor at a home slice, with bit 63 set in the same step on error (R361); none where the page has
lost its mapping or its rights. The state, and the word's physical address. DEDUCED (log 34). -/
def State.procAdd (s : State) (asid va v : Nat) (err : Bool) : Option (State × Nat) :=
  (s.procAt asid va .atomic).map fun x =>
    let n := (x.1.homeNat x.2 8 + v) % 2 ^ 64
    (x.1.homePut x.2 8 (if err then n ||| 2 ^ 63 else n), x.2)

/-- The checks of a node record (R369, R370); `progs` are the Bobbin programs of the packet's image. DEDUCED (log 35). -/
def recordOk (mask progs : Nat) (r : List Byte) : Bool :=
  let n (o w : Nat) : Nat := bnat r o w
  let zeros (lo : Nat) : Bool := (rangeFrom lo (64 - lo)).all fun i => n i 1 == 0
  decide (1 ≤ n 0 1) && decide (n 0 1 ≤ 4) && decide (n 1 1 ≤ 1) && n 2 2 == 0 && decide (n 8 4 ≤ 65536) && n 0x18 8 % 8 == 0 &&
    bits (n 0x20 8) 12 20 == 0 &&
    (match n 0 1 with
     | 1 => zeros 0x30
     | 2 => decide (1 ≤ n 0x38 1) && decide (n 0x38 1 ≤ 8) && zeros 0x39
     | 3 => decide (n 0x36 1 ≤ 11) && decide (n 0x34 2 < progs) && decide (n 0x38 2 < Config.cores) &&
         bits mask (n 0x38 2 / 32) 1 == 1 && zeros 0x3A
     | _ => zeros 0x3C)

/-- A Bobbin node has an engine of EMASK in a partition of the mask (R363, R372). DEDUCED (log 35). -/
def bobbinFits (mask : Nat) (r : List Byte) : Bool :=
  (List.range 8).any fun e => bits (bnat r 0x37 1) e 1 == 1 && bits mask (partOfBobbin (8 * bnat r 0x36 1 + e)) 1 == 1

/-- The node records of a graph with their successors, or none where one cannot be read or breaks a rule (R369). -/
def State.readNodes (s : State) (asid base nn mask progs : Nat) : Option (State × List (List Byte × List Nat)) :=
  match s.procRead asid base (64 * nn) with
  | none => none
  | some (s, bs) =>
    (List.range nn).foldl (fun acc i => match acc with
      | none => none
      | some (s, ns) =>
        let r := bslice bs (64 * i) 64
        if !recordOk mask progs r then none
        else match s.procRead asid (bnat r 0x10 8) (4 * bnat r 8 4) with
          | none => none
          | some (s, sb) =>
            let succ := (wordsOf (bnat r 8 4) sb).map (·.toNat)
            if succ.all fun x => decide (x < nn) then some (s, ns ++ [(r, succ)]) else none) (some (s, []))

/-- NPRED agrees with the successor lists, and some node has none (R369). -/
def countsOk (ns : List (List Byte × List Nat)) : Bool :=
  let all := ns.flatMap (·.2)
  ((indexed ns).all fun x => bnat x.2.1 4 4 == (all.filter fun y => y == x.1).length) && ns.any fun x => bnat x.1 4 4 == 0

/-- The nodes of a packet join the scheduler's table; those without predecessors enter (R369, R371). -/
def State.addNodes (s : State) (pk : Packet) (ns : List (List Byte × List Nat)) : State :=
  let base := s.fresh
  let mk (x : Nat × List Byte × List Nat) : Node :=
    { id := base + x.1, pkt := pk.id, n := x.1, bytes := x.2.1, succ := x.2.2, count := bnat x.2.1 4 4, stat := .waiting,
      unitAt := 0, handle := 0, rslot := none, nextRec := 0, fin := false, err := false }
  let s := { s with nodes := s.nodes ++ (indexed ns).map mk, fresh := s.fresh + ns.length }
  let s := s.modPacket pk.id fun p => { p with left := ns.length }
  (List.range ns.length).foldl (fun s i => s.enterNode (base + i)) s

/-- VEC is a vector of the function, 2,048 of the physical function and 64 of a virtual one, or none (R359, R416). -/
def vectorOk (func vec : Nat) : Bool := vec == 0xFFFF || decide (vec < if func = 0 then 2048 else 64)

/-- A launch takes the chip scratchpad that the runtime gave the next launch of each partition, and finds it zeroed
(R171, R176). DESIGN CHOICE (log 11). -/
def State.takeChip (s : State) (pk : Nat) (ps : List Nat) : State :=
  ps.foldl (fun s p =>
    let x := s.part p
    let s := s.modPart p fun y => { y with chipBase := 0, chipSize := 0 }
    let s := s.modDie (dieOfPart p) fun d =>
      { d with chip := moutside d.chip (halfBase p + x.chipBase) (halfBase p + x.chipBase + x.chipSize) }
    s.modPacket pk fun y => { y with chip := nput y.chip p (x.chipBase, x.chipSize) }) s

/-- Start the work of a packet once its acquire is done, or the code that refuses it (R360). -/
def State.launch (s : State) (pk : Packet) : Except Nat State :=
  let asid := s.pkAsid pk
  let mask := s.pkMask pk
  let b := pk.bytes
  let n (o w : Nat) : Nat := bnat b o w
  let s := if bits pk.hdr 4 2 = 0 then s else s.acquire mask
  let single (s : State) (r : List Byte) : State := s.addNodes pk [(r, [])]
  let img := nfind s.images (imageKey asid (n (if pk.ty = 3 then 0x16 else 4) 2))
  match pk.ty with
  | 0 =>
    (match img with
     | none => .error 3
     | some m =>
       if n 8 4 = 0 || n 8 4 > 1048576 || n 16 8 % 64 ≠ 0 then .error 4
       else if mask = 0 then .error 5
       else match s.readNodes asid (n 16 8) (n 8 4) mask m.bobbinProgs.length with
         | none => .error 7
         | some (s, ns) =>
           if !countsOk ns then .error 7
           else if ns.any fun x => bnat x.1 0 1 == 3 && !bobbinFits mask x.1 then .error 5
           else
             let s := s.launchImage (imageKey asid (n 4 2)) (partsOf mask)
             .ok (((s.kernelBoundary asid).takeChip pk.id (partsOf mask)).addNodes pk ns))
  | 1 =>
    (match s.startGrid pk none b with
     | .error c => .error c
     | .ok s => .ok (((s.kernelBoundary asid).takeChip pk.id (partsOf mask)).modPacket pk.id fun p => { p with left := 1 }))
  | 2 =>
    if n 8 8 % 4 ≠ 0 || n 16 8 % 4 ≠ 0 || n 24 4 % 4 ≠ 0 then .error 4
    else if mask = 0 then .error 5
    else .ok (single s (leBytes 0x28 4 ++ bslice b 8 0x14 ++ List.replicate 4 0))
  | 3 =>
    let r := leBytes 0x28 3 ++ bslice b 4 0x12 ++ List.replicate 6 0
    (match img with
     | none => .error 3
     | some m =>
       if mask = 0 then .error 5
       else if !recordOk mask m.bobbinProgs.length r then .error 4
       else if !bobbinFits mask r then .error 5
       else .ok (single (s.launchImage (imageKey asid (n 0x16 2)) (partsOf mask)) r))
  | 4 =>
    let ws := (List.range (n 4 1)).map fun i => (n (8 + 16 * i) 8, n (16 + 16 * i) 8)
    if n 4 1 = 0 || n 4 1 > 3 || ws.any (fun w => w.1 % 8 != 0) then .error 4
    else .ok (s.modPacket pk.id fun p => { p with words := ws, left := 1 })
  | _ =>
    if !s.addable asid (n 8 8) || !vectorOk (s.queue pk.queue).func (n 0x18 2) then .error 4
    else match s.procAdd asid (n 8 8) (n 16 8) false with
      | none => .error 4
      | some (s, pa) =>
        -- a signal's word is tested again (R371)
        let s := s.retestGates pa
        .ok (if n 0x18 2 = 0xFFFF then s else
          s.modFunc (s.queue pk.queue).func fun f => { f with vectors := f.vectors ++ [n 0x18 2] })

/-- Take the head packet of a queue: start it, or refuse it and let it complete in error (R360, R363). DEDUCED (log 34). -/
def State.takePacket (s : State) (q : Nat) (b : List Byte) : State :=
  let idx := (s.queue q).started
  let ty := bits (bnat b 0 4) 0 4
  let asid := (s.queue q).asid
  let sig := bnat b 0x38 8
  let sigOk := sig == 0 || s.addable asid sig
  let pk : Packet := { id := s.fresh, queue := q, idx := idx.toNat, bytes := b,
                       sig := if sig = 0 || !sigOk then none else some sig, words := [], chip := [], err := false, left := 0 }
  let s := { s.bump with packets := s.packets ++ [pk] }.modQueue q fun x => { x with started := x.started + 1 }
  let refuse (code : Nat) : State := (s.noteErr q idx code).modPacket pk.id fun p => { p with err := true }
  if ty > 5 then refuse 1
  else if reservedBad ty b then refuse 2
  else match s.launch pk with
    | .error c => refuse (if sigOk then c else min c 4)
    | .ok t => if sigOk then t else refuse 4

/-- The processor serves the queue it has chosen, where its head packet is of the asked type; packets of no type are taken
with the graph packets. DEDUCED (log 34). -/
def evPacket (ty q : Nat) (s : State) : Option State :=
  match s.nextQueue with
  | none => none
  | some (p, b, lv) =>
    let t := bits (bnat b 0 4) 0 4
    if p = q && (t = ty || (ty = 0 && t > 5)) then some ((s.serveTurn q lv).takePacket q b) else none

/-- The processor reads the words of the k-th packet under way again (R359). -/
def evBarrierAndRecheck (k : Nat) (s : State) : Option State :=
  match s.packets[k]? with
  | none => none
  | some p => if p.ty = 4 && 0 < p.left && s.wordsReached p then some (s.modPacket p.id fun x => { x with left := 0 }) else none

/-! ### Packets complete (R361) -/

/-- RDIDX passes every completed packet at the front of its queue. -/
def advanceRd : Nat → Queue → Queue
  | 0, q => q
  | n + 1, q =>
    if q.done.contains q.rdidx.toNat then
      advanceRd n { q with rdidx := q.rdidx + 1, done := q.done.filter fun i => i != q.rdidx.toNat }
    else q

/-- The release of a packet (R361). -/
def State.releaseScope (s : State) (rel mask : Nat) : State :=
  if rel = 0 then s
  else
    let s := s.cleanDies (diesOf mask) false
    if rel = 2 then s.cleanHomes false else s

/-- The release waits: under domain scope for held writes to peers, under system scope for those to host memory too (R361, R424). -/
def State.releaseWaits (s : State) (rel mask : Nat) : Bool :=
  decide (2 ≤ rel) && s.outbox.any fun x =>
    (rel == 3 || isPeer x.2.1) && (x.1 == .nobody || bits mask (partOfCore x.1.heldCore) 1 == 1)

/-- A unit belongs to a grid of a packet, or is a node of it. -/
def State.unitOfPacket (s : State) (pk : Nat) (d : DetUnit) : Bool :=
  match d.key with
  | .node p _ => p == pk
  | k => s.grids.any fun g => g.pkt == pk && g.id == k.group

/-- The k-th packet under way completes: merge, release, completion word, RDIDX (R361). -/
def evPacketCompletion (k : Nat) (s : State) : Option State :=
  match s.packets[k]? with
  | none => none
  | some p =>
    if 0 < p.left || s.releaseWaits (bits p.hdr 6 2) (s.pkMask p) then none
    else
      let s := if p.ty = 1 && p.det then s.mergeGates (s.unitOfPacket p.id) else s
      let s := s.releaseScope (bits p.hdr 6 2) (s.pkMask p)
      let s := match p.sig with
        | none => s
        | some va => (match s.procAdd (s.pkAsid p) va 1 p.err with
          | some x => x.1
          | none => s.noteErr p.queue (BitVec.ofNat 64 p.idx) 4)
      let s := s.dropUnits (s.unitOfPacket p.id)
      let s := { s with
        packets := s.packets.filter fun x => x.id != p.id
        nodes := s.nodes.filter fun n => n.pkt != p.id
        grids := s.grids.filter fun g => g.pkt != p.id }
      some (s.modQueue p.queue fun q => advanceRd (q.done.length + 1) { q with done := q.done ++ [p.idx] })

/-! ### Nodes (R370 to R373, R443) -/

/-- A node's order: the PRIO of its packet, then its place in the pool. -/
def State.nodeBefore (s : State) (a b : Node) : Bool :=
  let prio (n : Node) : Nat := match s.packet n.pkt with | some p => p.prio | none => 0
  let order (n : Node) : Nat := match n.stat with | .pooled o => o | _ => 0
  decide (prio b < prio a) || (prio a == prio b && decide (order a < order b))

/-- The ready pool in its order: at most 65,536 nodes (R371). -/
def State.pool (s : State) : List Node :=
  let order (n : Node) : Nat := match n.stat with | .pooled o => o | _ => 0
  let ns := s.nodes.filter fun n => match n.stat with | .pooled _ => true | _ => false
  ((sortAsc (ns.map order)).filterMap fun o => ns.find? fun n => order n == o).take 65536

/-- The compute die of a node's main tile operand, where DECL declares one: the home die of its first declared row (R369).
DEDUCED (log 38). -/
def State.declDie (s : State) (asid : Nat) (n : Node) : Option Nat :=
  let d := bnat n.bytes 0x20 8
  if bits d 10 1 = 0 then none
  else
    let e := s.tid asid (bits d 0 10)
    let j := if tidSparse e then 0 else tidElem e 0 (bits d 32 16) 0 0
    let va := tidBase e + if fmtCode (tidFmt e) = 5 then j / 32 * 4 * fmtM (tidFmt e) else j * fmtSize (fmtCode (tidFmt e))
    match s.walk asid va with
    | .ok l => if targetOf (l.pa va) = .hbm then some (homeDie (l.pa va)) else none
    | .error _ => none

/-- Units on a die first, the others behind them. -/
def nearFirst (die : Option Nat) (of : Nat → Nat) (us : List Nat) : List Nat :=
  us.filter (fun u => die == some (of u)) ++ us.filter fun u => die != some (of u)

/-- A partition has a cluster with room for a block of a node's grid, where its descriptor starts a grid at all; one that does not
fails as the node starts (R366, R370, R372). DEDUCED (log 38). -/
def State.gridRoom (s : State) (pk : Packet) (n : Node) (p : Nat) : Bool :=
  match s.procRead (s.pkAsid pk) (bnat n.bytes 0x28 8) 0x38 with
  | none => true
  | some (_, d) =>
    let g := s.newGrid pk (some n.id) d []
    match nfind s.images g.imageKey with
    | none => true
    | some m =>
      s.gridCode g.asid d != 0 || g.todo.any (fun b => !s.blockFits b.1 m d) ||
        (g.todo.any fun b => b.1 == p) &&
          (rangeFrom (8 * p) 8).any fun cl => (s.startTeams g m cl (List.range g.block)).isSome

/-- The first free unit that fits a node, those near its declared operand before the others and each ascending (R369, R372): a partition, a cluster, an engine, or a channel as 16 × cluster + number.
DESIGN CHOICE (log 36). DEDUCED (log 38). -/
def State.freeUnit (s : State) (n : Node) : Option Nat :=
  match s.packet n.pkt with
  | none => none
  | some pk =>
    let ps := (partsOf (s.pkMask pk)).filter fun p => s.takesWork p (s.pkAsid pk)
    let cls := nearFirst (s.declDie (s.pkAsid pk) n) dieOfCluster (ps.flatMap fun p => rangeFrom (8 * p) 8)
    match n.kind with
    | 1 => ps.find? (s.gridRoom pk n)
    | 2 => cls.find? fun c => !(s.freeHandles c true).isEmpty && (bnat n.bytes 0x30 8 == 0 || !(s.freeSlots c).isEmpty)
    | 3 => ((List.range 8).map (8 * bnat n.bytes 0x36 1 + ·)).find? fun b =>
        bits (bnat n.bytes 0x37 1) (b % 8) 1 == 1 && ps.contains (partOfBobbin b) && (s.bobbin b).stat == .idle &&
          !(s.bobbin b).frozen
    | _ => (cls.flatMap fun c => (List.range 16).map (16 * c + ·)).find? fun h =>
        (s.channelCopies (h / 16) (h % 16)).isEmpty && !((s.cluster (h / 16)).channel (h % 16)).frozen

/-- The PRIO of a packet. -/
def State.prioOf (s : State) (pkt : Nat) : Nat := match s.packet pkt with | some p => p.prio | none => 0

/-- The next block of a grid starts on a cluster of the partition it was dealt to (R366), a team to be run again before them
(R375): the state, and the grid as it stands then. -/
def State.nextBlock (s : State) (g : Grid) (cl : Nat) : Option (State × Grid) :=
  let p := partOfCluster cl
  match nfind s.images g.imageKey with
  | none => none
  | some m =>
    if !s.takesWork p g.asid then none
    else
      let x := s.setGridGroups g [p]
      let s := x.1
      let g := x.2
      match g.redo.find? fun b => b.1 == p with
      | some b => (s.startTeams g m cl [b.2]).map fun s =>
          (s, { g with redo := g.redo.erase b, running := g.running + 1, started := g.started ++ [b.2] })
      | none =>
        match g.todo.find? fun b => b.1 == p with
        | none => none
        | some b =>
          let ixs := rangeFrom (b.2 * g.block) g.block
          (s.startTeams g m cl ixs).map fun s =>
            (s, { g with todo := g.todo.erase b, running := g.running + g.block, started := g.started ++ ixs })

/-- A block of a grid with a higher PRIO, or of one that started before the k-th with the same, fits on the cluster now, or a
team-grid node of a higher PRIO would take it (R372). -/
def State.outranked (s : State) (k : Nat) (g : Grid) (cl : Nat) : Bool :=
  (indexed s.grids).any (fun h => (decide (s.prioOf g.pkt < s.prioOf h.2.pkt) ||
      (s.prioOf g.pkt == s.prioOf h.2.pkt && decide (h.1 < k))) && (s.nextBlock h.2 cl).isSome) ||
    s.pool.any fun n => n.kind == 1 && decide (s.prioOf g.pkt < s.prioOf n.pkt) && s.freeUnit n == some (partOfCluster cl)

/-- The next block of the k-th grid starts on a cluster, unless another has the turn (R366, R372). -/
def evTeamStart (k cl : Nat) (s : State) : Option State :=
  match s.grids[k]? with
  | none => none
  | some g =>
    if s.outranked k g cl then none
    else (s.nextBlock g cl).map fun x =>
      { x.1 with grids := x.1.grids.map fun (y : Grid) => if y.id = g.id then x.2 else y }

/-- A tile node's rule, loaded as QRULE would load it; false where the image fails its checks (R370, R443). -/
def State.nodeRule (s : State) (asid va cl slot : Nat) : Option State :=
  if va % 32 ≠ 0 then none
  else match s.procRead asid va 1056 with
    | none => none
    | some (s, img) => if ruleBad img then none else some (s.modCluster cl fun c => { c with rules := nput c.rules slot img })

/-- A tile node takes a handle, and a rule slot where it names a rule, and its first record is issued (R370).
DESIGN CHOICE (log 36). -/
def State.startTile (s : State) (n : Node) (asid cl : Nat) : State :=
  let h := (s.freeHandles cl true).headD 0
  let va := bnat n.bytes 0x30 8
  let r := if va = 0 then none else (s.freeSlots cl).head?
  let s := s.modCluster cl fun c => { (c.zeroHandle h) with
    nodeHandles := c.nodeHandles ++ [h], nodeSlots := c.nodeSlots ++ r.toList, rules := r.toList.foldl ndel c.rules }
  let s := s.modNode n.id fun x => { x with unitAt := cl, handle := h, rslot := r }
  match r with
  | none => s.issueNodeRec n.id
  | some slot =>
    match s.nodeRule asid va cl slot with
    | some s => s.issueNodeRec n.id
    | none => s.failNode n.id 7

/-- The scheduler loads a Bobbin engine and starts it (R335 to R337). DESIGN CHOICE (log 81): the local store is kept where the
number of the address space is the one of the node before, whatever became of the space between them. -/
def State.startBobbin (s : State) (n : Node) (asid b : Nat) (prog : List Word) (args : List Byte) : State :=
  s.modBobbin b fun e =>
    { e with
      x := nput ((List.range 8).foldl (fun m i => nput m (i + 1) (BitVec.ofNat 64 (bnat args (8 * i) 8))) []) 9
        (BitVec.ofNat 64 b)
      v := [], pc := 0, past := false, store := prog, loc := if e.asid = asid then e.loc else []
      bkey := BitVec.ofNat 32 (bnat n.bytes 0x30 4), wm := 0, asid := asid, node := .node n.id
      trapCore := bnat n.bytes 0x38 2, stat := .ready }

/-- A copy node's copy is accepted by a channel, where it passes the checks of R247; else the node fails.
DESIGN CHOICE (log 31). -/
def State.startCopy (s : State) (n : Node) (asid h : Nat) : State :=
  let dst := bnat n.bytes 0x28 8
  let src := bnat n.bytes 0x30 8
  let len := bnat n.bytes 0x38 4
  let cl := h / 16
  if dst % 4 ≠ 0 || src % 4 ≠ 0 || len % 4 ≠ 0 || dst ≥ 2 ^ 55 || src ≥ 2 ^ 55 ||
      s.destOverlap cl (h % 16) asid (.glob dst) ⟨dst, len, 1, len⟩ then s.failNode n.id 7
  else
    let cp : Copy :=
      { id := s.fresh, cluster := cl, ch := h % 16, core := 4 * cl, who := .node n.id, unit := s.unitOf (.node n.id),
        asid := asid, dst := .glob dst, src := .glob src, width := len, rows := 1, srcPitch := len, dstPitch := len,
        start := ((s.cluster cl).channel (h % 16)).tail, moved := 0, ovl := none, stopped := false, frozen := false,
        sup := false }
    ({ s.bump with copies := s.copies ++ [cp] }).modCluster cl fun k => k.modChannel (h % 16) fun x =>
      { x with tail := x.tail + len }

/-- The image of a node's packet: a graph packet's, or a Bobbin packet's. -/
def State.nodeImage (s : State) (pk : Packet) : Option Image :=
  nfind s.images (imageKey (s.pkAsid pk) (bnat pk.bytes (if pk.ty = 3 then 0x16 else 4) 2))

/-- A node starts on a unit: the acquire of its start, its deterministic unit, and its work (R370, R373, R374).
DEDUCED (log 35). -/
def State.startNode (s : State) (pk : Packet) (n : Node) (u : Nat) : State :=
  let asid := s.pkAsid pk
  let s := (s.modNodeStat n.id .running).acquire (s.pkMask pk)
  let det (s : State) (core : Nat) : State := if pk.det then s.startUnit (.node pk.id n.n) asid core 0 0 pk.id else s
  match n.kind with
  | 1 =>
    (match s.procRead asid (bnat n.bytes 0x28 8) 0x38 with
     | none => s.failNode n.id 7
     | some (s, d) =>
       match s.startGrid pk (some n.id) d with
       | .error c => s.failNode n.id (if c = 5 || c = 6 then c else 7)
       | .ok s => s)
  | 2 => (det s (4 * u)).startTile n asid u
  | 3 =>
    (match s.nodeImage pk, s.procRead asid (bnat n.bytes 0x28 8) 64 with
     | some m, some (s, args) =>
       (det s (bnat n.bytes 0x38 2)).startBobbin n asid u (m.bobbinProgs.getD (bnat n.bytes 0x34 2) []) args
     | _, _ => s.failNode n.id 7)
  | _ => (det s (4 * (u / 16))).startCopy n asid u

/-- The k-th node of the pool goes to the lowest free unit that fits, unless a node of its kind comes before it and has a unit
(R372). -/
def evNodeDispatch (k unit : Nat) (s : State) : Option State :=
  match s.pool[k]? with
  | none => none
  | some n =>
    if s.freeUnit n != some unit ||
        (s.pool.any fun m => m.kind == n.kind && s.nodeBefore m n && (s.freeUnit m).isSome) then none
    else match s.packet n.pkt with
      | none => none
      | some pk => some (s.startNode pk n unit)

/-- The nodes under way. -/
def State.running (s : State) : List Node := s.nodes.filter fun n => n.stat == .running

/-- A node's work is done (R373). -/
def State.nodeDone (s : State) (n : Node) : Bool :=
  match n.kind with
  | 1 => n.fin || s.grids.any fun g => g.node == some n.id && g.finished
  | _ => n.fin

/-- The unit keys of a node: its own, or its grid's. -/
def State.unitOfNode (s : State) (n : Node) (d : DetUnit) : Bool :=
  match d.key with
  | .node p i => p == n.pkt && i == n.n
  | k => s.grids.any fun g => g.node == some n.id && g.id == k.group

/-- The k-th node under way completes: merge, clean, count down (R373). -/
def evNodeCompletion (k : Nat) (s : State) : Option State :=
  match s.running[k]? with
  | none => none
  | some n =>
    match s.packet n.pkt with
    | none => none
    | some pk =>
      if !s.nodeDone n then none
      else
        let s := if pk.det then (s.mergeGates (s.unitOfNode n)).dropUnits (s.unitOfNode n) else s
        let succ := n.succ.filterMap fun i => s.nodes.find? fun m => m.pkt == n.pkt && m.n == i
        let s := s.cleanDies (diesOf (s.pkMask pk)) false
        let s := if succ.any fun m => m.kind == 3 then s.cleanHomes true else s
        let s := if n.kind = 2 then s.modCluster n.unitAt fun c =>
            { c with nodeHandles := c.nodeHandles.erase n.handle
                     nodeSlots := match n.rslot with | some r => c.nodeSlots.erase r | none => c.nodeSlots }
          else s
        let s := { s with grids := s.grids.filter fun g => g.node != some n.id }
        let s := (s.modNodeStat n.id .done).modPacket pk.id fun p => { p with err := p.err || n.err, left := p.left - 1 }
        some (succ.foldl (fun s m => (s.modNode m.id fun x => { x with count := x.count - 1 }).enterNode m.id) s)

/-! ### GSPAWN and GDONE (R379, R380) -/

/-- The claim a participant holds from an issue that faulted after it. DEDUCED (log 33). -/
def State.claimOf (s : State) (w : Who) : Option Claim := s.claims.find? fun c => c.sup == s.issSup && c.whos.contains w

/-- Write the packet at a claimed index and report it to every participant (R379). DEDUCED (log 32). -/
def State.spawn (s : State) (r : R3) (c : Claim) : State :=
  let q := s.queue c.queue
  let block := (List.range 16).flatMap fun i => leBytes 4 (s.rblk s.t0 r.a i).toNat
  let va := q.ring + 64 * (c.idx % 2 ^ q.log2n)
  match s.translate (.core s.issCore) s.issAsid va .write with
  | .error f => s.allFault f
  | .ok (s, pa, _) =>
    let s := s.engineStore s.issCore pa block
    let whos := s.parts_.map s.whoOf
    let rest := c.whos.filter fun w => !whos.contains w
    let s := { s with claims := s.claims.filterMap fun (x : Claim) =>
        if x = c then (if rest.isEmpty then none else some { x with whos := rest, written := true }) else some x }
    match s.iss.who with
    | .shuttle _ => s.put64 0 r.d.toNat (BitVec.ofNat 64 c.idx)
    | _ => s.parts_.foldl (fun s l => s.put32 l r.d.toNat (BitVec.ofNat 32 (c.idx % 2 ^ 31))) s

/-- DEDUCED (log 33). -/
def runGspawn (r : R3) (s : State) : State :=
  if s.parts_.isEmpty then s
  else match s.claimOf (s.whoOf s.t0) with
    | some c => s.spawn r c
    | none =>
      let n := bits (s.rd s.t0 r.b []).toNat 0 12
      let q := s.queue n
      if !q.en || !q.devq || q.asid ≠ s.issAsid then s.allFault (flt .perm)
      else if decide ((q.wridx - q.rdidx).toNat ≥ 2 ^ q.log2n) then
        s.parts_.foldl (fun s l => s.put32 l r.d.toNat 0x80000001) s
      else
        let c : Claim := ⟨s.parts_.map s.whoOf, s.issSup, n, q.wridx.toNat, false⟩
        ({ s with claims := s.claims ++ [c] }.modQueue n fun x => { x with wridx := x.wridx + 1 }).spawn r c

/-- A participant of a GDONE has completed its fence and its batches (R380); one that has ended counts as done.
DEDUCED (log 33). -/
def State.gdoneSettled (s : State) (sup : Bool) (w : Who) : Bool :=
  match w with
  | .thread k i =>
    (match (s.thread k i).stat with
     | .exited => true
     | .parked => false
     | .hemParked => false
     | _ => (s.settlingOf sup 4 w).isNone)
  | .shuttle c => !(s.shuttle c).parked && (s.settlingOf sup 4 w).isNone
  | _ => true

/-- A participant still stands at its GDONE. -/
def State.gdoneHere (s : State) (w : Who) : Bool :=
  match w with
  | .thread k i => (s.thread k i).isLive
  | .shuttle c => (s.shuttle c).active || (s.shuttle c).mode
  | _ => false

/-- The one add of an issue (R380), and the gates on its word are tested again; on a deterministic word it is a contribution of
the issuer's unit (R226). -/
def State.gdoneAdd (s : State) (core asid : Nat) (u : UnitKey) (va pa v : Nat) : State :=
  (if s.viewed u asid va then s.detAdd u ⟨pa, 2, BitVec.ofNat 64 v⟩
    else (s.homeAtomic core pa 8 fun x => (x + v) % 2 ^ 64).1).retestGates pa

/-- The add can be made now: its word lies in the issuer's unit, or can be reached (R420). -/
def State.gdoneCan (s : State) (core asid : Nat) (u : UnitKey) (va pa : Nat) : Bool :=
  s.viewed u asid va || (s.reach core pa).isOk

/-- Every GDONE under way whose participants are all done makes its add; one whose participants have all ended goes (R380).
DEDUCED (log 33). -/
def State.sweepGdones (s : State) : State :=
  s.gdones.foldl (fun s g =>
    let s := if !g.added && g.whos.all (s.gdoneSettled g.sup) && s.gdoneCan g.core g.asid g.unit g.va g.pa then
        { s.gdoneAdd g.core g.asid g.unit g.va g.pa g.v with gdones := s.gdones.map fun (x : GDone) => if x.id = g.id then { x with added := true } else x }
      else s
    if g.whos.any s.gdoneHere then s else { s with gdones := s.gdones.filter fun x => x.id != g.id }) s

/-- A participant leaves the GDONE it has completed. -/
def State.leaveGdone (s : State) (w : Who) : State :=
  { s with gdones := (s.gdones.map fun g =>
      if g.sup = s.issSup then { g with whos := g.whos.filter fun x => x != w } else g).filter fun g => !g.whos.isEmpty }

/-- The GDONE a participant stands in. -/
def State.gdoneOf (s : State) (w : Who) : Option GDone := s.gdones.find? fun g => g.sup == s.issSup && g.whos.contains w

/-- A participant of a GDONE under way: it goes on once the add is made, raises the fault of its batch wait, or waits. -/
def State.gdoneAgain (s : State) (l : Nat) (g : GDone) : Except Out State :=
  let w := s.whoOf l
  if g.added then .ok (s.leaveGdone w)
  else match s.settling 4 w with
    | some (.late n f) => .error (.late n f)
    | _ => .error .retry

/-- DEDUCED (log 33). -/
def runGdone (r : RAB) (s : State) : State :=
  let again := s.parts_.filter fun l => (s.gdoneOf (s.whoOf l)).isSome
  let new := s.parts_.filter fun l => !again.contains l
  let s := again.foldl (fun s l => match s.gdoneOf (s.whoOf l) with
    | none => s
    | some g => (match s.gdoneAgain l g with
      | .ok t => t
      | .error o => s.dropLane l o)) s
  match new with
  | [] => s
  | l0 :: _ =>
    let va := (s.rd64 l0 r.a).toNat
    let v := (s.rd l0 r.b []).toNat
    let u := s.unitOf (s.whoOf l0)
    let stop (o : Out) : State := new.foldl (fun s l => s.dropLane l o) s
    if va % 8 ≠ 0 then stop (.flt (flt .align))
    else match s.globAt va with
      | .error f => stop (.flt f)
      | .ok (.phys pa) =>
        (match s.physOk pa with
         | .error f => stop (.flt f)
         | .ok _ =>
           if s.gdoneCan s.issCore s.issAsid u va pa && new.all fun l => (s.settling 4 (s.whoOf l)).isNone then
             s.gdoneAdd s.issCore s.issAsid u va pa v
           else stop (.gdone u va pa v))
      | .ok _ =>
        match s.translate (.core s.issCore) s.issAsid va .atomic with
        | .error f => stop (.flt f)
        | .ok (t, pa, _) =>
          if t.gdoneCan t.issCore t.issAsid u va pa && new.all fun l => (t.settling 4 (t.whoOf l)).isNone then
            t.gdoneAdd t.issCore t.issAsid u va pa v
          else new.foldl (fun t l => t.dropLane l (.gdone u va pa v)) t

/-! ### TIDSET and TIDGET (R381, R382) -/

/-- DEDUCED (log 37). -/
def runTidset (r : RAB) (s : State) : State :=
  if s.parts_.isEmpty then s
  else
    let e := (List.range 16).flatMap fun i => leBytes 4 (s.rblk s.t0 r.a i).toNat
    let x := (s.rd s.t0 r.b []).toNat
    if x > 1023 then s.allFault (flt .qShape)
    else if !tidReservedOk e then s.allFault (flt .illInst)
    else if tidSparse e && !inHalf (partOfCore s.issCore) (tidPatref e) then s.allFault (flt .perm)
    else s.modSpace s.issAsid fun p => { p with tids := nput p.tids x e }

/-- Write the 16 words of a block to a participant: 16 registers, or eight s registers (R378). -/
def State.putBlock (s : State) (l d : Nat) (e : List Byte) : State :=
  match s.iss.who with
  | .gang _ _ _ => (List.range 16).foldl (fun s i => s.put32 l (d + i) (BitVec.ofNat 32 (bnat e (4 * i) 4))) s
  | .shuttle _ => (List.range 8).foldl (fun s i => s.put64 0 (d + i) (BitVec.ofNat 64 (bnat e (8 * i) 8))) s
  | _ => s

def runTidget (r : TidgetOp) (s : State) : State :=
  if s.parts_.isEmpty then s
  else
    let x := (s.rd s.t0 r.b []).toNat
    if x > 1023 then s.allFault (flt .qShape)
    else
      let e := s.tid s.issAsid x
      s.parts_.foldl (fun s l => s.putBlock l r.d.toNat e) s

/-! ### Meanings -/

def execGspawn (r : R3) (s : State) : Out1 := .next (s.issue (.gspawn r) (runGspawn r))
/-- Add to a gate word once per issue (R380). -/
def execGdone (r : RAB) (s : State) : Out1 := .next (s.issue (.gdone r) (runGdone r))
/-- Write a tensor-identifier entry (R381). -/
def execTidset (r : RAB) (s : State) : Out1 := .next (s.issue (.tidset r) (runTidset r))
/-- Read a tensor-identifier entry (R382). -/
def execTidget (r : TidgetOp) (s : State) : Out1 := .next (s.issue (.tidget r) (runTidget r))
/-- A block of a grid starts (R64, R366). -/
def execTeamStart (k cl : Nat) (s : State) : Out1 := .next ((evTeamStart k cl s).getD s)
/-- A team's resources are released (R81). -/
def execTeamEnd (k : Nat) (s : State) : Out1 := .next ((evTeamEnd k s).getD s)
/-- The host writes a notify register (R357). -/
def execNotifyRegisterWrite (req : HostReq) (page off size : Nat) (v : Dword) (s : State) : Out1 :=
  .next ((evNotify req page off size v s).getD s)
/-- A graph packet starts (R369). -/
def execGraphPacket (q : Nat) (s : State) : Out1 := .next ((evPacket 0 q s).getD s)
/-- A grid packet starts (R366). -/
def execGridPacket (q : Nat) (s : State) : Out1 := .next ((evPacket 1 q s).getD s)
/-- A copy packet starts (R359). -/
def execCopyPacket (q : Nat) (s : State) : Out1 := .next ((evPacket 2 q s).getD s)
/-- A Bobbin packet starts (R359). -/
def execBobbinPacket (q : Nat) (s : State) : Out1 := .next ((evPacket 3 q s).getD s)
/-- A barrier-and packet starts (R359). -/
def execBarrierAndPacket (q : Nat) (s : State) : Out1 := .next ((evPacket 4 q s).getD s)
/-- A barrier-and packet's words are read again (R359). -/
def execBarrierAndRecheck (k : Nat) (s : State) : Out1 := .next ((evBarrierAndRecheck k s).getD s)
/-- A signal packet runs (R359). -/
def execSignalPacket (q : Nat) (s : State) : Out1 := .next ((evPacket 5 q s).getD s)
/-- A packet completes (R361). -/
def execPacketCompletion (k : Nat) (s : State) : Out1 := .next ((evPacketCompletion k s).getD s)
/-- A node is dispatched (R372). -/
def execNodeDispatch (k unit : Nat) (s : State) : Out1 := .next ((evNodeDispatch k unit s).getD s)
/-- A node completes (R373). -/
def execNodeCompletion (k : Nat) (s : State) : Out1 := .next ((evNodeCompletion k s).getD s)

end Sys2Proof.Machine
end

