-- ==== Sys2Proof/Machine/Bobbin.lean ====
section
/-! DEFINITION. The Bobbin engines (spec/16_bobbin.md R334 to R355): registers, local store and the engine's own memory path
(R338, R339), the instructions, their faults, and the polling of WAITN. -/

namespace Sys2Proof.Machine
open Sys2Proof

/-! ### The engine's registers -/

/-- x register n: x0 reads 0 (R334). -/
def Bobbin.rx (e : Bobbin) (n : Nat) : Dword := if n = 0 then 0 else nget e.x n 0

/-- Write an x register; a write to x0 is discarded (R334). -/
def Bobbin.setX (e : Bobbin) (n : Nat) (v : Dword) : Bobbin := if n = 0 then e else { e with x := nput e.x n v }

/-- v register n: sixteen FP32 lanes (R334). -/
def Bobbin.rv (e : Bobbin) (n : Nat) : List Word := nget e.v n (List.replicate 16 0)

def Bobbin.setV (e : Bobbin) (n : Nat) (v : List Word) : Bobbin := { e with v := nput e.v n v }

/-- Sequential flow to the next word; past the last one there is none (R336). -/
def Bobbin.advance (e : Bobbin) : Bobbin :=
  { e with pc := e.pc + 1, past := decide (e.store.length ≤ e.pc.toNat + 1) }

/-- A Bobbin fault with its subcode, address and INFO0 (R354, R386). DEDUCED (log 45). -/
def bflt (sub addr info : Nat) : Flt := ⟨.bobbin sub, addr, info⟩

/-! ### Taking a fault (R354, R390) -/

/-- The engine stops at its instruction: a record goes to the queue its node names, or a frame outside the permitted ranges
freezes the engine. DEDUCED (log 45). -/
def State.bobFault (s : State) (b : Nat) (f : Flt) : State :=
  match f.code with
  | .freeze => (s.modBobbin b fun e => { e with frozen := true }).report (5100000 + b)
  | _ =>
    let s := s.modBobbin b fun e => { e with stat := .parked }
    s.faultSource (s.bobbin b).trapCore 5 0 b (s.bobbin b).asid f 0

/-! ### Memory of an engine (R338, R339) -/

/-- The subcode of a translation's fault. -/
def bobCode (f : Flt) : Flt :=
  match f.code with
  | .notMapped => bflt 3 f.addr f.info
  | .perm => bflt 4 f.addr 0
  | .cow => bflt 5 f.addr 0
  | _ => f

/-- Translate one byte's access, in the order of R338: NOTMAPPED, STACK, PERM, COW. DEDUCED (log 45). -/
def State.bobTranslate (s : State) (b va : Nat) (a : Acc) : Except Flt (State × Nat) :=
  let asid := (s.bobbin b).asid
  match s.lookup (.bobbin b) asid va with
  | .error f => .error (bobCode f)
  | .ok (s, l) =>
    if !isStackLocal (l.pa va) || stackOf (l.pa va) ≠ stackOfBobbin b then .error (bflt 2 va 0)
    else match s.translate (.bobbin b) asid va a with
      | .error f => .error (bobCode f)
      | .ok (s, pa, _) => .ok (s, pa)

/-- The parts of [va, va + n) at physical address pa, none of which passes a 32-byte boundary: (va, pa, length). -/
def sectorParts (va pa n : Nat) : List (Nat × Nat × Nat) :=
  (pieces (n + 1) va n).map fun p => (32 * p.1 + p.2.1, pa + (32 * p.1 + p.2.1 - va), p.2.2)

/-- Translate every page of [va, va + n) before any part is performed: the parts (va, pa, length). -/
def State.bobMap (s : State) (b va n : Nat) (a : Acc) : Except Flt (State × List (Nat × Nat × Nat)) :=
  (pagesOf va n).foldlM (fun (x : State × List (Nat × Nat × Nat)) p =>
    match x.1.bobTranslate b p a with
    | .error f => .error f
    | .ok (s, pa) => .ok (s, x.2 ++ sectorParts p pa (min (va + n) (p / 65536 * 65536 + 65536) - p))) (s, [])

/-- The unit of the engine's node (R225). DEDUCED (log 46). -/
def State.bobUnit (s : State) (b : Nat) : UnitKey := s.unitOf (s.bobbin b).node

/-- A plain read: from the stack itself, past the caches, or from the unit's view (R225, R339). -/
def State.bobRead (s : State) (b : Nat) (ps : List (Nat × Nat × Nat)) : List Byte :=
  let u := s.bobUnit b
  ps.flatMap fun p => if s.viewed u (s.bobbin b).asid p.1 then s.viewRead u p.2.1 p.2.2 else mread s.hbm p.2.1 p.2.2

/-- A write in whole sector steps at the home slice, written through (R224, R339). -/
def State.bobStore (s : State) (b : Nat) (ps : List (Nat × Nat × Nat)) (bs : List Byte) : State :=
  (ps.foldl (fun (x : State × List Byte) p =>
    let u := x.1.bobUnit b
    let now := x.2.take p.2.2
    (if x.1.viewed u (x.1.bobbin b).asid p.1 then x.1.viewWrite u p.2.1 p.1 now else x.1.bobbinWrite p.2.1 now,
      x.2.drop p.2.2)) (s, bs)).1

/-- Read n bytes at a virtual address. -/
def State.bobLoad (s : State) (b va n : Nat) : Except Flt (State × List Byte) :=
  match s.bobMap b va n .read with
  | .error f => .error f
  | .ok (s, ps) => .ok (s, s.bobRead b ps)

/-! ### Running an instruction -/

/-- Run an instruction of the issuing engine: it answers the state after its effect, with the PC moved where it transfers,
or the fault that leaves everything as it was. -/
def State.bobRun (s : State) (f : Nat → State → Except Flt State) : State :=
  match s.iss.who with
  | .bobbin b =>
    (match f b s with
     | .ok t => t
     | .error e => s.bobFault b e)
  | _ => s

/-- An instruction that only changes its engine and goes on to the next word. -/
def State.bobDo (s : State) (f : Bobbin → Bobbin) : State :=
  s.bobRun fun b s => .ok (s.modBobbin b fun e => (f e).advance)

/-- The next word, after a change of the whole state. DEDUCED (log 47). -/
def State.bobNextPc (s : State) (b : Nat) : State := s.modBobbin b Bobbin.advance

/-! ### Scalar instructions (R342 to R344) -/

def bShlV (x y : Dword) : Dword := if y.toNat ≥ 64 then 0 else x <<< y.toNat
def bShrV (x y : Dword) : Dword := if y.toNat ≥ 64 then 0 else x >>> y.toNat
def bSarV (x y : Dword) : Dword := if y.toNat ≥ 64 then (if x.msb then BitVec.allOnes 64 else 0) else x.sshiftRight y.toNat
def bSltV (x y : Dword) : Dword := if x.toInt < y.toInt then 1 else 0
def bSltuV (x y : Dword) : Dword := if x.toNat < y.toNat then 1 else 0

/-- A register instruction: x(d) ← x(a) op x(b). -/
def Bobbin.alu (r : B3) (op : Dword → Dword → Dword) (e : Bobbin) : Bobbin :=
  e.setX r.d.toNat (op (e.rx r.a.toNat) (e.rx r.b.toNat))

/-- LDI: replace 16 bits (R343). -/
def ldiV (old : Dword) (h : Nat) (imm : BitVec 16) : Dword :=
  BitVec.ofNat 64 (old.toNat - bits old.toNat (16 * h) 16 * 2 ^ (16 * h) + imm.toNat * 2 ^ (16 * h))

/-- The condition of B.cc (R344). -/
def bobCond (cond : Nat) (x y : Dword) : Bool :=
  match cond with
  | 0 => x == y
  | 1 => x != y
  | 2 => decide (x.toInt < y.toInt)
  | 3 => decide (y.toInt ≤ x.toInt)
  | 4 => decide (x.toNat < y.toNat)
  | _ => decide (y.toNat ≤ x.toNat)

/-- A taken branch: its target must be a word of the program (R336, R344). -/
def State.bobBranch (s : State) (b : Nat) (off : BitVec 13) : Except Flt State :=
  let e := s.bobbin b
  let t : Int := e.pc.toNat + off.toInt
  if t < 0 || (e.store.length : Int) ≤ t then .error (bflt 8 0 0)
  else .ok (s.modBobbin b fun e => { e with pc := BitVec.ofNat 12 t.toNat })

def runBCc (r : BccOp) (b : Nat) (s : State) : Except Flt State :=
  let e := s.bobbin b
  if bobCond r.cond.toNat (e.rx r.a.toNat) (e.rx r.b.toNat) then s.bobBranch b r.off else .ok (s.bobNextPc b)

/-! ### Scalar and vector memory (R345, R346) -/

/-- The effective address: base plus offset in units of the access size. -/
def Bobbin.ea (e : Bobbin) (base : BitVec 5) (off : BitVec 15) (size : Nat) : Nat :=
  ((e.rx base.toNat).toNat + off.toNat * size) % 2 ^ 64

def bmSize (r : BmOp) : Nat := if r.w then 8 else 4

/-- A local access lies in the local store. -/
def localOk (ea size : Nat) : Bool := decide (ea + size ≤ Config.localStore)

def runLdl (r : BmOp) (b : Nat) (s : State) : Except Flt State :=
  let e := s.bobbin b
  let ea := e.ea r.base r.off (bmSize r)
  if ea % (bmSize r) ≠ 0 then .error (bflt 6 0 0)
  else if !localOk ea (bmSize r) then .error (bflt 7 0 0)
  else .ok (s.modBobbin b fun e => (e.setX r.d.toNat (BitVec.ofNat 64 (leNat (mread e.loc ea (bmSize r))))).advance)

def runStl (r : BmOp) (b : Nat) (s : State) : Except Flt State :=
  let e := s.bobbin b
  let ea := e.ea r.base r.off (bmSize r)
  if ea % (bmSize r) ≠ 0 then .error (bflt 6 0 0)
  else if !localOk ea (bmSize r) then .error (bflt 7 0 0)
  else .ok (s.modBobbin b fun e =>
    { e with loc := mwrite e.loc ea (leBytes (bmSize r) (e.rx r.d.toNat).toNat) }.advance)

def runLdh (r : BmOp) (b : Nat) (s : State) : Except Flt State :=
  let ea := (s.bobbin b).ea r.base r.off (bmSize r)
  if ea % (bmSize r) ≠ 0 then .error (bflt 6 0 0)
  else match s.bobLoad b ea (bmSize r) with
    | .error f => .error f
    | .ok (s, bs) => .ok (s.modBobbin b fun e => (e.setX r.d.toNat (BitVec.ofNat 64 (leNat bs))).advance)

def runSth (r : BmOp) (b : Nat) (s : State) : Except Flt State :=
  let e := s.bobbin b
  let ea := e.ea r.base r.off (bmSize r)
  if ea % (bmSize r) ≠ 0 then .error (bflt 6 0 0)
  else match s.bobMap b ea (bmSize r) .write with
    | .error f => .error f
    | .ok (s, ps) => .ok ((s.bobStore b ps (leBytes (bmSize r) (e.rx r.d.toNat).toNat)).bobNextPc b)

/-- The 64 bytes of a v register: lane e at byte 4e. -/
def laneBytes (v : List Word) : List Byte := v.flatMap fun w => leBytes 4 w.toNat

def runLdv (r : BvOp) (b : Nat) (s : State) : Except Flt State :=
  let ea := (s.bobbin b).ea r.base r.off 64
  if ea % 64 ≠ 0 then .error (bflt 6 0 0)
  else if r.sp then
    (match s.bobLoad b ea 64 with
     | .error f => .error f
     | .ok (s, bs) => .ok (s.modBobbin b fun e => (e.setV r.v.toNat (wordsOf 16 bs)).advance))
  else if !localOk ea 64 then .error (bflt 7 0 0)
  else .ok (s.modBobbin b fun e => (e.setV r.v.toNat (wordsOf 16 (mread e.loc ea 64))).advance)

def runStv (r : BvOp) (b : Nat) (s : State) : Except Flt State :=
  let e := s.bobbin b
  let ea := e.ea r.base r.off 64
  if ea % 64 ≠ 0 then .error (bflt 6 0 0)
  else if r.sp then
    (match s.bobMap b ea 64 .write with
     | .error f => .error f
     | .ok (s, ps) => .ok ((s.bobStore b ps (laneBytes (e.rv r.v.toNat))).bobNextPc b))
  else if !localOk ea 64 then .error (bflt 7 0 0)
  else .ok (s.modBobbin b fun e => { e with loc := mwrite e.loc ea (laneBytes (e.rv r.v.toNat)) }.advance)

/-! ### Vector arithmetic (R347): FP32, RNE, no flags -/

/-- A result word of the float unit under RNE. -/
def f32Out (r : FRes) : Word := BitVec.ofNat 32 (F32.deliver 0 r).1
def f32In (w : Word) : FVal := F32.decode w.toNat

def laneAdd (x y : Word) : Word := f32Out (addVals 0 (f32In x) (f32In y))
def laneSub (x y : Word) : Word := f32Out (subVals 0 (f32In x) (f32In y))
def laneMul (x y : Word) : Word := f32Out (mulVals (f32In x) (f32In y))
def laneFma (x y z : Word) : Word := f32Out (fmaVals 0 (f32In x) (f32In y) (f32In z))
def laneDiv (x y : Word) : Word := f32Out (divVals (f32In x) (f32In y))
def laneSqrt (x : Word) : Word := f32Out (sqrtVal (f32In x))

/-- Lane by lane over two registers. -/
def Bobbin.vec2 (r : B3) (op : Word → Word → Word) (e : Bobbin) : Bobbin :=
  e.setV r.d.toNat (List.zipWith op (e.rv r.a.toNat) (e.rv r.b.toNat))

def Bobbin.vec3 (r : B4) (e : Bobbin) : Bobbin :=
  e.setV r.d.toNat (List.zipWith (fun f z => f z)
    (List.zipWith (fun x y => fun z => laneFma x y z) (e.rv r.a.toNat) (e.rv r.b.toNat)) (e.rv r.c.toNat))

/-! ### CHASE (R348) -/

/-- Up to k hops from p: the last pointer, or the fault of a hop. -/
def State.hops (s : State) (b off : Nat) : Nat → Nat → Except Flt (State × Nat)
  | 0, p => .ok (s, p)
  | k + 1, p =>
    if p = 0 then .ok (s, 0)
    else
      let q := (p + off) % 2 ^ 64
      if q % 8 ≠ 0 then .error (bflt 6 0 0)
      else match s.bobLoad b q 8 with
        | .error f => .error f
        | .ok (s, bs) => State.hops s b off k (leNat bs)

/-- Element e of a chase: its output written when it completes. -/
def State.chaseElem (s : State) (b inp out off k e : Nat) : Except Flt State :=
  match s.hops b off k (leNat (mread (s.bobbin b).loc (inp + 8 * e) 8)) with
  | .error f => .error f
  | .ok (s, p) => .ok (s.modBobbin b fun x => { x with loc := mwrite x.loc (out + 8 * e) (leBytes 8 p) })

/-- The elements in flight when one faults complete where they can (R348). DEDUCED (log 45). -/
def State.chaseFlight (s : State) (b inp out off k e n : Nat) : State :=
  (rangeFrom e n).foldl (fun s i => match s.chaseElem b inp out off k i with | .ok t => t | .error _ => s) s

/-- Element wm of a CHASE of m elements, after which the watermark has passed it; the last one ends the CHASE. Its fault lets the
elements in flight complete (R348). DEDUCED (log 45). -/
def State.chaseNext (s : State) (b inp out off k m : Nat) : State × Option Flt :=
  let i := (s.bobbin b).wm
  let last (s : State) : State := (s.modBobbin b fun x => { x with wm := 0 }).bobNextPc b
  if m ≤ i then (last s, none)
  else match s.chaseElem b inp out off k i with
    | .ok t => (if i + 1 = m then last t else t.modBobbin b fun x => { x with wm := i + 1 }, none)
    | .error f =>
      let n := min (m - i - 1) (Config.freeFlight s.fresh % 512)
      (s.bump.chaseFlight b inp out off k (i + 1) n, some (if f.code = .freeze then f else { f with info := i }))

/-- CHASE: the checks, then one element at each issue, so that a halt finds the engine at its watermark (R348, R355).
DEDUCED (log 45). -/
def State.chase (s : State) (b : Nat) (r : ChaseOp) : Except Flt (State × Option Flt) :=
  let e := s.bobbin b
  let inp := (e.rx r.d.toNat).toNat
  let out := (e.rx r.a.toNat).toNat
  let m := (e.rx r.b.toNat).toNat % 2 ^ 32
  let off := (e.rx r.c.toNat).toNat
  let k := r.k.toNat
  if inp % 8 ≠ 0 || out % 8 ≠ 0 || off % 8 ≠ 0 then .error (bflt 6 0 0)
  else if k = 0 then .error (bflt 1 0 0)
  else if !localOk inp (8 * m) || !localOk out (8 * m) then .error (bflt 7 0 0)
  else if inp < out + 8 * m && out < inp + 8 * m then .error (bflt 1 0 0)
  else .ok (s.chaseNext b inp out off k m)

/-- Run CHASE for the issuing engine: a fault in an element keeps what the others wrote. -/
def State.bobChase (s : State) (r : ChaseOp) : State :=
  s.bobRun fun b s =>
    match s.chase b r with
    | .error f => .error f
    | .ok (s, none) => .ok s
    | .ok (s, some f) => .ok (s.bobFault b f)

/-! ### SAMPLE, ADAMW, FADDC (R349 to R351) -/

/-- The entry SAMPLE picks of n: (s4 × n) >> 32. DEDUCED (log 45). -/
def samplePick (key stream counter n : Nat) : Nat :=
  (drawWord (BitVec.ofNat 32 key) (BitVec.ofNat 32 stream) (BitVec.ofNat 32 counter)).toNat * n / 2 ^ 32

def runSample (r : B3) (b : Nat) (s : State) : Except Flt State :=
  let e := s.bobbin b
  let at_ := (e.rx r.a.toNat).toNat
  let x := (e.rx r.b.toNat).toNat
  if at_ % 8 ≠ 0 then .error (bflt 6 0 0)
  else if r.b = 0 || r.b = r.d then .error (bflt 1 0 0)
  else match s.bobLoad b at_ 4 with
    | .error f => .error f
    | .ok (s, nb) =>
      let n := leNat nb
      let next : Dword := BitVec.ofNat 64 (x % 2 ^ 32 + (x / 2 ^ 32 + 1) % 2 ^ 32 * 2 ^ 32)
      let done (s : State) (v : Dword) : Except Flt State :=
        .ok (s.modBobbin b fun e => ((e.setX r.d.toNat v).setX r.b.toNat next).advance)
      if n = 0 then done s (BitVec.allOnes 64)
      else match s.bobLoad b (at_ + 8 + 8 * samplePick e.bkey.toNat (x % 2 ^ 32) (x / 2 ^ 32) n) 8 with
        | .error f => .error f
        | .ok (s, vb) => done s (BitVec.ofNat 64 (leNat vb))

/-- The values ADAMW reads from the local store. -/
structure AdamPars where
  lr  : Word
  b1  : Word
  b2  : Word
  eps : Word
  wd  : Word
  bc1 : Word
  bc2 : Word
  deriving DecidableEq, Repr

/-- The seven parameters in their order. -/
def adamPars (ws : List Word) : AdamPars :=
  let p (i : Nat) : Word := ws.getD i 0
  ⟨p 0, p 1, p 2, p 3, p 4, p 5, p 6⟩

/-- One element of ADAMW: the new w, m and v (R350). -/
def adamStep (p : AdamPars) (w m v g : Word) : Word × Word × Word :=
  let one : Word := 0x3F800000
  let o1 := laneSub one p.b1
  let o2 := laneSub one p.b2
  let m := laneAdd (laneMul p.b1 m) (laneMul o1 g)
  let v := laneAdd (laneMul p.b2 v) (laneMul (laneMul o2 g) g)
  let mh := laneMul m p.bc1
  let vh := laneMul v p.bc2
  let den := laneAdd (laneSqrt vh) p.eps
  let u := laneDiv mh den
  let u := laneAdd u (laneMul p.wd w)
  (laneSub w (laneMul p.lr u), m, v)

/-- ADAMW (R350). DESIGN CHOICE (log 82): LOCAL is checked first, then the state block, then the gradients. -/
def runAdamw (r : AdamwOp) (b : Nat) (s : State) : Except Flt State :=
  let e := s.bobbin b
  let sa := (e.rx r.a.toNat).toNat
  let ga := (e.rx r.b.toNat).toNat
  let la := (e.rx r.c.toNat).toNat
  if sa % 64 ≠ 0 || ga % 64 ≠ 0 || la % 32 ≠ 0 then .error (bflt 6 0 0)
  else if !localOk la 32 then .error (bflt 7 0 0)
  else match s.bobMap b sa 192 .atomic with
    | .error f => .error f
    | .ok (s, ps) =>
      match s.bobLoad b ga 64 with
      | .error f => .error f
      | .ok (s, gb) =>
        let old := wordsOf 48 (s.bobRead b ps)
        let gs := wordsOf 16 gb
        let p := adamPars (wordsOf 8 (mread e.loc la 32))
        let new := (List.range 16).map fun i =>
          adamStep p (old.getD i 0) (old.getD (16 + i) 0) (old.getD (32 + i) 0) (gs.getD i 0)
        let bs := laneBytes (new.map (·.1) ++ new.map (·.2.1) ++ new.map (·.2.2))
        .ok ((s.bobStore b ps bs).bobNextPc b)

/-- DEDUCED (log 46). -/
def runFaddc (r : B2) (b : Nat) (s : State) : Except Flt State :=
  let va := ((s.bobbin b).rx r.a.toNat).toNat
  if r.d = 0 || r.d = 31 then .error (bflt 1 0 0)
  else if va % 32 ≠ 0 then .error (bflt 6 0 0)
  else match s.bobTranslate b va .atomic with
    | .error f => .error f
    | .ok (s, pa) =>
      let x := if s.viewed (s.bobUnit b) (s.bobbin b).asid va then s.drawView (s.bobUnit b) pa va else s.drawStep pa
      .ok (x.1.modBobbin b fun e =>
        ((e.setX r.d.toNat (BitVec.ofNat 64 x.2.1)).setX (r.d.toNat + 1) (BitVec.ofNat 64 x.2.2)).advance)

/-! ### SIGNAL, WAITN, DONE (R352, R353) -/

/-- The partition runs and the engine is not frozen. -/
def State.bobRuns (s : State) (b : Nat) : Bool := !(s.bobbin b).frozen && !(s.part (partOfBobbin b)).halted

/-- A counter word as WAITN reads it: at the home slice, or in the view of the engine's unit (R226, R352). -/
def State.bobWord (s : State) (b va pa : Nat) : Nat :=
  if s.viewed (s.bobUnit b) (s.bobbin b).asid va then leNat (s.viewRead (s.bobUnit b) pa 8) else s.homeNat pa 8

/-- WAITN reads its word again, translated afresh where a shootdown has taken its translation (R400), and returns where the word
has reached its value (R352). -/
def State.poll (s : State) (b : Nat) : Option State :=
  match (s.bobbin b).stat with
  | .waitn va _ v =>
    if !s.bobRuns b then none
    else match s.bobTranslate b va .atomic with
      | .error f => some (s.bobFault b f)
      | .ok (t, pa) =>
        if v.toNat ≤ t.bobWord b va pa then some (t.modBobbin b fun e => { e with stat := .ready }.advance)
        else none
  | _ => none

/-- Every WAITN on a word reads again after a SIGNAL to it. DEDUCED (log 46). -/
def State.pollAll (s : State) (pa : Nat) : State :=
  (s.bobbins.map (·.1)).foldl (fun s b => match (s.bobbin b).stat with
    | .waitn _ p _ => if p = pa then (s.poll b).getD s else s
    | _ => s) s

/-- DEDUCED (log 46). -/
def runSignal (r : Bab) (b : Nat) (s : State) : Except Flt State :=
  let va := ((s.bobbin b).rx r.a.toNat).toNat
  let v := ((s.bobbin b).rx r.b.toNat).toNat
  if va % 8 ≠ 0 then .error (bflt 6 0 0)
  else match s.bobTranslate b va .atomic with
    | .error f => .error f
    | .ok (s, pa) =>
      let u := s.bobUnit b
      if s.viewed u (s.bobbin b).asid va then
        .ok ((s.detAdd u ⟨pa, 2, BitVec.ofNat 64 v⟩).bobNextPc b)
      else
        let s := s.bobbinWrite pa (leBytes 8 ((s.homeNat pa 8 + v) % 2 ^ 64))
        .ok (((s.bobNextPc b).pollAll pa).retestGates pa)

/-- DEDUCED (log 46). -/
def runWaitn (r : Bab) (b : Nat) (s : State) : Except Flt State :=
  let va := ((s.bobbin b).rx r.a.toNat).toNat
  let v := (s.bobbin b).rx r.b.toNat
  if va % 8 ≠ 0 then .error (bflt 6 0 0)
  else match s.bobTranslate b va .atomic with
    | .error f => .error f
    | .ok (s, pa) =>
      if v.toNat ≤ s.bobWord b va pa then .ok (s.bobNextPc b) else .ok (s.modBobbin b fun e => { e with stat := .waitn va pa v })

/-- DONE: the node's work is done, the registers are discarded and the local store is kept (R353). -/
def runBDone (b : Nat) (s : State) : Except Flt State :=
  let w := (s.bobbin b).node
  let s := s.modBobbin b fun e =>
    { e with x := [], v := [], pc := 0, past := false, bkey := 0, wm := 0, node := .nobody, stat := .idle }
  match w with
  | .node n => .ok (s.modNode n fun x => { x with fin := true })
  | _ => .ok s

/-! ### Fetch (R336, R341) -/

/-- What an engine issues next: its instruction, or the subcode of its fault. DEDUCED (log 47). -/
def State.bobFetch (s : State) (b : Nat) : Except Nat Instr :=
  let e := s.bobbin b
  if e.past || decide (e.store.length ≤ e.pc.toNat) then .error 8
  else match decodeBobbin (e.store.getD e.pc.toNat 0) with
    | .ok i _ => .ok i
    | _ => .error 1

/-! ### Meanings -/

/-- x(d) ← x(a) + x(b) (R342). -/
def execBAdd (r : B3) (s : State) : Out1 := .next (s.bobDo (Bobbin.alu r (· + ·)))
/-- x(d) ← x(a) − x(b) (R342). -/
def execBSub (r : B3) (s : State) : Out1 := .next (s.bobDo (Bobbin.alu r (· - ·)))
/-- x(d) ← x(a) × x(b) modulo 2⁶⁴ (R342). -/
def execBMul (r : B3) (s : State) : Out1 := .next (s.bobDo (Bobbin.alu r (· * ·)))
/-- Bitwise and (R342). -/
def execBAnd (r : B3) (s : State) : Out1 := .next (s.bobDo (Bobbin.alu r (· &&& ·)))
/-- Bitwise or (R342). -/
def execBOr (r : B3) (s : State) : Out1 := .next (s.bobDo (Bobbin.alu r (· ||| ·)))
/-- Bitwise exclusive or (R342). -/
def execBXor (r : B3) (s : State) : Out1 := .next (s.bobDo (Bobbin.alu r (· ^^^ ·)))
/-- Shift left; 64 or more gives 0 (R342). -/
def execBShl (r : B3) (s : State) : Out1 := .next (s.bobDo (Bobbin.alu r bShlV))
/-- Shift right; 64 or more gives 0 (R342). -/
def execBShr (r : B3) (s : State) : Out1 := .next (s.bobDo (Bobbin.alu r bShrV))
/-- Arithmetic shift right; 64 or more gives the sign (R342). -/
def execBSar (r : B3) (s : State) : Out1 := .next (s.bobDo (Bobbin.alu r bSarV))
/-- Set where less, signed (R342). -/
def execSlt (r : B3) (s : State) : Out1 := .next (s.bobDo (Bobbin.alu r bSltV))
/-- Set where less, unsigned (R342). -/
def execSltu (r : B3) (s : State) : Out1 := .next (s.bobDo (Bobbin.alu r bSltuV))
/-- Add a signed immediate (R343). -/
def execBAddi (r : BaddiOp) (s : State) : Out1 :=
  .next (s.bobDo fun e => e.setX r.d.toNat (e.rx r.a.toNat + r.imm.signExtend 64))
/-- Replace 16 bits (R343). -/
def execLdi (r : LdiOp) (s : State) : Out1 :=
  .next (s.bobDo fun e => e.setX r.d.toNat (ldiV (e.rx r.d.toNat) r.h.toNat r.imm))
/-- Branch where the condition holds (R344). -/
def execBCc (r : BccOp) (s : State) : Out1 := .next (s.bobRun (runBCc r))
/-- Branch always (R344). -/
def execBAl (off : BitVec 13) (s : State) : Out1 := .next (s.bobRun fun b s => s.bobBranch b off)
/-- Load from the local store (R345). -/
def execLdl (r : BmOp) (s : State) : Out1 := .next (s.bobRun (runLdl r))
/-- Store to the local store (R345). -/
def execStl (r : BmOp) (s : State) : Out1 := .next (s.bobRun (runStl r))
/-- Load from the stack (R345). -/
def execLdh (r : BmOp) (s : State) : Out1 := .next (s.bobRun (runLdh r))
/-- Store to the stack (R345). -/
def execSth (r : BmOp) (s : State) : Out1 := .next (s.bobRun (runSth r))
/-- Load a v register (R346). -/
def execLdv (r : BvOp) (s : State) : Out1 := .next (s.bobRun (runLdv r))
/-- Store a v register (R346). -/
def execStv (r : BvOp) (s : State) : Out1 := .next (s.bobRun (runStv r))
/-- Add lanes (R347). -/
def execVadd (r : B3) (s : State) : Out1 := .next (s.bobDo (Bobbin.vec2 r laneAdd))
/-- Subtract lanes (R347). -/
def execVsub (r : B3) (s : State) : Out1 := .next (s.bobDo (Bobbin.vec2 r laneSub))
/-- Multiply lanes (R347). -/
def execVmul (r : B3) (s : State) : Out1 := .next (s.bobDo (Bobbin.vec2 r laneMul))
/-- Multiply and add lanes with one rounding (R347). -/
def execVfma (r : B4) (s : State) : Out1 := .next (s.bobDo (Bobbin.vec3 r))
/-- Broadcast the low half of an x register (R347). -/
def execVbc (r : B2) (s : State) : Out1 :=
  .next (s.bobDo fun e => e.setV r.d.toNat (List.replicate 16 ((e.rx r.a.toNat).setWidth 32)))
/-- Follow pointers (R348). -/
def execChase (r : ChaseOp) (s : State) : Out1 := .next (s.bobChase r)
/-- Draw a neighbour (R349). -/
def execSample (r : B3) (s : State) : Out1 := .next (s.bobRun (runSample r))
/-- One optimiser step (R350). -/
def execAdamw (r : AdamwOp) (s : State) : Out1 := .next (s.bobRun (runAdamw r))
/-- One draw from a chunk counter (R351). -/
def execFaddc (r : B2) (s : State) : Out1 := .next (s.bobRun (runFaddc r))
/-- Add to a counter word (R352). -/
def execSignal (r : Bab) (s : State) : Out1 := .next (s.bobRun (runSignal r))
/-- Wait for a counter word (R352). -/
def execWaitn (r : Bab) (s : State) : Out1 := .next (s.bobRun (runWaitn r))
/-- End the node (R353). -/
def execBDone (s : State) : Out1 := .next (s.bobRun runBDone)
/-- A waiting WAITN reads its word again (R352). -/
def execWaitnPoll (b : Nat) (s : State) : Out1 := .next ((s.poll b).getD s)

end Sys2Proof.Machine
end

