-- ==== Sys2Proof/Machine/System.lean ====
section
/-! DEFINITION. System, trap and translation instructions (spec/19_system.md R383 to R415): special registers (R405 to R408,
spec/02_words.md R58, R59), entering the handler (R388), ERET (R409), shootdowns and shared pages (R410 to R412), halting and
partition contexts (R402 to R404, R413, R414); the arrival of results at registers (spec/02_words.md R50); the monitor's
releases (R390) and the failures of spec/01_machine.md R28, R29 and spec/17_graph.md R375. -/

namespace Sys2Proof.Machine
open Sys2Proof

/-! ### Special registers (R58) -/

/-- The team whose Team-scoped registers the issuer sees: a thread's own; in the handler the one whose slot the head record
names; else the one the Shuttle serves. DEDUCED (log 39). -/
def State.regTeam (s : State) : Option Nat :=
  match s.iss.who with
  | .gang k _ _ => some k
  | .shuttle c =>
    let h := s.shuttle c
    let r := s.headRecord c
    let k := 8 * c + bits (bnat r 3 1) 0 3
    if h.mode && decide (0 < (s.core c).trapCount) && bnat r 2 1 != 5 && (s.team k).live then some k else h.team
  | _ => none

/-- LIMBW of a thread (R111). -/
def limbwReg (L lane : Nat) : Nat := if L = 0 then 0 else L + 256 * (lane % L) + 65536 * (lane / L)

/-- REGCFG of a thread (R59). -/
def Team.regcfg (t : Team) (i : Tix) : Nat :=
  t.allot.toNat + 4 * (t.bands - 1) + 32 * (i / 64) + 256 * (i % 64) + 16384 * (i % 64 / 4)

/-- A team as an MFS sees it: the issuing gang's own as it stood before the chain group (R34). -/
def State.seenTeam (s : State) (k : Nat) : Team :=
  match s.iss.who with
  | .gang _ _ _ => s.viewTeam k
  | _ => s.team k

/-- CARVE of a team (R173). -/
def State.carveReg (s : State) (k : Nat) : Nat :=
  let t := s.seenTeam k
  t.regg + 64 * t.scrg + 4096 * t.slice + 262144 * s.l1g (coreOfTeam k) + if t.denied then 16777216 else 0

/-- Registers of Thread scope. -/
def Team.threadReg (t : Team) (i : Tix) (n : Nat) : Nat :=
  match n with
  | 0 => i
  | 2 => (t.teamix * (64 * t.bands) + i) % 2 ^ 32
  | 4 => t.regcfg i
  | 0xB => (t.thread i).draws.toNat
  | _ => limbwReg (t.thread i).limbL (i % 64)

/-- Registers of Team scope. FSTAT reads every flag raised so far, though a read need not show them all (R134).
DESIGN CHOICE (log 58). -/
def State.teamReg (s : State) (k n : Nat) : Nat :=
  let t := s.seenTeam k
  match n with
  | 1 => t.teamix % 2 ^ 24
  | 8 => t.fstat.toNat
  | 9 => t.fctl.toNat
  | 0xA => t.rngkey.toNat
  | 0x10 => t.pinrev.toNat
  | 0x11 => t.hemrec.toNat
  | _ => s.carveReg k

/-- An event counter (R405): the events that the model does not time are a free value. DESIGN CHOICE (log 6). -/
def State.eventReg (s : State) (c e : Nat) : Nat :=
  let v := (nget (s.core c).events e 0).toNat
  if v / 2 ^ 63 = 1 && [0x0C, 0x0F].contains (bits v 48 8) then
    v / 2 ^ 48 * 2 ^ 48 + (Config.freeCount s.fresh e).toNat
  else v

/-- The value of a special register for a participant. DEDUCED (log 39). -/
def State.special (s : State) (l n : Nat) : Nat :=
  let c := s.issCore
  if threadSpecial n then
    (match s.iss.who with
     | .gang k b _ => (s.seenTeam k).threadReg (64 * b + l) n
     | _ => 0)
  else if n = 3 then c
  else if n = 0x20 then (s.core c).cycles % 2 ^ 64
  else if n = 0x140 then s.traprec c
  else if n = 0x141 then s.issAsid
  else if 0x100 ≤ n then s.eventReg c (n - 0x100)
  else match s.regTeam with
    | some k => s.teamReg k n
    | none => (Config.freeSpecial s.fresh).toNat % 2 ^ 32

/-- MTS to a register of Team scope, whose user view is RW or which the supervisor writes (R134, R135, R165, R173, R178,
R200). -/
def State.putTeamReg (s : State) (k n v : Nat) (sup : Bool) : State :=
  match n with
  | 8 => s.modTeam k fun t => { t with fstat := BitVec.ofNat 5 v ||| s.iss.raised }
  | 9 => s.modTeam k fun t => if v % 8 ≤ 4 then { t with fctl := BitVec.ofNat 3 v } else t
  | 0xA => s.modTeam k fun t => { t with rngkey := BitVec.ofNat 32 v }
  | 0x10 => if sup then s.modTeam k fun t => { t with pinrev := BitVec.ofNat 32 v } else s
  | 0x11 => if sup then s.modTeam k fun t => { t with hemrec := BitVec.ofNat 32 v } else s
  | 0x12 =>
    if sup then s.modTeam k fun t =>
      { t with
        denied := bits v 24 1 == 1
        carveReq := if t.carveReq.any fun c => c.1 == t.barDone + 1 then t.carveReq
          else t.carveReq ++ [(t.barDone + 1, bits v 6 6, bits v 12 6)] }
    else s
  | _ => s

/-- MTS to a register: only fields whose current view is RW change (R408). DEDUCED (log 39). -/
def State.putSpecial (s : State) (n v : Nat) : State :=
  if 0x100 ≤ n && n ≤ 0x13F then
    if s.issSup then s.modCore s.issCore fun k =>
      { k with events := nput k.events (n - 0x100) (BitVec.ofNat 64 (v % 2 ^ 56 + v / 2 ^ 63 % 2 * 2 ^ 63)) }
    else s
  else match s.regTeam with
    | some k => s.putTeamReg k n v s.issSup
    | none => s

def runMfs (r : MfsOp) (s : State) : State :=
  let n := r.num.toNat
  s.forParts fun s l =>
    .ok (if is64 n then s.put64 l r.d.toNat (BitVec.ofNat 64 (s.special l n))
         else s.put32 l r.d.toNat (BitVec.ofNat 32 (s.special l n)))

/-- The other context of the cycle has written the register of Team scope from a higher lane (R74, R408). -/
def State.outrun (s : State) (l n : Nat) : Bool := s.iss.mts.any fun m => m.1 == n && decide (l < m.2)

/-- A gang's lane has written a register. -/
def State.noteMts (s : State) (l n : Nat) : State :=
  match s.iss.who with
  | .gang _ _ _ => { s with iss := { s.iss with mts := (n, l) :: s.iss.mts } }
  | _ => s

/-- MTS to the register numbered n from source field a, in ascending LANE (R408). -/
def runMtsTo (n : Nat) (a : BitVec 7) (s : State) : State :=
  s.forParts fun s l =>
    .ok (if s.outrun l n then s else (s.putSpecial n (if is64 n then (s.rd64 l a).toNat else (s.rd l a []).toNat)).noteMts l n)

def runMts (r : MtsOp) (s : State) : State := runMtsTo r.num.toNat r.a s
def runMtsFstat (r : RA) (s : State) : State := runMtsTo 8 r.a s
def runMtsFctl (r : RA) (s : State) : State := runMtsTo 9 r.a s
def runMtsCarve (r : RA) (s : State) : State := runMtsTo 0x12 r.a s

/-! ### Results that arrive (R50) -/

/-- The results of instructions that only write general registers, for one that issued with an underflowing pop (R49).
DEDUCED (log 14). -/
def pureRun (i : Instr) (s : State) : State :=
  match i with
  | .add r => runAdd r s | .sub r => runSub r s | .and r => runAnd r s | .or r => runOr r s | .xor r => runXor r s
  | .shl r => runShl r s | .shr r => runShr r s | .sar r => runSar r s | .mul r => runMul r s
  | .mulhI32 r => runMulhI32 r s | .mulhN32 r => runMulhN32 r s | .mac r => runMac r s
  | .divI32 r => runDivI32 r s | .divN32 r => runDivN32 r s | .remI32 r => runRemI32 r s | .remN32 r => runRemN32 r s
  | .addB64 r => runAddB64 r s | .subB64 r => runSubB64 r s | .mulwI32 r => runMulwI32 r s | .mulwN32 r => runMulwN32 r s
  | .bfx r => runBfx r s | .bfi r => runBfi r s | .lea r => runLea r s | .addi r => runAddi r s | .shi r => runShi r s
  | .movi r => runMovi r s
  | .fadd r => runFadd r s | .fsub r => runFsub r s | .fmul r => runFmul r s | .fdiv r => runFdiv r s | .fma r => runFma r s
  | .fmin r => runFmin r s | .fmax r => runFmax r s | .fminp r => runFminp r s | .fmaxp r => runFmaxp r s
  | .fsqrt r => runFsqrt r s | .frcp r => runFrcp r s | .frsq r => runFrsq r s | .fexp2 r => runFexp2 r s
  | .flog2 r => runFlog2 r s | .fclass r => runFclass r s | .fsgn r => runFsgn r s
  | .faddBf16x2 r => runFaddBf16x2 r s | .fsubBf16x2 r => runFsubBf16x2 r s | .fmulBf16x2 r => runFmulBf16x2 r s
  | .fmaBf16x2 r => runFmaBf16x2 r s | .fminBf16x2 r => runFminBf16x2 r s | .fmaxBf16x2 r => runFmaxBf16x2 r s
  | .fdotBf16x2 r => runFdotBf16x2 r s
  | .faddF16x2 r => runFaddF16x2 r s | .fsubF16x2 r => runFsubF16x2 r s | .fmulF16x2 r => runFmulF16x2 r s
  | .fmaF16x2 r => runFmaF16x2 r s | .fminF16x2 r => runFminF16x2 r s | .fmaxF16x2 r => runFmaxF16x2 r s
  | .fdotF16x2 r => runFdotF16x2 r s
  | .cvt r => runCvt r s | .cvtp r => runCvtp r s | .unpk r => runUnpk r s | .wptr r => runWptr r s
  | _ => s

/-- A producer of R50 whose fault was taken late runs again, alone (R53). -/
def producerRun (i : Instr) (s : State) : State :=
  match i with
  | .ld r => runLd r s | .ldt r => runLdt r s
  | .atomAdd r => runAtomAdd r s | .atomMin r => runAtomMin r s | .atomMax r => runAtomMax r s
  | .atomAnd r => runAtomAnd r s | .atomOr r => runAtomOr r s | .atomXor r => runAtomXor r s
  | .atomExch r => runAtomExch r s | .atomCas r => runAtomCas r s
  | _ => s

/-- The registers an instruction captured at issue, as a thread of their own: a source n below 1000 is a register, and
1000 + 1000000 q + p the entry of queue q at position p (R49). -/
def lateTeam (t : Team) (i : Tix) (srcs : List (Nat × Word)) : Team :=
  let regs := srcs.filter fun x => decide (x.1 < 1000)
  let pops := (srcs.filter fun x => decide (1000 ≤ x.1)).map fun x => ((x.1 - 1000) / 1000000, (x.1 - 1000) % 1000000, x.2)
  let of (q : Nat) : List (Nat × Word) := (pops.filter fun x => x.1 == q).map (·.2)
  let sorted (q : Nat) : List Nat := sortAsc ((of q).map (·.1))
  let entry (q p : Nat) : List Word :=
    List.replicate 64 (match (of q).find? fun x => x.1 == p with | some x => x.2 | none => 0)
  let t := (dedup (pops.map (·.1))).foldl (fun t q => t.modQueue q fun o =>
    { o with first := (sorted q).headD 0, entries := (sorted q).map (entry q) }) t
  t.modThread i fun x =>
    { x with regs := regs.foldl (fun m r => nput m r.1 r.2) [], empty := []
             qpos := (dedup (pops.map (·.1))).foldl (fun m q => nput m q ((sorted q).headD 0)) [] }

/-- The issue of one instruction for one thread with the sources it captured. -/
def State.aloneIssue (s : State) (f : Fill) (pfx : Option Pfx) (pc : Pc) (srcs : List (Nat × Word)) : Issue :=
  { Issue.none with
    who := .gang f.team (f.t / 64) [f.t % 64], pfx := pfx, pc := pc, gpc := pc, npc := pc,
    view := some (lateTeam (s.team f.team) f.t srcs) }

/-- One pending result is written, and its registers become full (R50). DEDUCED (log 14). -/
def State.applyFill (s : State) (f : Fill) : State :=
  if !((s.team f.team).thread f.t).isLive then s
  else
    match f.val with
    | .words ws => s.modThread f.team f.t fun t => t.setGs (f.regs.headD 0) ws
    | .decision _ _ => s
    | .result i pfx _ srcs =>
      { pureRun i { s with iss := s.aloneIssue f pfx 0 srcs } with iss := s.iss }
    | .late _ _ _ _ _ _ => s
    | .stopped _ _ _ _ => s

/-- A pending result is there: it waits for no decision and no queue entry. -/
def Fill.arrived (f : Fill) : Bool :=
  match f.val with
  | .words _ => true
  | .decision _ _ => false
  | .result _ _ pops _ => pops.isEmpty
  | .late _ _ _ _ _ _ => false
  | .stopped _ _ _ _ => false

/-- A thread parks for a late fault before its next issue (R53): not while it waits at a JOIN, a barrier or an object, whose
completion it does not issue for. DESIGN CHOICE (log 5). -/
def Thread.mayPark (t : Thread) : Bool :=
  match t.stat with
  | .ready => true
  | .held _ _ => true
  | .retry => true
  | .preBar _ => true
  | _ => false

/-- A fault of issue n of a band that its thread can take now, and how it stands once it is taken. -/
def State.lateOf (s : State) (k b n : Nat) (f : Fill) : Option (FillVal × (Nat × Pc × Flt)) :=
  match f.val with
  | .late m i pfx pc srcs x =>
    if m = n && f.team = k && f.t / 64 = b && (s.thread k f.t).mayPark then some (.stopped i pfx pc srcs, (f.t % 64, pc, x))
    else none
  | _ => none

/-- The threads that park for late faults of lanes of a band: those, and the rest of their bound sets (R113). -/
def State.lateParks (s : State) (k b : Nat) (ls : List Nat) : List Tix :=
  let t := s.team k
  (t.recordLanes b ls).filterMap fun l =>
    if ls.contains l || (t.thread (64 * b + l)).mayPark then some (64 * b + l) else none

/-- The late faults of issue n are taken (R53, R387): their threads park where they are, each with its bound set (R113), and the
records name the producer. DESIGN CHOICE (log 5). -/
def State.takeLate (s : State) (k b n : Nat) : Option State :=
  let fs := (s.fills.filterMap (s.lateOf k b n)).map (·.2)
  if fs.isEmpty then none
  else
    let s := s.countFaults (coreOfTeam k) (s.part (partOfCore (coreOfTeam k))).asid (fs.map (·.2.2))
    let t := (s.lateParks k b (fs.map (·.1))).foldl (fun s i => s.modThread k i fun t => { t with stat := .parked }) s
    some ({ t with fills := s.fills.map fun f => match s.lateOf k b n f with | some x => { f with val := x.1 } | none => f
      }.laneRecords k b fs)

/-- The results with number k arrive, together (R50, R114, R195); or a producer's late fault is taken (R53). -/
def evDestinationFill (k : Nat) (s : State) : Option State :=
  let fs := s.fills.filter fun f => f.id == k
  match fs with
  | ⟨_, tm, t, _, .late n _ _ _ _ _⟩ :: _ => s.takeLate tm (t / 64) n
  | _ =>
    if fs.isEmpty || !fs.all Fill.arrived then none
    else some (fs.foldl State.applyFill { s with fills := s.fills.filter fun f => f.id != k })

/-! ### The handler (R388, R409) -/

/-- A waiting ACQ of the Shuttle's current program is withdrawn (R232). -/
def State.withdrawAcq (s : State) (c : Nat) : State :=
  match (s.shuttle c).hold with
  | .waitAcq obj excl =>
    { s with objReqs := s.objReqs.filter fun q => !(q.who == Who.shuttle c && q.obj == obj && q.excl == excl) }.modShuttle c
      fun h => { h with hold := .none }
  | _ => s

/-- The Shuttle may issue in a halted partition only where it issued the HALT (R414). -/
def State.shuttleRuns (s : State) (c : Nat) : Bool :=
  let p := s.part (partOfCore c)
  (!p.halted || p.runner == some c) && !(s.shuttle c).frozen && (s.core c).enabled

/-- While records are queued the Shuttle leaves its user program, or a user wait, for the handler (R232, R388). -/
def evTrapHandlerEntry (c : Nat) (s : State) : Option State :=
  if (s.core c).trapCount = 0 || (s.shuttle c).mode || !s.shuttleRuns c then none
  else
    let s := s.withdrawAcq c
    let s := { s with ruleWaits := s.ruleWaits.filter fun w => w.who != Who.shuttle c }
    some (s.enterHandler c)

/-- The fault a record's bytes name, for work that is terminated. -/
def recordFlt (r : List Byte) : Flt :=
  ⟨match bnat r 0 1 with | 0x11 => .perm | 0x12 => .cow | _ => .notMapped, bnat r 0x10 8, bnat r 0x18 8⟩

/-- A node ends with ABORT (R363). -/
def State.abortNode (s : State) (id : Nat) : State :=
  match s.nodes.find? fun n => n.id == id with
  | some n => s.failNode n.id 9
  | none => s

/-- An issuer is still there to raise a held fault. -/
def State.whoLives (s : State) (w : Who) : Bool :=
  match w with
  | .thread k i => ((s.team k).thread i).isLive
  | .shuttle c => (s.shuttle c).active
  | _ => false

/-- A copy is terminated: its pointer passes it, and its fault is held for its issuer's wait (R245). DEDUCED (log 41). -/
def State.terminateCopy (s : State) (c : Copy) (f : Option Flt) : State :=
  let s := s.finishCopy c false
  let s := match c.who with
    | .node n => s.abortNode n
    | _ => s
  match f with
  | some f => if s.whoLives c.who then { s with held := s.held ++ [⟨c.who, c.id, none, f⟩] } else s
  | none => s

/-- A record is terminated: it completes as it stands, and its fault is held for its team's QWAIT (R259).
DEDUCED (log 41). DEDUCED (log 44). -/
def State.terminateRec (s : State) (r : Rec) (f : Option Flt) : State :=
  let s := s.recFlags r
  let s := if r.n 0x18 8 = 0 then s
    else match s.unitWrite r.core r.asid r.unit (.glob (r.n 0x18 8)) (leBytes 8 r.tok.toNat) with
      | .ok s => s
      | .error _ => s
  let s := match r.node with
    | some n => s.abortNode n
    | none => s
  let s := s.removeRec r
  match f, r.team with
  | some f, some k =>
    if (s.team k).liveThreads.isEmpty then s else { s with held := s.held ++ [⟨.thread k 0, r.id, some r.tok, f⟩] }
  | _, _ => s

/-- A stream pushes nothing more (R242). DEDUCED (log 41). -/
def State.terminateStream (s : State) (k q : Nat) : State :=
  s.modTeam k fun t => t.modQueue q fun o =>
    { o with stream := { o.stream with running := false, paused := false, frozen := false } }

/-- A Bobbin node ends with ABORT, and its engine is free (R390, R409). -/
def State.terminateBobbin (s : State) (b : Nat) : State :=
  let s := match (s.bobbin b).node with
    | .node n => s.abortNode n
    | _ => s
  s.modBobbin b fun e => { e with node := .nobody, stat := .idle, frozen := false, x := [], v := [] }

/-- Threads end as by EXIT, their bindings dropped first (R390, R409). -/
def State.endThreads (s : State) (k : Nat) (ts : List Tix) : State :=
  if ts.isEmpty then s else ((ts.foldl (fun s i => s.endThread k i) s).afterExit k).modTeam k Team.dropGone

/-- ERET replays a producer that faulted late, with the sources it read at its issue; where it faults again its thread parks
again (R53). DESIGN CHOICE (log 5). -/
def State.replay (s : State) (f : Fill) : State :=
  match f.val with
  | .stopped i pfx pc srcs =>
    let u := producerRun i { s with fills := s.fills.filter fun g => g.id != f.id, iss := s.aloneIssue f pfx pc srcs }
    (match faultsOf u.iss.outs with
     | [] => { u with iss := s.iss }
     | x :: _ => ((s.lateParks f.team (f.t / 64) [x.1]).foldl (fun s i => s.modThread f.team i fun t => { t with stat := .parked })
        s).laneRecords f.team (f.t / 64) [x])
  | _ => s

/-- ERET replays what threads stand parked for. -/
def State.replayLate (s : State) (k : Nat) (ts : List Tix) : State :=
  (s.fills.filter fun f => f.team == k && ts.contains f.t).foldl State.replay s

/-- ERET's action on the head record (R409). DEDUCED (log 44). -/
def State.eretAct (s : State) (c : Nat) (term : Bool) (r : List Byte) : State :=
  let k := 8 * c + bits (bnat r 3 1) 0 3
  let b := bits (bnat r 3 1) 3 3
  let who := bnat r 8 8
  match bnat r 2 1 with
  | 0 =>
    let ts := ((List.range 64).filter fun l => bits who l 1 == 1 && ((s.team k).thread (64 * b + l)).stat == .parked).map
      (64 * b + ·)
    if term then s.endThreads k ts else (s.modTeam k fun t => t.makeReady s.fresh ts).replayLate k ts
  | 1 =>
    if term then s.modShuttle c fun h => { h with parked := false, active := false, hold := .none, chunk := none, rel := none }
    else s.modShuttle c fun h => { h with parked := false }
  | 2 =>
    if term then s.terminateStream k who
    else s.modTeam k fun t => t.modQueue who fun o => { o with stream := { o.stream with paused := false } }
  | 3 =>
    (match (s.channelCopies (clusterOfCore c) who).find? (·.stopped) with
     | none => s
     | some x => if term then s.terminateCopy x (some (recordFlt r)) else s.modCopy x.id fun y => { y with stopped := false })
  | 4 =>
    (match s.records.find? fun x => x.parked && x.core == c && x.tok.toNat == who && (x.team.isNone || x.team == some k) with
     | none => s
     | some x => if term then s.terminateRec x (some (recordFlt r)) else s.modRec x.id fun y => { y with parked := false })
  | 5 => if term then s.terminateBobbin who else s.modBobbin who fun e => { e with stat := .ready }
  | _ =>
    if bnat r 0 1 = 0x15 then
      s.modTeam k fun t => t.makeReady s.fresh (t.liveThreads.filter fun i => (t.thread i).stat == .hemParked)
    else s

/-- ERET acts on the head record, retires it, and enters the handler again or leaves it (R388, R409). DEDUCED (log 40). -/
def runEretWith (term : Bool) (s : State) : State :=
  match s.iss.who with
  | .shuttle c =>
    if (s.core c).trapCount = 0 then s.dropLane 0 (.flt (flt .illInst))
    else
      let s := ((s.eretAct c term (s.headRecord c)).retireTrap c).leaveHandler c
      s.transfer 0 (s.shuttle c).pc
  | _ => s

/-! ### Shootdowns and shared pages (R400, R410 to R412) -/

/-- A shootdown covers an address: its page, or a cached translation that holds it. -/
def State.shot (s : State) (k : Shoot) (asid va : Nat) : Bool :=
  match k with
  | .page a v => a == asid && (va / 65536 == v / 65536 || s.tlb.any fun e =>
      k.covers e && decide (e.va ≤ va) && decide (va < e.va + e.size))
  | .asid a => a == asid
  | .all => true

/-- A shootdown that an instruction asks for: draws that were translated through a covered entry and sent are performed first
(R400). -/
def State.shoot (s : State) (k : Shoot) : State :=
  let hit (s : State) (d : Draw) : Bool := s.shot k (s.part (partOfCore (s.coreOfWho d.who))).asid d.va
  ((List.range s.draws.length).foldl (fun s _ =>
    match (indexed s.draws).find? fun d => hit s d.2 with
    | some d => (evChunkDraw ((s.draws.take d.1).findIdx fun e =>
        e.pa == d.2.pa && s.coreOfWho e.who == s.coreOfWho d.2.who) s).getD s
    | none => s) s).shootdown k

def runTlbinvPage (r : RAB) (s : State) : State :=
  s.shoot (.page (bits (s.rd64 0 r.b).toNat 0 12) (s.rd64 0 r.a).toNat)
def runTlbinvAsid (b : BitVec 7) (s : State) : State := s.shoot (.asid (bits (s.rd64 0 b).toNat 0 12))
def runTlbinvAll (s : State) : State := s.shoot .all

/-- The level-0 entry of an address: where it stands and its value; none where there is no level-0 node (R394, R395). -/
def State.entry0 (s : State) (asid va : Nat) : Option (Nat × Nat) :=
  if va ≥ 2 ^ 55 then none
  else
    let sp := s.space asid
    let e2 := s.homeNat (sp.root.toNat * 65536 + 8 * bits va 42 13) 8
    if !sp.valid || bits e2 0 2 ≠ 3 || !tableOk e2 then none
    else
      let e1 := s.homeNat (frameOf e2 * 65536 + 8 * bits va 29 13) 8
      if bits e1 0 2 ≠ 3 || !tableOk e1 then none
      else
        let a0 := frameOf e1 * 65536 + 8 * bits va 16 13
        some (a0, s.homeNat a0 8)

/-- A 64 KiB leaf entry, valid or not: no table, no member of a 2 MiB group. -/
def isLeaf64 (e : Nat) : Bool := bits e 1 1 == 0 && bits e 7 1 == 0

/-- Replace SHARE of a leaf. -/
def withShare (e n : Nat) : Nat := e % 2 ^ 52 + n * 2 ^ 52 + e / 2 ^ 60 * 2 ^ 60

/-- Clean and drop a frame's sectors in every L1 and remote copy of the package (R411). -/
def State.dropFrame (s : State) (frame : Nat) : State :=
  let inPage (q : Nat) : Bool := q / 2048 == frame
  let s := (s.cores.map (·.1)).foldl (fun s c => (((s.core c).l1.map (·.1)).filter inPage).foldl (fun s q =>
    (s.cleanL1 c q).dropL1 c q) s) s
  (s.dies.map (·.1)).foldl (fun s d => (((s.die d).l2.map (·.1)).filter inPage).foldl (fun s q =>
    (s.cleanRemote d q).dropRemote d q) s) s

/-- PGSHARE: the status, and the state (R411). -/
def State.pgshare (s : State) (asid va vb : Nat) : State × Nat :=
  match s.entry0 asid va, s.entry0 asid vb with
  | none, _ => (s, 5)
  | some (al, ls), b =>
    if bits ls 0 1 = 0 || !isLeaf64 ls || !leafOk ls then (s, 5)
    else match b with
      | none => (s, 6)
      | some (ad, ld) =>
        let n := bits ls 52 8
        if n = 0 then (s, 2)
        else if n = 255 then (s, 1)
        else if bits ld 0 1 = 1 || bits ld 52 8 > 0 then (s, 3)
        else
          let new := withShare ls (n + 1) ||| 64
          let alias_ := withShare new 0 / 2048 * 2048 + new % 512
          let s := (s.homePut al 8 new).homePut ad 8 alias_
          ((s.dropFrame (frameOf ls)).shoot (.page asid va), 0)

def runPgshare (r : R3) (s : State) : State :=
  let x := s.pgshare s.issAsid (s.rd64 0 r.a).toNat (s.rd64 0 r.b).toNat
  x.1.put64 0 r.d.toNat (BitVec.ofNat 64 x.2)

/-- PGREL: the status and the freed frame, and the state (R412). -/
def State.pgrel (s : State) (asid va vb : Nat) : State × Nat × Nat :=
  match s.entry0 asid va, s.entry0 asid vb with
  | some (av, lv), some (aa, la) =>
    let same := va / 65536 == vb / 65536
    if !isLeaf64 lv || !isLeaf64 la then (s, 4, 0)
    else if bits lv 0 1 = 0 && !same then (s, 2, 0)
    else if bits la 52 8 = 0 || frameOf lv ≠ frameOf la then (s, 3, 0)
    else
      let n := bits la 52 8 - 1
      let new := withShare la n
      let new := if same then new / 2 * 2 else new
      let s := if same then s else s.homePut av 8 0
      let s := s.homePut aa 8 (if n = 0 then 0 else new)
      let s := s.shoot (.page asid va)
      if n = 0 then (s.shoot (.page asid vb), 1, frameOf la) else (s, 0, 0)
  | _, _ => (s, 4, 0)

def runPgrel (r : R3) (s : State) : State :=
  let x := s.pgrel s.issAsid (s.rd64 0 r.a).toNat (s.rd64 0 r.b).toNat
  x.1.put64 0 r.d.toNat (BitVec.ofNat 64 (x.2.1 + x.2.2 * 65536))

/-! ### Halting (R404, R414) -/

/-- A cluster without what its scale caches hold, which a saved context leaves out (R260). -/
def Cluster.noScale (c : Cluster) : Cluster :=
  { c with engines := c.engines.map fun e => (e.1, { e.2 with scale := [] }) }

/-- Keys of the parts of a partition: its cores, clusters and team slots. -/
def inPartCore (p c : Nat) : Bool := partOfCore c == p
def inPartTeam (p k : Nat) : Bool := partOfCore (coreOfTeam k) == p

/-- An agent belongs to a partition. -/
def State.inPart (s : State) (p : Nat) : Who → Bool
  | .thread k _ => inPartTeam p k
  | .shuttle c => inPartCore p c
  | .bobbin b => partOfBobbin b == p
  | .node n => (match s.nodes.find? fun x => x.id == n with | some x => partOfCluster x.unitAt == p | none => false)
  | _ => false

/-- Results that have been sent arrive, and draws that have been sent are performed (R355, R404). DESIGN CHOICE (log 10). -/
def State.drain (s : State) (p : Nat) : State :=
  let s := (List.range s.draws.length).foldl (fun s _ =>
    match (indexed s.draws).find? fun d => inPartCore p (s.coreOfWho d.2.who) with
    | some d => (evChunkDraw d.1 s).getD s
    | none => s) s
  let go := s.fills.filter fun f => inPartTeam p f.team && f.arrived
  go.foldl State.applyFill { s with fills := s.fills.filter fun f => !(inPartTeam p f.team && f.arrived) }

/-- Halt a partition; `runner` is the core whose Shuttle goes on (R404, R414). Waiting ACQ requests are withdrawn (R214). -/
def State.halt (s : State) (p : Nat) (runner : Option Nat) : State :=
  if (s.part p).halted then s
  else
    let s := s.drain p
    let s := { s with objReqs := s.objReqs.filter fun q => !s.inPart p q.who }
    let free (h : Shuttle) : Shuttle :=
      let un (x : Hold) : Hold := match x with | .waitAcq _ _ => .none | y => y
      { h with hold := un h.hold, supHold := un h.supHold, waiting := false }
    let stop (e : Nat × Core) : Nat × Core :=
      if inPartCore p e.1 && some e.1 != runner then (e.1, { e.2 with shuttle := free e.2.shuttle }) else e
    let s := { s with cores := s.cores.map stop }
    s.modPart p fun x => { x with halted := true, runner := runner }

/-- Every thread that waits in ACQ makes its request again (R214). -/
def State.reAcq (s : State) (p : Nat) : State :=
  let reqs := (s.teams.filter fun e => inPartTeam p e.1).flatMap fun e => e.2.threads.filterMap fun t => match t.2.stat with
    | .atAcq obj va excl => some (⟨obj, .thread e.1 t.1, excl, va, e.2.asid⟩ : ObjReq)
    | _ => none
  { s with objReqs := s.objReqs ++ reqs }

/-- Restart a halted partition with its live context (R414). -/
def State.runPart (s : State) (p : Nat) : State :=
  if (s.part p).halted then (s.reAcq p).modPart p fun x => { x with halted := false, runner := none } else s

/-- A context of the partition still stands inside a packet and can go on: issue stops at the packet's end (R404). -/
def State.midPacket (s : State) (p : Nat) : Bool :=
  s.teams.any fun e => inPartTeam p e.1 && e.2.live && (s.core (coreOfTeam e.1)).enabled &&
    e.2.ctxs.any fun c => !e.2.frozen.contains c.band && (match c.quads with
      | q :: _ => (match e.2.selectPc c.band q with | some pc => pc % 4 != 0 | none => false)
      | [] => false)

/-- HALT.stop returns when the halt is complete (R414). -/
def runHaltStop (s : State) : State :=
  let p := partOfCore s.issCore
  let s := s.halt p (some s.issCore)
  if (s.part p).runner = some s.issCore && s.midPacket p then s.dropLane 0 .retry else s
def runHaltRun (s : State) : State := s.runPart (partOfCore s.issCore)

/-- The monitor halts a partition on the host's request (R404). -/
def evHaltRequest (p : Nat) (s : State) : Option State :=
  if (s.part p).opened && !(s.part p).halted then some (s.halt p none) else none

/-! ### Partition contexts (R402, R403, R413) -/

/-- No team and no engine state is live in the partition. -/
def State.ctxEmpty (s : State) (p : Nat) : Bool :=
  !(s.teams.any fun e => inPartTeam p e.1 && e.2.live) && !(s.records.any fun r => inPartCore p r.core) &&
    !(s.copies.any fun c => partOfCluster c.cluster == p) && !(s.draws.any fun d => s.inPart p d.who) &&
    !(s.bobbins.any fun b => partOfBobbin b.1 == p && b.2.stat != .idle)

/-- No local store of an idle engine keeps anything either: the image is its header alone (R335, R355, R402, R403).
DESIGN CHOICE (log 10). -/
def State.ctxBare (s : State) (p : Nat) : Bool :=
  s.ctxEmpty p && !(s.bobbins.any fun b => partOfBobbin b.1 == p && !b.2.loc.isEmpty)

/-- Where the trap area of a partition lies in its die's chip scratchpad (R386). -/
def trapArea (p : Nat) : Nat := halfBase p + 16777216 - 131072

/-- The live context of a partition. DESIGN CHOICE (log 10). -/
def State.liveCtx (s : State) (p : Nat) : PartCtx :=
  { asid := (s.part p).asid, isEmpty := s.ctxBare p
    teams := s.teams.filter fun e => inPartTeam p e.1
    cores := s.cores.filter fun e => inPartCore p e.1
    clusters := (s.clusters.filter fun e => partOfCluster e.1 == p).map fun (e : Nat × Cluster) => (e.1, e.2.noScale)
    bobbins := s.bobbins.filter fun e => partOfBobbin e.1 == p
    records := s.records.filter fun r => inPartCore p r.core
    -- an overlay load starts again (R254)
    copies := (s.copies.filter fun c => partOfCluster c.cluster == p).map fun c => if c.ovl.isSome then { c with moved := 0 } else c
    fills := s.fills.filter fun f => inPartTeam p f.team
    draws := s.draws.filter fun d => s.inPart p d.who
    held := s.held.filter fun h => s.inPart p h.who
    ruleWaits := s.ruleWaits.filter fun w => s.inPart p w.who
    claims := s.claims.filter fun c => c.whos.any (s.inPart p)
    gdones := s.gdones.filter fun g => inPartCore p g.core
    groups := (s.part p).groups
    regions := (s.space (s.part p).asid).regions
    traps := ((s.die (dieOfPart p)).chip.filter fun c =>
      decide (trapArea p ≤ c.1) && decide (c.1 < trapArea p + 131072)) }

/-- What a core keeps when its context goes: it stays in service, its counters run, slot 3 stays loaded, and the Shuttle that
goes on keeps its handler. -/
def Core.cleared (k : Core) (goesOn : Bool) : Core :=
  let h := k.shuttle
  { Core.fresh with
    enabled := k.enabled, spareNext := k.spareNext, cycles := k.cycles, events := k.events
    imem := k.imem.filter fun c => decide (196608 ≤ c.1)
    slots := k.slots.filter fun e => e.1 == 3
    shuttle := if goesOn then
        { Shuttle.idle with sup := h.sup, mode := h.mode, pc := h.pc, supHold := h.supHold, supBatch := h.supBatch }
      else .idle }

/-- The partition is left with an empty context: L1 and remote copies cleaned and dropped, everything else gone (R402). -/
def State.clearCtx (s : State) (p : Nat) : State :=
  let c := s.liveCtx p
  let s := (c.cores.map (·.1)).foldl (fun s k => ((s.core k).l1.map (·.1)).foldl (fun s q => (s.cleanL1 k q).dropL1 k q) s) s
  let d := dieOfPart p
  let s := ((s.die d).l2.map (·.1)).foldl (fun s q => (s.cleanRemote d q).dropRemote d q) s
  let runner := (s.part p).runner
  let s := { s with
    teams := s.teams.filter fun e => !inPartTeam p e.1
    cores := s.cores.map fun (e : Nat × Core) => if inPartCore p e.1 then (e.1, e.2.cleared (runner == some e.1)) else e
    clusters := s.clusters.filter fun e => partOfCluster e.1 != p
    bobbins := s.bobbins.filter fun e => partOfBobbin e.1 != p
    records := s.records.filter fun r => !inPartCore p r.core
    copies := s.copies.filter fun x => partOfCluster x.cluster != p
    fills := s.fills.filter fun f => !inPartTeam p f.team
    draws := s.draws.filter fun x => !c.draws.contains x
    held := s.held.filter fun h => !c.held.contains h
    ruleWaits := s.ruleWaits.filter fun w => !c.ruleWaits.contains w
    -- an index that is not written yet stays claimed (R379)
    claims := s.claims.filterMap fun x =>
      if !c.claims.contains x then some x else if x.written then none else some { x with whos := [] }
    gdones := s.gdones.filter fun g => !inPartCore p g.core }
  let s := s.modPart p fun x => { x with groups := [] }
  s.modDie d fun x => { x with chip := moutside x.chip (trapArea p) (trapArea p + 131072) }

/-- Put back entries of a map. -/
def putAll {α : Type} (m : NMap α) (es : NMap α) : NMap α := es.foldl (fun m e => nput m e.1 e.2) m

/-- A slot is loaded again from its source address; where it cannot be read, the slot holds nothing (R402). -/
def State.reloadSlot (s : State) (c slot asid : Nat) (r : Resident) : State :=
  let got : Option (State × List Byte) :=
    if r.src ≥ 2 ^ 63 then some (s, s.homeRead (r.src % 2 ^ 52) r.len) else s.procRead asid r.src r.len
  match got with
  | some (s, bs) => s.loadSlot c slot r.image r.ovl r.src bs
  | none => s.modCore c fun k => { k with slots := ndel k.slots slot }

/-- A core of a context that becomes live: in service as it is now; the Shuttle that goes on keeps its handler. -/
def Core.restored (now saved : Core) (goesOn : Bool) : Core :=
  { saved with
    enabled := now.enabled, spareNext := now.spareNext, cycles := now.cycles, events := now.events, l1 := []
    imem := [], slots := []
    shuttle := if goesOn then
        { saved.shuttle with
          sup := now.shuttle.sup, mode := now.shuttle.mode, pc := now.shuttle.pc, supHold := now.shuttle.supHold
          supBatch := now.shuttle.supBatch
          upc := if saved.shuttle.mode then saved.shuttle.upc else saved.shuttle.pc, waiting := false }
      else saved.shuttle }

/-- The supervisor's overlay goes into slot 3 of a core (R384, R430). -/
def State.loadSup (s : State) (c : Nat) : State :=
  match s.supOvl with
  | some r => s.loadSlot c 3 r.image r.ovl r.src s.supBytes
  | none => s

/-- Cores of a partition whose spare waited for a context bind enter service, the supervisor's overlay in slot 3 (R29).
DEDUCED (log 42). -/
def State.bindSpares (s : State) (p : Nat) : State :=
  ((s.cores.filter fun e => inPartCore p e.1 && e.2.spareNext).map (·.1)).foldl (fun s c =>
    let s := s.modCore c fun k => { k with enabled := true, spareNext := false }
    if (nfind (s.core c).slots 3).isSome then s else s.loadSup c) s

/-- A saved context becomes live (R402, R413). -/
def State.bindCtx (s : State) (p : Nat) (c : PartCtx) : State :=
  let runner := (s.part p).runner
  let s := { s with
    teams := putAll s.teams c.teams
    cores := c.cores.foldl (fun m (e : Nat × Core) => nput m e.1 ((nget m e.1 Core.fresh).restored e.2 (runner == some e.1))) s.cores
    clusters := putAll s.clusters c.clusters
    bobbins := putAll s.bobbins c.bobbins
    records := s.records ++ c.records, copies := s.copies ++ c.copies, fills := s.fills ++ c.fills
    draws := s.draws ++ c.draws, held := s.held ++ c.held, ruleWaits := s.ruleWaits ++ c.ruleWaits
    claims := (s.claims.filter fun (x : Claim) => !(x.whos.isEmpty && c.claims.any fun y => y.queue == x.queue && y.idx == x.idx)) ++ c.claims
    gdones := s.gdones ++ c.gdones }
  let s := s.modPart p fun x => { x with groups := c.groups }
  let s := s.modSpace c.asid fun x => { x with regions := c.regions }
  let s := s.modDie (dieOfPart p) fun d => { d with chip := c.traps.foldl (fun m (b : Host.Cell) => mset m b.1 b.2) d.chip }
  c.cores.foldl (fun s e => e.2.slots.foldl (fun s r => s.reloadSlot e.1 r.1 c.asid r.2) s) s

/-- The half of a partition's shadow slot. -/
def Part.half (x : Part) (h : Bool) : Option CtxImage := if h then x.half1 else x.half0
def Part.setHalf (x : Part) (h : Bool) (i : Option CtxImage) : Part := if h then { x with half1 := i } else { x with half0 := i }

/-- The length of an image: its header alone where it is empty, else one the device picks (R403). DESIGN CHOICE (log 10). -/
def imageLen (empty : Bool) (k : Nat) : Nat := if empty then 64 else 64 * (2 + Config.freeLen k % 524287)

/-- Save the live context to a half: the state and the status. DESIGN CHOICE (log 10). -/
def State.ctxSave (s : State) (p : Nat) (h : Bool) : State × Nat :=
  let x := s.part p
  if !x.halted then (s, 1)
  else if (x.half h).isSome then (s, 2)
  else
    let c := s.liveCtx p
    -- the Shuttle that saves it goes on after this instruction when it is restored
    let next (e : Nat × Core) : Nat × Core :=
      if x.runner = some e.1 then (e.1, { e.2 with shuttle := { e.2.shuttle with pc := s.iss.npc } }) else e
    let c := { c with cores := c.cores.map next }
    let n := s.fresh
    let i : CtxImage := ⟨c.asid, if c.isEmpty then 1 else 0, imageLen c.isEmpty n, n⟩
    let s := { s.clearCtx p with saved := if c.isEmpty then s.saved else nput s.saved n c, fresh := n + 1 }
    (s.modPart p fun y => y.setHalf h (some i), 0)

/-- Make the image of a half live: the state and the status. DESIGN CHOICE (log 10). -/
def State.ctxLoad (s : State) (p : Nat) (h : Bool) : State × Nat :=
  let x := s.part p
  if !x.halted then (s, 1)
  else match x.half h with
    | none => (s, 3)
    | some i =>
      if !s.ctxEmpty p then (s, 4)
      else if !(s.space i.casid).valid then (s, 5)
      else
        let s := s.modPart p fun y => { y.setHalf h none with asid := i.casid }
        -- accumulators and traceback stores are zeroed (R176, R295)
        let s := { s with clusters := s.clusters.map fun (e : Nat × Cluster) =>
          if partOfCluster e.1 == p then (e.1, { e.2 with engines := [] }) else e }
        let s := match nfind s.saved i.serial with
          | some c => if i.flags % 2 = 1 then s else s.bindCtx p c
          | none => s
        (s.bindSpares p, 0)

/-- The bytes of an image: the header, then the device's own bytes, which are not architectural; their first eight tell the
device which image it is (R403). DESIGN CHOICE (log 10). -/
def CtxImage.bytes (i : CtxImage) (k : Nat) : List Byte :=
  leBytes 4 0x58544343 ++ leBytes 2 i.casid ++ leBytes 2 i.flags ++ leBytes 8 i.len ++ List.replicate 48 0 ++
    (if i.len ≤ 64 then [] else leBytes 8 i.serial ++ (List.range (i.len - 72)).map fun j => Config.freeByte k j)

/-- Every page of a physical range may be reached. -/
def State.rangePermitted (s : State) (asid pa n : Nat) : Bool := (pagesOf pa n).all fun a => s.permitted asid a

/-- Move an image from a half to memory: the state and the status, or the fault that freezes the Shuttle.
DESIGN CHOICE (log 10). -/
def State.ctxSaveMem (s : State) (p : Nat) (h : Bool) (pa : Nat) : Except Flt (State × Nat) :=
  match (s.part p).half h with
  | none => .ok (s, 3)
  | some i =>
    if pa % 65536 ≠ 0 then .ok (s, 6)
    else if !s.rangePermitted s.issAsid pa i.len then .error (flt .freeze)
    else .ok ((s.homeWrite pa (i.bytes s.fresh)).modPart p fun y => y.setHalf h none, 0)

/-- Move an image from memory to a half. DESIGN CHOICE (log 10). -/
def State.ctxLoadMem (s : State) (p : Nat) (h : Bool) (pa : Nat) : Except Flt (State × Nat) :=
  if ((s.part p).half h).isSome then .ok (s, 2)
  else if pa % 65536 ≠ 0 then .ok (s, 6)
  else if !s.rangePermitted s.issAsid pa 64 then .error (flt .freeze)
  else
    let b := s.homeRead pa 64
    let len := bnat b 8 8
    let fl := bnat b 6 2
    if bnat b 0 4 ≠ 0x58544343 || bnat b 4 2 ≥ 4096 || fl > 1 || len % 64 ≠ 0 || len = 0 || len > 33554432 ||
        !((rangeFrom 0x10 48).all fun i => bnat b i 1 == 0) || (fl = 1 && len ≠ 64) then .ok (s, 7)
    else if fl = 1 then .ok (s.modPart p fun y => y.setHalf h (some ⟨bnat b 4 2, 1, 64, 0⟩), 0)
    else if len < 128 then .ok (s, 7)
    else if !s.rangePermitted s.issAsid pa len then .error (flt .freeze)
    else
      let n := s.homeNat (pa + 64) 8
      if (nfind s.saved n).isNone then .ok (s, 7)
      else .ok (s.modPart p fun y => y.setHalf h (some ⟨bnat b 4 2, 0, len, n⟩), 0)

def runCtxsave (r : CtxOp) (s : State) : State :=
  let x := s.ctxSave (partOfCore s.issCore) r.h
  x.1.put64 0 r.d.toNat (BitVec.ofNat 64 x.2)
def runCtxload (r : CtxOp) (s : State) : State :=
  let x := s.ctxLoad (partOfCore s.issCore) r.h
  x.1.put64 0 r.d.toNat (BitVec.ofNat 64 x.2)

/-- A memory form: its address is S(a)[51:0]. -/
def runCtxMem (f : State → Nat → Bool → Nat → Except Flt (State × Nat)) (r : CtxMemOp) (s : State) : State :=
  match f s (partOfCore s.issCore) r.h (bits (s.rd64 0 r.a).toNat 0 52) with
  | .error f => s.dropLane 0 (.flt f)
  | .ok (s, st) => s.put64 0 r.d.toNat (BitVec.ofNat 64 st)

/-! ### Walks (R395, R397) -/

/-- Where the next 64 pieces of a copy read and write. -/
def Copy.uses (c : Copy) : List Loc :=
  let r := c.moved / c.width
  let x := c.moved % c.width
  (rangeFrom r (min 64 (c.rows - r))).flatMap fun (i : Nat) =>
    let x := if i = r then x else 0
    [c.src.move (i * c.srcPitch + x), c.dst.move (i * c.dstPitch + x)]

/-- Where the lanes of the next 64 entries of a stream read. -/
def Stream.uses (st : Stream) : List Loc :=
  (rangeFrom st.pos (min 64 (st.counts.foldl (· * ·) 1 - st.pos))).flatMap fun p =>
    (List.range 64).map fun (l : Nat) => st.base.move ({ st with pos := p }.delta + l * st.lstride)

/-- Where a running record reads or writes the rows of its TID operands, and the next values of a sparse one. -/
def Rec.uses (r : Rec) : List Nat :=
  let rowsOf (o : Opnd) (n : Nat) : List Nat :=
    if o.src != 3 then []
    else (List.range n).flatMap fun i =>
      if o.isBfp then
        let j := tidElem o.tid (o.o 0) (o.o 1 + i) (o.o 2) (o.o 3)
        [tidBase o.tid + j / 32 * 4 * o.mw, tidSbase o.tid + j / 2 ^ tidShift o.tid]
      else [o.elemVa (o.o 0) (o.o 1 + i)]
  (if r.kind = 2 then ((r.sparseTerms.drop r.progress).take 1).flatMap fun t => t.2.map fun g => r.sparseVa g.2
   else rowsOf r.opA r.m) ++ rowsOf r.opB r.cols

/-- The addresses of a space that the work of a cluster's tile translation engine uses next. -/
def State.tileUses (s : State) (cl asid : Nat) : List Nat :=
  let glob (p : Loc) : Option Nat := match p with | .glob va => some va | _ => none
  ((s.copies.filter fun c => c.cluster == cl && c.asid == asid).flatMap fun c => c.uses.filterMap glob) ++
  ((s.teams.filter fun t => clusterOfCore (coreOfTeam t.1) == cl && t.2.live && t.2.asid == asid).flatMap fun t =>
    t.2.queues.flatMap fun q => if q.2.stream.running then q.2.stream.uses.filterMap glob else []) ++
  ((s.records.filter fun r => r.cluster == cl && r.asid == asid && r.started && decide (r.kind ≤ 4)).flatMap Rec.uses)

/-- A tile translation engine runs up to 64 pages ahead of use (R268, R399). DESIGN CHOICE (log 65). -/
def State.walksAhead (s : State) (cl asid va : Nat) : Bool :=
  (s.tileUses cl asid).any fun u => decide (u / 65536 ≤ va / 65536 + 64) && decide (va / 65536 ≤ u / 65536 + 64)

/-- A walker installs a translation, setting A, and M where a write is translated through the entry; one for a tile translation
engine where its work is at most 64 pages away. DEDUCED (log 43). -/
def evPageWalk (t : TlbId) (asid va : Nat) (write : Bool) (s : State) : Option State :=
  let due := match t with | .tile cl => s.walksAhead cl asid va | _ => true
  if !due then none else
  match s.lookup t asid va with
  | .error _ => none
  | .ok (s, l) =>
    if write && (s.checkLeaf l va .write).isNone && s.permitted asid (l.pa va) then some (s.markM t asid l) else some s

/-! ### Opening a partition (R430) -/

/-- Arrays, pattern memory, trap area and shadow storage are zeroed, and slot 3 is loaded. DESIGN CHOICE (log 51). -/
def State.openPart (s : State) (p : Nat) : State :=
  let cs := rangeFrom (32 * p) 32
  let s := { s with
    teams := s.teams.filter fun e => !inPartTeam p e.1
    clusters := s.clusters.filter fun e => partOfCluster e.1 != p
    bobbins := s.bobbins.filter fun e => partOfBobbin e.1 != p
    records := s.records.filter fun r => !inPartCore p r.core
    copies := s.copies.filter fun c => partOfCluster c.cluster != p
    fills := s.fills.filter fun f => !inPartTeam p f.team
    draws := s.draws.filter fun d => !s.inPart p d.who
    held := s.held.filter fun h => !s.inPart p h.who
    objReqs := s.objReqs.filter fun q => !s.inPart p q.who
    ruleWaits := s.ruleWaits.filter fun w => !s.inPart p w.who
    claims := s.claims.filter fun c => !c.whos.any (s.inPart p)
    gdones := s.gdones.filter fun g => !inPartCore p g.core
    cores := cs.foldl (fun m c => let k := nget m c Core.fresh
      nput m c { Core.fresh with enabled := k.enabled || k.spareNext }) s.cores }
  let s := s.modDie (dieOfPart p) fun d => { d with
    pattern := d.pattern.filter fun w => !inHalf p w.1
    chip := moutside d.chip (halfBase p) (halfBase p + 16777216) }
  let s := s.modPart p fun x => { Part.closed with opened := true, asid := x.asid }
  cs.foldl State.loadSup s

/-! ### Units that fail or are ended (R29, R375, R390) -/

/-- A team is taken off its core with all it holds; what it has written stays. -/
def State.killTeam (s : State) (k : Nat) : State :=
  let c := coreOfTeam k
  let sh : Bool := (s.shuttle c).team == some k
  let mine (w : Who) : Bool := match w with
    | .thread j _ => j == k
    | .shuttle d => d == c && sh
    | _ => false
  let dead := s.records.filter fun r => r.team == some k
  let s := dead.foldl (fun s r => if r.started then
      s.modCluster r.cluster fun x => x.modEngine r.engine fun e => { e with busy := none, scale := [] } else s) s
  let s := { s with
    records := s.records.filter fun r => r.team != some k
    copies := s.copies.filter fun x => !mine x.who
    fills := s.fills.filter fun f => f.team != k
    objReqs := s.objReqs.filter fun q => !mine q.who }
  let s := (s.modTeam k fun t => { t with threads := [], hemrec := 0 }).lastExit k
  -- a deterministic team's draw under way is not made: it would give its chunk to nobody
  let det := (s.team k).det
  let s := { s with draws := s.draws.filterMap fun (d : Draw) =>
    if !(mine d.who) || d.sup then some d else if det then none else some { d with ts := [] } }
  let s := s.modTeam k fun _ => .free
  if sh then s.modShuttle c fun h => { h with team := none, user := [], batch := .none } else s

/-- The packet of a grid or a node ends in error with ABORT. DEDUCED (log 41). -/
def State.abortPacket (s : State) (pkt : Nat) : State :=
  match s.packet pkt with
  | some p => (s.modPacket pkt fun x => { x with err := true }).noteErr p.queue (BitVec.ofNat 64 p.idx) 9
  | none => s

/-- The running teams of a grid. -/
def State.gridTeams (s : State) (g : Nat) : List Nat := (s.teams.filter fun e => e.2.live && e.2.grid == g).map (·.1)

def State.modGrid (s : State) (id : Nat) (f : Grid → Grid) : State :=
  { s with grids := s.grids.map fun g => if g.id = id then f g else g }

/-- A grid ends with ABORT: its teams go and none starts (R363, R375). -/
def State.abortGrid (s : State) (g : Grid) : State :=
  let s := (s.gridTeams g.id).foldl State.killTeam s
  let s := s.modGrid g.id fun x => { x with todo := [], redo := [], running := 0 }
  match g.node with
  | some n => s.abortNode n
  | none => (s.abortPacket g.pkt).modPacket g.pkt fun p => { p with left := 0 }

/-- A grid is run again whole (R375). -/
def State.rerunGrid (s : State) (g : Grid) : State :=
  let s := (s.gridTeams g.id).foldl State.killTeam s
  s.modGrid g.id fun x =>
    { x with
      todo := dealBlocks (partsOf x.pmask.toNat) (descBlocks x.desc), redo := [], running := 0, started := [], ended := []
      redraw := s.det.filterMap fun d => match d.key with | .chunk a c => if a = g.id then some c else none | _ => none }

/-- RERUN of a node (R369). -/
def Node.rerun (n : Node) : Bool := bits (bnat n.bytes 1 1) 0 1 == 1

/-- A team's unit meets a failure: a deterministic one is run again from its snapshot, else its node is run again where RERUN
allows it, else it ends with ABORT (R375). DEDUCED (log 42). -/
def State.failTeam (s : State) (k : Nat) : State :=
  let t := s.team k
  if !t.live then s
  else match s.grids.find? fun g => g.id == t.grid with
    | none => s.killTeam k
    | some g =>
      if t.det then
        let h := s.shuttle (coreOfTeam k)
        let chunks := ((t.threads.filterMap fun x => x.2.chunk) ++ if h.team = some k then h.chunk.toList else []).eraseDups
        let s := s.killTeam k
        let s := { s with det := s.det.map fun (d : DetUnit) => match d.key with
          | .team a i => if a = g.id && i = t.teamix then d.discard else d
          | .chunk a c => if a = g.id && chunks.contains c then d.discard else d
          | _ => d }
        s.modGrid g.id fun x =>
          { x with redo := x.redo ++ [(partOfCore (coreOfTeam k), t.teamix)], running := x.running - 1
                   started := x.started.erase t.teamix
                   redraw := x.redraw ++ chunks.filter fun c => !x.redraw.contains c }
      else
        let again := match g.node with
          | some n => s.nodes.any fun x => x.id == n && x.rerun
          | none => false
        if again then s.rerunGrid g else s.abortGrid g

/-- A tile node loses its engine: it goes back to the pool, or ends with ABORT (R375). DEDUCED (log 42). -/
def State.failTile (s : State) (n : Node) : State :=
  let det := match s.packet n.pkt with | some p => p.det | none => false
  let dead := s.records.filter fun r => r.node == some n.id
  let s := dead.foldl (fun s r => if r.started then
      s.modCluster r.cluster fun x => x.modEngine r.engine fun e => { e with busy := none, scale := [] } else s) s
  let s := { s with records := s.records.filter fun r => r.node != some n.id }
  if det || n.rerun then
    let s := s.modCluster n.unitAt fun c =>
      { c with nodeHandles := c.nodeHandles.erase n.handle
               nodeSlots := match n.rslot with | some r => c.nodeSlots.erase r | none => c.nodeSlots }
    let s := s.modUnit (.node n.pkt n.n) DetUnit.discard
    { s.modNode n.id fun x => { x with stat := .pooled s.poolSeq, nextRec := 0, rslot := none } with poolSeq := s.poolSeq + 1 }
  else s.abortNode n.id

/-- Everything that was running on a core, and on its Quilt engine, meets a failure (R375). DEDUCED (log 42). -/
def State.failUnits (s : State) (c : Nat) : State :=
  let cl := clusterOfCore c
  let onEngine (hs : List Nat) : Bool := hs.any fun h => h / 2 == c % 4
  let ks := (s.teams.filter fun e => e.2.live &&
    (coreOfTeam e.1 == c || (clusterOfCore (coreOfTeam e.1) == cl && onEngine e.2.handles))).map (·.1)
  let s := ks.foldl State.failTeam s
  let ns := s.nodes.filter fun n => n.kind == 2 && n.stat == .running && !n.fin && n.unitAt == cl && onEngine [n.handle]
  ns.foldl State.failTile s

/-- The monitor retires a core: its work is run again or ended, and the quarter's spare, where it is free, takes its number at
the partition's next context bind (R29). What its L1 and its trap queue held is lost, which R29 leaves open. DEDUCED (log 42).
DESIGN CHOICE (log 73). -/
def evCoreRetirement (c : Nat) (s : State) : Option State :=
  if c ≥ Config.cores || !(s.core c).enabled then none
  else
    let s := s.failUnits c
    let d := dieOfCore c
    let quarter := c % 64 / 16
    let spare := !(s.die d).spares.contains quarter
    let s := if spare then s.modDie d fun x => { x with spares := x.spares ++ [quarter] } else s
    some ((s.modCore c fun k => { Core.fresh with enabled := false, spareNext := spare, cycles := k.cycles }).report (4000000 + c))

/-- A node goes back to the pool, to be dispatched again. -/
def State.repool (s : State) (n : Node) : State :=
  let s := s.modUnit (.node n.pkt n.n) DetUnit.discard
  { s.modNode n.id fun x => { x with stat := .pooled s.poolSeq } with poolSeq := s.poolSeq + 1 }

/-- A node that may be run again, a deterministic one or one with RERUN, is (R184, R375). DEDUCED (log 42). -/
def State.rerunNode (s : State) (n : Node) : Option State :=
  let det := match s.packet n.pkt with | some p => p.det | none => false
  if n.stat != .running || n.fin || !(det || n.rerun) then none
  else match n.kind with
    | 1 =>
      let gs := s.grids.filter fun g => g.node == some n.id
      let s := gs.foldl State.rerunGrid s
      some { s with det := s.det.map fun d => if s.unitOfNode n d then d.discard else d }
    | 2 => some (s.failTile n)
    | 3 => some (((s.bobbins.filter fun b => b.2.node == .node n.id).map (·.1)).foldl (fun s b =>
        s.modBobbin b fun e => { e with node := .nobody, stat := .idle, frozen := false, x := [], v := [] }) s |>.repool n)
    | _ =>
      let cs := s.copies.filter fun c => c.who == .node n.id
      let s := cs.foldl (fun s c => s.finishCopy c false) s
      some ((s.modNode n.id fun x => { x with fin := false }).repool n)

/-- An uncorrectable data error is never forwarded: the data is read again, the node or the deterministic unit that met it is run
again, or its source is retired (R184). -/
def evUncorrectableError (fate : ErrorFate) (s : State) : Option State :=
  match fate with
  | .reRead => some s
  | .reRun id => (s.nodes.find? fun n => n.id == id).bind s.rerunNode
  | .reRunTeam k => if (s.team k).live && (s.team k).det then some (s.failTeam k) else none
  | .retire c => evCoreRetirement c s

/-- A spare row or pseudo-channel is mapped in below the addresses that software sees (R28, R392). -/
def evHbmRowFailure (stack : Nat) (part : HbmPart) (s : State) : Option State :=
  if stack < 12 && !s.sparesUsed.contains (stack, part) then
    some ({ s with sparesUsed := s.sparesUsed ++ [(stack, part)] }.report (8000000 + stack))
  else none

/-- A partition is closed: what ran in it ends with ABORT. DEDUCED (log 41). -/
def State.closePart (s : State) (p : Nat) : State :=
  let gs := s.grids.filter fun g => (s.gridTeams g.id).any (inPartTeam p)
  let s := gs.foldl State.abortGrid s
  let ns := s.nodes.filter fun n => n.stat == .running && !n.fin && (match n.kind with
    | 2 => partOfCluster n.unitAt == p
    | 3 => s.bobbins.any fun b => partOfBobbin b.1 == p && b.2.node == .node n.id
    | 4 => s.copies.any fun c => c.who == .node n.id && partOfCluster c.cluster == p
    | _ => false)
  let s := ns.foldl (fun s n => s.abortNode n.id) s
  s.modPart p fun x => { x with opened := false }

/-- The monitor releases a frozen master (R390); a PCIe function and a fabric port are released by FLR and by retraining.
DEDUCED (log 41). -/
def evMonitorRelease (m : Master) (s : State) : Option State :=
  match m with
  | .band k b =>
    if (s.team k).frozen.contains b then
      let s := s.modTeam k fun t => { t with frozen := t.frozen.erase b }
      some (s.endThreads k ((s.team k).liveThreads.filter fun i => i / 64 == b))
    else none
  | .shuttle c =>
    if (s.shuttle c).frozen then
      let p := partOfCore c
      let t := (s.closePart p).openPart p
      -- one that the protections have halted stays halted for the host (R432)
      some (if s.hotHalt && (s.part p).halted then t.modPart p fun x => { x with halted := true } else t)
    else none
  | .engine cl e =>
    if ((s.cluster cl).engine e).frozen then
      let s := s.modCluster cl fun x => x.modEngine e fun y => { y with frozen := false }
      some (match s.records.find? fun r => r.frozen && r.cluster == cl && r.ah / 2 == e with
        | some r => s.terminateRec r none
        | none => s)
    else none
  | .channel cl ch =>
    (match (s.channelCopies cl ch).find? (·.frozen) with
     | some c => some (s.terminateCopy c none)
     | none => none)
  | .stream k q => if ((s.team k).queue q).stream.frozen then some (s.terminateStream k q) else none
  | .bobbin b => if (s.bobbin b).frozen then some (s.terminateBobbin b) else none
  | _ => none

/-! ### Meanings -/

/-- Read a special register (R408). -/
def execMfs (r : MfsOp) (s : State) : Out1 := .next (s.issue (.mfs r) (runMfs r))
/-- Write a special register (R408). -/
def execMts (r : MtsOp) (s : State) : Out1 := .next (s.issue (.mts r) (runMts r))
/-- Write FSTAT (R134). -/
def execMtsFstat (r : RA) (s : State) : Out1 := .next (s.issue (.mtsFstat r) (runMtsFstat r))
/-- Write FCTL (R135). -/
def execMtsFctl (r : RA) (s : State) : Out1 := .next (s.issue (.mtsFctl r) (runMtsFctl r))
/-- Write CARVE: in the supervisor a carve request (R173). -/
def execMtsCarve (r : RA) (s : State) : Out1 := .next (s.issue (.mtsCarve r) (runMtsCarve r))
/-- Resume the head record's source and leave the handler (R409). -/
def execEret (s : State) : Out1 := .next (s.issue .eret (runEretWith false))
/-- Terminate the head record's source and leave the handler (R409). -/
def execEretTerm (s : State) : Out1 := .next (s.issue .eretTerm (runEretWith true))
/-- Shoot down a page (R410). -/
def execTlbinvPage (r : RAB) (s : State) : Out1 := .next (s.issue (.tlbinvPage r) (runTlbinvPage r))
/-- Shoot down an address space (R410). -/
def execTlbinvAsid (r : TlbAsidOp) (s : State) : Out1 := .next (s.issue (.tlbinvAsid r) (runTlbinvAsid r.b))
/-- Shoot down everything (R410). -/
def execTlbinvAll (r : TlbAllOp) (s : State) : Out1 := .next (s.issue (.tlbinvAll r) runTlbinvAll)
/-- Map an alias (R411). -/
def execPgshare (r : R3) (s : State) : Out1 := .next (s.issue (.pgshare r) (runPgshare r))
/-- Release a mapping (R412). -/
def execPgrel (r : R3) (s : State) : Out1 := .next (s.issue (.pgrel r) (runPgrel r))
/-- Save the live context to a half (R413). -/
def execCtxsave (r : CtxOp) (s : State) : Out1 := .next (s.issue (.ctxsave r) (runCtxsave r))
/-- Make a half's image live (R413). -/
def execCtxload (r : CtxOp) (s : State) : Out1 := .next (s.issue (.ctxload r) (runCtxload r))
/-- Move a half's image to memory (R413). -/
def execCtxsaveMem (r : CtxMemOp) (s : State) : Out1 := .next (s.issue (.ctxsaveMem r) (runCtxMem State.ctxSaveMem r))
/-- Move an image from memory to a half (R413). -/
def execCtxloadMem (r : CtxMemOp) (s : State) : Out1 := .next (s.issue (.ctxloadMem r) (runCtxMem State.ctxLoadMem r))
/-- Halt the partition (R414). -/
def execHaltStop (s : State) : Out1 := .next (s.issue .haltStop runHaltStop)
/-- Restart the partition (R414). -/
def execHaltRun (s : State) : Out1 := .next (s.issue .haltRun runHaltRun)
/-- Results arrive at their registers (R50). -/
def execDestinationFill (k : Nat) (s : State) : Out1 := .next ((evDestinationFill k s).getD s)
/-- An uncorrectable data error (R184). -/
def execUncorrectableError (fate : ErrorFate) (s : State) : Out1 := .next ((evUncorrectableError fate s).getD s)
/-- The monitor halts a partition (R404). -/
def execHaltRequest (p : Nat) (s : State) : Out1 := .next ((evHaltRequest p s).getD s)
/-- The Shuttle enters the handler (R388). -/
def execTrapHandlerEntry (c : Nat) (s : State) : Out1 := .next ((evTrapHandlerEntry c s).getD s)
/-- A walker installs a translation (R395). -/
def execPageWalk (t : TlbId) (asid va : Nat) (write : Bool) (s : State) : Out1 :=
  .next ((evPageWalk t asid va write s).getD s)
/-- The monitor retires a core (R29). -/
def execCoreRetirement (c : Nat) (s : State) : Out1 := .next ((evCoreRetirement c s).getD s)
/-- The monitor releases a frozen master (R390). -/
def execMonitorRelease (m : Master) (s : State) : Out1 := .next ((evMonitorRelease m s).getD s)
/-- An HBM row or pseudo-channel fails (R28). -/
def execHbmRowFailure (stack : Nat) (part : HbmPart) (s : State) : Out1 := .next ((evHbmRowFailure stack part s).getD s)

end Sys2Proof.Machine
end

