-- ==== Sys2Proof/Machine/Outside.lean ====
section
/-! DEFINITION. The edges of the module (spec/21_outside.md R416 to R432): PCI Express functions, fabric ports, the load-store
domain, reducing windows, the state clone, bring-up, attestation and the protections. -/

namespace Sys2Proof.Machine
open Sys2Proof

/-! ### Fabric ports (R420 to R422) -/

/-- Flits held in ascending order are delivered while they are the ones the port waits for and their CRC is good (R420).
DEDUCED (log 50). -/
def replayFlits : Nat → List (Nat × Bool) → Nat × List (Nat × Bool)
  | e, [] => (e, [])
  | e, q :: r => if q.1 = e && q.2 then replayFlits (e + 1) r else if q.1 < e then replayFlits e r else (e, q :: r)

/-- A flit joins those that are held, one entry each. -/
def holdFlit (seq : Nat) (good : Bool) (l : List (Nat × Bool)) : List (Nat × Bool) :=
  l.filter (fun q => decide (q.1 < seq)) ++ [(seq, good || l.contains (seq, true))] ++ l.filter fun q => decide (seq < q.1)

/-- The width that a number of good lanes leaves, 0 where the port goes DOWN (R421). DEDUCED (log 50). -/
def portWidth (good : Nat) : Nat := if 8 ≤ good then 8 else if 4 ≤ good then 4 else if 2 ≤ good then 2 else 0

/-- A report of a port: its width, 0 for DOWN, 100 where it is frozen. DESIGN CHOICE (log 56). -/
def State.reportPort (s : State) (p v : Nat) : State := s.report (9000000 + 256 * p + v)

/-- A flit arrives: delivered where it is the next one and its CRC is good; retried otherwise, and after 8 retries in a row the
port retrains, the flit held (R420). A flit that arrives while the port is not ACTIVE is held, its CRC still to be checked when
it is replayed. DEDUCED (log 50). -/
def evFlitReceive (port seq : Nat) (crcOk : Bool) (s : State) : Option State :=
  let x := s.port port
  if port ≥ 18 || seq < x.expect then none
  else if x.st != .active then some (s.modPort port fun x => { x with held := holdFlit seq false x.held })
  else if crcOk && seq = x.expect then
    let r := replayFlits (seq + 1) x.held
    some (s.modPort port fun x => { x with expect := r.1, held := r.2, retries := 0 })
  else if crcOk then some (s.modPort port fun x => { x with held := holdFlit seq true x.held })
  else if seq = x.expect && x.retries + 1 = 8 then
    some (s.modPort port fun x => { x with st := .equalise, retries := 0, held := holdFlit seq false x.held })
  else some (s.modPort port fun x => { x with retries := if seq = x.expect then x.retries + 1 else x.retries })

/-- The digest of both nonces and both chains, which both sides sign (R422). -/
def State.authDigest (s : State) (a : PeerAuth) : List Byte :=
  Config.shake256 (Config.freeNonce s.fresh ++ a.nonce ++ Config.ownChain ++ a.chain)

/-- One side passes at the other: its chain leads to a Carkin root, its signature over the digest is good, and the other's domain
list holds its identity (R422). -/
def sidePasses (chain digest sig : List Byte) (listed : Bool) : Bool :=
  Config.validChain chain && Config.validSig chain digest sig && listed

/-- What this module sends for its authentication: its chain, its nonce and its signature (R422). -/
def State.authSent (s : State) (a : PeerAuth) : List (List Byte) :=
  [Config.ownChain, Config.freeNonce s.fresh, Config.sign (s.authDigest a)]

/-- Both sides pass (R422): the partner here, and this module, by what it has sent, at the partner. DEDUCED (log 50). -/
def State.authOk (s : State) (a : PeerAuth) : Bool :=
  a.nonce.length == 32 && sidePasses a.chain (s.authDigest a) a.sig (s.domain.contains (Config.identity a.chain)) &&
    sidePasses Config.ownChain (s.authDigest a) (Config.sign (s.authDigest a)) a.passed

/-- A port trains: width, authentication, and the held flits replayed, each with its CRC; a
change of width and a port that goes DOWN are reported, and a frozen port is released (R390, R420, R421). DEDUCED (log 50). -/
def State.train (s : State) (port good : Nat) (auth : PeerAuth) : State :=
  let x := s.port port
  let w := portWidth good
  let bad := 9 - min good 9
  if w = 0 then (s.modPort port fun x => { x with st := .down, bad := bad, spare := false }).reportPort port 0
  else
    let s := if w = x.lanes then s else s.reportPort port w
    let ok := s.authOk auth
    let sent := s.authSent auth
    let s := s.modPort port fun x => { x with lanes := w, bad := bad, spare := decide (9 ≤ good), sent := sent }
    if !ok then (s.modPort port fun x => { x with st := .down }).reportPort port 0
    else
      let r := replayFlits x.expect ((indexed x.held).map fun q => (q.2.1, q.2.2 || auth.crcs.getD q.1 true))
      s.bump.modPort port fun x => { x with st := .active, retries := 0, frozen := false, expect := r.1, held := r.2 }

/-- A port retrains, once bring-up has reached it (R421, R429, R430). DEDUCED (log 50). -/
def evPortRetrain (port good : Nat) (auth : PeerAuth) (s : State) : Option State :=
  if port ≥ 18 || s.boot != .running then none else some (s.train port good auth)

/-! ### The load-store domain (R423, R424) -/

/-- Bytes as a fabric peer reads them: from the LLC or HBM. DESIGN CHOICE (log 48). -/
def State.fabricRead (s : State) (pa n : Nat) : List Byte :=
  (pieces (n + 1) pa n).flatMap fun p => bslice (s.llcSec p.1) p.2.1 p.2.2

/-- Traffic arrives on a port: one that is not ACTIVE freezes (R423). -/
def State.freezePort (s : State) (port : Nat) : State :=
  (s.modPort port fun x => { x with frozen := true }).reportPort port 100

/-- The new value of an atomic of a peer (R190, R191). -/
def peerAtomic (op ty x cmp old : Nat) : Nat :=
  match op with
  | 0 => atomAdd ty old x
  | 1 => atomMinMax false ty old x
  | 2 => atomMinMax true ty old x
  | 3 => old &&& x
  | 4 => old ||| x
  | 5 => old ^^^ x
  | 6 => x
  | _ => if old = cmp then x else old

/-- A peer's access has a form that its operation gives it: a write its bytes, an atomic an aligned element of its type. -/
def peerFits (o : PeerOp) (off size : Nat) : Bool :=
  match o with
  | .read => decide (0 < size)
  | .write bs => decide (0 < size) && bs.length == size
  | .atomic op ty x cmp => decide (op < 8) && decide (ty < 5) && size == atomWidth ty && off % size == 0 &&
      decide (x < 2 ^ (8 * size)) && decide (cmp < 2 ^ (8 * size))

/-- A peer's access to an offset of the exported window, an atomic at the home slice (R191, R207); outside it, or on a port not
ACTIVE, the port freezes. DESIGN CHOICE (log 48). -/
def evFabricAccess (port off size : Nat) (o : PeerOp) (s : State) : Option State :=
  let x := s.port port
  let pa := s.exBase + off
  let answer (d : List Byte) (s : State) : State := s.modPort port fun x => { x with answers := x.answers ++ [d] }
  if port ≥ 18 || x.frozen || !peerFits o off size then none
  else if s.exSize < off + size || x.st != .active then some (s.freezePort port)
  else match o with
    | .write bs => some (s.homeWriteHbm pa bs)
    | .read => some (answer (s.fabricRead pa size) s)
    | .atomic op ty x cmp =>
      let old := s.homeNat pa size
      some (answer (leBytes size old) (s.homeWriteHbm pa (leBytes size (peerAtomic op ty x cmp old))))

/-! ### Reducing windows (R425 to R427) -/

/-- A descriptor the monitor takes: aligned, in its ranges, with one node number per rank, its buffers in local HBM, and apart
from every other window. DEDUCED (log 52). -/
def State.windowOk (s : State) (w : WindowDesc) : Bool :=
  w.wbase % 65536 == 0 && w.wlen % 65536 == 0 && decide (0 < w.wlen) && decide (w.fmt ≤ 1) && decide (1 ≤ w.nrank) &&
    decide (w.nrank ≤ 256) && decide (w.myrank < w.nrank) && w.members.length == w.nrank && w.dest % 4 == 0 &&
    w.done % 8 == 0 && decide (targetOf w.dest = .hbm) && s.exists_ w.dest && s.exists_ (w.dest + w.wlen - 1) &&
    decide (targetOf w.done = .hbm) && s.exists_ w.done &&
    s.windows.all fun x => decide (x.desc.wbase + x.desc.wlen ≤ w.wbase) || decide (w.wbase + w.wlen ≤ x.desc.wbase)

/-- A descriptor's 48 bytes (R425), with the node numbers at MEMBERS; none where a reserved byte is not 0. DEDUCED (log 52). -/
def State.readWindow (s : State) (b : List Byte) : Option WindowDesc :=
  let n := bnat b 0x12 2
  if b.length ≠ 48 || bnat b 0x11 1 ≠ 0 || bnat b 0x16 2 ≠ 0 || 256 < n then none
  else some
    { wbase := bnat b 0 8, wlen := bnat b 8 8, fmt := bnat b 0x10 1, nrank := n, myrank := bnat b 0x14 2, dest := bnat b 0x18 8
      done := bnat b 0x20 8, members := (List.range n).map fun i => s.homeNat (bnat b 0x28 8 + 2 * i) 2 }

/-- The runtime creates a window through the monitor (R425). DEDUCED (log 52). -/
def evWindowCreate (desc : List Byte) (s : State) : Option State :=
  match s.readWindow desc with
  | some w => if s.windowOk w then some { s with windows := s.windows ++ [⟨w, [], [], 0⟩] } else none
  | none => none

/-- A rank's contribution to an aligned word of a window arrives on a port and reaches the tree (R423, R426). -/
def evWindowContribution (win : Nat) (peer : Peer) (off : Nat) (v : Word) (s : State) : Option State :=
  if peer.port ≥ 18 || (s.port peer.port).frozen then none
  else if (s.port peer.port).st != .active then some (s.freezePort peer.port)
  else match s.windows[win]? with
    | none => none
    | some w =>
      if off % 4 = 0 && w.covers off && peer.rank < w.desc.nrank then some (s.contribute win peer.rank off v) else none

/-! ### The state clone (R428) -/

/-- The spare takes the failed module's node number, and its rank in every window. -/
def State.takeNode (s : State) (n : Nat) : State :=
  { s with
    nodeNum := n
    windows := s.windows.map fun w =>
      if w.desc.members.contains n then { w with desc := { w.desc with myrank := w.desc.members.idxOf n } } else w }

/-- The physical address of an offset of a node (R391). -/
def fabricPa (node off : Nat) : Nat := 2 ^ 51 + node % 256 * 2 ^ 43 + off % 2 ^ 43

/-- One item of the clone list, over an ACTIVE port to the source: sectors read at the source and written whole at the home slice, ascending; after the source's last
sector 1 is added to its clone word. DEDUCED (log 52). -/
def evStateClone (take : Option Nat) (node src dst len : Nat) (clone : Option Nat) (s : State) : Option State :=
  if s.boot != .running || !s.online node || src % 32 ≠ 0 || dst % 32 ≠ 0 || len % 32 ≠ 0 || 2 ^ 43 < src + len || 256 ≤ node ||
      targetOf dst != .hbm || !(len == 0 || (s.exists_ dst && s.exists_ (dst + len - 1))) then none
  else
    let s := match take with | some n => s.takeNode (n % 256) | none => s
    let s := (List.range (len / 32)).foldl (fun s i =>
      s.homeWriteHbm (dst + 32 * i) (s.homeRead (fabricPa node (src + 32 * i)) 32)) s
    some (match clone with
      | some o => s.homePut (fabricPa node o) 8 ((s.homeNat (fabricPa node o) 8 + 1) % 2 ^ 64)
      | none => s)

/-! ### PCI Express functions (R416 to R418) -/

/-- The spaces that run on a function's partitions: those of the queues whose FUNC names it. DESIGN CHOICE (log 48). -/
def State.funcSpaces (s : State) (f : Nat) : List Nat :=
  let ps := s.queues.flatMap fun q => if q.2.en && q.2.func == f then partsOf q.2.pmask.toNat else []
  (dedup ps).map fun p => (s.part p).asid

/-- A host request through BAR2: refused where the function's stream does not carry it; else to device memory, or it freezes the
function (R417, R418). DESIGN CHOICE (log 48). -/
def evApertureRequest (req : HostReq) (off size : Nat) (data : Option (List Byte)) (s : State) : Option State :=
  let f := req.func
  let x := s.func f
  if !s.answers f || x.bar2 < off + size || size = 0 || (data.any fun bs => bs.length ≠ size) then none
  else if !s.accepts f req.stream then some (s.unsupported f)
  else
    let pa := x.bar2Base + off
    let ok := (s.funcSpaces f).any fun a => s.rangePermitted a pa size
    if targetOf pa != .hbm || !ok then some ((s.modFunc f fun x => { x with frozen := true }).report (10000000 + f))
    else match data with
      | some bs => some (s.homeWriteHbm pa bs)
      | none =>
        let d := s.homeRead pa size
        some (s.modFunc f fun x => { x with answers := x.answers ++ [some d] })

/-- The host sets up a stream through the mailbox of function 0: the selective stream of a function, or with number 32 the Link IDE
stream (R416, R418). DESIGN CHOICE (log 48). -/
def evIdeKm (f : Nat) (s : State) : Option State :=
  if s.boot != .running then none
  else if f < 32 then some (s.modFunc f fun x => { x with ide := true })
  else if f = 32 then some { s with linkIde := true }
  else none

/-- A stream that fails its check is torn down (R418). -/
def evIdeIntegrityFailure (f : Nat) (s : State) : Option State :=
  if f = 32 then (if s.linkIde then some { s with linkIde := false } else none)
  else if (s.func f).ide then some (s.modFunc f fun x => { x with ide := false }) else none

/-- Function-level reset: a frozen function is released, and what it has not delivered is gone (R390, R416).
DEDUCED (log 49). -/
def evFlr (f : Nat) (s : State) : Option State :=
  if f < 32 then some (s.modFunc f fun x => { x with frozen := false, vectors := [], answers := [] }) else none

/-! ### Attestation (R431) -/

/-- The supervisor images that slot 3 of the cores of open partitions holds, each once. -/
def State.supImages (s : State) : List (List Byte) :=
  s.cores.foldl (fun l e =>
    match nfind e.2.slots 3 with
    | some r =>
      let b := mread e.2.imem 196608 r.len
      if (s.part (partOfCore e.1)).opened && !l.contains b then l ++ [b] else l
    | none => l) []

/-- The body of a report: the digests of the monitor and of each loaded supervisor image, the fused key hash, the IDE policy,
EXSIZE, the partition map and the nonce. DESIGN CHOICE (log 53). -/
def State.reportBody (s : State) (nonce : List Byte) : List Byte :=
  let map := (List.range 8).foldl (fun m p => if (s.part p).opened then m + 2 ^ p else m) 0
  Config.shake256 s.monitorImg ++ s.supImages.flatMap Config.shake256 ++ Config.fusedHash ++
    [if s.idePolicy then 1 else 0] ++ leBytes 8 s.exSize ++ leBytes 1 map ++ nonce

/-- A host nonce over the mailbox returns the signed report (R431). A device in recovery answers the mailbox by its recovery
protocol, whose messages the manual does not give: a free value (R429). DESIGN CHOICE (log 51). DESIGN CHOICE (log 53). -/
def evAttestationRequest (nonce : List Byte) (s : State) : Option State :=
  if s.boot == .running && nonce.length = 32 then
    let b := s.reportBody nonce
    some { s with doeOut := b ++ Config.sign b }
  else if s.boot == .recovery then
    some { s with doeOut := (List.range (Config.freeLen s.fresh)).map fun i => Config.freeByte s.fresh i, fresh := s.fresh + 1 }
  else none

/-! ### Power-on and bring-up (R429, R430) -/

/-- What power-on finds: nothing runs. A retired core stays retired, and spares stay mapped in. DESIGN CHOICE (log 51). -/
def State.powered (s : State) : State :=
  { State.reset with
    reports := s.reports, monitorImg := s.monitorImg, monitorSig := s.monitorSig, plan := s.plan, sparesUsed := s.sparesUsed
    supOvl := s.supOvl, supBytes := s.supBytes, hostMem := s.hostMem, peerMem := s.peerMem, fresh := s.fresh, sched := s.sched
    dies := s.dies.map fun (d : Nat × Die) => (d.1, { Die.fresh with spares := d.2.spares })
    cores := s.cores.map fun (c : Nat × Core) =>
      (c.1, { Core.fresh with enabled := c.2.enabled, spareNext := c.2.spareNext })
    funcs := s.funcs.map fun (f : Nat × Func) => (f.1, { Func.fresh with bar2 := f.2.bar2, bar2Base := f.2.bar2Base }) }

/-- The monitor image's signature verifies against the fused key hash (R429). -/
def State.monitorOk (s : State) : Bool := Config.validSig Config.fusedHash (Config.shake256 s.monitorImg) s.monitorSig

/-- Step k of bring-up. DESIGN CHOICE (log 51). -/
def State.bringUp (s : State) (k split : Nat) (ports : List (Nat × PeerAuth)) : State :=
  match k with
  | 1 => { s with boot := .rom }
  | 2 => { s with interleaved := split }
  | 3 => { s with llc := [], dies := s.dies.map fun (d : Nat × Die) => (d.1, { d.2 with chip := [] }) }
  | 4 => { s with idePolicy := s.plan.ide }
  | 5 =>
    let s := { s with
      exBase := s.plan.exBase, exSize := s.plan.exSize, nodeNum := s.plan.node, routes := s.plan.routes, domain := s.plan.domain }
    (indexed (ports.take 18)).foldl (fun s x => s.train x.1 x.2.1 x.2.2) s
  | 6 => (List.range 8).foldl State.openPart s
  | _ => s

/-- The steps in their order, stopping at one that fails; the monitor then reports it. Where the monitor itself fails, the device
shows only function 0 with the recovery protocol. DESIGN CHOICE (log 51). -/
def State.bringUpTo (s : State) (failed split : Nat) (ports : List (Nat × PeerAuth)) : Nat → Nat → State
  | _, 0 => { s with boot := .running }
  | k, n + 1 =>
    if k = failed then { s with boot := if k = 1 then .recovery else .failed k }.report (11000000 + k)
    else State.bringUpTo (s.bringUp k split ports) failed split ports (k + 1) n

/-- The step at which bring-up fails, 0 for none: the first where the monitor does not verify, the second for a split above 48.
DESIGN CHOICE (log 51). -/
def State.failsAt (s : State) (failed split : Nat) : Nat :=
  if !s.monitorOk then 1 else if 48 < split && (failed = 0 || 2 < failed) then 2 else failed

/-- Power-on: the boot ROM verifies and starts the monitor, and bring-up runs (R429, R430). DESIGN CHOICE (log 51). -/
def evPowerOn (failed split : Nat) (ports : List (Nat × PeerAuth)) (s : State) : Option State :=
  if s.boot == .running then none
  else some (s.powered.bringUpTo (s.failsAt failed split) split ports 1 6)

/-! ### Protections (R432) -/

/-- The monitor halts every partition, its Shuttles too, and reports. DEDUCED (log 54). -/
def State.haltAll (s : State) (n : Nat) : State :=
  let s := (List.range 8).foldl (fun s p =>
    if (s.part p).opened then (s.halt p none).modPart p fun x => { x with runner := none } else s) s
  { s with hotHalt := true }.report n

/-- DEDUCED (log 54). -/
def evDieHot (s : State) : Option State := some (s.haltAll 12000000)
/-- DEDUCED (log 54). -/
def evSupplyFault (s : State) : Option State := some (s.haltAll 13000000)

/-- The module cuts its own power (R432). -/
def evOverheat (s : State) : Option State := some { s with power := false, boot := .off }

/-- The host restarts a partition that the monitor halted. DEDUCED (log 54). -/
def evPartitionRestart (p : Nat) (s : State) : Option State :=
  if (s.part p).opened && (s.part p).halted && (s.part p).runner.isNone then
    let s := s.runPart p
    some { s with hotHalt := s.hotHalt && (List.range 8).any fun q => (s.part q).halted }
  else none

/-! ### Tables that the runtime, the monitor and the host write -/

/-- A queue descriptor (R356). -/
def queueDesc (b : List Byte) : Queue :=
  { ring := bnat b 0 8, log2n := bnat b 8 1, weight := bnat b 9 1, asid := bits (bnat b 0xA 2) 0 12
    en := bits (bnat b 0xA 2) 15 1 == 1, pmask := BitVec.ofNat 8 (bnat b 0xC 1), func := bnat b 0xD 1
    devq := bnat b 0xE 1 == 1, rdidx := BitVec.ofNat 64 (bnat b 0x10 8), wridx := BitVec.ofNat 64 (bnat b 0x18 8)
    erridx := BitVec.ofNat 64 (bnat b 0x20 8), errcode := bnat b 0x28 2, started := BitVec.ofNat 64 (bnat b 0x10 8)
    done := [], bypass := 0, level := 0 }

/-- An overlay's bytes keep the limits of R62, as a supervisor overlay's do too (R439). -/
def overlayFits (b : List Byte) : Bool := b.length % 12 == 0 && decide (b.length ≤ 65532)

/-- A write of a table that no instruction writes; any other act changes nothing. DEDUCED (log 7). DESIGN CHOICE (log 11). -/
def State.table (s : State) (a : Act) : State :=
  match a with
  | .setSpace asid valid root permitted =>
    let s := s.homeWriteHbm (s.spaceAt (asid % 4096))
      (leBytes 8 ((if valid then 1 else 0) + root % 2 ^ 36 * 65536) ++ leBytes 8 (asid % 4096))
    s.modSpace (asid % 4096) fun x =>
      { (if x.valid then x else Space.none) with valid := valid, root := BitVec.ofNat 36 root, permitted := permitted }
  | .setQueue q b => { s with queues := nput s.queues (q % 4096) (queueDesc b) }
  | .clearErr q => s.modQueue q fun x => { x with errcode := 0 }
  | .setImage h asid b ovl pref =>
    let m : Image := ⟨asid, b, ovl, pref, false⟩
    if m.ok then { s with images := nput s.images (imageKey asid h) m } else s
  | .setAsid p asid => s.modPart p fun x => { x with asid := asid }
  | .setChip p base size =>
    if base + size ≤ 16777216 - 131072 then
      (s.modPart p fun x => { x with chipBase := base, chipSize := size }).modDie (dieOfPart p) fun d =>
        { d with chip := moutside d.chip (halfBase p + base) (halfBase p + base + size) }
    else s
  | .setSup image ovl src b => if overlayFits b then { s with supOvl := some ⟨image, ovl, src, b.length⟩, supBytes := b } else s
  | .setModule img sig plan =>
    if plan.exSize ≤ 2 ^ 43 && plan.node < 256 then { s with monitorImg := img, monitorSig := sig, plan := plan } else s
  | .setRoute node port =>
    { s with routes := match port with | some p => nput s.routes node p | none => ndel s.routes node }
  | .raiseVector f vec =>
    if f < 32 && vec != 0xFFFF && vectorOk f vec then s.modFunc f fun x => { x with vectors := x.vectors ++ [vec] } else s
  | .setBar f size base => if size ≤ 2 ^ 36 then s.modFunc f fun x => { x with bar2 := size, bar2Base := base } else s
  | .loadSlot c slot image ovl src b => if overlayFits b then s.loadSlot c slot image ovl src b else s
  | .write pa b => s.homeWrite pa b
  | _ => s

/-! ### Meanings -/

/-- A flit is received (R420). -/
def execFlitReceive (port seq : Nat) (crcOk : Bool) (s : State) : Out1 := .next ((evFlitReceive port seq crcOk s).getD s)
/-- A port trains or retrains (R421, R422). -/
def execPortRetrain (port good : Nat) (auth : PeerAuth) (s : State) : Out1 :=
  .next ((evPortRetrain port good auth s).getD s)
/-- A peer reaches the exported window (R423, R424). -/
def execFabricAccess (port off size : Nat) (o : PeerOp) (s : State) : Out1 :=
  .next ((evFabricAccess port off size o s).getD s)
/-- A reducing window is created (R425). -/
def execWindowCreate (desc : List Byte) (s : State) : Out1 := .next ((evWindowCreate desc s).getD s)
/-- A rank contributes a word (R426, R427). -/
def execWindowContribution (win : Nat) (peer : Peer) (off : Nat) (v : Word) (s : State) : Out1 :=
  .next ((evWindowContribution win peer off v s).getD s)
/-- The spare pulls one item of the clone list (R428). -/
def execStateClone (take : Option Nat) (node src dst len : Nat) (clone : Option Nat) (s : State) : Out1 :=
  .next ((evStateClone take node src dst len clone s).getD s)
/-- A host request through BAR2 (R417). -/
def execApertureRequest (req : HostReq) (off size : Nat) (data : Option (List Byte)) (s : State) : Out1 :=
  .next ((evApertureRequest req off size data s).getD s)
/-- The host sets up a stream (R418). -/
def execIdeKm (f : Nat) (s : State) : Out1 := .next ((evIdeKm f s).getD s)
/-- A stream fails its integrity check (R418). -/
def execIdeIntegrityFailure (f : Nat) (s : State) : Out1 := .next ((evIdeIntegrityFailure f s).getD s)
/-- Function-level reset (R416). -/
def execFlr (f : Nat) (s : State) : Out1 := .next ((evFlr f s).getD s)
/-- The host asks for an attestation report (R431). -/
def execAttestationRequest (nonce : List Byte) (s : State) : Out1 := .next ((evAttestationRequest nonce s).getD s)
/-- Power-on and bring-up (R429, R430). -/
def execPowerOn (failed split : Nat) (ports : List (Nat × PeerAuth)) (s : State) : Out1 :=
  .next ((evPowerOn failed split ports s).getD s)
/-- A die junction reaches 105 °C (R432). -/
def execDieHot (s : State) : Out1 := .next ((evDieHot s).getD s)
/-- 115 °C: the module cuts its own power (R432). -/
def execOverheat (s : State) : Out1 := .next ((evOverheat s).getD s)
/-- The supply falls below 44 V (R432). -/
def execSupplyFault (s : State) : Out1 := .next ((evSupplyFault s).getD s)
/-- The host restarts a halted partition (R432). -/
def execPartitionRestart (p : Nat) (s : State) : Out1 := .next ((evPartitionRestart p s).getD s)

end Sys2Proof.Machine
end

