-- ==== Sys2Proof/Machine/Dispatch.lean ====
section
/-! DEFINITION. One arm per instruction: the meaning of each. -/

namespace Sys2Proof.Machine
open Sys2Proof

def exec (i : Instr) (s : State) : Host.Outcome State Fault Refusal :=
  match i with
  | .br r => Sys2Proof.Machine.execBr r s
  | .call r => Sys2Proof.Machine.execCall r s
  | .brf r => Sys2Proof.Machine.execBrf r s
  | .callf r => Sys2Proof.Machine.execCallf r s
  | .jt r => Sys2Proof.Machine.execJt r s
  | .jtc r => Sys2Proof.Machine.execJtc r s
  | .ret r => Sys2Proof.Machine.execRet r s
  | .nop => Sys2Proof.Machine.execNop s
  | .pad label => Sys2Proof.Machine.execPad label s
  | .join j => Sys2Proof.Machine.execJoin j s
  | .jmaskZ j => Sys2Proof.Machine.execJmaskZ j s
  | .jmaskG j => Sys2Proof.Machine.execJmaskG j s
  | .jmaskR r => Sys2Proof.Machine.execJmaskR r s
  | .jmaskGet r => Sys2Proof.Machine.execJmaskGet r s
  | .exit => Sys2Proof.Machine.execExit s
  | .yield => Sys2Proof.Machine.execYield s
  | .dqpop r => Sys2Proof.Machine.execDqpop r s
  | .trap code => Sys2Proof.Machine.execTrap code s
  | .bkpt tag => Sys2Proof.Machine.execBkpt tag s
  | .add r => Sys2Proof.Machine.execAdd r s
  | .sub r => Sys2Proof.Machine.execSub r s
  | .and r => Sys2Proof.Machine.execAnd r s
  | .or r => Sys2Proof.Machine.execOr r s
  | .xor r => Sys2Proof.Machine.execXor r s
  | .shl r => Sys2Proof.Machine.execShl r s
  | .shr r => Sys2Proof.Machine.execShr r s
  | .sar r => Sys2Proof.Machine.execSar r s
  | .mul r => Sys2Proof.Machine.execMul r s
  | .mulhI32 r => Sys2Proof.Machine.execMulhI32 r s
  | .mulhN32 r => Sys2Proof.Machine.execMulhN32 r s
  | .mac r => Sys2Proof.Machine.execMac r s
  | .divI32 r => Sys2Proof.Machine.execDivI32 r s
  | .divN32 r => Sys2Proof.Machine.execDivN32 r s
  | .remI32 r => Sys2Proof.Machine.execRemI32 r s
  | .remN32 r => Sys2Proof.Machine.execRemN32 r s
  | .addB64 r => Sys2Proof.Machine.execAddB64 r s
  | .subB64 r => Sys2Proof.Machine.execSubB64 r s
  | .mulwI32 r => Sys2Proof.Machine.execMulwI32 r s
  | .mulwN32 r => Sys2Proof.Machine.execMulwN32 r s
  | .cmp r => Sys2Proof.Machine.execCmp r s
  | .bfx r => Sys2Proof.Machine.execBfx r s
  | .bfi r => Sys2Proof.Machine.execBfi r s
  | .lea r => Sys2Proof.Machine.execLea r s
  | .addi r => Sys2Proof.Machine.execAddi r s
  | .shi r => Sys2Proof.Machine.execShi r s
  | .movi r => Sys2Proof.Machine.execMovi r s
  | .cmpi r => Sys2Proof.Machine.execCmpi r s
  | .bind wcode => Sys2Proof.Machine.execBind wcode s
  | .unbind => Sys2Proof.Machine.execUnbind s
  | .ladd r => Sys2Proof.Machine.execLadd r s
  | .ladc r => Sys2Proof.Machine.execLadc r s
  | .lsub r => Sys2Proof.Machine.execLsub r s
  | .lsbc r => Sys2Proof.Machine.execLsbc r s
  | .lneg r => Sys2Proof.Machine.execLneg r s
  | .lcmp r => Sys2Proof.Machine.execLcmp r s
  | .lmulw r => Sys2Proof.Machine.execLmulw r s
  | .lshl r => Sys2Proof.Machine.execLshl r s
  | .lshr r => Sys2Proof.Machine.execLshr r s
  | .lshrI r => Sys2Proof.Machine.execLshrI r s
  | .fadd r => Sys2Proof.Machine.execFadd r s
  | .fsub r => Sys2Proof.Machine.execFsub r s
  | .fmul r => Sys2Proof.Machine.execFmul r s
  | .fma r => Sys2Proof.Machine.execFma r s
  | .fmin r => Sys2Proof.Machine.execFmin r s
  | .fmax r => Sys2Proof.Machine.execFmax r s
  | .fminp r => Sys2Proof.Machine.execFminp r s
  | .fmaxp r => Sys2Proof.Machine.execFmaxp r s
  | .fdiv r => Sys2Proof.Machine.execFdiv r s
  | .fsqrt r => Sys2Proof.Machine.execFsqrt r s
  | .frcp r => Sys2Proof.Machine.execFrcp r s
  | .frsq r => Sys2Proof.Machine.execFrsq r s
  | .fexp2 r => Sys2Proof.Machine.execFexp2 r s
  | .flog2 r => Sys2Proof.Machine.execFlog2 r s
  | .fclass r => Sys2Proof.Machine.execFclass r s
  | .fcmp r => Sys2Proof.Machine.execFcmp r s
  | .fsgn r => Sys2Proof.Machine.execFsgn r s
  | .faddBf16x2 r => Sys2Proof.Machine.execFaddBf16x2 r s
  | .fsubBf16x2 r => Sys2Proof.Machine.execFsubBf16x2 r s
  | .fmulBf16x2 r => Sys2Proof.Machine.execFmulBf16x2 r s
  | .fmaBf16x2 r => Sys2Proof.Machine.execFmaBf16x2 r s
  | .fminBf16x2 r => Sys2Proof.Machine.execFminBf16x2 r s
  | .fmaxBf16x2 r => Sys2Proof.Machine.execFmaxBf16x2 r s
  | .fdotBf16x2 r => Sys2Proof.Machine.execFdotBf16x2 r s
  | .faddF16x2 r => Sys2Proof.Machine.execFaddF16x2 r s
  | .fsubF16x2 r => Sys2Proof.Machine.execFsubF16x2 r s
  | .fmulF16x2 r => Sys2Proof.Machine.execFmulF16x2 r s
  | .fmaF16x2 r => Sys2Proof.Machine.execFmaF16x2 r s
  | .fminF16x2 r => Sys2Proof.Machine.execFminF16x2 r s
  | .fmaxF16x2 r => Sys2Proof.Machine.execFmaxF16x2 r s
  | .fdotF16x2 r => Sys2Proof.Machine.execFdotF16x2 r s
  | .cvt r => Sys2Proof.Machine.execCvt r s
  | .cvtp r => Sys2Proof.Machine.execCvtp r s
  | .shfl r => Sys2Proof.Machine.execShfl r s
  | .bcast r => Sys2Proof.Machine.execBcast r s
  | .vote r => Sys2Proof.Machine.execVote r s
  | .match_ r => Sys2Proof.Machine.execMatch r s
  | .compact r => Sys2Proof.Machine.execCompact r s
  | .greduce r => Sys2Proof.Machine.execGreduce r s
  | .gscan r => Sys2Proof.Machine.execGscan r s
  | .regput r => Sys2Proof.Machine.execRegput r s
  | .regtake r => Sys2Proof.Machine.execRegtake r s
  | .regflush r => Sys2Proof.Machine.execRegflush r s
  | .rand r => Sys2Proof.Machine.execRand r s
  | .randf r => Sys2Proof.Machine.execRandf r s
  | .ld r => Sys2Proof.Machine.execLd r s
  | .st r => Sys2Proof.Machine.execSt r s
  | .atomAdd r => Sys2Proof.Machine.execAtomAdd r s
  | .atomMin r => Sys2Proof.Machine.execAtomMin r s
  | .atomMax r => Sys2Proof.Machine.execAtomMax r s
  | .atomAnd r => Sys2Proof.Machine.execAtomAnd r s
  | .atomOr r => Sys2Proof.Machine.execAtomOr r s
  | .atomXor r => Sys2Proof.Machine.execAtomXor r s
  | .atomExch r => Sys2Proof.Machine.execAtomExch r s
  | .atomCas r => Sys2Proof.Machine.execAtomCas r s
  | .ldt r => Sys2Proof.Machine.execLdt r s
  | .unpk r => Sys2Proof.Machine.execUnpk r s
  | .cmoClean r => Sys2Proof.Machine.execCmoClean r s
  | .cmoInv r => Sys2Proof.Machine.execCmoInv r s
  | .cmoCinv r => Sys2Proof.Machine.execCmoCinv r s
  | .l2pin r => Sys2Proof.Machine.execL2pin r s
  | .l2unpin r => Sys2Proof.Machine.execL2unpin r s
  | .fence scope => Sys2Proof.Machine.execFence scope s
  | .bar => Sys2Proof.Machine.execBar s
  | .barCarve r => Sys2Proof.Machine.execBarCarve r s
  | .barg r => Sys2Proof.Machine.execBarg r s
  | .acq r => Sys2Proof.Machine.execAcq r s
  | .tryacq r => Sys2Proof.Machine.execTryacq r s
  | .rel r => Sys2Proof.Machine.execRel r s
  | .region r => Sys2Proof.Machine.execRegion r s
  | .regionFree r => Sys2Proof.Machine.execRegionFree r s
  | .waitge r => Sys2Proof.Machine.execWaitge r s
  | .sadd r => Sys2Proof.Machine.execSadd r s
  | .ssub r => Sys2Proof.Machine.execSsub r s
  | .smul r => Sys2Proof.Machine.execSmul r s
  | .sand r => Sys2Proof.Machine.execSand r s
  | .sor r => Sys2Proof.Machine.execSor r s
  | .sxor r => Sys2Proof.Machine.execSxor r s
  | .sshl r => Sys2Proof.Machine.execSshl r s
  | .sshr r => Sys2Proof.Machine.execSshr r s
  | .ssar r => Sys2Proof.Machine.execSsar r s
  | .sdone => Sys2Proof.Machine.execSdone s
  | .saddi r => Sys2Proof.Machine.execSaddi r s
  | .sldi r => Sys2Proof.Machine.execSldi r s
  | .sset r => Sys2Proof.Machine.execSset r s
  | .sbr r => Sys2Proof.Machine.execSbr r s
  | .sbrf r => Sys2Proof.Machine.execSbrf r s
  | .dqpush a => Sys2Proof.Machine.execDqpush a s
  | .stream r => Sys2Proof.Machine.execStream r s
  | .sqstop r => Sys2Proof.Machine.execSqstop r s
  | .cpy r => Sys2Proof.Machine.execCpy r s
  | .cpy2d r => Sys2Proof.Machine.execCpy2d r s
  | .seal r => Sys2Proof.Machine.execSeal r s
  | .bwait r => Sys2Proof.Machine.execBwait r s
  | .wptr r => Sys2Proof.Machine.execWptr r s
  | .chunk r => Sys2Proof.Machine.execChunk r s
  | .ovl r => Sys2Proof.Machine.execOvl r s
  | .qmma r => Sys2Proof.Machine.execQmma r s
  | .qspmm r => Sys2Proof.Machine.execQspmm r s
  | .qacc r => Sys2Proof.Machine.execQacc r s
  | .qcvt r => Sys2Proof.Machine.execQcvt r s
  | .qwait r => Sys2Proof.Machine.execQwait r s
  | .qpoll r => Sys2Proof.Machine.execQpoll r s
  | .qrec r => Sys2Proof.Machine.execQrec r s
  | .qrecb r => Sys2Proof.Machine.execQrecb r s
  | .qtrace r => Sys2Proof.Machine.execQtrace r s
  | .qrule r => Sys2Proof.Machine.execQrule r s
  | .patld r => Sys2Proof.Machine.execPatld r s
  | .patbind r => Sys2Proof.Machine.execPatbind r s
  | .patnext r => Sys2Proof.Machine.execPatnext r s
  | .patmerge r => Sys2Proof.Machine.execPatmerge r s
  | .patsave r => Sys2Proof.Machine.execPatsave r s
  | .patrestore r => Sys2Proof.Machine.execPatrestore r s
  | .gspawn r => Sys2Proof.Machine.execGspawn r s
  | .gdone r => Sys2Proof.Machine.execGdone r s
  | .tidset r => Sys2Proof.Machine.execTidset r s
  | .tidget r => Sys2Proof.Machine.execTidget r s
  | .mfs r => Sys2Proof.Machine.execMfs r s
  | .mts r => Sys2Proof.Machine.execMts r s
  | .mtsFstat r => Sys2Proof.Machine.execMtsFstat r s
  | .mtsFctl r => Sys2Proof.Machine.execMtsFctl r s
  | .mtsCarve r => Sys2Proof.Machine.execMtsCarve r s
  | .eret => Sys2Proof.Machine.execEret s
  | .eretTerm => Sys2Proof.Machine.execEretTerm s
  | .tlbinvPage r => Sys2Proof.Machine.execTlbinvPage r s
  | .tlbinvAsid r => Sys2Proof.Machine.execTlbinvAsid r s
  | .tlbinvAll r => Sys2Proof.Machine.execTlbinvAll r s
  | .pgshare r => Sys2Proof.Machine.execPgshare r s
  | .pgrel r => Sys2Proof.Machine.execPgrel r s
  | .ctxsave r => Sys2Proof.Machine.execCtxsave r s
  | .ctxload r => Sys2Proof.Machine.execCtxload r s
  | .ctxsaveMem r => Sys2Proof.Machine.execCtxsaveMem r s
  | .ctxloadMem r => Sys2Proof.Machine.execCtxloadMem r s
  | .haltStop => Sys2Proof.Machine.execHaltStop s
  | .haltRun => Sys2Proof.Machine.execHaltRun s
  | .bAdd r => Sys2Proof.Machine.execBAdd r s
  | .bSub r => Sys2Proof.Machine.execBSub r s
  | .bMul r => Sys2Proof.Machine.execBMul r s
  | .bAnd r => Sys2Proof.Machine.execBAnd r s
  | .bOr r => Sys2Proof.Machine.execBOr r s
  | .bXor r => Sys2Proof.Machine.execBXor r s
  | .bShl r => Sys2Proof.Machine.execBShl r s
  | .bShr r => Sys2Proof.Machine.execBShr r s
  | .bSar r => Sys2Proof.Machine.execBSar r s
  | .slt r => Sys2Proof.Machine.execSlt r s
  | .sltu r => Sys2Proof.Machine.execSltu r s
  | .bAddi r => Sys2Proof.Machine.execBAddi r s
  | .ldi r => Sys2Proof.Machine.execLdi r s
  | .bCc r => Sys2Proof.Machine.execBCc r s
  | .bAl off => Sys2Proof.Machine.execBAl off s
  | .ldl r => Sys2Proof.Machine.execLdl r s
  | .stl r => Sys2Proof.Machine.execStl r s
  | .ldh r => Sys2Proof.Machine.execLdh r s
  | .sth r => Sys2Proof.Machine.execSth r s
  | .ldv r => Sys2Proof.Machine.execLdv r s
  | .stv r => Sys2Proof.Machine.execStv r s
  | .vadd r => Sys2Proof.Machine.execVadd r s
  | .vsub r => Sys2Proof.Machine.execVsub r s
  | .vmul r => Sys2Proof.Machine.execVmul r s
  | .vfma r => Sys2Proof.Machine.execVfma r s
  | .vbc r => Sys2Proof.Machine.execVbc r s
  | .chase r => Sys2Proof.Machine.execChase r s
  | .sample r => Sys2Proof.Machine.execSample r s
  | .adamw r => Sys2Proof.Machine.execAdamw r s
  | .faddc r => Sys2Proof.Machine.execFaddc r s
  | .signal r => Sys2Proof.Machine.execSignal r s
  | .waitn r => Sys2Proof.Machine.execWaitn r s
  | .bDone => Sys2Proof.Machine.execBDone s
  | .joinCompletion team band pc j => Sys2Proof.Machine.execJoinCompletion team band pc j s
  | .regtakeServe team cls => Sys2Proof.Machine.execRegtakeServe team cls s
  | .destinationFill k => Sys2Proof.Machine.execDestinationFill k s
  | .eviction lvl n sector => Sys2Proof.Machine.execEviction lvl n sector s
  | .uncorrectableError fate => Sys2Proof.Machine.execUncorrectableError fate s
  | .barrierPhaseCompletion team => Sys2Proof.Machine.execBarrierPhaseCompletion team s
  | .groupBarrierPhaseCompletion part group => Sys2Proof.Machine.execGroupBarrierPhaseCompletion part group s
  | .objectGrant obj => Sys2Proof.Machine.execObjectGrant obj s
  | .streamEntryPush team q => Sys2Proof.Machine.execStreamEntryPush team q s
  | .copyPerform cluster ch => Sys2Proof.Machine.execCopyPerform cluster ch s
  | .chunkDraw k => Sys2Proof.Machine.execChunkDraw k s
  | .qmmaRun cluster k => Sys2Proof.Machine.execQmmaRun cluster k s
  | .qspmmRun cluster k => Sys2Proof.Machine.execQspmmRun cluster k s
  | .qaccZero cluster k => Sys2Proof.Machine.execQaccZero cluster k s
  | .qaccRead cluster k => Sys2Proof.Machine.execQaccRead cluster k s
  | .qaccWrite cluster k => Sys2Proof.Machine.execQaccWrite cluster k s
  | .qaccStore cluster k => Sys2Proof.Machine.execQaccStore cluster k s
  | .qaccLoad cluster k => Sys2Proof.Machine.execQaccLoad cluster k s
  | .qcvtRun cluster k => Sys2Proof.Machine.execQcvtRun cluster k s
  | .recordCompletion cluster k => Sys2Proof.Machine.execRecordCompletion cluster k s
  | .qrecRun cluster k => Sys2Proof.Machine.execQrecRun cluster k s
  | .qrecbRun cluster k => Sys2Proof.Machine.execQrecbRun cluster k s
  | .qtraceRun cluster k => Sys2Proof.Machine.execQtraceRun cluster k s
  | .haltRequest part => Sys2Proof.Machine.execHaltRequest part s
  | .trapHandlerEntry core => Sys2Proof.Machine.execTrapHandlerEntry core s
  | .pageWalk tlb asid va write => Sys2Proof.Machine.execPageWalk tlb asid va write s
  | .teamStart grid cluster => Sys2Proof.Machine.execTeamStart grid cluster s
  | .teamEnd team => Sys2Proof.Machine.execTeamEnd team s
  | .notifyRegisterWrite req page off size v => Sys2Proof.Machine.execNotifyRegisterWrite req page off size v s
  | .graphPacket q => Sys2Proof.Machine.execGraphPacket q s
  | .gridPacket q => Sys2Proof.Machine.execGridPacket q s
  | .copyPacket q => Sys2Proof.Machine.execCopyPacket q s
  | .bobbinPacket q => Sys2Proof.Machine.execBobbinPacket q s
  | .barrierAndPacket q => Sys2Proof.Machine.execBarrierAndPacket q s
  | .barrierAndRecheck k => Sys2Proof.Machine.execBarrierAndRecheck k s
  | .signalPacket q => Sys2Proof.Machine.execSignalPacket q s
  | .packetCompletion k => Sys2Proof.Machine.execPacketCompletion k s
  | .nodeDispatch k unit => Sys2Proof.Machine.execNodeDispatch k unit s
  | .nodeCompletion k => Sys2Proof.Machine.execNodeCompletion k s
  | .coreRetirement core => Sys2Proof.Machine.execCoreRetirement core s
  | .monitorRelease m => Sys2Proof.Machine.execMonitorRelease m s
  | .waitnPoll b => Sys2Proof.Machine.execWaitnPoll b s
  | .flitReceive port seq crcOk => Sys2Proof.Machine.execFlitReceive port seq crcOk s
  | .portRetrain port goodLanes auth => Sys2Proof.Machine.execPortRetrain port goodLanes auth s
  | .fabricAccess port off size op => Sys2Proof.Machine.execFabricAccess port off size op s
  | .windowCreate desc => Sys2Proof.Machine.execWindowCreate desc s
  | .windowContribution win peer off v => Sys2Proof.Machine.execWindowContribution win peer off v s
  | .stateClone take node src dst len clone => Sys2Proof.Machine.execStateClone take node src dst len clone s
  | .apertureRequest req off size data => Sys2Proof.Machine.execApertureRequest req off size data s
  | .ideKm func => Sys2Proof.Machine.execIdeKm func s
  | .ideIntegrityFailure func => Sys2Proof.Machine.execIdeIntegrityFailure func s
  | .flr func => Sys2Proof.Machine.execFlr func s
  | .attestationRequest nonce => Sys2Proof.Machine.execAttestationRequest nonce s
  | .powerOn failed split ports => Sys2Proof.Machine.execPowerOn failed split ports s
  | .dieHot => Sys2Proof.Machine.execDieHot s
  | .overheat => Sys2Proof.Machine.execOverheat s
  | .supplyFault => Sys2Proof.Machine.execSupplyFault s
  | .partitionRestart part => Sys2Proof.Machine.execPartitionRestart part s
  | .hbmRowFailure stack part => Sys2Proof.Machine.execHbmRowFailure stack part s

end Sys2Proof.Machine
end

