-- ==== Sys2Proof/Machine/Fetch.lean ====
section
/-! DEFINITION. Fetching and issuing a chain group (spec/02_words.md R31 to R36, R39 to R41, R45; spec/03_control.md R69 to
R71, R86, R87): the packet's words, the faults of the group, running its words for the lanes of a context or for the Shuttle,
and what stands afterwards; a Bobbin engine's issue (R336); the acts of the schedule. `ex` is `exec` of Machine/Dispatch. -/

namespace Sys2Proof.Machine
open Sys2Proof

/-! ### The words of a group (R34, R35, R39 to R41, R86) -/

/-- One word of a group: its counter, its prefix, the instruction whose entry it belongs to, where its minor is allocated,
and that instruction again where the word and its prefix raise no ILLINST. -/
structure GWord where
  pc  : Pc
  pfx : Option Pfx
  row : Option Instr
  i   : Option Instr
  deriving DecidableEq, Repr

/-- The major opcode of a word (R37). -/
def majorOf (w : Word) : Nat := bits w.toNat 26 5

/-- The word is the base of an X instruction: without an extension it raises ILLPACKET (R39). -/
def isXBase (w : Word) : Bool :=
  match decodeCore w none with
  | .illPacket => true
  | _ => false

/-- Counter of word i of a packet, or of the next packet where i is past word 2 (R32, R87). -/
def wordPc (slot pkt i : Nat) : Pc :=
  if i ≤ 2 then BitVec.ofNat 17 (slot * 32768 + pkt * 4 + i) else BitVec.ofNat 17 (slot * 32768 + (pkt + 1) * 4)

/-- A word breaks a rule of its group: a prefix its entry does not take, its pipe used already, or company where it must stand
alone (R35, R41, R86, R206). These come before an illegal field of the word (R45). -/
def breaksGroup (i : Instr) (pfx : Option Pfx) (hasPfx into chain : Bool) (pipes : List Pipe) : Bool :=
  let sh := shapeOf i pfx
  (hasPfx && !sh.acc.any) || pipes.contains sh.pipe || (sh.alone && (into || chain))

/-- Read the group from word i on: its instructions and the index of the word after it, or nothing for ILLPACKET. -/
def parseGroup (ws : List Word) (slot pkt : Nat) (sh : Bool) : Nat → Nat → Bool → List Pipe → Option (List GWord × Nat)
  | 0, _, _, _ => none
  | fuel + 1, i, into, pipes =>
    let w := ws.getD i 0
    let hasPfx := isPfx w
    let j := if hasPfx then i + 1 else i
    let t := ws.getD j 0
    let k := if isXBase t then j + 1 else j
    let chain := bit (ws.getD k 0) 31
    if isExt w || (hasPfx && (into || i == 2 || bit w 31 || [0, 1, 31].contains (majorOf t))) || (chain && k == 2) then none
    else
      let p := if hasPfx then decodePfx w else none
      let pc := wordPc slot pkt i
      let here : Option GWord :=
        match decodeCore t (if j + 1 ≤ 2 then ws[j + 1]? else none) with
        | .illPacket => none
        | .illInst => some ⟨pc, p, none, none⟩
        | .bad ins _ => if breaksGroup ins p hasPfx into chain pipes then none else some ⟨pc, p, some ins, none⟩
        | .ok ins _ => if breaksGroup ins p hasPfx into chain pipes then none
            else some ⟨pc, p, some ins, if hasPfx && (p.isNone || sh) then none else some ins⟩
      match here with
      | none => none
      | some g =>
        let used := match g.row with | some x => (shapeOf x p).pipe :: pipes | none => pipes
        if chain then (parseGroup ws slot pkt sh fuel (k + 1) true used).map fun r => (g :: r.1, r.2)
        else some ([g], k + 1)

/-- The three words of a packet in a core's instruction memory (R31, R32). -/
def State.packetWords (s : State) (c slot pkt : Nat) : List Word :=
  wordsOf 3 (mread (s.core c).imem (slot * 65536 + pkt * 12) 12)

/-- Fetch the group at a counter: its instructions and the counter after it, or the fault of the fetch (R33). -/
def State.fetch (s : State) (c : Nat) (pc : Pc) (sh sup : Bool) : Except Code (List GWord × Pc) :=
  let slot := pcSlot pc
  let pkt := pcPkt pc
  let wd := bits pc.toNat 0 2
  if Config.lastPacket < pkt || wd = 3 then .error .illPacket
  else if slot = 3 && !sup then .error .priv
  else match parseGroup (s.packetWords c slot pkt) slot pkt sh 3 wd false [] with
    | none => .error .illPacket
    | some (g, n) => .ok (g, wordPc slot pkt n)

/-! ### Faults of a whole group (R35, R45) -/

/-- DEDUCED (log 3). -/
def State.enter (s : State) (g : GWord) : State := { s with iss := { s.iss with pfx := g.pfx, pc := g.pc } }

/-- What an instruction writes or marks empty, by number: registers, predicates, rejoin masks and special registers.
DEDUCED (log 3). -/
def writtenBy (i : Instr) (p : Option Pfx) (sh : Bool) : List Nat :=
  let x := shapeOf i p
  let regs := x.dsts.flatMap fun d => (List.range (if sh then d.sn else d.n)).map (d.f + ·)
  let other : List Nat := match i with
    | .jmaskZ j => [2000 + j.toNat]
    | .jmaskG j => [2000 + j.toNat]
    | .jmaskR r => [2000 + r.j.toNat]
    | .mts r => [3000 + r.num.toNat]
    | .mtsFstat _ => [3008]
    | .mtsFctl _ => [3009]
    | .mtsCarve _ => [3018]
    | _ => []
  regs ++ ((x.pds.filter fun n => n != 7).map (1000 + ·)) ++ other

/-- The registers that a QACC's read-back of this issue marks empty, which its record block names (R35, R280). -/
def State.qaccWrites (s : State) (g : GWord) : List Nat :=
  match g.i with
  | some (.qacc r) =>
    let s := s.enter g
    (match s.lanes.find? s.guardOn with
     | none => []
     | some l =>
       let bs := (List.range 16).flatMap fun i => leBytes 4 (s.rg l (r.a.toNat + i)).toNat
       let a : Opnd := ⟨bnat bs 0x20 16, bnat bs 8 1, [], []⟩
       if bnat bs 2 1 = 1 && a.src = 1 then (List.range a.w).map (a.rf + ·) else [])
  | _ => []

/-- Two instructions of a group write the same register (R35). -/
def clash : List (List Nat) → Bool
  | [] => false
  | a :: r => (r.any fun b => a.any b.contains) || clash r

/-- The order of decode faults (R45). -/
def codeRank (c : Code) : Nat :=
  match c with
  | .illPacket => 0
  | .illInst => 1
  | _ => 2

/-- The decode fault of a group and the counter of its word: the first class that applies, its first word. DEDUCED (log 3). -/
def State.groupFault (s : State) (ws : List GWord) (sh : Bool) : Option (Code × Pc) :=
  if clash (ws.filterMap fun g => g.row.map fun i => writtenBy i g.pfx sh ++ s.qaccWrites g) then some (.illPacket, s.iss.gpc)
  else
    let fs := ws.filterMap fun g => match g.i with
      | none => some (if g.row.any fun i => rangeFault i g.pc then Code.illPacket else Code.illInst, g.pc)
      | some i => ((s.enter g).decodeFault i).map fun c => (c, g.pc)
    match fs with
    | [] => none
    | f :: r => some (r.foldl (fun a b => if codeRank b.1 < codeRank a.1 then b else a) f)

/-- Every participant faults; nothing of the group is done. -/
def State.faultAll (s : State) (c : Code) (pc : Pc) : State :=
  let outs := match s.iss.who with
    | .gang _ _ ls => ls.map fun l => (l, pc, Out.flt (flt c))
    | _ => [(0, pc, Out.flt (flt c))]
  ({ s.setLanes [] with iss := { (s.setLanes []).iss with outs := outs } }).settle outs

/-! ### Running a group (R34) -/

/-- Between two words of a group the registers read stay those before the group; the pop positions go on (R34, R49). -/
def State.viewPops (s : State) : State :=
  match s.iss.who, s.iss.view with
  | .gang k _ _, some v =>
    let v := { v with threads := v.threads.map fun (e : Nat × Thread) => (e.1, { e.2 with qpos := (s.thread k e.1).qpos }) }
    { s with iss := { s.iss with view := some v } }
  | _, _ => s

/-- Run the words in order. -/
def runWords (ex : Instr → State → Out1) : List GWord → State → Out1
  | [], s => .next s
  | g :: r, s =>
    match g.i with
    | none => .next s
    | some i =>
      match ex i (s.enter g) with
      | .next t => runWords ex r t.viewPops
      | .fault x => .fault x
      | .refused x => .refused x

/-- The state in which participants that left at a CMO, PATMERGE, GSPAWN or HALT of the group have done what that instruction
commits before they leave (R7). -/
def keepGroup (ex : Instr → State → Out1) (ws : List GWord) (s : State) (new : List (Nat × Pc × Out)) : State :=
  ws.foldl (fun s g =>
    match g.i with
    | none => s
    | some i =>
      let ls := (new.filter fun o => o.2.1 == g.pc && keepsWork i o.2.2).map (·.1)
      if ls.isEmpty then s
      else match ex i ((s.enter g).setLanes ls) with
        | .next t => { t with iss := s.iss }
        | _ => s) s

/-- Threads that the group's BIND has bound into one set go different ways at its branch: LIMBDIV for every thread of the set
(R112, R118). -/
def State.splitNew (s : State) (ws : List GWord) : List (Nat × Pc × Out) :=
  match s.iss.who with
  | .gang k b ls =>
    let set (l : Nat) : Nat := if s.boundSet l = 0 then (s.thread k (64 * b + l)).bset else 0
    let at_ (g : GWord) : Bool := g.i.any fun i => (shapeOf i g.pfx).pipe == .branch
    let pc := match ws.find? at_ with | some g => g.pc | none => s.iss.pc
    (ls.filter fun l => set l != 0 && ls.any fun m => set m == set l && s.nextPc m != s.nextPc l).map fun l =>
      (l, pc, .flt (flt .limbDiv))
  | _ => []

/-- The group is done: the participants that left it are settled. -/
def State.closeGroup (s : State) (outs : List (Nat × Pc × Out)) : State :=
  { s with iss := { s.iss with outs := outs } }.settle outs

/-- Run a group of several words: where a participant leaves at any word, none of the group is done for it, its partial
commitment apart, and the group runs again for the others. -/
def runMulti (ex : Instr → State → Out1) (ws : List GWord) : Nat → State → List (Nat × Pc × Out) → Out1
  | 0, s, acc => .next ((s.setLanes []).closeGroup acc)
  | fuel + 1, s, acc =>
    match runWords ex ws s with
    | .next t =>
      let new := t.iss.outs ++ t.splitNew ws
      if new.isEmpty then .next (t.closeGroup acc)
      else
        let s := keepGroup ex ws s new
        let rest := s.lanes.filter fun l => !(new.any fun o => o.1 == l)
        if rest.isEmpty then .next ((s.setLanes []).closeGroup (acc ++ new))
        else runMulti ex ws fuel (s.setLanes rest) (acc ++ new)
    | .fault x => .fault x
    | .refused x => .refused x

/-- Run a group: a legal single instruction issues alone; else the faults of the whole group come first. DEDUCED (log 3). -/
def State.runGroup (ex : Instr → State → Out1) (s : State) (ws : List GWord) (sh : Bool) : Out1 :=
  match ws with
  | [⟨pc, pfx, row, some i⟩] => ex i (s.enter ⟨pc, pfx, row, some i⟩)
  | _ =>
    match s.groupFault ws sh with
    | some (c, pc) => .next (s.faultAll c pc)
    | none => runMulti ex ws 65 { s with iss := { s.iss with multi := true } } []

/-- Continue after an outcome. -/
def andThen (o : Out1) (f : State → State) : Out1 :=
  match o with
  | .next s => .next (f s)
  | .fault x => .fault x
  | .refused x => .refused x

/-! ### A core issues (R69 to R76, R87) -/

/-- The issue was a turn: a participant went on or faulted. Where all of them wait, it took none (R76). -/
def State.issued (s : State) : Bool := !s.lanes.isEmpty || s.iss.outs.any fun o => o.2.2.fault.isSome

/-- The threads of the lanes that issued go on; the context splits (R70, R87). DEDUCED (log 3). -/
def State.finishGang (k band q pc : Nat) (s : State) : State :=
  let n := ((s.team k).ctxs.filter fun c => c.band == band).length
  let s := s.lanes.foldl (fun s l =>
    if ((s.team k).thread (64 * band + l)).isLive then s.modThread k (64 * band + l) fun t => { t with pc := s.nextPc l }
    else s) s
  let s := s.modTeam k fun t => (t.issuedAt band q pc).split band q s.fresh
  let m := ((s.team k).ctxs.filter fun c => c.band == band).length
  s.modCore (coreOfTeam k) fun c => (c.count 0x02 (if s.issued then 1 else 0)).count 0x08 (m - n)

/-- The issue of lanes of a band at a counter; what the band's other context of the cycle has raised and written goes on
(R74, R134, R408). -/
def State.gangIssue (s : State) (k band : Nat) (ls : List Nat) (pc next : Pc) : State :=
  { s with iss := { Issue.none with
      who := .gang k band ls, pc := pc, gpc := pc, npc := next, view := some (s.team k), raised := s.iss.raised, mts := s.iss.mts } }

/-- A band may issue: its team is in place, it is not frozen and its core is in service. -/
def State.bandRuns (s : State) (k band : Nat) : Bool :=
  (s.team k).live && !(s.team k).frozen.contains band && (s.core (coreOfTeam k)).enabled

/-- A halted partition issues only what ends a packet under way (R404). -/
def State.pcRuns (s : State) (k pc : Nat) : Bool := !(s.part (partOfCore (coreOfTeam k))).halted || pc % 4 != 0

/-- The band's context that issues next (R74). -/
def State.nextCtx (s : State) (k band : Nat) (skip : List Nat) : Option Ctx :=
  if s.bandRuns k band then (s.team k).readyCtx band skip (s.pcRuns k) else none

/-- Lanes of a band run the group at a counter. -/
def State.runAt (ex : Instr → State → Out1) (s : State) (k band : Nat) (ls : List Nat) (pc : Pc) : Out1 :=
  match s.fetch (coreOfTeam k) pc false false with
  | .error c => .next ((s.gangIssue k band ls pc pc).faultAll c pc)
  | .ok (g, next) => State.runGroup ex (s.gangIssue k band ls pc next) g false

/-- The context that holds a quad issues its group, if one of its threads is ready. -/
def State.issueQuad (ex : Instr → State → Out1) (s : State) (k band q : Nat) : Out1 :=
  match (s.team k).selectPc band q with
  | none => .next { s with iss := .none }
  | some p =>
    andThen (s.runAt ex k band ((s.team k).issueLanes band q p) (BitVec.ofNat 17 p)) (State.finishGang k band q p)

/-- Of threads that wait in one instruction, those it would no longer hold (R69). DEDUCED (log 57). -/
def State.waitOver (ex : Instr → State → Out1) (s : State) (k : Nat) (e : Nat × Nat × List Tix) : List Tix :=
  match s.runAt ex k e.1 (sortAsc (e.2.2.map (· % 64))) (BitVec.ofNat 17 e.2.1) with
  | .next u => e.2.2.filter fun i => !(u.iss.outs.any fun o => o.1 == i % 64 && o.2.2.fault.isNone)
  | _ => []

/-- The threads of a team whose waits are over become ready (R52, R69, R76). -/
def State.wakeTeam (ex : Instr → State → Out1) (s : State) (k : Nat) : State :=
  let s := s.modTeam k fun t => t.wakeHeld s.fresh
  let ts := ((s.team k).waiters.filter fun e => s.bandRuns k e.1 && s.pcRuns k e.2.1).flatMap (s.waitOver ex k)
  if ts.isEmpty then s else s.modTeam k fun t => t.makeReady s.fresh ts

/-- The bands of a core's teams, from the one after the band granted last, round-robin (R74). DEDUCED (log 57). -/
def State.grantOrder (s : State) (c : Nat) : List (Nat × Nat) :=
  let bs := (s.teamsOfCore c).flatMap fun k => (List.range (s.team k).bands).map fun b => (k, b)
  let after (e : Nat × Nat) : Bool := decide ((s.core c).granted < 8 * slotOfTeam e.1 + e.2)
  bs.filter after ++ bs.filter fun e => !after e

/-- The contexts of a band that issue in this cycle: up to two, those that became ready first (R74). One in which every thread turns
out to wait takes no turn, and waits from now on (R76). -/
def State.pickCtxs (ex : Instr → State → Out1) (k band : Nat) :
    Nat → List Ctx → State → Host.Outcome (State × List Ctx) Fault Refusal
  | 0, cs, s => .next (s, cs)
  | fuel + 1, cs, s =>
    if cs.length = 2 then .next (s, cs)
    else match s.nextCtx k band (cs.flatMap (·.quads)) with
      | none => .next (s, cs)
      | some c =>
        match s.issueQuad ex k band (c.quads.headD 0) with
        | .next t => if t.issued then State.pickCtxs ex k band fuel (cs ++ [c]) s
            else State.pickCtxs ex k band fuel cs { t with iss := .none }
        | .fault x => .fault x
        | .refused x => .refused x

/-- Contexts issue one after the other, in one cycle. -/
def State.issueCtxs (ex : Instr → State → Out1) (k band : Nat) : List Ctx → State → Out1
  | [], s => .next s
  | c :: r, s =>
    match s.issueQuad ex k band (c.quads.headD 0) with
    | .next t => State.issueCtxs ex k band r t
    | .fault x => .fault x
    | .refused x => .refused x

/-- A context's lowest quad. -/
def Ctx.low (c : Ctx) : Nat := c.quads.foldl min 16

/-- A band has the grant: what its contexts of one cycle do to the team's masks, tables and registers counts in ascending order of
their lowest quads (R94, R161, R321). How many issued. -/
def State.grantBand (ex : Instr → State → Out1) (k band : Nat) (s : State) : Host.Outcome (State × Nat) Fault Refusal :=
  match s.pickCtxs ex k band 67 [] with
  | .next (s, cs) =>
    let order := match cs with | [a, b] => if b.low < a.low then [b, a] else [a, b] | cs => cs
    (match State.issueCtxs ex k band order { s with iss := .none } with
     | .next t => .next (t, cs.length)
     | .fault x => .fault x
     | .refused x => .refused x)
  | .fault x => .fault x
  | .refused x => .refused x

/-- The grant goes to the first band that has a ready context (R74). -/
def State.grantFirst (ex : Instr → State → Out1) (c : Nat) : List (Nat × Nat) → State → Out1
  | [], s => .next s
  | e :: r, s =>
    match State.grantBand ex e.1 e.2 s with
    | .next (t, 0) => State.grantFirst ex c r t
    | .next (t, _) => .next (t.modCore c fun k => ({ k with granted := 8 * slotOfTeam e.1 + e.2 }).count 0x01 1)
    | .fault x => .fault x
    | .refused x => .refused x

/-- One cycle of a core's issue (R74). -/
def State.issueCore (ex : Instr → State → Out1) (s : State) (c : Nat) : Out1 :=
  let s := (s.teamsOfCore c).foldl (State.wakeTeam ex) s
  State.grantFirst ex c (s.grantOrder c) s

/-! ### The Shuttle issues (R36, R230 to R232) -/

/-- The Shuttle may issue: in the handler, or in its user program while no record waits; not while it holds for a draw. -/
def State.shuttleIssues (s : State) (c : Nat) : Bool :=
  let h := s.shuttle c
  s.shuttleRuns c && (h.mode || (h.active && !h.parked && (s.core c).trapCount == 0)) &&
    (match (if h.mode then h.supHold else h.hold) with | .draw _ => false | _ => true)

def State.shuttleIssue (s : State) (c : Nat) (next : Pc) : State :=
  let h := s.shuttle c
  { s with iss := { Issue.none with
      who := .shuttle c, pc := h.pc, gpc := h.pc, npc := next, sview := some h.bank, sup := h.mode } }

/-- It goes on where the group was done; else it stands at the group. -/
def State.finishShuttle (c : Nat) (s : State) : State :=
  let s := if s.iss.outs.isEmpty then s.modShuttle c fun h => { h with pc := s.nextPc 0, waiting := false } else s
  s.modCore c fun k => k.count 0x03 (if s.iss.outs.all fun o => o.2.2.fault.isSome then 1 else 0)

def State.issueShuttle (ex : Instr → State → Out1) (s : State) (c : Nat) : Out1 :=
  if !s.shuttleIssues c then .next s
  else
    let pc := (s.shuttle c).pc
    andThen (match s.fetch c pc true (s.shuttle c).mode with
      | .error e => .next ((s.shuttleIssue c pc).faultAll e pc)
      | .ok (g, next) => State.runGroup ex (s.shuttleIssue c next) g true) (State.finishShuttle c)

/-! ### A Bobbin engine issues (R336, R354) -/

def State.bobIssue (s : State) (b : Nat) : State := { s with iss := { Issue.none with who := .bobbin b } }

def State.issueBobbin (ex : Instr → State → Out1) (s : State) (b : Nat) : Out1 :=
  if !s.bobRuns b || (s.bobbin b).stat != .ready then .next s
  else match s.bobFetch b with
    | .error sub => .next (s.bobFault b (bflt sub 0 0))
    | .ok i => ex i (s.bobIssue b)

/-! ### The schedule -/

/-- One act: an agent's issue, a step of the hardware, or a table write. DESIGN CHOICE (log 4). -/
def State.doAct (ex : Instr → State → Out1) (s : State) (a : Act) : Out1 :=
  match a with
  | .issue (.core c) => s.issueCore ex c
  | .issue (.shuttle c) => s.issueShuttle ex c
  | .issue (.bobbin b) => s.issueBobbin ex b
  | .event i => ex i s
  | a => .next (s.table a)

/-- The act is a power-on, which a module without power still takes. -/
def Act.isPowerOn : Act → Bool
  | .event (.powerOn _ _ _) => true
  | _ => false

/-- After an act: no issue is in progress, adds of GDONE that are due are made, no cache holds more than it has room for, and
time has passed (R380, R405).
DESIGN CHOICE (log 6). DESIGN CHOICE (log 9). -/
def State.tick (s : State) : State :=
  let s := ({ s with iss := .none }.sweepGdones.sweepRels.sweepOutbox.sweepTiles).fitCaches
  { s with
    cores := s.cores.map fun (e : Nat × Core) => (e.1, { e.2 with cycles := e.2.cycles + Config.freeCycles s.fresh e.1 })
    fresh := s.fresh + 1 }

/-- The steps of tile record k of a cluster that may be due. -/
def recordMoves (cl k : Nat) : List (State → Out1) :=
  [execQmmaRun cl k, execQspmmRun cl k, execQaccZero cl k, execQaccRead cl k, execQaccWrite cl k, execQaccStore cl k,
    execQaccLoad cl k, execQcvtRun cl k, execQrecRun cl k, execQrecbRun cl k, execQtraceRun cl k, execRecordCompletion cl k]

/-- The moves of the agents and the hardware that may be due, in a fixed order. DESIGN CHOICE (log 4). -/
def State.moves (ex : Instr → State → Out1) (s : State) : List (State → Out1) :=
  let cls := dedup (s.records.map (·.cluster))
  ((dedup (s.teams.map fun t => coreOfTeam t.1)).map fun c s => State.issueCore ex s c) ++
  (s.cores.flatMap fun c => [fun s => State.issueShuttle ex s c.1, execTrapHandlerEntry c.1]) ++
  (s.bobbins.flatMap fun b => [fun s => State.issueBobbin ex s b.1, execWaitnPoll b.1]) ++
  (s.fills.map fun f => execDestinationFill f.id) ++
  (s.teams.flatMap fun t => t.2.threads.filterMap fun x => match x.2.stat with
    | .atJoin j pc => some (execJoinCompletion t.1 (x.1 / 64) pc j)
    | _ => none) ++
  (s.teams.flatMap fun t => [execBarrierPhaseCompletion t.1, execTeamEnd t.1]) ++
  (s.parts.flatMap fun p => p.2.groups.map fun g => execGroupBarrierPhaseCompletion p.1 g.1) ++
  (s.cores.flatMap fun c => c.2.greqs.map fun r => execRegtakeServe r.team r.cls) ++
  (s.objReqs.map fun r => execObjectGrant r.obj) ++
  (s.teams.flatMap fun t => t.2.queues.map fun q => execStreamEntryPush t.1 q.1) ++
  (s.copies.map fun c => execCopyPerform c.cluster c.ch) ++
  ((List.range s.draws.length).map fun k => execChunkDraw k) ++
  (cls.flatMap fun cl => (List.range (s.records.filter fun r => r.cluster == cl).length).flatMap (recordMoves cl)) ++
  ((List.range s.grids.length).flatMap fun g => (List.range 64).map fun cl => execTeamStart g cl) ++
  (s.queues.flatMap fun q => [execGraphPacket q.1, execGridPacket q.1, execCopyPacket q.1, execBobbinPacket q.1,
    execBarrierAndPacket q.1, execSignalPacket q.1]) ++
  ((List.range s.packets.length).flatMap fun k => [execBarrierAndRecheck k, execPacketCompletion k]) ++
  ((indexed s.pool).filterMap fun n => (s.freeUnit n.2).map fun u => execNodeDispatch n.1 u) ++
  ((List.range s.running.length).map fun k => execNodeCompletion k)

/-- What moves when the schedule names nothing: one of the moves that may be due, by turns. DESIGN CHOICE (log 4). -/
def State.autoAct (ex : Instr → State → Out1) (s : State) : Option (State → Out1) :=
  let l := s.moves ex
  l[s.fresh % l.length]?

/-! ### Placing an instruction where it is fetched next -/

/-- The instruction is a Bobbin instruction. -/
def isBobbinInstr (i : Instr) : Bool :=
  match encode false i with
  | [w] => (match decodeBobbin w with | .ok j _ => j == i | _ => false)
  | _ => false

/-- A team of one thread at packet 0 of slot 0, with 112 registers. -/
def oneThread : Team :=
  { Team.free with
    live := true, allot := 3, bands := 1
    threads := [(0, { Thread.gone with stat := .ready })]
    ctxs := [⟨0, [0], 0⟩] }

/-- Words at packet 0 of slot 0 of core 0. -/
def State.placeWords (s : State) (ws : List Word) : State :=
  s.modCore 0 fun c => { c with imem := mwrite c.imem 0 (ws.flatMap bytesOfWord) }

/-- The next step issues the words for a one-thread team of core 0. DEDUCED (log 7). -/
def State.placeThread (s : State) (ws : List Word) : State :=
  let s := ((s.placeWords ws).modTeam 0 fun _ => oneThread).modCore 0 fun c => { c with granted := 63 }
  { s with sched := .issue (.core 0) :: s.sched }

/-- The next step issues the words for the Shuttle of core 0, in its user program or in supervisor mode. DEDUCED (log 7). -/
def State.placeShuttle (s : State) (sup : Bool) (ws : List Word) : State :=
  let s := (s.placeWords ws).modShuttle 0 fun h =>
    { h with mode := sup, active := true, parked := false, frozen := false, pc := 0, hold := .none, supHold := .none }
  { s with sched := .issue (.shuttle 0) :: s.sched }

/-- The next step issues the word for Bobbin engine 0. DEDUCED (log 7). -/
def State.placeBobbin (s : State) (ws : List Word) : State :=
  let s := s.modBobbin 0 fun e => { e with store := ws.take 1, pc := 0, past := false, stat := .ready, frozen := false }
  { s with sched := .issue (.bobbin 0) :: s.sched }

end Sys2Proof.Machine
end

