-- ==== Sys2Proof/Machine/Step.lean ====
section
/-! DEFINITION. One step of the machine: the next act of the schedule, or, where it names none, the move whose turn it is. -/

namespace Sys2Proof.Machine
open Sys2Proof

/-- DESIGN CHOICE (log 4). -/
def step (s : State) : Host.Outcome State Fault Refusal :=
  match s.sched with
  | [] =>
    if !s.power then .fault .poweredOff
    else match s.autoAct exec with
      | none => .next s.tick
      | some f => andThen (f s) State.tick
  | a :: r =>
    if !s.power && !a.isPowerOn then .fault .poweredOff
    else andThen (({ s with sched := r } : State).doAct exec a) State.tick

/-- The state with an instruction placed where its agent fetches it next: a Bobbin instruction in engine 0, an instruction of
Shuttle code alone in the Shuttle of core 0, a privileged one there in supervisor mode, any other in a one-thread team.
DEDUCED (log 7). -/
def State.withFetchWord (s : State) (nbits w : Nat) : State :=
  let ws := unpackWords 2 (w % 2 ^ nbits)
  match decodeTableWord nbits w with
  | none => s.placeThread ws
  | some i =>
    if isBobbinInstr i then s.placeBobbin ws
    else if (shapeOf i none).priv then s.placeShuttle true ws
    else if (shapeOf i none).thr then s.placeThread ws
    else s.placeShuttle false ws

end Sys2Proof.Machine
end

