-- ==== Sys2Proof/Safety.lean ====
section
/-! DEFINITION. What counts as a safe run, and the terms the statements use: who issues an instruction under which conditions,
what an issue changes and what it leaves alone. -/

namespace Sys2Proof.Machine
open Sys2Proof

/-- The memories outside the caches hold their canonical form: HBM, the host's memory and the peers'. -/
def State.memOk (s : State) : Bool := Memory.wf s.hbm && Memory.wf s.hostMem && Memory.wf s.peerMem

/-- The lanes `ls` of band b of team k issue instruction i and every one of them passes the gate: no decode fault, every guard
prefix true, every source and destination full and every queue entry present (spec/02_words.md R42, R45, R49 to R52). -/
structure Lanes (s : State) (i : Instr) (k b : Nat) (ls : List Nat) : Prop where
  who  : s.iss.who = .gang k b ls
  asc  : ls.Pairwise (· < ·)
  outs : s.iss.outs = []
  xfer : s.iss.xfer = []
  ok   : s.decodeFault i = none
  run  : ∀ l ∈ ls, s.laneDo k b i (shapeOf i s.iss.pfx) l = .run

/-- They all execute it: besides, the guard that a B-format word has of its own divides no bound set (spec/03_control.md R88). -/
structure Gang (s : State) (i : Instr) (k b : Nat) (ls : List Nat) : Prop extends Lanes s i k b ls where
  agree : s.guardDiv (shapeOf i s.iss.pfx) ls = []

/-- The Shuttle of core c issues instruction i in the mode it is in, without a decode fault (R36, R45, R384). -/
structure Shut (s : State) (i : Instr) (c : Nat) : Prop where
  who  : s.iss.who = .shuttle c
  mode : s.iss.sup = (s.shuttle c).mode
  outs : s.iss.outs = []
  ok   : s.decodeFault i = none

/-- The participants `ls` are served one after another, each by `f` from the state the one before it left, and none faults or
waits: `t` is the state after the last (R152). -/
def Serve (f : State → Nat → Except Out State) : State → List Nat → State → Prop
  | s, [], t => t = s
  | s, l :: r, t => ∃ u, f s l = .ok u ∧ Serve f u r t

/-- One register, or one predicate, is written. -/
def one {α : Type} (d : Nat) (v : State → Nat → α) : State → Nat → Nat → Option α :=
  fun s l n => if n = d then some (v s l) else none
/-- Two are written; where both are the same the later value stays. -/
def two {α : Type} (d e : Nat) (v w : State → Nat → α) : State → Nat → Nat → Option α :=
  fun s l n => if n = e then some (w s l) else if n = d then some (v s l) else none
/-- Nothing is written. -/
def nothing {α : Type} : State → Nat → Nat → Option α := fun _ _ _ => none
/-- The register pair at d. -/
def pair (d : Nat) (v : State → Nat → Dword) : State → Nat → Nat → Option Word :=
  two d (d + 1) (fun s l => (v s l).setWidth 32) (fun s l => BitVec.ofNat 32 ((v s l).toNat / 4294967296))
/-- A predicate is written; p7 discards what is written to it (R54). -/
def pred (d : Nat) (v : State → Nat → Bool) : State → Nat → Nat → Option Bool :=
  fun s l n => if n = d ∧ n < 7 then some (v s l) else none

/-- Nothing outside team k changes, the issue in progress apart: no memory, no cache, no other team, no queue of the machine. -/
def OnlyTeam (s t : State) (k : Nat) : Prop :=
  t = { s with teams := t.teams, iss := t.iss } ∧ ∀ j, j ≠ k → t.team j = s.team j

/-- What an issue of lanes writes in its team: `val l n` and `pval l n` say what register n and predicate n of lane l hold
afterwards, none for one that keeps its value; `fl` are the flags ORed into FSTAT. Every other register, full bit, predicate
and special register of the team and every other thread keep what they hold; queues that the instruction names advance (R49). -/
structure LaneWrites (s t : State) (k b : Nat) (ls : List Nat) (sh : Shape) (val : Nat → Nat → Option Word)
    (pval : Nat → Nat → Option Bool) (fl : BitVec 5) : Prop where
  team  : t.team k = { s.team k with
    threads := (t.team k).threads, queues := (t.team k).queues, dq := (t.team k).dq, dqFirst := (t.team k).dqFirst
    fstat := (s.team k).fstat ||| fl }
  queue : sh.popsQueue = false →
    (t.team k).queues = (s.team k).queues ∧ (t.team k).dq = (s.team k).dq ∧ (t.team k).dqFirst = (s.team k).dqFirst
  idle  : ∀ i, (∀ l ∈ ls, i ≠ 64 * b + l) → t.thread k i = s.thread k i
  lane  : ∀ l ∈ ls, ∃ rs es ps,
    t.thread k (64 * b + l) = { s.thread k (64 * b + l) with
      regs := rs, empty := es, preds := ps
      qpos := ((s.thread k (64 * b + l)).pop (popsOf (s.thread k (64 * b + l)) sh.srcs)).qpos }
  regs  : ∀ l ∈ ls, ∀ n, match val l n with
    | some v => (t.thread k (64 * b + l)).g n = v ∧ (t.thread k (64 * b + l)).full n = true
    | none => (t.thread k (64 * b + l)).g n = (s.thread k (64 * b + l)).g n ∧
        (t.thread k (64 * b + l)).full n = (s.thread k (64 * b + l)).full n
  preds : ∀ l ∈ ls, ∀ n, (t.thread k (64 * b + l)).p n =
    (match pval l n with | some v => v | none => (s.thread k (64 * b + l)).p n)

/-- An issue of lanes that writes registers, predicates and flags and nothing outside its team: no memory and no other team
changes. -/
structure LaneResult (s t : State) (k b : Nat) (ls : List Nat) (sh : Shape) (val : Nat → Nat → Option Word)
    (pval : Nat → Nat → Option Bool) (fl : BitVec 5) : Prop extends LaneWrites s t k b ls sh val pval fl where
  only  : OnlyTeam s t k

/-- An issue of lanes changes the threads of its lanes by `f`, and nothing else of the team but the queues it pops (R49). -/
structure Threads (s t : State) (k b : Nat) (ls : List Nat) (sh : Shape) (f : Nat → Thread → Thread) : Prop where
  team  : t.team k = { s.team k with
    threads := (t.team k).threads, queues := (t.team k).queues, dq := (t.team k).dq, dqFirst := (t.team k).dqFirst }
  queue : sh.popsQueue = false →
    (t.team k).queues = (s.team k).queues ∧ (t.team k).dq = (s.team k).dq ∧ (t.team k).dqFirst = (s.team k).dqFirst
  idle  : ∀ i, (∀ l ∈ ls, i ≠ 64 * b + l) → t.thread k i = s.thread k i
  lane  : ∀ l ∈ ls, t.thread k (64 * b + l) =
    (f l (s.thread k (64 * b + l))).pop (popsOf (s.thread k (64 * b + l)) sh.srcs)

/-- In thread code the instruction completes and changes only the threads of its lanes, by `f`. -/
def Changes (i : Instr) (f : State → Nat → Thread → Thread) : Prop :=
  ∀ s k b ls, Gang s i k b ls → ∃ t, exec i s = .next t ∧ OnlyTeam s t k ∧ Threads s t k b ls (shapeOf i s.iss.pfx) (f s)

/-- A transfer of control: lane l continues at `pc l` (R87), threads change by `f`, and nothing else does. -/
structure Moves (s t : State) (k b : Nat) (ls : List Nat) (sh : Shape) (f : Nat → Thread → Thread) (pc : Nat → Pc) : Prop where
  rest    : t = { s with teams := t.teams, iss := { s.iss with xfer := t.iss.xfer } }
  others  : ∀ j, j ≠ k → t.team j = s.team j
  threads : Threads s t k b ls sh f
  next    : ∀ l ∈ ls, t.nextPc l = pc l

/-- Lanes of one bound set continue at one counter (R112). -/
def Together (s : State) (ls : List Nat) (pc : Nat → Pc) : Prop :=
  ∀ l ∈ ls, ∀ m ∈ ls, s.boundSet l ≠ 0 → s.boundSet l = s.boundSet m → pc l = pc m

/-- The instruction takes a fault in each of its lanes, and does nothing else: the lanes park and their records are written
(State.faultLanes) and the misses of a translation that failed count (State.countFaults); in a group of several words the
lanes leave the issue, and that is done once the whole group has run. -/
def Faults (i : Instr) (s : State) (k b : Nat) (fs : List (Nat × Flt)) : Prop :=
  ∃ t, exec i s = .next t ∧
    t = { (if s.iss.multi then s.popLanes (shapeOf i s.iss.pfx) [] else
      ((s.popLanes (shapeOf i s.iss.pfx) []).countFaults (coreOfTeam k) s.issAsid (fs.map (·.2))).faultLanes k b s.iss.gpc
        s.iss.npc (fs.map fun f => (f.1, s.iss.pc, f.2)))
      with iss := t.iss } ∧
    t.iss.outs = fs.map fun f => (f.1, s.iss.pc, .flt f.2)

/-- In thread code every lane waits and nothing else changes: it tries its instruction again, in a group of several words once
the whole group has run. -/
def Waits (i : Instr) (s : State) (k b : Nat) (ls : List Nat) : Prop :=
  ∃ t, exec i s = .next t ∧ t = { s with teams := t.teams, iss := t.iss } ∧ (∀ j, j ≠ k → t.team j = s.team j) ∧
    (∀ n, (∀ l ∈ ls, n ≠ 64 * b + l) → t.thread k n = s.thread k n) ∧
    (∀ l ∈ ls, t.thread k (64 * b + l) =
      if s.iss.multi then s.thread k (64 * b + l) else { s.thread k (64 * b + l) with stat := .retry }) ∧
    t.iss.outs = ls.map fun l => (l, s.iss.pc, .retry)

/-- Slot `sl` is the lowest of slots 0 to 2 of a core that holds overlay `v` (R83). -/
def HoldsOverlay (s : State) (c sl v : Nat) : Prop :=
  sl ≤ 2 ∧ (nfind (s.core c).slots sl).map (·.ovl) = some v ∧ ∀ j, j < sl → (nfind (s.core c).slots j).map (·.ovl) ≠ some v

/-- In thread code, where `pre` holds of the state and the lanes, the instruction completes with these results. -/
def YieldsIf (pre : State → List Nat → Prop) (i : Instr) (val : State → Nat → Nat → Option Word)
    (pval : State → Nat → Nat → Option Bool) (fl : State → List Nat → BitVec 5) : Prop :=
  ∀ s k b ls, Gang s i k b ls → pre s ls → ∃ t, exec i s = .next t ∧
    LaneResult s t k b ls (shapeOf i s.iss.pfx) (val s) (pval s) (fl s ls)

/-- In thread code the instruction completes with these results, whatever lanes execute it. -/
def Yields (i : Instr) (val : State → Nat → Nat → Option Word) (pval : State → Nat → Nat → Option Bool)
    (fl : State → List Nat → BitVec 5) : Prop := YieldsIf (fun _ _ => True) i val pval fl

/-- Two predicates are written; a write to p7 is discarded. -/
def pred2 (d e : Nat) (v w : State → Nat → Bool) : State → Nat → Nat → Option Bool :=
  fun s l n => if n = e ∧ n < 7 then some (w s l) else if n = d ∧ n < 7 then some (v s l) else none
/-- Three predicates are written. -/
def pred3 (d e g : Nat) (v w x : State → Nat → Bool) : State → Nat → Nat → Option Bool :=
  fun s l n => if n = g ∧ n < 7 then some (x s l) else pred2 d e v w s l n

/-- V of the group of lane l, width L limbs: limb i is word i of the integer (R111). -/
def groupV (L l : Nat) (v : Nat → Word) : Nat := ((List.range L).map fun i => (v (l / L * L + i)).toNat * 2 ^ (32 * i)).sum
/-- An N-bit number read as two's complement (R111). -/
def groupSV (N x : Nat) : Int := if 2 ^ (N - 1) ≤ x then (x : Int) - 2 ^ N else x

/-- What a Shuttle's issue writes: registers of the bank of its mode, `val n` saying what register n holds afterwards (none for
one that keeps its value), and nothing else of the machine (R47, R384). -/
structure ShutWrites (s t : State) (c : Nat) (val : Nat → Option Dword) : Prop where
  rest  : t = { s with cores := t.cores }
  cores : ∀ d, d ≠ c → t.core d = s.core d
  core  : t.core c = { s.core c with shuttle := t.shuttle c }
  bank  : ∃ m, t.shuttle c = (if (s.shuttle c).mode then { s.shuttle c with sup := m } else { s.shuttle c with user := m }) ∧
    ∀ n, nget m n 0 = (match val n with | some v => v | none => nget (s.shuttle c).bank n 0)

/-- In Shuttle code the instruction completes with these results. -/
def ShutYields (i : Instr) (val : State → Nat → Option Dword) : Prop :=
  ∀ s c, Shut s i c → ∃ t, exec i s = .next t ∧ ShutWrites s t c (val s)

/-- The Shuttle waits at its instruction, and nothing else changes; in a group of several words it leaves the issue. -/
def ShutWaits (i : Instr) (s : State) (c : Nat) : Prop :=
  ∃ t, exec i s = .next t ∧ t = { s with cores := t.cores, iss := t.iss } ∧ (∀ d, d ≠ c → t.core d = s.core d) ∧
    t.core c = (if s.iss.multi then s.core c else { s.core c with shuttle := { s.shuttle c with waiting := true } }) ∧
    t.iss.outs = [(0, s.iss.pc, .retry)]

/-- The Shuttle takes a fault at its instruction, and does nothing else (State.faultShuttle, and State.countFaults where a
translation failed); in a group of several words it leaves the issue. -/
def ShutFaults (i : Instr) (s : State) (c : Nat) (f : Flt) : Prop :=
  ∃ t, exec i s = .next t ∧
    t = { (if s.iss.multi then s else (s.countFaults c s.issAsid [f]).faultShuttle c s.iss.pc f) with iss := t.iss } ∧
    t.iss.outs = [(0, s.iss.pc, .flt f)]

/-- No flag is raised. -/
def noFlags : State → List Nat → BitVec 5 := fun _ _ => 0
/-- The flags of every lane. -/
def lanesFlags (f : State → Nat → BitVec 5) : State → List Nat → BitVec 5 := fun s ls => ls.foldl (fun m l => m ||| f s l) 0

end Sys2Proof.Machine
end

