-- ==== Sys2Proof/Certificates/Slice0/Obligations.lean ====
section
/-! DEFINITION. The statements about the model, for the provers. -/

section Statements
open Sys2Proof Sys2Proof.Machine

/-- ADD, SUB, AND, OR, XOR, SHL, SHR and SAR: the word each lane's destination receives, and the frame (R101). -/
def Obligations.AluWordResults : Prop :=
  ∀ r : R3,
  let w (f : Word → Word → Word) := one r.d.toNat fun s l => f (s.rd l r.a []) (s.rd l r.b [r.a])
  Yields (.add r) (w fun a b => BitVec.ofNat 32 ((a.toNat + b.toNat) % 2 ^ 32)) nothing noFlags ∧
  Yields (.sub r) (w fun a b => BitVec.ofInt 32 (((a.toNat : Int) - b.toNat) % 2 ^ 32)) nothing noFlags ∧
  Yields (.and r) (w fun a b => a &&& b) nothing noFlags ∧
  Yields (.or r) (w fun a b => a ||| b) nothing noFlags ∧
  Yields (.xor r) (w fun a b => a ^^^ b) nothing noFlags ∧
  Yields (.shl r) (w fun a k => BitVec.ofNat 32 (a.toNat * 2 ^ k.toNat % 2 ^ 32)) nothing noFlags ∧
  Yields (.shr r) (w fun a k => BitVec.ofNat 32 (a.toNat / 2 ^ k.toNat)) nothing noFlags ∧
  Yields (.sar r) (w fun a k => BitVec.ofInt 32 (a.toInt / 2 ^ k.toNat)) nothing noFlags

/-- MUL, MAC, MULH, DIV and REM: results with the fixed corner cases, and the frame (R102, R103). -/
def Obligations.MultiplyDivideResults : Prop :=
  ∀ r : R3,
  let w (f : Word → Word → Word) := one r.d.toNat fun s l => f (s.rd l r.a []) (s.rd l r.b [r.a])
  Yields (.mul r) (w fun a b => BitVec.ofNat 32 (a.toNat * b.toNat)) nothing noFlags ∧
  Yields (.mac r) (one r.d.toNat fun s l =>
    BitVec.ofNat 32 ((s.rg l r.d.toNat).toNat + (s.rd l r.a []).toNat * (s.rd l r.b [r.a]).toNat)) nothing noFlags ∧
  Yields (.mulhI32 r) (w fun a b => BitVec.ofInt 32 (a.toInt * b.toInt / 2 ^ 32)) nothing noFlags ∧
  Yields (.mulhN32 r) (w fun a b => BitVec.ofNat 32 (a.toNat * b.toNat / 2 ^ 32)) nothing noFlags ∧
  Yields (.divI32 r) (w fun a b => if b = 0 then 0xFFFFFFFF#32 else if a = 0x80000000#32 ∧ b = 0xFFFFFFFF#32 then 0x80000000#32
    else BitVec.ofInt 32 (a.toInt.tdiv b.toInt)) nothing noFlags ∧
  Yields (.divN32 r) (w fun a b => if b = 0 then 0xFFFFFFFF#32 else BitVec.ofNat 32 (a.toNat / b.toNat)) nothing noFlags ∧
  Yields (.remI32 r) (w fun a b => if b = 0 then a else if a = 0x80000000#32 ∧ b = 0xFFFFFFFF#32 then 0#32
    else a - b * BitVec.ofInt 32 (a.toInt.tdiv b.toInt)) nothing noFlags ∧
  Yields (.remN32 r) (w fun a b => if b = 0 then a else BitVec.ofNat 32 (a.toNat % b.toNat)) nothing noFlags

/-- ADD.b64, SUB.b64, MULW, LEA: the 64-bit destination pair; ADDI, SHI, MOVI, BFX, BFI: the destination word; and the frame
(R104, R105, R106, R109, R110). -/
def Obligations.PairAndImmediateResults : Prop :=
  ((∀ r : R3, Yields (.addB64 r) (pair r.d.toNat fun s l => BitVec.ofNat 64 ((s.rd64 l r.a).toNat + (s.rd64 l r.b).toNat)) nothing noFlags ∧
     Yields (.subB64 r) (pair r.d.toNat fun s l => BitVec.ofInt 64 ((s.rd64 l r.a).toNat - (s.rd64 l r.b).toNat)) nothing noFlags ∧
     Yields (.mulwI32 r) (pair r.d.toNat fun s l => BitVec.ofInt 64 ((s.rd l r.a []).toInt * (s.rd l r.b [r.a]).toInt)) nothing noFlags ∧
     Yields (.mulwN32 r) (pair r.d.toNat fun s l => BitVec.ofNat 64 ((s.rd l r.a []).toNat * (s.rd l r.b [r.a]).toNat)) nothing noFlags) ∧
   ∀ r : LeaOp, Yields (.lea r) (pair r.d.toNat fun s l => BitVec.ofInt 64 ((s.rd64 l r.a).toNat +
     (if r.s then (s.rd l r.b []).toInt else (s.rd l r.b []).toNat) * 2 ^ r.sh.toNat + r.disp.toInt)) nothing noFlags) ∧
  ((∀ r : AddiOp, Yields (.addi r) (one r.d.toNat fun s l => BitVec.ofInt 32 ((s.rd l r.a []).toNat + r.imm.toInt)) nothing noFlags) ∧
   (∀ r : ShiOp, Yields (.shi r) (one r.d.toNat fun s l =>
     let a := s.rd l r.a []
     let k := r.amt.toNat
     match r.kind.toNat with
     | 0 => BitVec.ofNat 32 (a.toNat * 2 ^ k)
     | 1 => BitVec.ofNat 32 (a.toNat / 2 ^ k)
     | 2 => BitVec.ofInt 32 (a.toInt / 2 ^ k)
     | _ => BitVec.ofNat 32 (a.toNat * 2 ^ k) ||| BitVec.ofNat 32 (a.toNat / 2 ^ (32 - k))) nothing noFlags) ∧
   (∀ r : MoviOp, Yields (.movi r) (one r.d.toNat fun _ _ => BitVec.ofInt 32 (r.hi.toNat * 512 + r.imm.toInt)) nothing noFlags) ∧
   (∀ r : BfxOp, Instr.wf (.bfx r) = true → Yields (.bfx r) (one r.d.toNat fun s l =>
     let f : Word := (s.rd l r.a [] >>> r.pos.toNat) <<< (32 - r.len.toNat)
     if r.s then f.sshiftRight (32 - r.len.toNat) else f >>> (32 - r.len.toNat)) nothing noFlags) ∧
   (∀ r : BfiOp, Instr.wf (.bfi r) = true → ∃ v : State → Nat → Word, Yields (.bfi r) (one r.d.toNat v) nothing noFlags ∧
     ∀ s l n, (v s l).getLsbD n = if r.pos.toNat ≤ n ∧ n < r.pos.toNat + r.len.toNat then (s.rd l r.a []).getLsbD (n - r.pos.toNat)
       else (s.rg l r.d.toNat).getLsbD n) ∧
   (∀ r : BfxOp, Instr.wf (.bfx r) = decide (0 < r.len.toNat ∧ r.pos.toNat + r.len.toNat ≤ 32)) ∧
   (∀ r : BfiOp, Instr.wf (.bfi r) = decide (0 < r.len.toNat ∧ r.pos.toNat + r.len.toNat ≤ 32)))

/-- CMP and CMPI: the predicate each lane receives by condition and combination, and the frame (R107, R108). -/
def Obligations.ComparePredicates : Prop :=
  let cond (w : Nat) (code : Nat) (x y : BitVec w) : Bool := match code with
    | 0 => x == y
    | 1 => x != y
    | 2 => x.slt y
    | 3 => x.sle y
    | 4 => y.slt x
    | 5 => y.sle x
    | 6 => x.ult y
    | 7 => x.ule y
    | 8 => y.ult x
    | 9 => y.ule x
    | 10 => x &&& y != 0
    | _ => x &&& y == 0
  let comb (code : Nat) (c p : Bool) : Bool := match code with | 0 => c | 1 => c && p | _ => c || p
  (∀ r : CmpOp, Instr.wf (.cmp r) = true → Yields (.cmp r) nothing (pred r.pd.toNat fun s l => comb r.comb.toNat
      (if r.w then cond 64 r.cond.toNat (s.rd64 l r.a) (s.rd64 l r.b) else cond 32 r.cond.toNat (s.rd l r.a []) (s.rd l r.b [r.a]))
      (s.rp l r.cp.toNat)) noFlags) ∧
  (∀ w n e r, decodeCore w n = .ok (.cmp r) e → r.cond.toNat < 12 ∧ r.comb.toNat < 3) ∧
  (∀ r : CmpiOp, Yields (.cmpi r) nothing (pred r.pd.toNat fun s l =>
    cond 32 (if r.cond.toNat = 7 then 9 else r.cond.toNat) (s.rd l r.a []) (r.imm.signExtend 32)) noFlags)

/-- LADD, LADC, LSUB, LSBC and LNEG: the integer, the carry or borrow and the signed overflow of every group (R119). -/
def Obligations.LimbSumsAndDifferences : Prop :=
  let bound (s : State) (ls : List Nat) : Prop := ∀ l ∈ ls, s.limbL l ≠ 0
  let N (s : State) (l : Nat) : Nat := 32 * s.limbL l
  let V (f : BitVec 7) (prev : List (BitVec 7)) (s : State) (l : Nat) : Nat := groupV (s.limbL l) l fun m => s.rd m f prev
  let SV (f : BitVec 7) (prev : List (BitVec 7)) (s : State) (l : Nat) : Int := groupSV (N s l) (V f prev s l)
  let cin (p : BitVec 3) (s : State) (l : Nat) : Nat := if s.rp (l / s.limbL l * s.limbL l) p.toNat then 1 else 0
  let write (d : BitVec 7) (x : State → Nat → Int) := one d.toNat fun s l =>
    BitVec.ofNat 32 ((x s l % 2 ^ N s l).toNat / 2 ^ (32 * (l % s.limbL l)))
  let carry (x : State → Nat → Int) (s : State) (l : Nat) : Bool := decide (2 ^ N s l ≤ x s l)
  let borrow (x : State → Nat → Int) (s : State) (l : Nat) : Bool := decide (x s l < 0)
  let outside (x : State → Nat → Int) (s : State) (l : Nat) : Bool :=
    decide (x s l < -(2 ^ (N s l - 1) : Int) ∨ (2 ^ (N s l - 1) : Int) ≤ x s l)
  (∀ r : LaddOp, YieldsIf bound (.ladd r) (write r.d fun s l => V r.a [] s l + V r.b [r.a] s l)
    (pred2 r.pc.toNat r.pv.toNat (carry fun s l => V r.a [] s l + V r.b [r.a] s l)
      (outside fun s l => SV r.a [] s l + SV r.b [r.a] s l)) noFlags) ∧
  (∀ r : LadcOp, YieldsIf bound (.ladc r) (write r.d fun s l => V r.a [] s l + V r.b [r.a] s l + cin r.pin s l)
    (pred2 r.pc.toNat r.pv.toNat (carry fun s l => V r.a [] s l + V r.b [r.a] s l + cin r.pin s l)
      (outside fun s l => SV r.a [] s l + SV r.b [r.a] s l + cin r.pin s l)) noFlags) ∧
  (∀ r : LaddOp, YieldsIf bound (.lsub r) (write r.d fun s l => V r.a [] s l - V r.b [r.a] s l)
    (pred2 r.pc.toNat r.pv.toNat (borrow fun s l => V r.a [] s l - V r.b [r.a] s l)
      (outside fun s l => SV r.a [] s l - SV r.b [r.a] s l)) noFlags) ∧
  (∀ r : LadcOp, YieldsIf bound (.lsbc r) (write r.d fun s l => V r.a [] s l - V r.b [r.a] s l - cin r.pin s l)
    (pred2 r.pc.toNat r.pv.toNat (borrow fun s l => V r.a [] s l - V r.b [r.a] s l - cin r.pin s l)
      (outside fun s l => SV r.a [] s l - SV r.b [r.a] s l - cin r.pin s l)) noFlags) ∧
  (∀ r : LnegOp, YieldsIf bound (.lneg r) (write r.d fun s l => -(V r.a [] s l : Int))
    (pred2 r.pc.toNat r.pv.toNat (fun s l => decide (V r.a [] s l ≠ 0)) fun s l => decide (V r.a [] s l = 2 ^ (N s l - 1))) noFlags)

/-- LCMP, LMULW, LSHL, LSHR and LSHR.i on the groups of a bound set, and the frame (R120, R121, R122). -/
def Obligations.LimbCompareMultiplyShift : Prop :=
  let bound (s : State) (ls : List Nat) : Prop := ∀ l ∈ ls, s.limbL l ≠ 0
  let N (s : State) (l : Nat) : Nat := 32 * s.limbL l
  let V (f : BitVec 7) (prev : List (BitVec 7)) (s : State) (l : Nat) : Nat := groupV (s.limbL l) l fun m => s.rd m f prev
  let SV (f : BitVec 7) (prev : List (BitVec 7)) (s : State) (l : Nat) : Int := groupSV (N s l) (V f prev s l)
  let first (f : BitVec 7) (prev : List (BitVec 7)) (s : State) (l : Nat) : Nat := (s.rd (l / s.limbL l * s.limbL l) f prev).toNat
  let word (x : State → Nat → Nat) (s : State) (l : Nat) : Word := BitVec.ofNat 32 (x s l / 2 ^ (32 * (l % s.limbL l)))
  (∀ r : LcmpOp, YieldsIf bound (.lcmp r) nothing (pred3 r.pe.toNat r.pltu.toNat r.plt.toNat
    (fun s l => decide (V r.a [] s l = V r.b [r.a] s l)) (fun s l => decide (V r.a [] s l < V r.b [r.a] s l))
    fun s l => decide (SV r.a [] s l < SV r.b [r.a] s l)) noFlags) ∧
  (∀ r : LmulwOp,
    let X (s : State) (l : Nat) : Nat := groupV (s.limbL l) l (fun m => s.rg m r.d.toNat) + V r.a [] s l * first r.b [r.a] s l
    YieldsIf bound (.lmulw r) (two r.d.toNat r.h.toNat (word fun s l => X s l % 2 ^ N s l)
      fun s l => BitVec.ofNat 32 (X s l / 2 ^ N s l)) nothing noFlags) ∧
  (∀ r : R3, YieldsIf bound (.lshl r) (one r.d.toNat (word fun s l => V r.a [] s l * 2 ^ first r.b [r.a] s l % 2 ^ N s l))
    nothing noFlags) ∧
  (∀ r : R3, YieldsIf bound (.lshr r) (one r.d.toNat (word fun s l => V r.a [] s l / 2 ^ first r.b [r.a] s l)) nothing noFlags) ∧
  (∀ r : R3, YieldsIf bound (.lshrI r) (one r.d.toNat (word fun s l =>
    (SV r.a [] s l / 2 ^ first r.b [r.a] s l % 2 ^ N s l).toNat)) nothing noFlags)

/-- BIND binds whole free groups at a supported width or raises LIMBSHAPE for every lane; UNBIND ends the sets (R111, R113,
R118, R387). -/
def Obligations.BindAndUnbind : Prop :=
  (∀ s k b ls (w : BitVec 3), Gang s (.bind w) k b ls → w.toNat ≤ 4 →
    (∀ l ∈ ls, s.boundSet l = 0 ∧ ∀ m, m / (4 * 2 ^ w.toNat) = l / (4 * 2 ^ w.toNat) → m ∈ ls) →
    ∃ t, exec (.bind w) s = .next t ∧ t = { s with teams := t.teams, fresh := s.fresh + 1 } ∧
      (∀ j, j ≠ k → t.team j = s.team j) ∧
      Threads s t k b ls (shapeOf (.bind w) s.iss.pfx) fun _ x => { x with limbL := 4 * 2 ^ w.toNat, bset := s.fresh + 1 }) ∧
  (∀ s k b ls (w : BitVec 3), Gang s (.bind w) k b ls →
    (4 < w.toNat ∨ ∃ l ∈ ls, s.boundSet l ≠ 0 ∨ ∃ m, m / (4 * 2 ^ w.toNat) = l / (4 * 2 ^ w.toNat) ∧ m ∉ ls) →
    Faults (.bind w) s k b (ls.map fun l => (l, flt .limbShape))) ∧
  Changes .unbind fun _ _ x => { x with limbL := 0, bset := 0 }

/-- FADD, FSUB, FMUL, FMA, FDIV, FSQRT, FRCP, FRSQ, FEXP2, FLOG2: one rounding of the exact value, with its flags (R131,
R132, R133, R134, R138, R139, R141). -/
def Obligations.FloatArithmeticResults : Prop :=
  let fp (i : Instr) (d : BitVec 7) (f : State → Nat → FRes) : Prop :=
    Yields i (one d.toNat fun s l => BitVec.ofNat 32 (F32.deliver s.rmode (f s l)).1) nothing
      (lanesFlags fun s l => (F32.deliver s.rmode (f s l)).2)
  (∀ r : R3,
    let A (s : State) (l : Nat) : FVal := F32.decode (s.rd l r.a []).toNat
    let B (s : State) (l : Nat) : FVal := F32.decode (s.rd l r.b [r.a]).toNat
    let C (s : State) (l : Nat) : FVal := F32.decode (match s.iss.pfx with
      | some p => (s.rd l p.c4 [r.a, r.b]).toNat
      | none => (s.rg l r.d.toNat).toNat)
    fp (.fadd r) r.d (fun s l => sumVals s.rmode [A s l, B s l]) ∧
    fp (.fsub r) r.d (fun s l => sumVals s.rmode [A s l, (B s l).neg]) ∧
    fp (.fmul r) r.d (fun s l => mulVals (A s l) (B s l)) ∧
    fp (.fma r) r.d (fun s l => fmaVals s.rmode (A s l) (B s l) (C s l)) ∧
    fp (.fdiv r) r.d (fun s l => divVals (A s l) (B s l))) ∧
  (∀ r : R2,
    let A (s : State) (l : Nat) : FVal := F32.decode (s.rd l r.a []).toNat
    fp (.fsqrt r) r.d (fun s l => sqrtVal (A s l)) ∧ fp (.frcp r) r.d (fun s l => rcpVal (A s l)) ∧
    fp (.frsq r) r.d (fun s l => rsqVal (A s l)) ∧ fp (.fexp2 r) r.d (fun s l => exp2Val (A s l)) ∧
    fp (.flog2 r) r.d (fun s l => log2Val (A s l)))

/-- FMIN to FMAXP, FCLASS, FSGN, FCMP, the packed bf16x2 and f16x2 instructions and FDOT: results, flags and frame (R125,
R128, R133, R139, R140, R142, R143, R144, R145, R146). -/
def Obligations.SelectClassAndPackedResults : Prop :=
  ((∀ r : R3,
     let mm (i : Instr) (mx prop : Bool) : Prop :=
       let f (s : State) (l : Nat) := F32.minMax mx prop (s.rd l r.a []).toNat (s.rd l r.b [r.a]).toNat
       Yields i (one r.d.toNat fun s l => BitVec.ofNat 32 (f s l).1) nothing (lanesFlags fun s l => (f s l).2)
     mm (.fmin r) false false ∧ mm (.fmax r) true false ∧ mm (.fminp r) false true ∧ mm (.fmaxp r) true true) ∧
   (∀ r : R2, Yields (.fclass r) (one r.d.toNat fun s l =>
     let x := s.rd l r.a []
     let e := x.toNat / 2 ^ 23 % 256
     let m := x.toNat % 2 ^ 23
     let kind := if e = 255 then (if m = 0 then 0 else 4) else if e = 0 then (if m = 0 then 3 else 2) else 1
     if kind = 4 then (if m < 2 ^ 22 then 0x100 else 0x200) else if x.msb then BitVec.ofNat 32 (2 ^ kind) else BitVec.ofNat 32 (2 ^ (7 - kind)))
     nothing noFlags) ∧
   (∀ r : FsgnOp, Yields (.fsgn r) (one r.d.toNat fun s l =>
     let a := s.rd l r.a []
     let b := s.rd l r.b [r.a]
     let sgn := match r.mode.toNat with | 0 => b.msb | 1 => !b.msb | 2 => xor a.msb b.msb | _ => false
     BitVec.ofNat 32 (a.toNat % 2 ^ 31 + if sgn then 2 ^ 31 else 0)) nothing noFlags) ∧
   ∀ r : FcmpOp, Instr.wf (.fcmp r) = true →
     let A (s : State) (l : Nat) : FVal := F32.decode (s.rd l r.a []).toNat
     let B (s : State) (l : Nat) : FVal := F32.decode (s.rd l r.b [r.a]).toNat
     let un (s : State) (l : Nat) : Bool := (A s l).isNan || (B s l).isNan
     let c (s : State) (l : Nat) : Bool := match r.cond.toNat with
       | 0 => !un s l && (A s l).eqv (B s l)
       | 1 => un s l || !(A s l).eqv (B s l)
       | 2 => !un s l && (A s l).lt (B s l)
       | 3 => !un s l && !(B s l).lt (A s l)
       | 4 => !un s l && (B s l).lt (A s l)
       | 5 => !un s l && !(A s l).lt (B s l)
       | 6 => un s l
       | _ => !un s l
     Yields (.fcmp r) nothing (pred r.pd.toNat fun s l => match r.comb.toNat with
         | 0 => c s l | 1 => c s l && s.rp l r.cp.toNat | _ => c s l || s.rp l r.cp.toNat)
       (lanesFlags fun s l => if (A s l).isSig || (B s l).isSig || (r.sig && un s l) then fNV else 0)) ∧
  (∀ r : R3,
   let a (s : State) (l : Nat) : Nat := (s.rd l r.a []).toNat
   let b (s : State) (l : Nat) : Nat := (s.rd l r.b [r.a]).toNat
   let c (s : State) (l : Nat) : Nat := match s.iss.pfx with
     | some p => (s.rd l p.c4 [r.a, r.b]).toNat
     | none => (s.rg l r.d.toNat).toNat
   let lo (x : Nat) : Nat := x % 65536
   let hi (x : Nat) : Nat := x / 65536
   let both (i : Instr) (f : State → Nat → Nat → Nat → Nat × BitVec 5) : Prop :=
     Yields i (one r.d.toNat fun s l => BitVec.ofNat 32 ((f s (lo (a s l)) (lo (b s l)) (lo (c s l))).1 +
         65536 * (f s (hi (a s l)) (hi (b s l)) (hi (c s l))).1)) nothing
       (lanesFlags fun s l => (f s (lo (a s l)) (lo (b s l)) (lo (c s l))).2 ||| (f s (hi (a s l)) (hi (b s l)) (hi (c s l))).2)
   let fmt (F : Fmt) (add sub mul fma mn mx dot : Instr) : Prop :=
     both add (fun s x y _ => F.deliver s.rmode (sumVals s.rmode [F.operand x, F.operand y])) ∧
     both sub (fun s x y _ => F.deliver s.rmode (sumVals s.rmode [F.operand x, (F.operand y).neg])) ∧
     both mul (fun s x y _ => F.deliver s.rmode (mulVals (F.operand x) (F.operand y))) ∧
     both fma (fun s x y z => F.deliver s.rmode (fmaVals s.rmode (F.operand x) (F.operand y) (F.operand z))) ∧
     both mn (fun _ x y _ => F.minMax false false x y) ∧
     both mx (fun _ x y _ => F.minMax true false x y) ∧
     let d (s : State) (l : Nat) : Nat × BitVec 5 := F32.deliver s.rmode (dotVals s.rmode (F32.decode (s.rg l r.d.toNat).toNat)
       (F.operand (lo (a s l))) (F.operand (lo (b s l))) (F.operand (hi (a s l))) (F.operand (hi (b s l))))
     Yields dot (one r.d.toNat fun s l => BitVec.ofNat 32 (d s l).1) nothing (lanesFlags fun s l => (d s l).2)
   fmt BF16 (.faddBf16x2 r) (.fsubBf16x2 r) (.fmulBf16x2 r) (.fmaBf16x2 r) (.fminBf16x2 r) (.fmaxBf16x2 r) (.fdotBf16x2 r) ∧
   fmt F16 (.faddF16x2 r) (.fsubF16x2 r) (.fmulF16x2 r) (.fmaF16x2 r) (.fminF16x2 r) (.fmaxF16x2 r) (.fdotF16x2 r))

/-- The five rounding modes on exact significands; CVT and CVTP: narrowing, widening, saturating and BFP, flags and frame
(R128, R129, R130, R131, R147, R148, R149, R150, R151). -/
def Obligations.RoundingAndConversions : Prop :=
  (let half (code : Nat) : Fmt := if code = 1 then F16 else BF16
   let int (code : Nat) : Option (Nat × Bool) := match code with
     | 3 => some (32, true) | 4 => some (32, false) | 6 => some (16, true) | 7 => some (16, false)
     | 8 => some (8, true) | 9 => some (8, false) | _ => none
   let out (i : Instr) (d : BitVec 7) (f : State → Nat → Nat × BitVec 5) : Prop :=
     Yields i (one d.toNat fun s l => BitVec.ofNat 32 (f s l).1) nothing (lanesFlags fun s l => (f s l).2)
   (∀ r : CvtOp, Instr.wf (.cvt r) = true →
     let a (s : State) (l : Nat) : Nat := (s.rd l r.a []).toNat
     let ex (s : State) (l : Nat) : Nat := (s.rd l r.b [r.a]).toNat % 256
     let m : Nat := r.mw.toNat + 2
     (r.dst.toNat = 1 ∨ r.dst.toNat = 2 → out (.cvt r) r.d fun s l =>
       let x := narrow (half r.dst.toNat) s.rmode (a s l)
       if r.hi then ((s.rg l r.d.toNat).toNat % 65536 + 65536 * x.1, x.2) else x) ∧
     (r.src.toNat = 1 ∨ r.src.toNat = 2 → out (.cvt r) r.d fun s l =>
       widen (half r.src.toNat) (if r.hi then a s l / 65536 else a s l % 65536)) ∧
     (∀ w sg, int r.dst.toNat = some (w, sg) → out (.cvt r) r.d fun s l =>
       let x := toIntSat s.rmode (F32.decode (a s l)) (if sg then -(2 ^ (w - 1) : Int) else 0)
         (if sg then 2 ^ (w - 1) - 1 else 2 ^ w - 1)
       ((BitVec.ofInt 32 x.1).toNat, x.2)) ∧
     (∀ w sg, int r.src.toNat = some (w, sg) → out (.cvt r) r.d fun s l =>
       let x := BitVec.ofNat w (a s l)
       fromInt s.rmode (if sg then x.toInt else x.toNat)) ∧
     (r.dst.toNat = 5 → out (.cvt r) r.d fun s l => toBfp s.rmode m (ex s l) (a s l)) ∧
     (r.src.toNat = 5 → out (.cvt r) r.d fun s l => (fromBfp m (ex s l) (a s l % 2 ^ m), 0))) ∧
   ∀ r : CvtpOp, out (.cvtp r) r.d fun s l =>
     let x := narrow (half r.dst.toNat) s.rmode (s.rd l r.a []).toNat
     let y := narrow (half r.dst.toNat) s.rmode (s.rd l r.b [r.a]).toNat
     (x.1 + 65536 * y.1, x.2 ||| y.2)) ∧
  ((∀ (s : Bool) (m k : Nat), 0 < k →
     let h (mode : Nat) : Nat := (roundShift mode s m k).1
     (2 * h 0 * 2 ^ k ≤ 2 * m + 2 ^ k ∧ 2 * m ≤ 2 * h 0 * 2 ^ k + 2 ^ k) ∧
     (2 * m % 2 ^ (k + 1) = 2 ^ k → h 0 % 2 = 0) ∧
     h 1 = m / 2 ^ k ∧
     h 2 = (if s then m / 2 ^ k else (m + 2 ^ k - 1) / 2 ^ k) ∧
     h 3 = (if s then (m + 2 ^ k - 1) / 2 ^ k else m / 2 ^ k) ∧
     h 4 = (2 * m + 2 ^ k) / 2 ^ (k + 1) ∧
     ∀ mode, (roundShift mode s m k).2 = decide (m % 2 ^ k ≠ 0)) ∧
   ∀ (mode : Nat) (v : Nat), v < 2 ^ 32 →
     F32.deliver mode (F32.decode v, 0) = (if v / 2 ^ 23 % 256 = 255 ∧ v % 2 ^ 23 ≠ 0 then F32.nan else v, 0))

/-- SHFL, BCAST, VOTE, MATCH, COMPACT; GREDUCE and GSCAN by the fixed tree; RAND and RANDF by the generator: results and
frame (R152, R154, R155, R156, R157, R158, R159, R160, R165, R166). -/
def Obligations.CrossLaneResults : Prop :=
  (let mask (ls : List Nat) : Dword := ls.foldl (fun m l => m ||| 1#64 <<< l) 0
   (∀ s k b ls (r : ShflOp), Gang s (.shfl r) k b ls → ∃ t, exec (.shfl r) s = .next t ∧
     let K (l : Nat) : Nat := if r.useimm then r.imm.toNat else (s.rd l r.b [r.a]).toNat
     let src (l : Nat) : Int := match r.mode.toNat with | 0 => K l | 1 => l - K l | 2 => l + K l | _ => (l ^^^ K l : Nat)
     let from_ (l : Nat) : Option Nat := ls.find? fun u => decide ((u : Int) = src l ∧ u ≤ 63)
     LaneResult s t k b ls (shapeOf (.shfl r) s.iss.pfx)
       (fun l n => if n = r.d.toNat then some (match from_ l with
         | some u => s.rd u r.a []
         | none => if r.fbr then s.rg l r.fb.toNat else 0) else none)
       (fun l n => if n = r.pf.toNat ∧ n < 7 then some (from_ l).isSome else none) 0) ∧
   (∀ s k b ls (r : R2), Gang s (.bcast r) k b ls → ∃ t, exec (.bcast r) s = .next t ∧
     LaneResult s t k b ls (shapeOf (.bcast r) s.iss.pfx)
       (fun _ n => if n = r.d.toNat then some (s.rd (ls.headD 0) r.a []) else none) (fun _ _ => none) 0) ∧
   (∀ s k b ls (r : VoteOp), Gang s (.vote r) k b ls → Instr.wf (.vote r) = true → ∃ t, exec (.vote r) s = .next t ∧
     let hs := ls.filter fun l => s.rp l r.ps.toNat != r.psn
     LaneResult s t k b ls (shapeOf (.vote r) s.iss.pfx)
       (fun _ n => if r.cw ∧ n = r.cn.toNat then some (BitVec.ofNat 32 hs.length)
         else if r.mode = 4 ∧ n = r.d.toNat then some ((mask hs).setWidth 32)
         else if r.mode = 4 ∧ n = r.d.toNat + 1 then some ((mask hs >>> 32).setWidth 32) else none)
       (fun _ n => if r.mode ≠ 4 ∧ n = r.pd.toNat ∧ n < 7 then some (match r.mode.toNat with
         | 0 => decide (hs.length = ls.length) | 1 => decide (0 < hs.length) | 2 => decide (hs.length = 0)
         | _ => decide (hs.length = 0 ∨ hs.length = ls.length)) else none) 0) ∧
   (∀ s k b ls (r : MatchOp), Gang s (.match_ r) k b ls → ∃ t, exec (.match_ r) s = .next t ∧
     let v (l : Nat) : Nat := if r.w then (s.rd64 l r.a).toNat else (s.rd l r.a []).toNat
     let same (l : Nat) : List Nat := ls.filter fun u => v u = v l
     LaneResult s t k b ls (shapeOf (.match_ r) s.iss.pfx)
       (fun l n => if n = r.d.toNat then some ((mask (same l)).setWidth 32)
         else if n = r.d.toNat + 1 then some ((mask (same l) >>> 32).setWidth 32) else none)
       (fun l n => if n = r.pd.toNat ∧ n < 7 then some (decide (same l = ls)) else none) 0) ∧
   (∀ s k b ls (r : CompactOp), Gang s (.compact r) k b ls → ∃ t, exec (.compact r) s = .next t ∧
     let sel := ls.filter fun l => s.rp l r.ps.toNat != r.psn
     LaneResult s t k b ls (shapeOf (.compact r) s.iss.pfx)
       (fun l n => if n = r.d.toNat then some (match sel[ls.idxOf l]? with | some u => s.rd u r.a [] | none => 0) else none)
       (fun l n => if n = r.pd.toNat ∧ n < 7 then some (decide (ls.idxOf l < sel.length)) else none) 0)) ∧
  ((∀ r : GredOp,
     let tree (s : State) (l : Nat) : NodeVal := treeNode r.op.toNat s.rmode
       (fun o => if (l / 2 ^ (r.seg.toNat + 2) * 2 ^ (r.seg.toNat + 2) + o) ∈ s.lanes then
         some (s.rd (l / 2 ^ (r.seg.toNat + 2) * 2 ^ (r.seg.toNat + 2) + o) r.a []).toNat else none) (r.seg.toNat + 2) 0
     Yields (.greduce r) (one r.d.toNat fun s l => BitVec.ofNat 32 ((tree s l).1.getD 0)) nothing (lanesFlags fun s l => (tree s l).2)) ∧
   (∀ r : GscanOp,
     let S : Nat := 2 ^ (r.seg.toNat + 2)
     let pre (s : State) (l : Nat) : NodeVal := prefixFold r.op.toNat s.rmode
       (fun o => if l - l % S + o ∈ s.lanes then some (s.rd (l - l % S + o) r.a []).toNat else none)
       (l % S + if r.incl then 1 else 0) (r.seg.toNat + 3) 0 (none, 0)
     Yields (.gscan r) (one r.d.toNat fun s l => BitVec.ofNat 32 ((pre s l).1.getD 0)) nothing (lanesFlags fun s l => (pre s l).2)) ∧
   (∀ op mode leaf h j, treeNode op mode leaf (h + 1) j =
     comb op mode (treeNode op mode leaf h (2 * j)) (treeNode op mode leaf h (2 * j + 1))) ∧
   (∀ op mode x f g, comb op mode (none, f) (x, g) = (x, f ||| g) ∧ comb op mode (x, f) (none, g) = (x, f ||| g)) ∧
   (let word (s : State) (k b l : Nat) (x : Thread) : Word :=
       let c := x.draws
       let s0 := (s.viewTeam k).rngkey ^^^ (BitVec.ofNat 32 ((s.viewTeam k).teamix * (64 * (s.viewTeam k).bands) + (64 * b + l)) * 0x9E3779B9#32)
       let s1 := s0 + (c + 1) * 0x6A09E667#32
       let s3 := (s1 ^^^ (s1 >>> 16)) * 0x045D9F3B#32
       s3 ^^^ (s3 >>> 16)
     ∀ (r : RD) s k b ls,
       (Gang s (.rand r) k b ls → ∃ t, exec (.rand r) s = .next t ∧ OnlyTeam s t k ∧ Threads s t k b ls (shapeOf (.rand r) s.iss.pfx) fun l x =>
         { (x.setG r.d.toNat (word s k b l x)) with draws := x.draws + 1 }) ∧
       (Gang s (.randf r) k b ls → ∃ (t : State) (v : Nat → Thread → Word), exec (.randf r) s = .next t ∧ OnlyTeam s t k ∧ (Threads s t k b ls (shapeOf (.randf r) s.iss.pfx) fun l x =>
         { (x.setG r.d.toNat (v l x)) with draws := x.draws + 1 }) ∧
         ∀ l x, ∃ m e, F32.decode (v l x).toNat = .fin false m e ∧
           m * 2 ^ (e + 200).toNat = (word s k b l x).toNat / 256 * 2 ^ 176)))

/-- REGPUT deposits in LANE order while room lasts, REGTAKE makes one request a class, requests take the oldest entries
(R161, R162, R163, R164). -/
def Obligations.GussetTable : Prop :=
  (∀ s k b ls (r : RegputOp), Gang s (.regput r) k b ls → Instr.wf (.regput r) = true → ∃ t, exec (.regput r) s = .next t ∧
    let c := s.core (coreOfTeam k)
    let m := 256 - c.gusset.length
    t = { s with teams := t.teams, cores := t.cores } ∧ (∀ j, j ≠ k → t.team j = s.team j) ∧
    (∀ j, j ≠ coreOfTeam k → t.core j = s.core j) ∧
    t.core (coreOfTeam k) = { c with
      gusset := c.gusset ++ (indexed (ls.take m)).map fun e => (⟨k, (s.rd e.2 r.a []).toNat % 16,
        (List.range (r.wn.toNat + 1)).map fun i => s.rg e.2 (r.b.toNat + i), c.gseq + e.1⟩ : GussetEntry)
      gseq := c.gseq + (ls.take m).length } ∧
    LaneWrites s t k b ls (shapeOf (.regput r) s.iss.pfx) (fun _ _ => none)
      (fun l n => if n = r.pd.toNat then some (decide (ls.idxOf l < m)) else none) 0) ∧
  (∀ s k b ls (r : RegtakeOp), Gang s (.regtake r) k b ls → ∃ t, exec (.regtake r) s = .next t ∧
    let cls (l : Nat) : Nat := (s.rd l r.a []).toNat % 16
    t = { s with teams := t.teams, cores := t.cores } ∧ (∀ j, j ≠ k → t.team j = s.team j) ∧
    (∀ j, j ≠ coreOfTeam k → t.core j = s.core j) ∧
    t.core (coreOfTeam k) = { s.core (coreOfTeam k) with greqs := (t.core (coreOfTeam k)).greqs } ∧
    (∀ j x, ((t.core (coreOfTeam k)).greqs.filter fun q => q.team == j && q.cls == x) =
      ((s.core (coreOfTeam k)).greqs.filter fun q => q.team == j && q.cls == x) ++
        if j = k ∧ (∃ l ∈ ls, cls l = x) then
          [⟨k, x, (ls.filter fun l => cls l == x).map (64 * b + ·), r.d.toNat, r.wn.toNat + 1⟩] else []) ∧
    (∀ i, (∀ l ∈ ls, i ≠ 64 * b + l) → t.thread k i = s.thread k i) ∧
    ∀ l ∈ ls, ∃ es, t.thread k (64 * b + l) = { s.thread k (64 * b + l) with
        empty := es
        qpos := ((s.thread k (64 * b + l)).pop (popsOf (s.thread k (64 * b + l)) (shapeOf (.regtake r) s.iss.pfx).srcs)).qpos } ∧
      ∀ n, (t.thread k (64 * b + l)).full n =
        if r.d.toNat ≤ n ∧ n ≤ r.d.toNat + r.wn.toNat + 1 then false else (s.thread k (64 * b + l)).full n) ∧
  (∀ s k b ls (r : RA), Gang s (.regflush r) k b ls → ∃ t, exec (.regflush r) s = .next t ∧
    t = ((sortAsc (dedup (ls.map fun l => (s.rd l r.a []).toNat % 16))).foldl (fun u x =>
      ((u.core (coreOfTeam k)).greqs.filter fun q => q.team == k && q.cls == x).foldl
        (fun u q => u.serve (coreOfTeam k) q) u) s).popLanes (shapeOf (.regflush r) s.iss.pfx) ls) ∧
  (∀ s k cls q, ((s.core (coreOfTeam k)).greqs.find? fun q => q.team == k && q.cls == cls) = some q →
    q.ts.length ≤ ((s.core (coreOfTeam k)).entriesOf k cls).length →
    exec (.regtakeServe k cls) s = .next (s.serve (coreOfTeam k) q)) ∧
  ∀ (s : State) (c : Nat) (q : GussetReq), q.ts.Nodup → (∀ i ∈ q.ts, (s.thread q.team i).isLive = true) →
    let es := ((s.core c).gusset.filter fun e => e.team == q.team && e.cls == q.cls).take q.ts.length
    let t := s.serve c q
    (∀ j (h : j < q.ts.length), (t.thread q.team q.ts[j]).g q.reg =
        (match es[j]? with | some e => BitVec.ofNat 32 (e.ws.length + 16 * q.cls) | none => 0) ∧
      (∀ i, i < q.n → (t.thread q.team q.ts[j]).g (q.reg + 1 + i) =
        (match es[j]? with | some e => e.ws.getD i 0 | none => 0)) ∧
      (∀ i, i ≤ q.n → (t.thread q.team q.ts[j]).full (q.reg + i) = true)) ∧
    (∀ j i, j ≠ q.team ∨ i ∉ q.ts → t.thread j i = s.thread j i) ∧
    t = { s with teams := t.teams, cores := t.cores } ∧ (∀ j, j ≠ c → t.core j = s.core j) ∧
    (∀ j, t.team j = { s.team j with threads := (t.team j).threads }) ∧
    t.core c = { s.core c with
      gusset := (s.core c).gusset.filter fun e => !(es.any fun x => x.seq == e.seq && x.team == e.team)
      greqs := (s.core c).greqs.erase q }

/-- BR, CALL, BRF, CALLF and RET: where every lane goes on, links and the shadow stack, LIMBDIV, OVLMISS, RETEMPTY, RETLINK
(R82, R83, R84, R87, R88, R89, R91, R112). -/
def Obligations.TransfersOfControl : Prop :=
  (let near (pc : Pc) (off : BitVec 19) : Int := (pc.toNat / 4 % 8192 : Nat) + off.toInt
   let target (s : State) (off : BitVec 19) : Pc :=
     BitVec.ofNat 17 (s.iss.pc.toNat / 32768 * 32768 + 4 * (near s.iss.pc off).toNat)
   let on (s : State) (g : BitVec 3) (n : Bool) (l : Nat) : Bool := s.rp l g.toNat != n
   let goes (s : State) (g : BitVec 3) (n : Bool) (off : BitVec 19) (l : Nat) : Pc :=
     if on s g n l then target s off else s.iss.npc
   let divided (s : State) (ls : List Nat) (f : Nat → Bool) : Prop :=
     (∃ n, n ≠ 0 ∧ ∀ l ∈ ls, s.boundSet l = n) ∧ ∃ l ∈ ls, ∃ m ∈ ls, f l ≠ f m
   (∀ s k b ls (r : BrOp), Gang s (.br r) k b ls → Together s ls (goes s r.g r.n r.off) → ∃ t, exec (.br r) s = .next t ∧
     Moves s t k b ls (shapeOf (.br r) s.iss.pfx) (fun _ x => x) (goes s r.g r.n r.off)) ∧
   (∀ s k b ls (r : CallOp), Gang s (.call r) k b ls → Together s ls (goes s r.g r.n r.off) → ∃ t, exec (.call r) s = .next t ∧
     let link : Word := BitVec.ofNat 32 ((s.iss.pc.toNat / 4 % 8192 + 1) * 4 + s.iss.pc.toNat / 32768 * 32768 +
       s.ovlIn (coreOfTeam k) (s.iss.pc.toNat / 32768) * 131072)
     Moves s t k b ls (shapeOf (.call r) s.iss.pfx) (fun l x => if on s r.g r.n l then
       ({ x with sstk := link :: x.sstk.take 15 } : Thread).setG r.link.toNat link else x) (goes s r.g r.n r.off)) ∧
   (∀ s k b ls (r : BrOp), Lanes s (.br r) k b ls → divided s ls (on s r.g r.n) →
     Faults (.br r) s k b (ls.map fun l => (l, flt .limbDiv))) ∧
   (∀ s k b ls (r : CallOp), Lanes s (.call r) k b ls → divided s ls (on s r.g r.n) →
     Faults (.call r) s k b (ls.map fun l => (l, flt .limbDiv))) ∧
   (∀ (s : State) k b ls (r : BrOp), s.iss.who = .gang k b ls → (near s.iss.pc r.off < 0 ∨ 5460 < near s.iss.pc r.off) →
     s.decodeFault (.br r) = some .illPacket) ∧
   (∀ (s : State) k b ls (r : CallOp), s.iss.who = .gang k b ls →
     (near s.iss.pc r.off < 0 ∨ 5460 < near s.iss.pc r.off ∨ s.iss.pc.toNat / 4 % 8192 = 5460) →
     s.decodeFault (.call r) = some .illPacket)) ∧
  (let on (s : State) (g : BitVec 3) (n : Bool) (l : Nat) : Bool := s.rp l g.toNat != n
   let to_ (sl pkt : Nat) : Pc := BitVec.ofNat 17 (sl * 32768 + pkt * 4)
   let divided (s : State) (ls : List Nat) (f : Nat → Bool) : Prop :=
     (∃ n, n ≠ 0 ∧ ∀ l ∈ ls, s.boundSet l = n) ∧ ∃ l ∈ ls, ∃ m ∈ ls, f l ≠ f m
   let missing (s : State) (k ovl : Nat) : Prop :=
     ∀ sl, sl ≤ 2 → (nfind (s.core (coreOfTeam k)).slots sl).map (·.ovl) ≠ some ovl
   (∀ s k b ls (r : BrfOp) sl, Gang s (.brf r) k b ls → HoldsOverlay s (coreOfTeam k) sl r.ovl.toNat →
     let goes (l : Nat) : Pc := if on s r.g r.n l then to_ sl r.tpkt.toNat else s.iss.npc
     Together s ls goes → ∃ t, exec (.brf r) s = .next t ∧
       Moves s t k b ls (shapeOf (.brf r) s.iss.pfx) (fun _ x => x) goes) ∧
   (∀ s k b ls (r : CallfOp) sl, Gang s (.callf r) k b ls → HoldsOverlay s (coreOfTeam k) sl r.ovl.toNat →
     let goes (l : Nat) : Pc := if on s r.g r.n l then to_ sl r.tpkt.toNat else s.iss.npc
     let link : Word := BitVec.ofNat 32 ((s.iss.pc.toNat / 4 % 8192 + 1) * 4 + s.iss.pc.toNat / 32768 * 32768 +
       s.ovlIn (coreOfTeam k) (s.iss.pc.toNat / 32768) * 131072)
     Together s ls goes → ∃ t, exec (.callf r) s = .next t ∧
       Moves s t k b ls (shapeOf (.callf r) s.iss.pfx) (fun l x => if on s r.g r.n l then
         ({ x with sstk := link :: x.sstk.take 15 } : Thread).setG r.link.toNat link else x) goes) ∧
   (∀ s k b ls (r : RA) (sl : Nat → Nat), Gang s (.ret r) k b ls →
     let v (l : Nat) : Nat := (s.rd l r.a []).toNat
     (∀ l ∈ ls, (s.thread k (64 * b + l)).sstk.head? = some (s.rd l r.a []) ∧
       HoldsOverlay s (coreOfTeam k) (sl l) (v l / 131072 % 1024)) →
     Together s ls (fun l => to_ (sl l) (v l / 4 % 8192)) → ∃ t, exec (.ret r) s = .next t ∧
       Moves s t k b ls (shapeOf (.ret r) s.iss.pfx) (fun _ x => { x with sstk := x.sstk.tail })
         fun l => to_ (sl l) (v l / 4 % 8192)) ∧
   (∀ s k b ls (r : BrfOp), Lanes s (.brf r) k b ls → divided s ls (on s r.g r.n) →
     Faults (.brf r) s k b (ls.map fun l => (l, flt .limbDiv))) ∧
   (∀ s k b ls (r : CallfOp), Lanes s (.callf r) k b ls → divided s ls (on s r.g r.n) →
     Faults (.callf r) s k b (ls.map fun l => (l, flt .limbDiv))) ∧
   (∀ s k b ls (r : RA) (sl : Nat → Nat), Gang s (.ret r) k b ls →
     let v (l : Nat) : Nat := (s.rd l r.a []).toNat
     (∀ l ∈ ls, (s.thread k (64 * b + l)).sstk.head? = some (s.rd l r.a []) ∧
       HoldsOverlay s (coreOfTeam k) (sl l) (v l / 131072 % 1024)) →
     (∃ n, n ≠ 0 ∧ ∀ l ∈ ls, s.boundSet l = n) →
     (∃ l ∈ ls, ∃ m ∈ ls, to_ (sl l) (v l / 4 % 8192) ≠ to_ (sl m) (v m / 4 % 8192)) →
     Faults (.ret r) s k b (ls.map fun l => (l, flt .limbDiv))) ∧
   (∀ s k b ls (r : BrfOp), Gang s (.brf r) k b ls → (∀ l ∈ ls, on s r.g r.n l = true) → missing s k r.ovl.toNat →
     Faults (.brf r) s k b (ls.map fun l => (l, flt .ovlMiss))) ∧
   (∀ s k b ls (r : CallfOp), Gang s (.callf r) k b ls → (∀ l ∈ ls, on s r.g r.n l = true) → missing s k r.ovl.toNat →
     Faults (.callf r) s k b (ls.map fun l => (l, flt .ovlMiss))) ∧
   (∀ s k b ls (r : RA), Gang s (.ret r) k b ls →
     (∀ l ∈ ls, (s.thread k (64 * b + l)).sstk.head? = some (s.rd l r.a []) ∧
       missing s k ((s.rd l r.a []).toNat / 131072 % 1024)) →
     Faults (.ret r) s k b (ls.map fun l => (l, flt .ovlMiss))) ∧
   (∀ s k b ls (r : RA), Gang s (.ret r) k b ls → (∀ l ∈ ls, (s.thread k (64 * b + l)).sstk = []) →
     Faults (.ret r) s k b (ls.map fun l => (l, flt .retEmpty))) ∧
   (∀ s k b ls (r : RA), Gang s (.ret r) k b ls →
     (∀ l ∈ ls, ∃ v, (s.thread k (64 * b + l)).sstk.head? = some v ∧ v ≠ s.rd l r.a []) →
     Faults (.ret r) s k b (ls.map fun l => (l, flt .retLink))))

/-- JT and JTC: the checks in their order, the entry's load, the landing pad, and where every lane goes on (R87, R90, R112). -/
def Obligations.JumpTables : Prop :=
  (∀ (s : State) l i base bound label, bound + 1 ≤ i → s.tableTarget l i base bound label = .error (.flt (flt .jtBound))) ∧
  (∀ (s : State) l i base bound label, i < bound + 1 → base % 4 ≠ 0 →
    s.tableTarget l i base bound label = .error (.flt (flt .align))) ∧
  (∀ (s : State) l i base bound label f, i < bound + 1 → base % 4 = 0 → s.loadAt l 0 ((base + 4 * i) % 2 ^ 64) 4 = .error f →
    s.tableTarget l i base bound label = .error (.flt f)) ∧
  (∀ (s : State) l i base bound label u bs, i < bound + 1 → base % 4 = 0 → s.loadAt l 0 ((base + 4 * i) % 2 ^ 64) 4 = .ok (u, bs) →
    (let e := leNat bs
     (e % 4 ≠ 0 ∨ e / 2 ^ 27 % 32 ≠ 0 ∨ 5460 < e / 4 % 8192 →
        s.tableTarget l i base bound label = .error (.flt (flt .padMiss))) ∧
     (e % 4 = 0 → e / 2 ^ 27 % 32 = 0 → e / 4 % 8192 ≤ 5460 → u.findSlot u.issCore u.issSup (e / 2 ^ 17 % 1024) = none →
        s.tableTarget l i base bound label = .error (.flt (flt .ovlMiss))) ∧
     (e % 4 = 0 → e / 2 ^ 27 % 32 = 0 → e / 4 % 8192 ≤ 5460 → ∀ sl, u.findSlot u.issCore u.issSup (e / 2 ^ 17 % 1024) = some sl →
        let w := leNat (mread (u.core u.issCore).imem (sl * 65536 + e / 4 % 8192 * 12) 4)
        s.tableTarget l i base bound label = if w % 2 ^ 31 = 0x0C010000 + label then
          .ok (u, BitVec.ofNat 17 (sl * 32768 + e / 4 % 8192 * 4)) else .error (.flt (flt .padMiss))))) ∧
  (∀ s k b ls t (r : JtOp), Gang s (.jt r) k b ls →
    Serve (fun u l => match u.tableTarget l (u.rd l r.a []).toNat (u.rd64 l r.b).toNat r.bound.toNat r.label.toNat with
      | .ok (v, pc) => .ok (v.transfer l pc)
      | .error o => .error o) s ls t →
    Together s ls t.nextPc → exec (.jt r) s = .next (t.popLanes (shapeOf (.jt r) s.iss.pfx) ls)) ∧
  (∀ s k b ls t (r : JtcOp), Gang s (.jtc r) k b ls →
    Serve (fun u l => match u.tableTarget l (u.rd l r.a []).toNat (u.rd64 l r.b).toNat r.bound.toNat r.label.toNat with
      | .ok (v, pc) => .ok ((v.lane l fun x => (x.push (v.linkOf v.issCore v.iss.pc)).setG r.d.toNat
          (v.linkOf v.issCore v.iss.pc)).transfer l pc)
      | .error o => .error o) s ls t →
    Together s ls t.nextPc → exec (.jtc r) s = .next (t.popLanes (shapeOf (.jtc r) s.iss.pfx) ls))

/-- NOP, PAD, JOIN, the four JMASK forms, YIELD, and the completion of a JOIN (R55, R71, R72, R92, R93, R94, R96). That YIELD
keeps the counters of the ready threads of the quad in the field passed is the model's form of R96's give-way (DEDUCED, log
57). -/
def Obligations.GatheringAndMasks : Prop :=
  (∀ s k b ls, (Gang s .nop k b ls → exec .nop s = .next s) ∧ ∀ l, Gang s (.pad l) k b ls → exec (.pad l) s = .next s) ∧
  (∀ s c, Shut s .nop c → exec .nop s = .next s) ∧
  (∀ s k b ls j, Gang s (.join j) k b ls → ∃ t, exec (.join j) s = .next t ∧ OnlyTeam s t k ∧
    Threads s t k b ls (shapeOf (.join j) s.iss.pfx) fun l x =>
      if ((s.viewTeam k).j j.toNat).getLsbD l then { x with stat := .atJoin j s.iss.pc } else x) ∧
  (∀ s k b ls j, Gang s (.jmaskZ j) k b ls → exec (.jmaskZ j) s = .next (s.modTeam k fun x => x.setJ j.toNat 0)) ∧
  (∀ s k b ls j, Gang s (.jmaskG j) k b ls → ∃ m : Dword, exec (.jmaskG j) s = .next (s.modTeam k fun x => x.setJ j.toNat m) ∧
    ∀ i, m.getLsbD i = (((s.team k).j j.toNat).getLsbD i || decide (i < 64 ∧ i ∈ ls))) ∧
  (∀ s k b ls (r : JmOp), Gang s (.jmaskR r) k b ls →
    ∃ m : Dword, exec (.jmaskR r) s = .next (s.modTeam k fun x => x.setJ r.j.toNat m) ∧
      ∀ i, m.getLsbD i = (((s.team k).j r.j.toNat).getLsbD i || ls.any fun l => (s.rd64 l r.d).getLsbD i)) ∧
  (∀ (x : Team) (j n : Nat) (v : Dword), (x.setJ j v).j n = (if n = j then v else x.j n) ∧
    x.setJ j v = { x with jmask := (x.setJ j v).jmask }) ∧
  (∀ r : JmOp, Yields (.jmaskGet r) (pair r.d.toNat fun s _ => match s.iss.who with
    | .gang k _ _ => (s.viewTeam k).j r.j.toNat
    | _ => 0) nothing noFlags) ∧
  (∀ s k b ls, Gang s .yield k b ls → ∃ t, exec .yield s = .next t ∧ OnlyTeam s t k ∧
    Threads s t k b ls (shapeOf .yield s.iss.pfx) fun l x =>
      { x with passed := dedup ((((s.team k).quadThreads ((64 * b + l) / 64) ((64 * b + l) % 64 / 4)).filter fun j =>
        (s.thread k j).isReady && (s.thread k j).pc != (s.thread k (64 * b + l)).pc).map
        fun j => (s.thread k j).pc.toNat) }) ∧
  (∀ (s : State) (k b : Nat) (pc : Pc) (j : BitVec 3),
    let waits (i : Nat) : Prop := i ∈ (s.team k).liveThreads ∧ i / 64 = b ∧ (s.thread k i).stat = .atJoin j pc
    ((∃ i, waits i) ∧ (∀ i ∈ (s.team k).liveThreads, i / 64 = b → ((s.team k).j j.toNat).getLsbD (i % 64) = true → waits i) →
      ∃ t, exec (.joinCompletion k b pc j) s = .next t ∧ t = { s with teams := t.teams, cores := t.cores } ∧
        (∀ i, i ≠ k → t.team i = s.team i) ∧ (∀ c, c ≠ coreOfTeam k → t.core c = s.core c) ∧
        t.core (coreOfTeam k) = (s.core (coreOfTeam k)).count 9 1 ∧
        t.team k = { s.team k with threads := (t.team k).threads, ctxs := (t.team k).ctxs } ∧
        (∀ i, waits i → t.thread k i = { s.thread k i with stat := .ready }) ∧
        (∀ i, ¬ waits i → t.thread k i = s.thread k i) ∧
        ∀ q u p, (∃ i, waits i ∧ i % 64 / 4 = q) → (∃ i, waits i ∧ i % 64 / 4 = u) →
          (t.team k).classify b q = .uniform p → (t.team k).classify b u = .uniform p →
          ∃ c ∈ (t.team k).ctxs, c.band = b ∧ q ∈ c.quads ∧ u ∈ c.quads) ∧
    ((∃ i ∈ (s.team k).liveThreads, i / 64 = b ∧ ((s.team k).j j.toNat).getLsbD (i % 64) = true ∧ ¬ waits i) →
      exec (.joinCompletion k b pc j) s = .next s) ∧
    ((∀ i, ¬ waits i) → exec (.joinCompletion k b pc j) s = .next s))

/-- EXIT ends its lanes' threads and drops their pending data; the last exit of a team drops what the team holds open (R64,
R80, R81, R95, R161, R199, R257, R302, R321). What becomes of a record's batches is the model's reading (log 74). -/
def Obligations.ExitEndsThreads : Prop := ∀ s k b ls, Gang s .exit k b ls → (∀ l ∈ ls, s.boundSet l = 0) →
  ∃ t, exec .exit s = .next t ∧
    (∀ l ∈ ls, t.thread k (64 * b + l) = .gone) ∧ (∀ i, (∀ l ∈ ls, i ≠ 64 * b + l) → t.thread k i = s.thread k i) ∧
    (∀ j, j ≠ k → t.team j = s.team j) ∧
    t.fills = s.fills.filter (fun f => !(f.team == k && ls.any fun l => f.t == 64 * b + l)) ∧
    t.hbm = s.hbm ∧ t.hostMem = s.hostMem ∧ t.peerMem = s.peerMem ∧ t.copies = s.copies ∧
    t.records = s.records.map (fun (r : Rec) =>
      let more := if ls.any (fun l => r.who == .thread k (64 * b + l)) then s.lastDeps r.who r else []
      { r with deps := r.deps ++ more }) ∧
    ((∃ i, i ∈ (s.team k).liveThreads ∧ ∀ l ∈ ls, i ≠ 64 * b + l) →
      t = { s with teams := t.teams, fills := t.fills, records := t.records, objReqs := t.objReqs, ruleWaits := t.ruleWaits } ∧
      t.objReqs = s.objReqs.filter (fun q => !(ls.any fun l => q.who == .thread k (64 * b + l))) ∧
      t.ruleWaits = s.ruleWaits.filter (fun w => !(ls.any fun l => w.who == .thread k (64 * b + l))) ∧
      t.team k = { s.team k with threads := (t.team k).threads, queues := (t.team k).queues, dq := (t.team k).dq
                                 dqFirst := (t.team k).dqFirst }) ∧
    ((∀ i ∈ (s.team k).liveThreads, ∃ l ∈ ls, i = 64 * b + l) →
      (t.team k).queues = [] ∧ (t.team k).dq = [] ∧ (t.team k).pat = none ∧
      (t.core (coreOfTeam k)).gusset = (s.core (coreOfTeam k)).gusset.filter (fun e => e.team != k) ∧
      (t.core (coreOfTeam k)).greqs = (s.core (coreOfTeam k)).greqs.filter (fun q => q.team != k) ∧
      (t.die (dieOfCore (coreOfTeam k))).pins = (s.die (dieOfCore (coreOfTeam k))).pins.filter fun p => p.team != k)

/-- DQPOP marks its destinations empty, advances each thread's position and takes the entry, and a fill sets registers full
(R49, R50, R97). -/
def Obligations.DecisionPopsAndFills : Prop :=
  (∀ s k b ls (r : DqOp), Gang s (.dqpop r) k b ls → ∃ t, exec (.dqpop r) s = .next t ∧
    let regs := r.d.toNat :: if r.w then [r.d.toNat + 1] else []
    let q := s.team k
    t = { s with teams := t.teams, fills := t.fills, fresh := s.fresh + ls.length } ∧
    (∀ j, j ≠ k → t.team j = s.team j) ∧
    t.team k = { q with threads := (t.team k).threads, dq := (t.team k).dq, dqFirst := (t.team k).dqFirst } ∧
    (t.team k).dq = q.dq.drop ((t.team k).dqFirst - q.dqFirst) ∧
    (∀ i ∈ (t.team k).liveThreads, (t.team k).dqFirst ≤ max q.dqFirst (t.thread k i).dqpos) ∧
    t.fills = s.fills ++ ((indexed ls).map fun e => (⟨s.fresh + e.1, k, 64 * b + e.2, regs,
      match q.dq[(s.thread k (64 * b + e.2)).dqpos - q.dqFirst]? with
      | some v => .words (v.setWidth 32 :: if r.w then [(v >>> 32).setWidth 32] else [])
      | none => .decision (s.thread k (64 * b + e.2)).dqpos r.w⟩ : Fill)) ∧
    (∀ i, (∀ l ∈ ls, i ≠ 64 * b + l) → t.thread k i = s.thread k i) ∧
    ∀ l ∈ ls, ∃ es, t.thread k (64 * b + l) = { s.thread k (64 * b + l) with
        empty := es, dqpos := (s.thread k (64 * b + l)).dqpos + 1 } ∧
      ∀ n, (t.thread k (64 * b + l)).full n = if n ∈ regs then false else (s.thread k (64 * b + l)).full n) ∧
  (∀ (s : State) (f : Fill) (d : Nat) (ws : List Word), (s.fills.filter fun g => g.id == f.id) = [f] → f.val = .words ws →
    f.regs = (List.range ws.length).map (d + ·) → (s.thread f.team f.t).isLive = true →
    ∃ t, exec (.destinationFill f.id) s = .next t ∧
      t = { s with teams := t.teams, fills := s.fills.filter fun g => g.id != f.id } ∧ (∀ j, j ≠ f.team → t.team j = s.team j) ∧
      t.team f.team = { s.team f.team with threads := (t.team f.team).threads } ∧
      (∀ i, i ≠ f.t → t.thread f.team i = s.thread f.team i) ∧
      ∃ rs es, t.thread f.team f.t = { s.thread f.team f.t with regs := rs, empty := es } ∧
        ∀ n, if h : d ≤ n ∧ n < d + ws.length then (t.thread f.team f.t).g n = ws[n - d]'(by omega) ∧
            (t.thread f.team f.t).full n = true
          else (t.thread f.team f.t).g n = (s.thread f.team f.t).g n ∧ (t.thread f.team f.t).full n = (s.thread f.team f.t).full n)

/-- LD and ST: participants are served in ascending lane order, each at its effective address; the Shuttle's form; ALIGN
(R168, R186, R187, R188, R189, R114, R427). -/
def Obligations.LoadsAndStores : Prop :=
  let at_ (s : State) (l : Nat) (r : MemOp) (n : Nat) : Nat :=
    if r.space = 0 then ((s.rd64 l r.base).toNat + r.off.toNat * n) % 2 ^ 64
    else ((s.rd l r.base []).toNat + r.off.toNat * n) % 2 ^ 32
  let data (s : State) (l : Nat) (r : MemOp) : List Byte :=
    if r.size.toNat ≤ 2 then leBytes (2 ^ r.size.toNat) (s.rd l r.d [r.base]).toNat
    else (List.range (2 ^ r.size.toNat / 4)).flatMap fun i => leBytes 4 (s.rg l (r.d.toNat + i)).toNat
  (∀ s k b ls t (r : MemOp), Gang s (.ld r) k b ls →
    Serve (fun u l => match u.loadAt l r.space.toNat (at_ u l r (ldBytes r.size.toNat)) (ldBytes r.size.toNat) with
      | .ok (v, bs) => .ok (v.fillLater k (64 * b + l) r.d.toNat (ldWords r.size.toNat bs))
      | .error f => .error (.flt f)) s ls t →
    exec (.ld r) s = .next ((t.groupFills s.fresh).popLanes (shapeOf (.ld r) s.iss.pfx) ls)) ∧
  (∀ s k b ls t (r : MemOp), r.size.toNat ≤ 4 → Gang s (.st r) k b ls →
    (let n := 2 ^ r.size.toNat
     Serve (fun u l => match u.storeAt l r.space.toNat (at_ s l r n) (data u l r) (fun off => ls.any fun m =>
         decide (l < m) && (u.windowWords m r.space.toNat (at_ s m r n) n).contains off) with
       | .ok v => .ok v
       | .error f => .error (.flt f)) s ls t) →
    exec (.st r) s = .next (t.popLanes (shapeOf (.st r) s.iss.pfx) ls)) ∧
  (∀ s c t bs (r : MemOp), Shut s (.ld r) c →
    s.loadAt 0 r.space.toNat (at_ s 0 r (ldBytes r.size.toNat)) (ldBytes r.size.toNat) = .ok (t, bs) →
    exec (.ld r) s = .next ((t.setS c r.d.toNat (match r.size.toNat with
      | 1 => BitVec.ofInt 64 (sgn (leNat bs) 8)
      | 3 => BitVec.ofInt 64 (sgn (leNat bs) 16)
      | 4 => BitVec.ofInt 64 (sgn (leNat bs) 32)
      | _ => BitVec.ofNat 64 (leNat bs))).groupFills s.fresh)) ∧
  (∀ s c t (r : MemOp), r.size.toNat ≤ 3 → Shut s (.st r) c →
    s.storeAt 0 r.space.toNat (at_ s 0 r (2 ^ r.size.toNat)) (leBytes (2 ^ r.size.toNat) (s.viewS c r.d.toNat).toNat)
      (fun _ => false) = .ok t →
    exec (.st r) s = .next t) ∧
  (∀ s k b ls (r : MemOp), Gang s (.ld r) k b ls → (∀ l ∈ ls, at_ s l r (ldBytes r.size.toNat) % ldBytes r.size.toNat ≠ 0) →
    (∀ f ∈ s.fills, f.id < s.fresh) → Faults (.ld r) s k b (ls.map fun l => (l, flt .align))) ∧
  (∀ s k b ls (r : MemOp), r.size.toNat ≤ 4 → Gang s (.st r) k b ls →
    (∀ l ∈ ls, at_ s l r (2 ^ r.size.toNat) % 2 ^ r.size.toNat ≠ 0) →
    Faults (.st r) s k b (ls.map fun l => (l, flt .align))) ∧
  ∀ a b : Byte, ldWords 0 [a] = [a.setWidth 32] ∧ ldWords 1 [a] = [a.signExtend 32] ∧ ldWords 2 [a, b] = [(b ++ a).setWidth 32] ∧
    ldWords 3 [a, b] = [(b ++ a).signExtend 32]

/-- Scratchpad accesses: which allocation an address names, the extent check, HEMREC, and that no other byte changes (R169,
R170, R171, R177, R178, R202, R441). -/
def Obligations.NearAccesses : Prop :=
  (∀ (s : State) k b ls l ea n, s.iss.who = .gang k b ls → ea % n = 0 →
    s.place l 1 ea n = .ok (if ea / 2 ^ 31 % 2 = 0 then
      (if ea % 2 ^ 31 < (s.team k).sa then .at_ (.scr k (ea % 2 ^ 31)) else .out 1 (ea % 2 ^ 31) 31 (s.team k).sa)
      else if ea % 2 ^ 31 < (s.team k).sl then .at_ (.slice k l (ea % 2 ^ 31)) else .out 1 (ea % 2 ^ 31) 31 (s.team k).sl) ∧
    (let j := 8 * (coreOfTeam k / 4 * 4 + ea / 2 ^ 30 % 4) + ea / 2 ^ 27 % 8
     s.place l 2 ea n = (if (s.team j).live = false then .ok (.out 2 (ea % 2 ^ 27) 27 0)
      else if (s.team j).asid ≠ s.issAsid then .error (flt .freeze)
      else .ok (if ea % 2 ^ 27 < (s.team j).sa then .at_ (.scr j (ea % 2 ^ 27)) else .out 2 (ea % 2 ^ 27) 27 (s.team j).sa))) ∧
    s.place l 3 ea n = .ok (if ea < (s.team k).chipSize then
      .at_ (.chip (dieOfCore (coreOfTeam k)) ((s.team k).chipBase + ea)) else .out 3 ea 32 (s.team k).chipSize)) ∧
  (∀ (s : State) l sp ea n o off w size (bs : List Byte) skip, s.place l sp ea n = .ok (.out o off w size) → bs.length = n →
    s.loadAt l sp ea n = .ok (s.recordHem false o off w size, List.replicate n 0) ∧
    s.storeAt l sp ea bs skip = .ok (s.recordHem true o off w size)) ∧
  (∀ (s : State) k b ls wr o off w size, s.iss.who = .gang k b ls →
    s.recordHem wr o off w size = s.modTeam k fun x => if x.hemrec.getLsbD 0 = true then x else
      { x with hemrec := BitVec.ofNat 32 (1 + (if wr then 2 else 0) + 4 * o + 16 * (off / 4 % 32) + 512 * hemOffset off w size) }) ∧
  (∀ (s : State) l sp ea n p (bs : List Byte) skip, s.place l sp ea n = .ok (.at_ p) → bs.length = n →
    (∀ k o, p = .scr k o → s.loadAt l sp ea n = .ok (s, mread (s.team k).scratch o n) ∧
      ∃ m, s.storeAt l sp ea bs skip = .ok (s.modTeam k fun x => { x with scratch := m }) ∧ mread m o n = bs ∧
        ∀ a, a < o ∨ o + n ≤ a → mget m a = mget (s.team k).scratch a) ∧
    (∀ k j o, p = .slice k j o → s.loadAt l sp ea n = .ok (s, mread (s.team k).slices (4096 * j + o) n) ∧
      ∃ m, s.storeAt l sp ea bs skip = .ok (s.modTeam k fun x => { x with slices := m }) ∧ mread m (4096 * j + o) n = bs ∧
        ∀ a, a < 4096 * j + o ∨ 4096 * j + o + n ≤ a → mget m a = mget (s.team k).slices a) ∧
    ∀ d o, p = .chip d o → s.loadAt l sp ea n = .ok (s, mread (s.die d).chip o n) ∧
      ∃ m, s.storeAt l sp ea bs skip = .ok (s.modDie d fun x => { x with chip := m }) ∧ mread m o n = bs ∧
        ∀ a, a < o ∨ o + n ≤ a → mget m a = mget (s.die d).chip a) ∧
  (∀ off size, off < 2 ^ 26 → size ≤ off → hemOffset off 27 size = min (off - size) 4194303) ∧
  ∀ off size, 2 ^ 26 ≤ off → off < 2 ^ 27 → hemOffset off 27 size = 2 ^ 23 - min (2 ^ 27 - off) 4194304

/-- Global loads and stores: the value on the core's path, a store lands in the core's L1 alone, no other byte seen changes
(R168, R181, R182, R187, R203, R225, R395, R397). What waits for a
port that is not ACTIVE is the model's choice (log 71). -/
def Obligations.GlobalAccesses : Prop :=
  (∀ (s : State) k b ls ea, s.iss.who = .gang k b ls → 2 ^ 55 ≤ ea → s.globAt ea = .error (notMappedAt ea 3)) ∧
  (∀ (s : State) k b ls l ea n, s.iss.who = .gang k b ls → ea % n = 0 → ea < 2 ^ 55 →
    (∀ f, s.translate (.core (coreOfTeam k)) s.issAsid ea .read = .error f → s.loadAt l 0 ea n = .error f) ∧
    (∀ f (bs : List Byte) skip, bs.length = n → s.translate (.core (coreOfTeam k)) s.issAsid ea .write = .error f →
      s.storeAt l 0 ea bs skip = .error f) ∧
    (∀ u pa e, s.translate (.core (coreOfTeam k)) s.issAsid ea .read = .ok (u, pa, e) →
      (let unit := s.unitOf (.thread k (64 * b + l))
       (u.viewed unit s.issAsid ea = true → s.loadAt l 0 ea n = .ok (u, u.viewRead unit pa n)) ∧
       (u.viewed unit s.issAsid ea = false → ∀ f, u.reach (coreOfTeam k) pa = .error f → s.loadAt l 0 ea n = .error f) ∧
       (u.viewed unit s.issAsid ea = false → u.reach (coreOfTeam k) pa = .ok () → e / 2 ^ 12 % 16 = 1 →
         s.loadAt l 0 ea n = .ok (u, u.homeRead pa n)) ∧
       (u.viewed unit s.issAsid ea = false → e / 2 ^ 12 % 16 ≠ 1 → targetOf pa = .hbm →
         ∃ t, s.loadAt l 0 ea n = .ok (t, u.corePeek (coreOfTeam k) pa n) ∧
           (∀ c q, t.coreSec c q = u.coreSec c q) ∧ (∀ q, t.homeSec q = u.homeSec q) ∧ t.hbm = u.hbm))) ∧
    ∀ u pa e (bs : List Byte) skip, bs.length = n → s.translate (.core (coreOfTeam k)) s.issAsid ea .write = .ok (u, pa, e) →
      (let unit := s.unitOf (.thread k (64 * b + l))
       (u.viewed unit s.issAsid ea = true → ∃ d, s.storeAt l 0 ea bs skip = .ok { u with det := d } ∧
         ({ u with det := d } : State) = u.viewWrite unit pa ea bs) ∧
       (u.viewed unit s.issAsid ea = false → e / 2 ^ 12 % 16 ≠ 1 → targetOf pa = .hbm → 0 < n → pa % 32 + n ≤ 32 →
         ∃ t, s.storeAt l 0 ea bs skip = .ok t ∧
           t.coreSec (coreOfTeam k) (pa / 32) = splice (u.coreSec (coreOfTeam k) (pa / 32)) (pa % 32) bs ∧
           (∃ x, nfind (t.core (coreOfTeam k)).l1 (pa / 32) = some x ∧
             ∀ i, pa % 32 ≤ i → i < pa % 32 + n → x.dirty.getLsbD i = true) ∧
           (∀ q, q ≠ pa / 32 → t.coreSec (coreOfTeam k) q = u.coreSec (coreOfTeam k) q) ∧
           (∀ c q, c ≠ coreOfTeam k → t.coreSec c q = u.coreSec c q) ∧ (∀ q, t.homeSec q = u.homeSec q) ∧ t.hbm = u.hbm))) ∧
  ∀ (s : State) c q, s.coreSec c q = (match nfind (s.core c).l1 q with
    | some x => x.data
    | none => match nfind (s.die (dieOfCore c)).l2 q with
      | some x => x.data
      | none => match nfind (s.die (homeDie (32 * q))).l2 q with
        | some x => x.data
        | none => match nfind s.llc q with
          | some x => x.data
          | none => mread s.hbm (32 * q) 32)

/-- ATOM: every operation's new value, the one step at the location, lane by lane or merged by address, and in Shuttle code
(R140, R190, R191, R192, R193, R194, R226). What waits for a port that is not
ACTIVE is the model's choice (log 71). -/
def Obligations.AtomicInstructions : Prop :=
  ((∀ x y : Word, atomAdd 0 x.toNat y.toNat = (x + y).toNat ∧ atomAdd 1 x.toNat y.toNat = (x + y).toNat ∧
    atomMinMax false 0 x.toNat y.toNat = (if y.slt x then y else x).toNat ∧
    atomMinMax true 0 x.toNat y.toNat = (if x.slt y then y else x).toNat ∧
    atomMinMax false 1 x.toNat y.toNat = min x.toNat y.toNat ∧ atomMinMax true 1 x.toNat y.toNat = max x.toNat y.toNat) ∧
  (∀ x y : Dword, atomAdd 2 x.toNat y.toNat = (x + y).toNat ∧
    atomMinMax false 2 x.toNat y.toNat = (if y.slt x then y else x).toNat ∧
    atomMinMax true 2 x.toNat y.toNat = (if x.slt y then y else x).toNat) ∧
  (∀ x y : Word, atomAdd 3 x.toNat y.toNat =
    (F32.deliver 0 (addVals 0 (F32.decode x.toNat) (F32.decode y.toNat))).1) ∧
  (∀ a b c d : BitVec 16, atomAdd 4 (a ++ b).toNat (c ++ d).toNat =
    addBf16 b.toNat d.toNat + 65536 * addBf16 a.toNat c.toNat) ∧
  (∀ (s : State) l sp ea w f o p, s.place l sp ea w = .ok (.at_ p) → (∀ a, p ≠ .glob a) → (∀ a, p ≠ .phys a) →
    ∃ t, s.atomicAt l sp ea w f o = .ok (t, leNat (s.nearRead p w)) ∧
      t = s.nearWrite p (leBytes w (f (leNat (s.nearRead p w)))) ∧
      t.nearRead p w = leBytes w (f (leNat (s.nearRead p w)))) ∧
  (∀ (s : State) l sp ea w f o va, s.place l sp ea w = .ok (.at_ (.glob va)) →
    (∀ e, s.translate (.core s.issCore) s.issAsid va .atomic = .error e → s.atomicAt l sp ea w f o = .error e) ∧
    ∀ u pa leaf, s.translate (.core s.issCore) s.issAsid va .atomic = .ok (u, pa, leaf) →
      let unit := u.unitOf (u.whoOf l)
      (u.viewed unit u.issAsid va = false → ∀ e, u.reach u.issCore pa = .error e → s.atomicAt l sp ea w f o = .error e) ∧
      (u.viewed unit u.issAsid va = false → u.reach u.issCore pa = .ok () →
        s.atomicAt l sp ea w f o = .ok (u.homeAtomic u.issCore pa w f)) ∧
      (u.viewed unit u.issAsid va = true → o = none → s.atomicAt l sp ea w f o =
        .ok (u.viewWrite unit pa va (leBytes w (f (leNat (u.viewRead unit pa w)))), leNat (u.viewRead unit pa w))) ∧
      (u.viewed unit u.issAsid va = true → ∀ ty x, o = some (ty, x) → ∃ d, s.atomicAt l sp ea w f o = .ok ({ u with det := d }, 0) ∧
        d = if u.replays unit then u.det else u.det.map fun y =>
          if y.key = unit then { y with contribs := y.contribs ++ [⟨pa, ty, BitVec.ofNat 64 x⟩] } else y)) ∧
  (∀ (s : State) l sp ea w f o pa, s.place l sp ea w = .ok (.at_ (.phys pa)) → s.permitted s.issAsid pa = true →
    s.reach s.issCore pa = .ok () → s.atomicAt l sp ea w f o = .ok (s.homeAtomic s.issCore pa w f)) ∧
  ∀ (s : State) (c pa w : Nat) (f : Nat → Nat), targetOf pa = .hbm → (w = 4 ∨ w = 8) → pa % w = 0 →
    (∀ c x, nfind (s.core c).l1 (pa / 32) = some x → x.data.length = 32) →
    (∀ d x, nfind (s.die d).l2 (pa / 32) = some x → x.data.length = 32) →
    (∀ x, nfind s.llc (pa / 32) = some x → x.data.length = 32) →
    (let r := s.homeAtomic c pa w f
     (∀ x, nfind (s.core c).l1 (pa / 32) = some x → (∀ i, pa % 32 ≤ i → i < pa % 32 + w → x.dirty.getLsbD i = true) →
       r.2 = leNat ((x.data.drop (pa % 32)).take w)) ∧
     (nfind (s.core c).l1 (pa / 32) = none → nfind (s.die (dieOfCore c)).l2 (pa / 32) = none → r.2 = s.homeNat pa w) ∧
     r.1.homeRead pa w = leBytes w (f r.2) ∧ r.1.corePeek c pa w = leBytes w (f r.2) ∧
     nfind (r.1.core c).l1 (pa / 32) = none ∧
     ∀ q, q ≠ pa / 32 → r.1.homeSec q = s.homeSec q)) ∧
  (let width (r : AtomOp) : Nat := if r.ty = 2 then 8 else 4
  let x (s : State) (l : Nat) (r : AtomOp) : Nat := if r.ty = 2 then (s.rd64 l r.data).toNat else (s.rd l r.data [r.base]).toNat
  let back (k b l : Nat) (v : State) (ty d : Nat) (ret : Bool) (old : Nat) : State :=
    if ret then v.fillLater k (64 * b + l) d (if ty = 2 then wordsOf 2 (leBytes 8 old) else wordsOf 1 (leBytes 4 old)) else v
  let each (i : Instr) (r : AtomOp) (op : Nat → Nat → Nat) : Prop :=
    (∀ s k b ls t, Gang s i k b ls →
      Serve (fun u l => match u.atomicAt l r.space.toNat (u.ea l r.space.toNat r.base (r.off.toNat * width r)) (width r)
          (fun old => op old (x u l r)) none with
        | .ok (v, old) => .ok (back k b l v r.ty.toNat r.d.toNat r.ret old)
        | .error f => .error (.flt f)) s ls t →
      exec i s = .next ((t.groupFills s.fresh).popLanes (shapeOf i s.iss.pfx) ls)) ∧
    ∀ s c t old, Shut s i c →
      s.atomicAt 0 r.space.toNat (s.ea 0 r.space.toNat r.base (r.off.toNat * width r)) (width r)
        (fun old => op old (x s 0 r)) none = .ok (t, old) →
      exec i s = .next ((if r.ret then t.setS c r.d.toNat (BitVec.ofNat 64 old) else t).groupFills s.fresh)
  (∀ r : AtomOp, (r.ret = true → each (.atomAdd r) r (atomAdd r.ty.toNat)) ∧ each (.atomMin r) r (atomMinMax false r.ty.toNat) ∧
    each (.atomMax r) r (atomMinMax true r.ty.toNat) ∧ each (.atomAnd r) r (fun o y => o &&& y) ∧
    each (.atomOr r) r (fun o y => o ||| y) ∧ each (.atomXor r) r (fun o y => o ^^^ y) ∧ each (.atomExch r) r (fun _ y => y)) ∧
  (∀ s k b ls t (r : AtomCasOp), Gang s (.atomCas r) k b ls →
    (let w := if r.ty = 2 then 8 else 4
     Serve (fun u l =>
       match u.atomicAt l r.space.toNat (u.ea l r.space.toNat r.base (r.off.toNat * w)) w
          (fun old => if old % 256 ^ w = (if r.ty = 2 then (u.rd64 l r.cv).toNat else (u.rd l r.cv [r.base, r.data]).toNat) % 256 ^ w then
            (if r.ty = 2 then (u.rd64 l r.data).toNat else (u.rd l r.data [r.base]).toNat) else old) none with
        | .ok (v, old) => .ok (back k b l v r.ty.toNat r.d.toNat r.ret old)
        | .error f => .error (.flt f)) s ls t) →
    exec (.atomCas r) s = .next ((t.groupFills s.fresh).popLanes (shapeOf (.atomCas r) s.iss.pfx) ls)) ∧
  (∀ s k b ls t (r : AtomOp), r.ret = false → Gang s (.atomAdd r) k b ls →
    (let ea (l : Nat) : Nat := s.ea l r.space.toNat r.base (r.off.toNat * width r)
     let one (l m : Nat) : Bool := ea l == ea m && s.unitOf (.thread k (64 * b + l)) == s.unitOf (.thread k (64 * b + m)) &&
       !(r.space == 1 && decide (ea l / 2 ^ 31 % 2 = 1) && l != m)
     Serve (fun u l => match u.atomicAt l r.space.toNat (ea l) (width r)
         (fun old => atomAdd r.ty.toNat old (mergeAdd r.ty.toNat ((ls.filter (one l)).map fun m => x s m r)))
         (some (r.ty.toNat, mergeAdd r.ty.toNat ((ls.filter (one l)).map fun m => x s m r))) with
       | .ok (v, _) => .ok v
       | .error f => .error (.flt f)) s (ls.filter fun l => !(ls.any fun m => decide (m < l) && one l m)) t) →
    exec (.atomAdd r) s = .next (t.popLanes (shapeOf (.atomAdd r) s.iss.pfx) ls)) ∧
  (∀ s c t old (r : AtomOp), r.ret = false → Shut s (.atomAdd r) c →
    s.atomicAt 0 r.space.toNat (s.ea 0 r.space.toNat r.base (r.off.toNat * width r)) (width r)
      (fun old => atomAdd r.ty.toNat old (mergeAdd r.ty.toNat [x s 0 r]))
      (some (r.ty.toNat, mergeAdd r.ty.toNat [x s 0 r])) = .ok (t, old) → exec (.atomAdd r) s = .next t) ∧
  (∀ s c t old (r : AtomCasOp), Shut s (.atomCas r) c →
    (let w := if r.ty = 2 then 8 else 4
     s.atomicAt 0 r.space.toNat (s.ea 0 r.space.toNat r.base (r.off.toNat * w)) w
       (fun o => if o % 256 ^ w = (if r.ty = 2 then (s.rd64 0 r.cv).toNat else (s.rd 0 r.cv [r.base, r.data]).toNat) % 256 ^ w then
         (if r.ty = 2 then (s.rd64 0 r.data).toNat else (s.rd 0 r.data [r.base]).toNat) else o) none = .ok (t, old)) →
    exec (.atomCas r) s = .next ((if r.ret then t.setS c r.d.toNat (BitVec.ofNat 64 old) else t).groupFills s.fresh)) ∧
  (∀ x y z : Word, mergeAdd 0 [x.toNat, y.toNat, z.toNat] = (x + y + z).toNat) ∧
  (∀ x y z : Dword, mergeAdd 2 [x.toNat, y.toNat, z.toNat] = (x + y + z).toNat) ∧
  (∀ x (ys : List Nat), mergeAdd 3 (x :: ys) = ys.foldl addF32 x) ∧
  mergeAdd 4 [0x3F803F80, 0x3B803F80, 0x3B803F80] = 0x3F814040)

/-- LDT: lane l's element k lies in row l mod 16, column 4k + l/16, and all arrive together; UNPK spreads K fields of M bits
(R152, R195, R196). -/
def Obligations.BlockLoadsAndUnpacking : Prop :=
  let es (r : LdtOp) : Nat := if r.sz then 4 else 2
  let A (s : State) (r : LdtOp) : Nat := (s.rd (s.parts_.headD 0) r.a []).toNat
  let P (s : State) (r : LdtOp) : Nat := (s.rd (s.parts_.headD 0) r.b [r.a]).toNat
  (∀ s k b ls t (r : LdtOp), Gang s (.ldt r) k b ls → A s r % es r = 0 → P s r % es r = 0 →
    Serve (fun u l => match u.ldtElems l (if r.sp then 2 else 1) (A s r) (P s r) (es r) (2 ^ r.nc.toNat) 0 with
      | .ok (v, ws) => .ok (v.fillLater k (64 * b + l) r.d.toNat ws)
      | .error f => .error (.flt f)) s ls t →
    exec (.ldt r) s = .next ((t.joinFills s.fresh).popLanes (shapeOf (.ldt r) s.iss.pfx) ls)) ∧
  (∀ (s : State) l sp a p es k, s.ldtElems l sp a p es 0 k = .ok (s, [])) ∧
  (∀ (s : State) l sp a p es n k,
    s.ldtElems l sp a p es (n + 1) k = (match s.loadAt l sp ((a + l % 16 * p + (4 * k + l / 16) * es) % 2 ^ 32) es with
      | .ok (u, bs) => (match u.ldtElems l sp a p es n (k + 1) with
        | .ok (v, ws) => .ok (v, BitVec.ofNat 32 (leNat bs) :: ws)
        | .error f => .error f)
      | .error f => .error f)) ∧
  (∀ (s : State) n, s.joinFills n = { s with fills := (s.joinFills n).fills } ∧
    (s.joinFills n).fills = s.fills.map fun f => match f.val with
      | .words _ => if n ≤ f.id then { f with id := n } else f
      | _ => f) ∧
  (∀ s k b ls (r : LdtOp), Gang s (.ldt r) k b ls → (A s r % es r ≠ 0 ∨ P s r % es r ≠ 0) →
    Faults (.ldt r) s k b (ls.map fun l => (l, flt .align))) ∧
  ∀ r : UnpkOp, r.pos.toNat + (r.mw.toNat + 2) * 2 ^ r.kc.toNat ≤ 64 → r.mw.toNat ≤ 6 →
    Yields (.unpk r) (fun s l n =>
      if r.d.toNat ≤ n ∧ n < r.d.toNat + 2 ^ r.kc.toNat then
        (let m := r.mw.toNat + 2
         let x : Dword := (s.rd64 l r.a) >>> (r.pos.toNat + m * (n - r.d.toNat))
         some (if r.s then (x.setWidth m).signExtend 32 else (x.setWidth m).setWidth 32))
      else none) nothing noFlags

/-- CMO and what clean and invalidate do at each level; evictions; L2PIN and L2UNPIN of a rounded range; FENCE (R182, R197,
R198, R199, R207). The stores that are held and that a FENCE waits for are the model's choice (log 71). -/
def Obligations.MaintenanceAndPins : Prop :=
  (let does (i : Instr) (r : CmoOp) (f : Nat → State → Nat → State) : Prop :=
     (∀ s k b ls t, Gang s i k b ls →
       Serve (fun u l => match u.cmoPages (u.rd64 l r.a).toNat (u.rd l r.b []).toNat (f (coreOfTeam k))
           (pagesOf (u.rd64 l r.a).toNat (u.rd l r.b []).toNat) with
         | (v, none) => .ok v
         | (_, some e) => .error (.flt e)) s ls t →
       exec i s = .next (t.popLanes (shapeOf i s.iss.pfx) ls)) ∧
     ∀ s c t, Shut s i c →
       s.cmoPages (s.rd64 0 r.a).toNat (s.rd 0 r.b []).toNat (f c) (pagesOf (s.rd64 0 r.a).toNat (s.rd 0 r.b []).toNat) =
         (t, none) → exec i s = .next t
   let whole (s : State) (q : Nat) : Prop := (∀ c x, nfind (s.core c).l1 q = some x → x.data.length = 32) ∧
     (∀ d x, nfind (s.die d).l2 q = some x → x.data.length = 32) ∧ ∀ x, nfind s.llc q = some x → x.data.length = 32
   let lands (x : Option Sector) (old new : List Byte) : Prop := ∀ i, i < 32 → new[i]? = (match x with
     | some x => if x.dirty.getLsbD i then x.data[i]? else old[i]?
     | none => old[i]?)
   let others (s t : State) (q : Nat) : Prop := (∀ e, t.die e = { s.die e with l2 := (t.die e).l2 } ∧
     ∀ p, p ≠ q → nfind (t.die e).l2 p = nfind (s.die e).l2 p) ∧ ∀ p, p ≠ q → nfind t.llc p = nfind s.llc p
   let level (s : State) (c q lvl : Nat) : List Byte :=
     match lvl with | 0 => s.dieSec (dieOfCore c) q | 1 => s.homeSec q | 2 => s.llcSec q | _ => s.hbmSec q
   (∀ r : CmoOp, does (.cmoClean r) r (fun c s q => s.cleanTo c q r.level.toNat) ∧
     does (.cmoInv r) r (fun c s q => s.dropTo c q r.level.toNat) ∧
     does (.cmoCinv r) r (fun c s q => (s.cleanTo c q r.level.toNat).dropTo c q r.level.toNat)) ∧
   (∀ (s : State) a len f va r, s.cmoPages a len f (va :: r) = (match s.cmoPage va with
     | .error e => (s, some e)
     | .ok (u, pa) => (if targetOf pa = .hbm then
         eachSector pa (min (a + len) (va / 65536 * 65536 + 65536) - va) f u else u).cmoPages a len f r)) ∧
   (∀ (s : State) pa n f, eachSector pa n f s = if n = 0 then s else
     ((List.range ((pa + n - 1) / 32 - pa / 32 + 1)).map fun i => i + pa / 32).foldl f s) ∧
   (∀ (s : State) k b ls va, s.iss.who = .gang k b ls → va < 2 ^ 55 → ∀ (u : State) (lf : Leaf), s.lookup (.core (coreOfTeam k)) s.issAsid va = .ok (u, lf) →
     lf.e / 4 % 4 = 0 → s.cmoPage va = .error ⟨.perm, va, 0⟩) ∧
   (∀ (s : State) c q lvl, lvl ≤ 3 → whole s q → (s.cleanTo c q lvl).coreSec c q = s.coreSec c q ∧
     ∀ x, nfind (s.core c).l1 q = some x → ∀ i, i < 32 → x.dirty.getLsbD i = true →
       (level (s.cleanTo c q lvl) c q lvl)[i]? = x.data[i]?) ∧
   (∀ (s : State) c q lvl, nfind ((s.dropTo c q lvl).core c).l1 q = none ∧
     (1 ≤ lvl → dieOfCore c ≠ homeDie (32 * q) → nfind ((s.dropTo c q lvl).die (dieOfCore c)).l2 q = none) ∧
     (2 ≤ lvl → nfind ((s.dropTo c q lvl).die (homeDie (32 * q))).l2 q = none) ∧
     (3 ≤ lvl → nfind (s.dropTo c q lvl).llc q = none)) ∧
   (∀ (s : State) c q, whole s q → ∃ t, exec (.eviction .l1 c q) s = .next t ∧ nfind (t.core c).l1 q = none ∧
     t = { s with cores := t.cores, dies := t.dies, llc := t.llc } ∧ others s t q ∧
     (∀ j, j ≠ c → t.core j = s.core j) ∧ t.core c = { s.core c with l1 := (t.core c).l1 } ∧
     (∀ p, p ≠ q → nfind (t.core c).l1 p = nfind (s.core c).l1 p) ∧
     lands (nfind (s.core c).l1 q) (s.dieSec (dieOfCore c) q) (t.dieSec (dieOfCore c) q) ∧
     (∀ d x, d ≠ dieOfCore c → nfind (s.die d).l2 q = some x → nfind (t.die d).l2 q = some x) ∧
     (dieOfCore c ≠ homeDie (32 * q) → t.homeSec q = s.homeSec q) ∧ t.llcSec q = s.llcSec q) ∧
   (∀ (s : State) q, whole s q → ∃ t, exec (.eviction .llc 0 q) s = .next t ∧ nfind t.llc q = none ∧
     t = { s with hbm := t.hbm, llc := t.llc } ∧ (∀ p, p ≠ q → nfind t.llc p = nfind s.llc p) ∧
     lands (nfind s.llc q) (s.hbmSec q) (t.hbmSec q) ∧ ∀ a, a / 32 ≠ q → mget t.hbm a = mget s.hbm a) ∧
   (∀ (s : State) d q, whole s q → (∀ p ∈ (s.die d).pins, ∀ l ∈ p.lines, l.2 ≠ q / 4) →
     ∃ t, exec (.eviction .l2 d q) s = .next t ∧ nfind (t.die d).l2 q = none ∧ t = { s with dies := t.dies, llc := t.llc } ∧
       others s t q ∧ (∀ e, e ≠ d → e ≠ homeDie (32 * q) → nfind (t.die e).l2 q = nfind (s.die e).l2 q) ∧
       (d = homeDie (32 * q) → lands (nfind (s.die d).l2 q) (s.llcSec q) (t.llcSec q)) ∧
       (d ≠ homeDie (32 * q) → lands (nfind (s.die d).l2 q) (s.homeSec q) (t.homeSec q) ∧ t.llcSec q = s.llcSec q)) ∧
   ∀ (s : State) d q, (∃ p ∈ (s.die d).pins, ∃ l ∈ p.lines, l.2 = q / 4) → exec (.eviction .l2 d q) s = .next s) ∧
  (let first (a : Nat) : Nat := a / 128 * 128
   let len (a n : Nat) : Nat := if n = 0 then 0 else (a + n + 127) / 128 * 128 - a / 128 * 128
   (∀ s k b ls t (r : L2pinOp), Gang s (.l2pin r) k b ls →
     Serve (fun u l =>
       let a := (u.rd64 l r.a).toNat
       let n := (u.rd l r.b []).toNat
       match u.pinLines ((List.range (len a n / 128)).map fun i => i + a / 128) with
       | .error f => .error (.flt f)
       | .ok (v, lines) =>
         let d := dieOfCore (coreOfTeam k)
         if (v.die d).pins.length < 256 ∧ ((v.die d).pins.map fun p => 128 * p.lines.length).sum + len a n ≤ 32 * 2 ^ 20 then
           .ok (((lines.foldl (fun w q => w.pinFetch d v q.1.1 q.1.2) v).modDie d fun x =>
             { x with pins := x.pins ++ [⟨k, v.issAsid, first a, len a n, lines.map (·.1), lines.foldl (fun m q =>
               if m.contains q.2 then m else m ++ [q.2]) []⟩] }).modThread k (64 * b + l)
               fun x => x.setP r.pd.toNat true)
         else .ok (v.modThread k (64 * b + l) fun x => x.setP r.pd.toNat false)) s ls t →
     exec (.l2pin r) s = .next (t.popLanes (shapeOf (.l2pin r) s.iss.pfx) ls)) ∧
   (∀ s k b ls t (r : RAB), Gang s (.l2unpin r) k b ls →
     Serve (fun u l => .ok (u.modDie (dieOfCore (coreOfTeam k)) fun x => { x with
       pins := x.pins.eraseP fun p => decide (p.team = k ∧ p.va = first (u.rd64 l r.a).toNat ∧ p.len = len (u.rd64 l r.a).toNat (u.rd l r.b []).toNat) })) s ls t →
     exec (.l2unpin r) s = .next (t.popLanes (shapeOf (.l2unpin r) s.iss.pfx) ls)) ∧
   (let out (s : State) (k b l : Nat) : Prop := ∃ f ∈ s.fills, f.team = k ∧ f.t = 64 * b + l ∧ match f.val with
      | .words _ => True
      | .late _ _ _ _ _ _ => True
      | .stopped _ _ _ _ => True
      | _ => False
    let held (s : State) (w : Who) (scope : BitVec 3) : Prop := ∃ x ∈ s.outbox, x.1 = w ∧ 5 ≤ scope.toNat ∧
      (6 ≤ scope.toNat ∨ isPeer x.2.1 = true)
    (∀ s k b ls scope, Gang s (.fence scope) k b ls →
     ((∀ l ∈ ls, ¬ out s k b l ∧ ¬ held s (.thread k (64 * b + l)) scope) → exec (.fence scope) s = .next s) ∧
     ((∀ l ∈ ls, out s k b l ∨ held s (.thread k (64 * b + l)) scope) → Waits (.fence scope) s k b ls)) ∧
    ∀ s c scope, Shut s (.fence scope) c → (¬ held s (.shuttle c) scope → exec (.fence scope) s = .next s) ∧
      (held s (.shuttle c) scope → ShutWaits (.fence scope) s c)))

/-- BAR: a thread arrives at its next phase or goes on; completion releases every waiter, applies the carve and raises HEMHIT
(R79, R174, R179, R217, R218, R219). -/
def Obligations.TeamBarriers : Prop :=
  let next (s : State) (k : Nat) : Nat := (s.team k).barDone + 1
  let ready (s : State) (k : Nat) : Prop := (s.team k).live = true ∧ (∃ q, (next s k, q) ∈ (s.team k).barArr) ∧
    ∀ i ∈ (s.team k).liveThreads, (next s k, i / 4) ∈ (s.team k).barArr ∧ ((s.thread k i).inBar = some (next s k) → s.settling 4 (.thread k i) = none)
  let passed (s : State) (k i : Nat) : Prop := (s.thread k i).barK + 1 ≤ (s.team k).barDone
  let fits (s : State) (k scrg slice : Nat) : Prop := 4096 * slice ≤ 16384 * scrg ∧
    ((s.teamsOfCore (k / 8)).map fun j => (s.team j).heldg + if j = k then scrg else (s.team j).scrg).sum + 4 ≤ 48
  let free (s : State) (k : Nat) : Prop :=
    (∃ c ∈ (s.team k).carveReq, c.1 = next s k ∧ fits s k c.2.1 c.2.2) → s.scratchBusy k = false
  let due (s : State) (k : Nat) : Prop := ready s k ∧ free s k ∧ ∃ c ∈ (s.team k).carveReq, c.1 = next s k
  let first (s : State) (k : Nat) : Prop := due s k → ∀ j, j / 8 = k / 8 → j < k → ¬ due s j
  let asked (s : State) (k b : Nat) (ls : List Nat) (req : Option (Nat × Nat)) (n : Nat) : Option (Nat × Nat × Nat) :=
    ((s.team k).carveReq.find? fun c => c.1 == n).or
      (if ls.any fun l => decide ((s.thread k (64 * b + l)).barK + 1 = n ∧ (s.team k).barDone < n) then
        req.map fun r => (n, r.1, r.2) else none)
  let arrives (i : Instr) (req : Option (Nat × Nat)) : Prop := ∀ s k b ls, Gang s i k b ls →
    ((∀ l ∈ ls, passed s k (64 * b + l) ∨ s.settling 4 (.thread k (64 * b + l)) = none) → ∃ t, exec i s = .next t ∧ OnlyTeam s t k ∧
      t.team k = { s.team k with threads := (t.team k).threads, barArr := (t.team k).barArr, carveReq := (t.team k).carveReq } ∧
      (∀ n, (∀ l ∈ ls, n ≠ 64 * b + l) → t.thread k n = s.thread k n) ∧
      (∀ l ∈ ls, let x := s.thread k (64 * b + l)
        t.thread k (64 * b + l) = if x.barK + 1 ≤ (s.team k).barDone then { x with barK := x.barK + 1, inBar := none }
          else { x with barK := x.barK + 1, inBar := none, stat := .atBar (x.barK + 1) }) ∧
      (∀ n q, (n, q) ∈ (t.team k).barArr ↔ (n, q) ∈ (s.team k).barArr ∨ ∃ l ∈ ls,
        (s.thread k (64 * b + l)).barK + 1 = n ∧ (s.team k).barDone < n ∧ q = (64 * b + l) / 4) ∧
      ∀ n, (t.team k).carveReq.find? (fun c => c.1 == n) = asked s k b ls req n) ∧
    (s.iss.multi = false → (∀ l ∈ ls, ¬ passed s k (64 * b + l) ∧ s.settling 4 (.thread k (64 * b + l)) = some .retry) →
      ∃ t, exec i s = .next t ∧ t = { s with teams := t.teams, iss := t.iss } ∧ (∀ j, j ≠ k → t.team j = s.team j) ∧
      t.team k = { s.team k with threads := (t.team k).threads, carveReq := (t.team k).carveReq } ∧
      (∀ n, (∀ l ∈ ls, n ≠ 64 * b + l) → t.thread k n = s.thread k n) ∧
      (∀ l ∈ ls, t.thread k (64 * b + l) =
        { s.thread k (64 * b + l) with stat := .preBar ((s.thread k (64 * b + l)).barK + 1)
                                       inBar := some ((s.thread k (64 * b + l)).barK + 1) }) ∧
      ∀ n, (t.team k).carveReq.find? (fun c => c.1 == n) = asked s k b ls req n)
  arrives .bar none ∧ (∀ r : BarCarveOp, arrives (.barCarve r) (some (r.scrg.toNat, r.slice.toNat))) ∧
  ∀ (s : State) (k : Nat), let n := next s k
    (¬ (ready s k ∧ free s k ∧ first s k) → exec (.barrierPhaseCompletion k) s = .next s) ∧
    (ready s k → free s k → first s k →
      ∃ t, exec (.barrierPhaseCompletion k) s = .next t ∧ (t.team k).barDone = n ∧
        (∀ i, i ≠ k → t.team i = s.team i) ∧ t.hbm = s.hbm ∧ t.fills = s.fills ∧ t.records = s.records ∧ t.copies = s.copies ∧
        (∀ i, i ∉ (s.team k).barWaiters n → t.thread k i = s.thread k i) ∧
        (∀ i ∈ (s.team k).barWaiters n, t.thread k i = { s.thread k i with
          stat := if (s.team k).hemrec.getLsbD 0 = true then .hemParked else .ready }) ∧
        (let c := coreOfTeam k
         let hit := trapBytes 0x15 0 6 (k % 8) 0 0 (s.team k).hemrec.toNat 0 0 (s.team k).asid
         if (s.team k).hemrec.getLsbD 0 = true then
           (if (s.core c).trapCount < 64 then (t.core c).trapCount = (s.core c).trapCount + 1 ∧
               (t.core c).trapWait = (s.core c).trapWait ∧
               mread (t.die (dieOfCore c)).chip (trapAddr c (((s.core c).trapHead + (s.core c).trapCount) % 64)) 64 = hit
            else (t.core c).trapCount = (s.core c).trapCount ∧ (t.core c).trapWait = (s.core c).trapWait ++ [hit])
         else (t.core c).trapCount = (s.core c).trapCount ∧ (t.core c).trapWait = (s.core c).trapWait) ∧
        ((∀ c ∈ (s.team k).carveReq, c.1 ≠ n) →
          (t.team k).scrg = (s.team k).scrg ∧ (t.team k).slice = (s.team k).slice ∧ (t.team k).denied = (s.team k).denied ∧
          (t.team k).scratch = (s.team k).scratch ∧ (t.team k).slices = (s.team k).slices) ∧
        ∀ scrg slice, (s.team k).carveReq.find? (fun c => c.1 == n) = some (n, scrg, slice) →
          (¬ fits s k scrg slice → (t.team k).denied = true ∧ (t.team k).scrg = (s.team k).scrg ∧
            (t.team k).slice = (s.team k).slice ∧ (t.team k).scratch = (s.team k).scratch) ∧
          (fits s k scrg slice → (t.team k).denied = false ∧ (t.team k).scrg = scrg ∧ (t.team k).slice = slice ∧
            (∀ a, mget (t.team k).scratch a = if a < min (s.team k).sa (16384 * scrg - 4096 * slice) then
              mget (s.team k).scratch a else 0) ∧
            ∀ a, mget (t.team k).slices a = if a % 4096 < min (s.team k).sl (64 * slice) then mget (s.team k).slices a else 0))

/-- BARG: members arrive at the group's next phase, others take PERM; the phase completes when every team of the group has
arrived (R79, R217, R220, R227, R229). What a team that was run again passes is the model's reading (log 23). -/
def Obligations.GroupBarriers : Prop :=
  let passed (s : State) (k i : Nat) (r : BargOp) : Prop :=
    nget (s.thread k i).bargK r.group.toNat 0 + 1 ≤ nget (s.team k).bargDone r.group.toNat 0
  (∀ s k b ls (r : BargOp), Gang s (.barg r) k b ls → s.isMember k r.group.toNat = true →
    (∀ l ∈ ls, passed s k (64 * b + l) r ∨ s.settling r.scope.toNat (.thread k (64 * b + l)) = none) →
      ∃ t, exec (.barg r) s = .next t ∧ OnlyTeam s t k ∧
      (let g := r.group.toNat
       let n (l : Nat) : Nat := nget (s.thread k (64 * b + l)).bargK g 0 + 1
       t.team k = { s.team k with threads := (t.team k).threads, bargArr := (t.team k).bargArr } ∧
       (∀ j, (∀ l ∈ ls, j ≠ 64 * b + l) → t.thread k j = s.thread k j) ∧
       (∀ l ∈ ls, ∃ m, t.thread k (64 * b + l) = { s.thread k (64 * b + l) with
            bargK := m
            stat := if n l ≤ nget (s.team k).bargDone g 0 then (s.thread k (64 * b + l)).stat else .atBarg g (n l) } ∧
          ∀ h, nget m h 0 = if h = g then n l else nget (s.thread k (64 * b + l)).bargK h 0) ∧
       ∀ a, a ∈ (t.team k).bargArr ↔ a ∈ (s.team k).bargArr ∨ ∃ l ∈ ls,
         nget (s.team k).bargDone g 0 < n l ∧ a = (g, n l, (64 * b + l) / 4))) ∧
  (∀ s k b ls (r : BargOp), Gang s (.barg r) k b ls → s.isMember k r.group.toNat = false →
    Faults (.barg r) s k b (ls.map fun l => (l, flt .perm))) ∧
  (∀ s k b ls (r : BargOp), Gang s (.barg r) k b ls → s.isMember k r.group.toNat = true →
    (∀ l ∈ ls, ¬ passed s k (64 * b + l) r ∧ s.settling r.scope.toNat (.thread k (64 * b + l)) = some .retry) →
      Waits (.barg r) s k b ls) ∧
  (∀ (s : State) (p g : Nat), ((∃ m ∈ s.groupOf p g, s.notStarted m.1 m.2 = true) ∨
      (∃ k ∈ s.groupTeams p g, s.bargReady g k = false ∨ s.behind g k = true)) →
    (∀ k ∈ s.groupTeams p g, s.behind g k = true → s.bargReady g k = false) →
    exec (.groupBarrierPhaseCompletion p g) s = .next s) ∧
  (∀ (s : State) (p g : Nat) as k bs, s.groupTeams p g = as ++ k :: bs → s.behind g k = true → s.bargReady g k = true →
    (∀ j ∈ as, s.behind g j = false ∨ s.bargReady g j = false) →
    exec (.groupBarrierPhaseCompletion p g) s = .next (s.passBarg g false k)) ∧
  ∀ (s : State) (p g : Nat), (∀ k ∈ s.groupTeams p g, s.behind g k = false) → (∀ m ∈ s.groupOf p g, s.notStarted m.1 m.2 = false) → (∀ k ∈ s.groupTeams p g, s.bargReady g k = true) →
    (∃ k ∈ s.groupTeams p g, ∃ a ∈ (s.team k).bargArr, a.1 = g) → (∃ k ∈ s.groupTeams p g, (s.team k).det = false) →
    (s.groupTeams p g).Nodup → (∀ k ∈ s.groupTeams p g, (s.team k).hemrec.getLsbD 0 = false) →
    ∃ t, exec (.groupBarrierPhaseCompletion p g) s = .next t ∧ t = { s with teams := t.teams, cores := t.cores, det := t.det } ∧
      t.det.map (fun d => { d with barg := [] }) = s.det.map (fun d => { d with barg := [] }) ∧
      (∀ k, k ∉ s.groupTeams p g → t.team k = s.team k) ∧
      ∀ k ∈ s.groupTeams p g, let n := nget (s.team k).bargDone g 0 + 1
        (∀ h, nget (t.team k).bargDone h 0 = if h = g then n else nget (s.team k).bargDone h 0) ∧
        (∀ i ∈ (s.team k).bargWaiters g n, t.thread k i = { s.thread k i with stat := .ready }) ∧
        ∀ i, i ∉ (s.team k).bargWaiters g n → t.thread k i = s.thread k i

/-- ACQ, TRYACQ and REL on the object word: what is granted, what waits, the maintenance, and a waiting request's grant
(R209, R210, R211, R212, R216, R232). -/
def Obligations.ObjectHolds : Prop :=
  let may (s : State) (pa : Nat) (x : Bool) : Bool := s.homeNat pa 8 / 65536 % 2 == 0 &&
    (if x then s.homeNat pa 8 % 65536 == 0 && s.objReqs.all fun q => q.obj != pa
     else decide (s.homeNat pa 8 % 65536 < 65535) && s.objReqs.all fun q => q.obj != pa || !q.excl)
  let granted (s : State) (c asid va pa : Nat) (x : Bool) : State :=
    let u := (s.homeAtomic c pa 8 fun v => if x then v ||| 65536 else v + 1).1
    (u.regionSectors asid va).foldl (fun u q => (u.dropL1 c q).dropRemote (dieOfCore c) q) u
  let det (s : State) (w : Who) (va : Nat) : Bool := s.detObject (s.unitOf w) s.issAsid va
  let released (s : State) (c va pa : Nat) (x : Bool) : State :=
    (((s.regionSectors s.issAsid va).foldl (fun u q => (u.cleanL1 c q).cleanRemote (dieOfCore c) q) s).homeAtomic c pa 8
      (relWord x)).1
  (∀ s k b ls t (r : AcqOp), Gang s (.acq r) k b ls →
    Serve (fun u l =>
      let va := (u.rd64 l r.a).toNat
      match u.objAt va with
      | .error f => .error (.flt f)
      | .ok (v, pa) =>
        if det v (.thread k (64 * b + l)) va then .ok v
        else let v := v.surrender (coreOfTeam k) pa 8
        if may v pa (!r.mode) then .ok (granted v (coreOfTeam k) v.issAsid va pa (!r.mode))
        else .ok (({ v with objReqs := v.objReqs ++ [⟨pa, .thread k (64 * b + l), !r.mode, va, v.issAsid⟩] } : State).modThread k
          (64 * b + l) fun x => { x with stat := .atAcq pa va (!r.mode) })) s ls t →
    exec (.acq r) s = .next (t.popLanes (shapeOf (.acq r) s.iss.pfx) ls)) ∧
  (∀ s k b ls t (r : TryacqOp), Gang s (.tryacq r) k b ls →
    Serve (fun u l =>
      let va := (u.rd64 l r.a).toNat
      match u.objAt va with
      | .error f => .error (.flt f)
      | .ok (v, pa) =>
        if det v (.thread k (64 * b + l)) va then .ok (v.modThread k (64 * b + l) fun x => x.setP r.pd.toNat true)
        else let v := v.surrender (coreOfTeam k) pa 8
        if may v pa (!r.mode) then .ok ((granted v (coreOfTeam k) v.issAsid va pa (!r.mode)).modThread k (64 * b + l) fun x =>
          x.setP r.pd.toNat true)
        else .ok (v.modThread k (64 * b + l) fun x => x.setP r.pd.toNat false)) s ls t →
    exec (.tryacq r) s = .next (t.popLanes (shapeOf (.tryacq r) s.iss.pfx) ls)) ∧
  (∀ s k b ls t (r : AcqOp), Gang s (.rel r) k b ls →
    Serve (fun u l =>
      let va := (u.rd64 l r.a).toNat
      match u.objAt va with
      | .error f => .error (.flt f)
      | .ok (v, pa) =>
        if det v (.thread k (64 * b + l)) va then .ok v
        else match v.settling 4 (.thread k (64 * b + l)) with
          | some o => .error o
          | none => .ok (released v (coreOfTeam k) va pa (!r.mode))) s ls t →
    exec (.rel r) s = .next (t.popLanes (shapeOf (.rel r) s.iss.pfx) ls)) ∧
  (∀ gen sh : Nat, gen < 2 ^ 32 → sh < 65536 →
    relWord true (gen * 2 ^ 32 + 65536 + sh) = (gen + 1) % 2 ^ 32 * 2 ^ 32 + sh ∧
    relWord true (gen * 2 ^ 32 + sh) = gen * 2 ^ 32 + sh ∧ relWord false (gen * 2 ^ 32) = gen * 2 ^ 32 ∧
    (0 < sh → relWord false (gen * 2 ^ 32 + sh) = gen * 2 ^ 32 + sh - 1)) ∧
  (∀ s c u pa (r : AcqOp), Shut s (.acq r) c → s.objAt (s.rd64 0 r.a).toNat = .ok (u, pa) →
    det u (.shuttle c) (s.rd64 0 r.a).toNat = false → let u := u.surrender c pa 8
    ((u.shuttle c).curHold = .gotAcq pa (!r.mode) → exec (.acq r) s = .next (u.modShuttle c fun h => h.setHold .none)) ∧
    ((u.shuttle c).curHold = .none → may u pa (!r.mode) = true →
      exec (.acq r) s = .next (granted u c u.issAsid (s.rd64 0 r.a).toNat pa (!r.mode))) ∧
    (s.iss.multi = false → (u.shuttle c).curHold = .none → (s.shuttle c).curHold = .none → may u pa (!r.mode) = false → ∃ t, exec (.acq r) s = .next t ∧
      t = { s with objReqs := s.objReqs ++ [⟨pa, .shuttle c, !r.mode, (s.rd64 0 r.a).toNat, s.issAsid⟩]
                   cores := t.cores, iss := t.iss } ∧
      (∀ d, d ≠ c → t.core d = s.core d) ∧
      t.core c = { s.core c with shuttle := { (s.shuttle c).setHold (.waitAcq pa (!r.mode)) with waiting := true } })) ∧
  (∀ s c u pa (r : TryacqOp), Shut s (.tryacq r) c → s.objAt (s.rd64 0 r.a).toNat = .ok (u, pa) →
    det u (.shuttle c) (s.rd64 0 r.a).toNat = false → let u := u.surrender c pa 8
    exec (.tryacq r) s = .next (if may u pa (!r.mode) then granted u c u.issAsid (s.rd64 0 r.a).toNat pa (!r.mode) else u)) ∧
  (∀ s c u pa (r : AcqOp), Shut s (.rel r) c → s.objAt (s.rd64 0 r.a).toNat = .ok (u, pa) →
    det u (.shuttle c) (s.rd64 0 r.a).toNat = false → ((s.shuttle c).mode = false → (s.shuttle c).rel = none) →
    (u.settling 4 (.shuttle c) = none → exec (.rel r) s = .next (released u c (s.rd64 0 r.a).toNat pa (!r.mode))) ∧
    (s.iss.multi = false → (s.shuttle c).mode = false → u.settling 4 (.shuttle c) = some .retry → ∃ t, exec (.rel r) s = .next t ∧
      t = { s with cores := t.cores, iss := t.iss } ∧ (∀ d, d ≠ c → t.core d = s.core d) ∧
      t.core c = { s.core c with shuttle := { s.shuttle c with
        rel := some ⟨(s.rd64 0 r.a).toNat, pa, !r.mode, false⟩, waiting := true } })) ∧
  (∀ s c (x : RelWork) (r : AcqOp), Shut s (.rel r) c → (s.shuttle c).mode = false → (s.shuttle c).rel = some x →
    (x.done = true → exec (.rel r) s = .next (s.modShuttle c fun h => { h with rel := none })) ∧
    (x.done = false → s.settling 4 (.shuttle c) = none →
      exec (.rel r) s = .next ((released s c x.va x.pa x.excl).modShuttle c fun h => { h with rel := none }))) ∧
  (∀ (s : State) (pa : Nat), (∀ q ∈ s.objReqs, q.obj ≠ pa) → exec (.objectGrant pa) s = .next s) ∧
  ∀ (s : State) (pa : Nat) as q bs k i, s.objReqs = as ++ q :: bs → (∀ o ∈ as, o.obj ≠ pa) → q.obj = pa → q.who = .thread k i →
    s.homeNat pa 8 / 65536 % 2 = 0 → (if q.excl then s.homeNat pa 8 % 65536 = 0 else s.homeNat pa 8 % 65536 < 65535) →
    (let t := granted { s with objReqs := as ++ bs } (coreOfTeam k) q.asid q.va pa q.excl
     exec (.objectGrant pa) s = .next (t.modTeam k fun x => x.makeReady t.fresh [i]))

/-- REGION binds or refuses with the first reason of its list, frees, and answers in its status register; WAITGE (R208, R215,
R223). -/
def Obligations.Regions : Prop :=
  let answer (s : State) (k i d pd v : Nat) (ok : Bool) (rs : NMap Region) (asid : Nat) : State :=
    (s.modSpace asid fun p => { p with regions := rs }).modThread k i fun x => (x.setG d (BitVec.ofNat 32 v)).setP pd ok
  let told (s : State) (k i d pd v : Nat) (ok : Bool) : State :=
    s.modThread k i fun x => (x.setG d (BitVec.ofNat 32 v)).setP pd ok
  (∀ s k b ls t (r : RegionOp), Gang s (.region r) k b ls →
    Serve (fun u l =>
      let st := (u.rd64 l r.a).toNat
      let n := (u.rd l r.b []).toNat
      let o := (u.rd64 l r.obj).toNat
      if st % 32 ≠ 0 ∨ n % 32 ≠ 0 ∨ o % 8 ≠ 0 then .error (.flt (flt .align))
      else match u.bindPages (pagesOf st n ++ [o]) with
        | .error f => .error (.flt f)
        | .ok (w, inHbm, d0) => match (if r.det then d0 else none) with
          | some va => .error (.flt ⟨.perm, va, 0⟩)
          | none =>
            let reason := w.bindReason w.issAsid st n o inHbm
            let rs := (w.space w.issAsid).regions
            let e := ((List.range 512).find? fun e => (nfind rs e).isNone).getD 0
            if reason = 0 then
              .ok (answer w k (64 * b + l) r.d.toNat r.pd.toNat e true (nput rs e ⟨st, n, o, r.det⟩) w.issAsid)
            else .ok (told w k (64 * b + l) r.d.toNat r.pd.toNat (0x80000000 + reason) false)) s ls t →
    exec (.region r) s = .next (t.popLanes (shapeOf (.region r) s.iss.pfx) ls)) ∧
  (∀ s k b ls (r : RegionOp), Gang s (.region r) k b ls →
    (∀ l ∈ ls, (s.rd64 l r.a).toNat % 32 ≠ 0 ∨ (s.rd l r.b []).toNat % 32 ≠ 0 ∨ (s.rd64 l r.obj).toNat % 8 ≠ 0) →
    Faults (.region r) s k b (ls.map fun l => (l, flt .align))) ∧
  (∀ (s : State) a st n o h,
    let rs := (s.space a).regions.map (·.2)
    let meets (x m y p : Nat) : Prop := x < y + p ∧ y < x + m ∧ 0 < m ∧ 0 < p
    let holds : Prop := meets st n o 8 ∨ (∃ g ∈ rs, meets st n g.obj 8) ∨ ∃ g ∈ rs, meets g.start g.len o 8
    (n = 0 → s.bindReason a st n o h = 3) ∧ (0 < n → h = false → s.bindReason a st n o h = 4) ∧
    (0 < n → h = true → (∃ g ∈ rs, meets st n g.start g.len) → s.bindReason a st n o h = 2) ∧
    (0 < n → h = true → (∀ g ∈ rs, ¬ meets st n g.start g.len) →
      (holds → s.bindReason a st n o h = 7) ∧ (¬ holds → 512 ≤ rs.length → s.bindReason a st n o h = 1) ∧
      (¬ holds → rs.length < 512 → s.bindReason a st n o h = 0))) ∧
  (∀ s k b ls t (r : RegionFreeOp), Gang s (.regionFree r) k b ls →
    Serve (fun u l =>
      let e := (u.rd l r.a []).toNat
      let rs := (u.space u.issAsid).regions
      .ok (match (if 511 < e then none else nfind rs e) with
        | none => told u k (64 * b + l) r.d.toNat r.pd.toNat 0x80000006 false
        | some x => if u.objHeld u.issAsid x.obj then told u k (64 * b + l) r.d.toNat r.pd.toNat 0x80000005 false
            else answer u k (64 * b + l) r.d.toNat r.pd.toNat 0 true (ndel rs e) u.issAsid)) s ls t →
    exec (.regionFree r) s = .next (t.popLanes (shapeOf (.regionFree r) s.iss.pfx) ls)) ∧
  (∀ s c w inHbm d0 (r : RegionOp), Shut s (.region r) c →
    let st := (s.rd64 0 r.a).toNat
    let n := (s.rd 0 r.b []).toNat
    let o := (s.rd64 0 r.obj).toNat
    st % 32 = 0 → n % 32 = 0 → o % 8 = 0 → s.bindPages (pagesOf st n ++ [o]) = .ok (w, inHbm, d0) →
    (r.det = true → d0 = none) →
    let reason := w.bindReason w.issAsid st n o inHbm
    let rs := (w.space w.issAsid).regions
    let e := ((List.range 512).find? fun e => (nfind rs e).isNone).getD 0
    exec (.region r) s = .next (if reason = 0 then
      (w.modSpace w.issAsid fun p => { p with regions := nput rs e ⟨st, n, o, r.det⟩ }).setS c r.d.toNat
        ((BitVec.ofNat 32 e).setWidth 64)
      else w.setS c r.d.toNat ((BitVec.ofNat 32 (0x80000000 + reason)).setWidth 64))) ∧
  (∀ s c x (r : RegionFreeOp), Shut s (.regionFree r) c → (s.rd 0 r.a []).toNat ≤ 511 →
    nfind (s.space s.issAsid).regions (s.rd 0 r.a []).toNat = some x →
    exec (.regionFree r) s = .next (if s.objHeld s.issAsid x.obj then s.setS c r.d.toNat 0x80000005 else
      (s.modSpace s.issAsid fun p => { p with regions := ndel p.regions (s.rd 0 r.a []).toNat }).setS c r.d.toNat 0)) ∧
  (∀ s k b ls (r : RAB), Gang s (.waitge r) k b ls →
    let wp (l : Nat) : Nat := ((s.cluster (clusterOfCore (coreOfTeam k))).channel ((s.rd l r.a []).toNat % 16)).wp
    ((∀ l ∈ ls, (s.rd64 l r.b).toNat ≤ wp l) → exec (.waitge r) s = .next (s.popLanes (shapeOf (.waitge r) s.iss.pfx) ls)) ∧
    ((∀ l ∈ ls, wp l < (s.rd64 l r.b).toNat) → Waits (.waitge r) s k b ls)) ∧
  ∀ s c (r : RAB), Shut s (.waitge r) c →
    (s.rd64 0 r.b).toNat ≤ ((s.cluster (clusterOfCore c)).channel ((s.rd 0 r.a []).toNat % 16)).wp → exec (.waitge r) s = .next s

/-- Shuttle arithmetic, SSET, SBR, SBRF, SDONE and DQPUSH: results over 64 bits, transfers, and that nothing else changes
(R235, R236, R237, R238, R239, R107). -/
def Obligations.ShuttleArithmetic : Prop :=
  let cond (code : Nat) (x y : Dword) : Bool := match code with
    | 0 => x == y
    | 1 => x != y
    | 2 => x.slt y
    | 3 => x.sle y
    | 4 => y.slt x
    | 5 => y.sle x
    | 6 => x.ult y
    | 7 => x.ule y
    | 8 => y.ult x
    | 9 => y.ule x
    | 10 => x &&& y != 0
    | _ => x &&& y == 0
  let w (d : BitVec 7) (v : State → Dword) : State → Nat → Option Dword := fun s n => if n = d.toNat then some (v s) else none
  let A (r : S3) (s : State) : Dword := s.rd64 0 r.a
  let B (r : S3) (s : State) : Dword := s.rd64 0 r.b
  (∀ (s : State) c (f : BitVec 7), s.iss.who = .shuttle c → s.rd64 0 f = s.viewS c f.toNat) ∧
  (∀ r : S3, ShutYields (.sadd r) (w r.d fun s => A r s + B r s) ∧ ShutYields (.ssub r) (w r.d fun s => A r s - B r s) ∧
    ShutYields (.smul r) (w r.d fun s => A r s * B r s) ∧ ShutYields (.sand r) (w r.d fun s => A r s &&& B r s) ∧
    ShutYields (.sor r) (w r.d fun s => A r s ||| B r s) ∧ ShutYields (.sxor r) (w r.d fun s => A r s ^^^ B r s) ∧
    ShutYields (.sshl r) (w r.d fun s => A r s <<< (B r s).toNat) ∧ ShutYields (.sshr r) (w r.d fun s => A r s >>> (B r s).toNat) ∧
    ShutYields (.ssar r) (w r.d fun s => (A r s).sshiftRight (B r s).toNat)) ∧
  (∀ r : SaddiOp, ShutYields (.saddi r) (w r.d fun s => s.rd64 0 r.a + r.imm.signExtend 64)) ∧
  (∀ r : SldiOp, ShutYields (.sldi r) (w r.d fun _ => r.imm.signExtend 64)) ∧
  (∀ r : SsetOp, ShutYields (.sset r) (w r.d fun s => if cond r.cond.toNat (s.rd64 0 r.a) (s.rd64 0 r.b) then 1 else 0)) ∧
  (∀ s c (r : SbrOp), Shut s (.sbr r) c → ∃ t, exec (.sbr r) s = .next t ∧ t = { s with iss := { s.iss with xfer := t.iss.xfer } } ∧
    (if r.cond = 12 ∨ cond r.cond.toNat (s.rd64 0 r.a) (s.rd64 0 r.b) = true then
      t.nextPc 0 = BitVec.ofNat 17 (s.iss.pc.toNat / 32768 * 32768 + 4 * ((s.iss.pc.toNat / 4 % 8192 : Nat) + r.off.toInt).toNat)
     else t = s)) ∧
  (∀ s c (r : SbrfOp), Shut s (.sbrf r) c →
    (∀ sl, s.findSlot c s.issSup r.ovl.toNat = some sl → ∃ t, exec (.sbrf r) s = .next t ∧
      t = { s with iss := { s.iss with xfer := t.iss.xfer } } ∧ t.nextPc 0 = BitVec.ofNat 17 (sl * 32768 + r.tpkt.toNat * 4)) ∧
    (s.findSlot c s.issSup r.ovl.toNat = none → ShutFaults (.sbrf r) s c (flt .ovlMiss))) ∧
  (∀ s c, Shut s .sdone c → exec .sdone s = .next (s.modShuttle c fun h => { h with active := false, chunk := none })) ∧
  ∀ s c k (a : BitVec 7), Shut s (.dqpush a) c → (s.shuttle c).team = some k →
    (64 ≤ (s.team k).dq.length → ShutWaits (.dqpush a) s c) ∧
    ((s.team k).dq.length < 64 → ∃ t, exec (.dqpush a) s = .next t ∧
      (let q := s.team k
       let pos := q.dqFirst + q.dq.length
       let v := s.viewS c a.toNat
       t = { s with teams := t.teams, fills := t.fills } ∧ (∀ j, j ≠ k → t.team j = s.team j) ∧
       t.team k = { q with dq := (t.team k).dq, dqFirst := (t.team k).dqFirst } ∧
       (t.team k).dq = (q.dq ++ [v]).drop ((t.team k).dqFirst - q.dqFirst) ∧
       (∀ i ∈ q.liveThreads, (t.team k).dqFirst ≤ max q.dqFirst (s.thread k i).dqpos) ∧
       t.fills = s.fills.map fun f => if f.team = k ∧ f.val = .decision pos true then
           { f with val := .words [v.setWidth 32, (v >>> 32).setWidth 32] }
         else if f.team = k ∧ f.val = .decision pos false then { f with val := .words [v.setWidth 32] } else f))

/-- STREAM checks its descriptor and starts its walk; a stream pushes entries in walk order; SQSTOP ends it and counts (R240,
R241, R242, R243, R49). -/
def Obligations.OperandStreams : Prop :=
  (∀ s c (r : StreamOp), Shut s (.stream r) c → (s.streamDesc r.a).bad = true → ShutFaults (.stream r) s c (flt .illInst)) ∧
  (∀ s c (r : StreamOp), Shut s (.stream r) c →
    let d := s.streamDesc r.a
    let x (i : Nat) : Nat := (s.viewS c (r.a.toNat + i)).toNat
    let z : Nat := if x 4 / 2 ^ 32 % 4 = 0 then 4 else if x 4 / 2 ^ 32 % 4 = 1 then 2 else 1
    let st (i : Nat) : Int := (BitVec.ofNat 32 (x (2 + i / 2) / 2 ^ (32 * (i % 2)))).toInt
    let ls : Int := (BitVec.ofNat 32 (x 4)).toInt
    let space : Nat := x 4 / 2 ^ 35 % 4
    let base : Nat := if space = 0 then x 0 else x 0 % 2 ^ 32
    let counts : List Nat := (List.range 4).map fun i => x 1 / 2 ^ (16 * i) % 65536 + 1
    d.bad = false → x 4 / 2 ^ 37 % 2 = 0 →
    (¬ (base % z = 0 ∧ ls % z = 0 ∧ ∀ i, i < 4 → st i % z = 0) → ShutFaults (.stream r) s c (flt .align)) ∧
    (base % z = 0 → ls % z = 0 → (∀ i, i < 4 → st i % z = 0) → ∀ p bound,
      (space = 0 → p = .glob base ∧ bound = none) → (space ≠ 0 → s.rangeAt 0 space base false = .ok (p, bound)) →
      (walkInside p bound counts 0 ((List.range 4).map st) ls z = false → ShutFaults (.stream r) s c (flt .extent)) ∧
      (walkInside p bound counts 0 ((List.range 4).map st) ls z = true → ∀ k, (s.shuttle c).team = some k →
        (((s.team k).queue r.q.toNat).stream.running = true → ShutWaits (.stream r) s c) ∧
        (((s.team k).queue r.q.toNat).stream.running = false → exec (.stream r) s = .next (s.modTeam k fun t =>
          t.modQueue r.q.toNat fun o => { o with stream :=
            { base := p, counts := counts, strides := (List.range 4).map st, lstride := ls, esize := z
              sext := decide (x 4 / 2 ^ 34 % 2 = 1), pos := 0, pushed := 0, running := true, paused := false, frozen := false
              sup := (s.shuttle c).mode, unit := s.unitOf (.shuttle c) } }))))) ∧
  (∀ (st : Stream) c0 c1 c2 c3 s0 s1 s2 s3, st.counts = [c0, c1, c2, c3] → st.strides = [s0, s1, s2, s3] →
    0 < c0 → 0 < c1 → 0 < c2 → ∀ i0 i1 i2 i3, i0 < c0 → i1 < c1 → i2 < c2 → i3 < c3 →
    st.pos = i0 + c0 * (i1 + c1 * (i2 + c2 * i3)) → st.delta = i0 * s0 + i1 * s1 + i2 * s2 + i3 * s3) ∧
  (∀ (s : State) (k q : Nat),
    let o := (s.team k).queue q
    let st := o.stream
    let c := coreOfTeam k
    let goes : Prop := (s.team k).live = true ∧ (s.team k).liveThreads ≠ [] ∧ (s.part (partOfCore c)).halted = false ∧
      st.running = true ∧ st.paused = false ∧ st.frozen = false ∧ o.entries.length < 8
    (¬ goes → exec (.streamEntryPush k q) s = .next s) ∧
    (goes → ∀ u ws, s.streamElems c (s.team k).asid st (List.range 64) = .ok (u, ws) →
      ∃ t, exec (.streamEntryPush k q) s = .next t ∧ t = { u with teams := t.teams, fills := t.fills } ∧
        (∀ j, j ≠ k → t.team j = u.team j) ∧ t.team k = { u.team k with queues := (t.team k).queues } ∧
        (let n := (t.team k).queue q
         n.entries = (((u.team k).queue q).entries ++ [ws]).drop (n.first - ((u.team k).queue q).first) ∧
         n.stream = { st with pos := st.pos + 1, pushed := st.pushed + 1
                              running := decide (st.pos + 1 < st.counts.foldl (· * ·) 1) })) ∧
    (goes → st.sup = false → ∀ f, s.streamElems c (s.team k).asid st (List.range 64) = .error f → f.code ≠ .freeze → f.code ≠ .delayed →
      exec (.streamEntryPush k q) s = .next ((s.modTeam k fun t => t.modQueue q fun o =>
        { o with stream := { st with paused := true } }).faultSource c 2 (slotOfTeam k) q (s.team k).asid f 0))) ∧
  ∀ s c k (r : SqstopOp), Shut s (.sqstop r) c → (s.shuttle c).team = some k →
    (let st := ((s.team k).queue r.q.toNat).stream
     (st.running = true → (st.paused = true ∨ st.frozen = true) → ShutWaits (.sqstop r) s c) ∧
     ((st.running = true → st.paused = false ∧ st.frozen = false) → exec (.sqstop r) s = .next ((s.modTeam k fun t =>
       t.modQueue r.q.toNat fun o => { o with stream := { o.stream with running := false } }).setS c r.d.toNat
         (BitVec.ofNat 64 st.pushed))))

/-- CPY and CPY2D: the checks in their order, the span on the channel's axis, the open batch, and the returned end (R180,
R222, R244, R246, R247). -/
def Obligations.CopyIssue : Prop :=
  let rg4 (s : State) (l : Nat) (r : CpyOp) (i : Nat) : Nat := (s.rg l (r.len.toNat + i)).toNat
  let end_ (s : State) (l : Nat) (f : BitVec 7) (space : BitVec 2) : Nat :=
    if space = 0 then (s.rd64 l f).toNat else (s.rd64 l f).toNat % 2 ^ 32
  (∀ s k b ls t (r : CpyOp), Gang s (.cpy r) k b ls →
    Serve (fun u l => u.copyOne l r (rg4 u l r 0) 1 (rg4 u l r 0) (rg4 u l r 0)) s ls t →
    exec (.cpy r) s = .next (t.popLanes (shapeOf (.cpy r) s.iss.pfx) ls)) ∧
  (∀ s k b ls t (r : CpyOp), Gang s (.cpy2d r) k b ls →
    Serve (fun u l => u.copyOne l r (rg4 u l r 0) (rg4 u l r 1) (BitVec.ofNat 32 (rg4 u l r 2)).toInt (rg4 u l r 3)) s ls t →
    exec (.cpy2d r) s = .next (t.popLanes (shapeOf (.cpy2d r) s.iss.pfx) ls)) ∧
  (∀ s c t (r : CpyOp), Shut s (.cpy r) c → s.copyOne 0 r (rg4 s 0 r 0) 1 (rg4 s 0 r 0) (rg4 s 0 r 0) = .ok t →
    exec (.cpy r) s = .next t) ∧
  (∀ s c t (r : CpyOp), Shut s (.cpy2d r) c →
    s.copyOne 0 r (rg4 s 0 r 0) (rg4 s 0 r 1) (BitVec.ofNat 32 (rg4 s 0 r 2)).toInt (rg4 s 0 r 3) = .ok t →
    exec (.cpy2d r) s = .next t) ∧
  ∀ (s : State) l (r : CpyOp) (w h : Nat) (sp dp : Int),
    let d := end_ s l r.a r.dsp
    let c := end_ s l r.b r.ssp
    let cl := clusterOfCore s.issCore
    let ok : Prop := d % 4 = 0 ∧ c % 4 = 0 ∧ w % 4 = 0 ∧ sp % 4 = 0 ∧ dp % 4 = 0
    (¬ ok → s.copyOne l r w h sp dp = .error (.flt (flt .align))) ∧
    (ok → 1 < h → dp < w → s.copyOne l r w h sp dp = .error (.flt (flt .extent))) ∧
    (ok → (h ≤ 1 ∨ w ≤ dp) → ∀ f, s.rangeAt l r.dsp.toNat d true = .error f → s.copyOne l r w h sp dp = .error (.flt f)) ∧
    (ok → (h ≤ 1 ∨ w ≤ dp) → ∀ x f, s.rangeAt l r.dsp.toNat d true = .ok x → s.rangeAt l r.ssp.toNat c true = .error f →
      s.copyOne l r w h sp dp = .error (.flt f)) ∧
    (ok → (h ≤ 1 ∨ w ≤ dp) → ∀ dst db src sb, s.rangeAt l r.dsp.toNat d true = .ok (dst, db) →
      s.rangeAt l r.ssp.toNat c true = .ok (src, sb) →
      (let last : Int := (h : Int) - 1
       let lies (p : Loc) (bd : Option (Nat × Nat)) (pitch : Int) : Prop := w * h = 0 ∨ bd = none ∨ ∃ lo hi : Nat,
         bd = some (lo, hi) ∧ (lo : Int) ≤ p.off + min 0 (last * pitch) ∧ (p.off : Int) + max 0 (last * pitch) + w ≤ hi
       let clear : Prop := s.destOverlap cl r.ch.toNat s.issAsid dst ⟨dst.off, w, h, dp⟩ = false
       (¬ (lies dst db dp ∧ lies src sb sp) → s.copyOne l r w h sp dp = .error (.flt (flt .extent))) ∧
       (lies dst db dp → lies src sb sp → ¬ clear → s.copyOne l r w h sp dp = .error (.flt (flt .destOvl))) ∧
       (lies dst db dp → lies src sb sp → clear → 32 ≤ (s.channelCopies cl r.ch.toNat).length →
         s.copyOne l r w h sp dp = .error .retry) ∧
       (lies dst db dp → lies src sb sp → clear → (s.channelCopies cl r.ch.toNat).length < 32 → ∃ t,
         s.copyOne l r w h sp dp = .ok t ∧
         (let who := s.whoOf l
          let tail := ((s.cluster cl).channel r.ch.toNat).tail
          t.copies = s.copies ++ [⟨s.fresh, cl, r.ch.toNat, s.issCore, who, s.unitOf who, s.issAsid, dst, src, w, h, sp, dp,
            tail, 0, none, false, false, s.issSup⟩] ∧
          (∀ j, (t.cluster cl).channel j = if j = r.ch.toNat then
            { (s.cluster cl).channel j with tail := tail + w * h } else (s.cluster cl).channel j) ∧
          t = { s with copies := t.copies, clusters := t.clusters, fresh := s.fresh + 1, teams := t.teams, cores := t.cores } ∧
          (∀ k b ls, s.iss.who = .gang k b ls →
            t.cores = s.cores ∧ t = (let u : State := { s with copies := t.copies, clusters := t.clusters, fresh := s.fresh + 1 }
              let v := u.modThread k (64 * b + l) fun x => { x with batch := { x.batch with opened := x.batch.opened ++ [s.fresh] } }
              if r.ret then v.put64 l r.d.toNat (BitVec.ofNat 64 (tail + w * h)) else v))))))

/-- A channel moves its oldest copy's bytes in ascending order; SEAL, BWAIT and WPTR; OVL loads an overlay through a channel
(R221, R244, R245, R246, R248, R249, R250, R253). -/
def Obligations.CopyChannels : Prop :=
  (∀ (s : State) cl ch, (∀ c r, s.channelCopies cl ch = c :: r → c.stopped = true ∨ c.frozen = true ∨
    (s.part (partOfCluster cl)).halted = true) → exec (.copyPerform cl ch) s = .next s) ∧
  (∀ (s : State) cl ch c r, s.channelCopies cl ch = c :: r → c.stopped = false → c.frozen = false →
    (s.part (partOfCluster cl)).halted = false → c.ovl = none →
    (c.width * c.rows ≤ c.moved → ∃ t, exec (.copyPerform cl ch) s = .next t ∧
      t.copies = s.copies.filter (fun x => x.id != c.id) ∧
      ((t.cluster cl).channel ch).wp = max ((s.cluster cl).channel ch).wp (c.start + c.width * c.rows) ∧
      t = { s with copies := t.copies, clusters := t.clusters, nodes := t.nodes }) ∧
    (c.moved < c.width * c.rows →
      (let row := c.moved / c.width
       let col := c.moved % c.width
       let src := c.src.move (row * c.srcPitch + col)
       let dst := c.dst.move (row * c.dstPitch + col)
       let n := min (c.width - col) (min (32 - src.off % 32) (32 - dst.off % 32))
       (∀ u bs v, s.unitRead c.core c.asid c.unit src n .read = .ok (u, bs) → u.unitWrite c.core c.asid c.unit dst bs = .ok v →
         v.clusters = s.clusters → v.copies = s.copies →
         ∃ t, exec (.copyPerform cl ch) s = .next t ∧
           t = { v with copies := t.copies, clusters := t.clusters, cores := t.cores, nodes := t.nodes } ∧
           (∀ j, (t.core j).l1 = (v.core j).l1 ∧ (t.core j).shuttle = (v.core j).shuttle) ∧
           c.start + c.moved + n ≤ ((t.cluster cl).channel ch).wp ∧
           ((s.cluster cl).channel ch).wp ≤ ((t.cluster cl).channel ch).wp ∧
           (c.moved + n < c.width * c.rows → t.copies = s.copies.map fun x => if x.id = c.id then { x with moved := x.moved + n } else x) ∧
           (c.width * c.rows ≤ c.moved + n → ∀ x ∈ t.copies, x.id ≠ c.id)) ∧
       (∀ f, f.code = .delayed → s.unitRead c.core c.asid c.unit src n .read = .error f → exec (.copyPerform cl ch) s = .next s) ∧
       (∀ f, c.sup = false → f.code ≠ .freeze → f.code ≠ .delayed → s.unitRead c.core c.asid c.unit src n .read = .error f →
         exec (.copyPerform cl ch) s = .next ((s.modCopy c.id fun x => { x with stopped := true }).faultSource c.core 3
           (s.slotOfWho c.who) c.ch c.asid f 0))))) ∧
  (∀ s k b ls (r : SealOp), Gang s (.seal r) k b ls → ∃ t, exec (.seal r) s = .next t ∧ OnlyTeam s t k ∧
    Threads s t k b ls (shapeOf (.seal r) s.iss.pfx) fun _ x => ({ x with batch :=
      ⟨x.batch.count + 1, [], x.batch.sealed ++ [(x.batch.count + 1, x.batch.opened)]⟩ } : Thread).setG r.d.toNat (x.batch.count + 1)) ∧
  (∀ s k b ls (r : BwaitOp), Gang s (.bwait r) k b ls →
    let named (l : Nat) (x : Word × List Nat) : Prop := x ∈ (s.thread k (64 * b + l)).batch.sealed ∧ (s.rd l r.a [] - x.1).toNat < 2 ^ 31
    ((∀ l ∈ ls, ∀ x, named l x → ∀ id ∈ x.2, (∀ c ∈ s.copies, c.id ≠ id) ∧
        ∀ h ∈ s.held, h.who = .thread k (64 * b + l) → h.work ≠ id) →
      exec (.bwait r) s = .next (s.popLanes (shapeOf (.bwait r) s.iss.pfx) ls)) ∧
    ((∀ l ∈ ls, ∃ x, named l x ∧ ∃ id ∈ x.2, ∃ c ∈ s.copies, c.id = id) → Waits (.bwait r) s k b ls)) ∧
  (∀ r : WptrOp, Yields (.wptr r) (pair r.d.toNat fun s l => match s.iss.who with
    | .gang k _ _ => BitVec.ofNat 64 ((s.cluster (clusterOfCore (coreOfTeam k))).channel ((s.rd l r.a []).toNat % 16)).wp
    | _ => 0) nothing noFlags) ∧
  ∀ s c (r : OvlOp), Shut s (.ovl r) c →
    (let a := (s.viewS c r.a.toNat).toNat
     let src := (s.viewS c r.b.toNat).toNat
     let n := a / 2 ^ 16 % 2 ^ 13
     let sl := r.slot.toNat
     (sl = 3 → (s.shuttle c).mode = false → ShutFaults (.ovl r) s c (flt .priv)) ∧
     ((sl ≠ 3 ∨ (s.shuttle c).mode = true) → a / 2 ^ 10 % 64 = 0 → a / 2 ^ 29 = 0 →
       (src % 4 ≠ 0 → ShutFaults (.ovl r) s c (flt .align)) ∧
       (src % 4 = 0 → (n = 0 ∨ 5461 < n) → exec (.ovl r) s = .next (s.setS c r.d.toNat 2)) ∧
       (src % 4 = 0 → 0 < n → n ≤ 5461 → sl = 3 ∨ s.slotInUse c sl = true → exec (.ovl r) s = .next (s.setS c r.d.toNat 1)) ∧
       (src % 4 = 0 → 0 < n → n ≤ 5461 → sl ≠ 3 → s.slotInUse c sl = false →
         (s.channelCopies (clusterOfCore c) r.ch.toNat).length < 32 → ∃ t, exec (.ovl r) s = .next t ∧
           nfind (t.core c).slots sl = none ∧ (∀ j, j ≠ sl → nfind (t.core c).slots j = nfind (s.core c).slots j) ∧
           (∀ i, 12 * n ≤ i → i < 65536 → mget (t.core c).imem (65536 * sl + i) = 0) ∧
           (∀ i, i < 65536 * sl + 12 * n ∨ 65536 * sl + 65536 ≤ i → mget (t.core c).imem i = mget (s.core c).imem i) ∧
           nget (t.shuttle c).bank r.d.toNat 0 = 0 ∧ t.hbm = s.hbm ∧ t.teams = s.teams ∧
           ∃ cp, t.copies = s.copies ++ [cp] ∧ cp.ch = r.ch.toNat ∧ cp.width = 12 * n ∧ cp.rows = 1 ∧
             (src < 2 ^ 55 → cp.src = .glob src) ∧ ∃ image, cp.ovl = some (sl, image, a % 1024))))

/-- CHUNK sends its draw, the record's step sizes it, and the result reaches every drawer: each thread, or the Shuttle (R50,
R225, R226, R229, R251, R252). That a discarded chunk is given again is the model's reading (log 23). -/
def Obligations.ChunkDraws : Prop :=
  (∀ (s : State) va, va % 32 ≠ 0 → s.recordAt va = .error (flt .align)) ∧
  (∀ (s : State) k b ls va u lf, s.iss.who = .gang k b ls → va % 32 = 0 → va < 2 ^ 55 →
    s.lookup (.core (coreOfTeam k)) s.issAsid va = .ok (u, lf) → isStackLocal (lf.pa va) = false →
    s.recordAt va = .error ⟨.perm, va, 0⟩) ∧
  (∀ s k b ls t (r : ChunkOp), r.gang = false → Gang s (.chunk r) k b ls →
    Serve (fun u l => match u.recordAt (u.rd64 l r.a).toNat with
      | .error f => .error (.flt f)
      | .ok (v, pa) => .ok { v.modThread k (64 * b + l) fun x =>
          ((x.clearFull r.d.toNat).clearFull (r.d.toNat + 1)).clearFull (r.d.toNat + 2) with
          draws := v.draws ++ [⟨v.fresh, .thread k (64 * b + l), [64 * b + l], r.d.toNat, pa, false, (u.rd64 l r.a).toNat,
            v.unitOf (.thread k (64 * b + l))⟩], fresh := v.fresh + 1 })
      s ls t →
    exec (.chunk r) s = .next (t.popLanes (shapeOf (.chunk r) s.iss.pfx) ls)) ∧
  (∀ s k b l ls u pa (r : ChunkOp), r.gang = true → Gang s (.chunk r) k b (l :: ls) → s.recordAt (s.rd64 l r.a).toNat = .ok (u, pa) →
    ∃ t, exec (.chunk r) s = .next t ∧ t = { u with teams := t.teams, draws := t.draws, fresh := u.fresh + 1 } ∧
      t.draws = u.draws ++ [⟨u.fresh, .thread k (64 * b + l), (l :: ls).map (64 * b + ·), r.d.toNat, pa, false,
        (s.rd64 l r.a).toNat, u.unitOf (.thread k (64 * b + l))⟩] ∧
      (∀ i, (∀ m ∈ l :: ls, i ≠ 64 * b + m) → t.thread k i = u.thread k i) ∧
      ∀ m ∈ l :: ls, ∀ n, (t.thread k (64 * b + m)).g n = (u.thread k (64 * b + m)).g n ∧
        (t.thread k (64 * b + m)).full n = if r.d.toNat ≤ n ∧ n < r.d.toNat + 3 then false else (u.thread k (64 * b + m)).full n) ∧
  (∀ s k b ls f (r : ChunkOp), r.gang = true → Gang s (.chunk r) k b ls →
    s.recordAt (s.rd64 (s.parts_.headD 0) r.a).toNat = .error f → f.code ≠ .delayed → Faults (.chunk r) s k b (ls.map fun l => (l, f))) ∧
  (∀ s c u pa (r : ChunkOp), Shut s (.chunk r) c → s.recordAt (s.rd64 0 r.a).toNat = .ok (u, pa) →
    exec (.chunk r) s = .next { u.modShuttle c fun h => h.setHold (.draw u.fresh) with
      draws := u.draws ++ [⟨u.fresh, .shuttle c, [], r.d.toNat, pa, (u.shuttle c).mode, (s.rd64 0 r.a).toNat,
        u.unitOf (.shuttle c)⟩], fresh := u.fresh + 1 }) ∧
  (∀ next stop mn mx workers : Nat,
    let rem := stop - next
    let lo := max mn 1
    let want := (rem + 2 * max workers 1 - 1) / (2 * max workers 1)
    let clamp := if want < lo then lo else if max mx lo < want then max mx lo else want
    drawOf next stop mn mx workers = (next, if rem = 0 then 0 else min rem clamp)) ∧
  (drawOf 0 1000 8 64 4 = (0, 64) ∧ drawOf 512 1000 8 64 4 = (512, 61) ∧ drawOf 573 1000 8 64 4 = (573, 54) ∧
    drawOf 945 1000 8 64 4 = (945, 8) ∧ drawOf 993 1000 8 64 4 = (993, 7) ∧ drawOf 1000 1000 8 64 4 = (1000, 0)) ∧
  (∀ (s : State) n, s.draws.length ≤ n → exec (.chunkDraw n) s = .next s) ∧
  (∀ (s : State) c asid (d : Draw), s.redrawn d = none →
    (s.viewed d.unit asid d.va = false →
      (let u := s.surrender c d.pa 32
       let f (o w : Nat) : Nat := leNat (u.homeRead (d.pa + o) w)
       let x := drawOf (f 0 8) (f 8 8) (f 16 4) (f 20 4) (f 24 4)
       s.performDraw c asid d = (u.bobbinWrite d.pa (leBytes 8 ((x.1 + x.2) % 2 ^ 64)), ⟨x.1, x.2, d.pa, d.id⟩))) ∧
    (s.viewed d.unit asid d.va = true →
      (let f (o w : Nat) : Nat := leNat (s.viewRead d.unit (d.pa + o) w)
       let x := drawOf (f 0 8) (f 8 8) (f 16 4) (f 20 4) (f 24 4)
       s.performDraw c asid d = (s.viewWrite d.unit d.pa d.va (leBytes 8 ((x.1 + x.2) % 2 ^ 64)), ⟨x.1, x.2, d.pa, d.id⟩)))) ∧
  (∀ (s : State) c asid (d : Draw) x, s.redrawn d = some x → (s.performDraw c asid d).2 = x ∧
    (s.performDraw c asid d).1 = { s with grids := (s.performDraw c asid d).1.grids } ∧
    ∀ g ∈ (s.performDraw c asid d).1.grids, g.id = d.unit.group → x ∉ g.redraw) ∧
  ∀ (s : State) n d, s.draws[n]? = some d → (∀ e ∈ s.draws.take n, e.pa = d.pa → s.coreOfWho e.who ≠ s.coreOfWho d.who) →
    (let c := s.coreOfWho d.who
     let p := s.performDraw c (s.part (partOfCore c)).asid d
     let x : Nat × Nat := (p.2.start, p.2.size)
     let chunk : Option Chunk := if x.2 = 0 then none else some p.2
     let stepped (t : State) : Prop := t.draws = s.draws.filter (fun e => e.id != d.id) ∧ t.hbm = p.1.hbm ∧ t.grids = p.1.grids
     (∀ k i, d.who = .thread k i → ∃ t, exec (.chunkDraw n) s = .next t ∧ stepped t ∧
       (∀ i, i ∈ d.ts → (s.thread k i).isLive = true →
         (∃ rs es, t.thread k i = { s.thread k i with regs := rs, empty := es, chunk := chunk }) ∧
         (t.thread k i).g d.reg = BitVec.ofNat 32 x.1 ∧ (t.thread k i).g (d.reg + 1) = BitVec.ofNat 32 (x.1 / 2 ^ 32) ∧
         (t.thread k i).g (d.reg + 2) = BitVec.ofNat 32 x.2 ∧ (∀ j, j < 3 → (t.thread k i).full (d.reg + j) = true) ∧
         (∀ j, (j < d.reg ∨ d.reg + 3 ≤ j) → (t.thread k i).g j = (s.thread k i).g j) ∧
         ((s.team k).det = true → 0 < x.2 → ∃ v ∈ t.det, v.key = .chunk (s.team k).grid p.2)) ∧
       (∀ i, (i ∉ d.ts ∨ (s.thread k i).isLive = false) → t.thread k i = s.thread k i) ∧ (∀ j, j ≠ k → t.team j = s.team j) ∧
       ((s.team k).det = false → t.det = p.1.det)) ∧
     ∀ c', d.who = .shuttle c' → ∃ t, exec (.chunkDraw n) s = .next t ∧ stepped t ∧ t.teams = s.teams ∧
       (∀ e, e ≠ c' → t.core e = s.core e) ∧
       (let h := s.shuttle c'
        let g := t.shuttle c'
        ((if d.sup then h.supHold else h.hold) ≠ .draw d.id → g = h) ∧
        ((if d.sup then h.supHold else h.hold) = .draw d.id →
          (∀ j, nget (if d.sup then g.sup else g.user) j 0 = if j = d.reg + 1 then BitVec.ofNat 64 x.2
            else if j = d.reg then BitVec.ofNat 64 x.1 else nget (if d.sup then h.sup else h.user) j 0) ∧
          g = if d.sup then { h with sup := g.sup, supHold := .none } else
            { h with user := g.user, hold := .none, chunk := chunk })))

/-- QMMA, QSPMM, QACC, QCVT, QREC, QRECB, QTRACE: one record per issue, its token, the checks' fault, and where there is no
place (R256, R258, R261, R263, R276, R277, R278, R298). -/
def Obligations.TileRecordIssue : Prop :=
  let issues (i : Instr) (kind : Nat) (r : R2) (check : State → Rec → RecEnv → Except Flt (State × Rec)) : Prop :=
    (∀ s k b ls, Gang s i k b ls → ls ≠ [] →
      let blk := (List.range 16).flatMap fun j => leBytes 4 (s.rg (ls.headD 0) (r.a.toNat + j)).toNat
      let e : RecEnv := ⟨some k, coreOfTeam k, s.issAsid, (s.team k).handles, (s.team k).rslots, some (s.team k).allotment⟩
      let w : Who := .thread k (64 * b + ls.headD 0)
      let rec0 := newRec kind blk e w (s.unitOf w) false (s.tid s.issAsid)
      (∀ f, check s rec0 e = .error f → f.code ≠ .delayed → Faults i s k b (ls.map fun l => (l, f))) ∧
      ∀ u rec1, check s rec0 e = .ok (u, rec1) → (∀ l ∈ ls, s.regEmpties rec1 l = []) →
        (u.hasPlace k (clusterOfCore (coreOfTeam k)) = false → Waits i s k b ls) ∧
        (u.hasPlace k (clusterOfCore (coreOfTeam k)) = true → ∃ t rec2, exec i s = .next t ∧
          t = { u with records := u.records ++ [rec2], teams := t.teams, fresh := u.fresh + 1 } ∧
          rec2.bytes = BitVec.ofNat 8 kind :: blk.drop 1 ∧ rec2.tok = nextToken (u.team k).tokens ∧ rec2.team = some k ∧
          rec2.who = w ∧ rec2.asid = s.issAsid ∧ rec2.started = false ∧ rec2.finished = false ∧ rec2.progress = 0 ∧
          rec2.id = u.fresh ∧ rec2.prev = (u.team k).tokens ∧
          rec2.deps = (if rec2.n 3 1 % 2 = 1 then u.sealedCopies false w (BitVec.ofNat 32 (rec2.n 0x10 4)) else []) ∧
          (t.team k).tokens = rec2.tok ∧ (∀ j, j ≠ k → t.team j = u.team j) ∧
          (∀ n, (∀ l ∈ ls, n ≠ 64 * b + l) → t.thread k n = u.thread k n) ∧
          (let back (l n : Nat) : Bool := kind == 3 && rec1.n 2 1 == 1 &&
             decide (l < rec1.m ∧ rec1.opA.rf ≤ n ∧ n < rec1.opA.rf + rec1.opA.w)
           ∀ l ∈ ls, ∀ n, (t.thread k (64 * b + l)).g n = (if n = r.d.toNat then rec2.tok else (u.thread k (64 * b + l)).g n) ∧
             (t.thread k (64 * b + l)).full n = (n == r.d.toNat || ((u.thread k (64 * b + l)).full n && !back l n)) ∧
             (t.thread k (64 * b + l)).preds = (u.thread k (64 * b + l)).preds))) ∧
    ∀ s c k, Shut s i c → (s.shuttle c).team = some k →
      let blk := (List.range 16).flatMap fun j =>
        leBytes 4 (BitVec.ofNat 32 ((s.viewS c (r.a.toNat + j / 2)).toNat / 2 ^ (32 * (j % 2)))).toNat
      let e : RecEnv := ⟨some k, c, s.issAsid, (s.team k).handles, (s.team k).rslots, none⟩
      let rec0 := newRec kind blk e (.shuttle c) (s.unitOf (.shuttle c)) (s.shuttle c).mode (s.tid s.issAsid)
      (∀ f, check s rec0 e = .error f → f.code ≠ .delayed → ShutFaults i s c f) ∧
      ∀ u rec1, check s rec0 e = .ok (u, rec1) →
        (u.hasPlace k (clusterOfCore c) = false → exec i s = .next (u.setS c r.d.toNat 0)) ∧
        (u.hasPlace k (clusterOfCore c) = true → ∃ (t : State) (rec2 : Rec), exec i s = .next (t.setS c r.d.toNat (rec2.tok.setWidth 64)) ∧
          t = { u with records := u.records ++ [rec2], teams := t.teams, fresh := u.fresh + 1 } ∧
          rec2.bytes = BitVec.ofNat 8 kind :: blk.drop 1 ∧ rec2.tok = nextToken (u.team k).tokens ∧ rec2.who = .shuttle c ∧
          t.team k = { u.team k with tokens := rec2.tok } ∧ ∀ j, j ≠ k → t.team j = u.team j)
  (∀ r : R2, issues (.qmma r) 1 r State.checkProduct ∧ issues (.qspmm r) 2 r State.checkProduct ∧
    issues (.qacc r) 3 r State.checkProduct ∧ issues (.qcvt r) 4 r State.checkProduct ∧
    issues (.qrec r) 0x10 r State.checkRecur ∧ issues (.qrecb r) 0x11 r State.checkRecur ∧
    issues (.qtrace r) 0x12 r State.checkRecur) ∧
  (∀ n : Word, nextToken n ≠ 0 ∧ (n ≠ 0xFFFFFFFF → nextToken n = n + 1)) ∧
  (∀ (s : State) r e, recIll r e = true → s.checkProduct r e = .error (flt .illInst)) ∧
  (∀ (s : State) r e, recIll r e = false → r.n 0x18 8 % 8 ≠ 0 → s.checkProduct r e = .error (flt .align)) ∧
  (∀ (s : State) r e, recIll r e = false → recAlign r = false → r.n 1 1 % 8 ∉ e.handles → s.checkProduct r e = .error (flt .perm)) ∧
  (∀ (s : State) (r : Rec) (e : RecEnv), r.kind = 1 → recIll r e = false → recAlign r = false → r.n 1 1 % 8 ∈ e.handles → r.opA.code ≠ r.opB.code →
    s.checkProduct r e = .error (flt .qShape)) ∧
  (∀ (s : State) (r : Rec) (e : RecEnv) f, r.kind = 1 → recIll r e = false → recAlign r = false → r.n 1 1 % 8 ∈ e.handles → recShapeBad r = false →
    s.recExtent r e = some f → s.checkProduct r e = .error f) ∧
  ∀ (s : State) (r : Rec) (e : RecEnv), recurIll r = false → recurAlign r (nget (s.cluster (clusterOfCore e.core)).rules (r.n 2 1 % 16) []) = false →
    r.kind = 0x10 → r.n 1 1 % 8 ∈ e.handles → r.n 2 1 ∈ e.slots →
    ruleMoves (nget (s.cluster (clusterOfCore e.core)).rules (r.n 2 1 % 16) []) = 0 → s.checkRecur r e = .error (flt .rule)

/-- Records start in their team's order on a free engine, complete with flags and token, park at a fault; QWAIT and QPOLL
(R257, R258, R259, R273, R282, R283, R299). -/
def Obligations.TileRecordLife : Prop :=
  let first (s : State) (r : Rec) : Option Rec :=
    (s.queueOf r.cluster).find? fun (x : Rec) => x.team == r.team && x.node == r.node && !x.started
  let tok (r : Rec) : Word := BitVec.ofNat 32 (r.n 0x14 4)
  (∀ (s : State) cl k sel r, (s.queueOf cl)[k]? = some r → sel r = true → s.recRuns r = true → r.finished = false →
    r.parked = false → r.frozen = false → (r.started = true → s.runnable cl k sel = some (s, r)) ∧
    (r.started = false → s.canStart r = false → s.runnable cl k sel = none) ∧
    (r.started = false → s.canStart r = true →
      (∀ j x, j < k → (s.queueOf cl)[j]? = some x → s.recRuns x = true → s.canStart x = false) →
      s.runnable cl k sel = some (s.startRec r, { r with
        started := true, engine := r.n 1 1 % 8 / 2
        rule := if 16 ≤ r.n 0 1 then nget (s.cluster r.cluster).rules (r.n 2 1 % 16) [] else [] }))) ∧
  (∀ (s : State) (r : Rec), s.canStart r = true ↔ r.started = false ∧ (∃ x, first s r = some x ∧ x.id = r.id) ∧
    s.depsDone r = true ∧ s.slotPending r = false ∧ (s.engineOf r).busy = none ∧ (s.engineOf r).frozen = false) ∧
  (∀ (s : State) (r : Rec), s.depsDone r = true ↔
    (r.n 3 1 % 2 = 1 → (∀ c ∈ r.deps, s.copyDone c = true) ∧ s.sealedDone r.sup r.who (BitVec.ofNat 32 (r.n 0x10 4)) = true) ∧
    (r.n 3 1 / 2 % 2 = 1 → ∀ x ∈ s.records, x.team = r.team → 2 ^ 31 ≤ (tok r - x.tok).toNat)) ∧
  (∀ (s : State) (r : Rec), ((s.startRec r).engineOf r).busy = some r.id ∧
    (s.startRec r).records = s.records.map fun x => if x.id = r.id then { x with
      started := true, engine := r.n 1 1 % 8 / 2
      rule := if 16 ≤ r.n 0 1 then nget (s.cluster r.cluster).rules (r.n 2 1 % 16) [] else [] } else x) ∧
  (∀ (s : State) cl k, (∀ r, (s.queueOf cl)[k]? = some r → r.finished = false ∨ r.parked = true ∨ r.frozen = true ∨
    s.recRuns r = false) → exec (.recordCompletion cl k) s = .next s) ∧
  (∀ (s : State) cl k r tk, (s.queueOf cl)[k]? = some r → r.finished = true → r.parked = false → r.frozen = false →
    s.recRuns r = true → r.team = some tk →
    let u := (s.modTeam tk fun t => { t with fstat := t.fstat ||| r.flags }).modRec r.id fun x => { x with flags := 0 }
    (r.n 0x18 8 = 0 → exec (.recordCompletion cl k) s = .next (u.removeRec r)) ∧
    (r.n 0x18 8 ≠ 0 → ∀ v, u.unitWrite r.core r.asid r.unit (.glob (r.n 0x18 8)) (leBytes 8 r.tok.toNat) = .ok v →
      exec (.recordCompletion cl k) s = .next (v.removeRec r)) ∧
    (r.n 0x18 8 ≠ 0 → ∀ f, u.unitWrite r.core r.asid r.unit (.glob (r.n 0x18 8)) (leBytes 8 r.tok.toNat) = .error f →
      exec (.recordCompletion cl k) s = .next (u.parkRec r f))) ∧
  (∀ (s : State) (r : Rec), r.started = true → ∃ t, t = { s with records := s.records.filter (fun x => x.id != r.id)
                                                                 clusters := t.clusters, cores := t.cores } ∧
    ((t.cluster r.cluster).engine r.engine).busy = none ∧
    (∀ c, (t.core c).l1 = (s.core c).l1 ∧ (t.core c).shuttle = (s.core c).shuttle) ∧
    (t.tileNodes r.cluster = [] → s.removeRec r = t) ∧
    s.removeRec r = (t.tileNodes r.cluster).foldl
      (fun v n => if v.records.any (fun x => x.node == some n) then v else v.issueNodeRec n) t) ∧
  (∀ (s : State) (r : Rec) (f : Flt), f.code = .delayed → s.parkRec r f = s) ∧
  (∀ (s : State) (r : Rec) tk f, r.team = some tk → r.sup = false → f.code ≠ .freeze → f.code ≠ .delayed →
    s.parkRec r f = (s.modRec r.id fun x => { x with parked := true }).record r.core
      (trapBytes f.code.num f.code.sub 4 (slotOfTeam tk) 0 r.tok.toNat f.addr f.info 0 r.asid)) ∧
  (∀ s k b ls (r : RA), Gang s (.qwait r) k b ls →
    let before (l : Nat) : Nat := (s.laneThread l).since.getD s.fresh
    let covers (l : Nat) (t : Word) : Prop := (s.rd l r.a [] - t).toNat < 2 ^ 31
    let left (l : Nat) : Prop := ∃ x ∈ s.records, x.team = some k ∧ x.id < before l ∧ covers l x.tok
    ((∀ l ∈ ls, ¬ left l ∧ ∀ h ∈ s.held, ∀ j t, h.who = .thread k j → h.tok = some t → h.work < before l → ¬ covers l t) →
      ∃ t, exec (.qwait r) s = .next t ∧ OnlyTeam s t k ∧
        Threads s t k b ls (shapeOf (.qwait r) s.iss.pfx) fun _ th => { th with since := none }) ∧
    ((∀ l ∈ ls, left l) → ∃ t, exec (.qwait r) s = .next t ∧
      t = { s with teams := t.teams, iss := t.iss } ∧ (∀ j, j ≠ k → t.team j = s.team j) ∧
      (∀ i, (∀ l ∈ ls, i ≠ 64 * b + l) → t.thread k i = s.thread k i) ∧
      ∀ l ∈ ls, t.thread k (64 * b + l) = if s.iss.multi then s.thread k (64 * b + l) else
        { s.thread k (64 * b + l) with stat := .retry, since := some (before l) }) ∧
    (∀ l h, ls = [l] → ¬ left l → s.held.find? (fun h => (match h.who, h.tok with
        | .thread j _, some t => j == k && decide (h.work < before l) && decide ((s.rd l r.a [] - t).toNat < 2 ^ 31)
        | _, _ => false)) = some h →
      ∃ t, exec (.qwait r) s = .next t ∧ t.iss.outs = [(l, s.iss.pc, .late h.work h.flt)] ∧
        t = { (if s.iss.multi then s.popLanes (shapeOf (.qwait r) s.iss.pfx) [] else
          (({ s.popLanes (shapeOf (.qwait r) s.iss.pfx) [] with held := s.held.filter fun x => x.work != h.work }).countFaults
            (coreOfTeam k) s.issAsid [h.flt]).faultLanes k b s.iss.gpc s.iss.npc [(l, s.iss.pc, h.flt)]) with iss := t.iss })) ∧
  (∀ (r : RD) (k : Nat), YieldsIf (fun s _ => ∃ b ls, s.iss.who = .gang k b ls) (.qpoll r) (one r.d.toNat fun s _ =>
    match s.records.filter fun x => x.team == some k with
    | [] => (s.team k).tokens
    | x :: _ => x.prev) nothing noFlags) ∧
  ∀ (s : State) c k (r : RD), Shut s (.qpoll r) c → (s.shuttle c).team = some k → exec (.qpoll r) s = .next (s.setS c r.d.toNat
    ((match s.records.filter (fun (x : Rec) => x.team == some k) with | [] => (s.team k).tokens | x :: _ => x.prev : Word).setWidth 64))

/-- Product records run one term after another in ascending order; what a term adds to each cell; QACC's five operations;
QCVT by rows (R126, R263, R270, R271, R272, R279, R280, R281). -/
def Obligations.ProductRuns : Prop :=
  let zeroed (s : State) (r : Rec) : State := s.setBank r.cluster r.ah fun m =>
    putCells m ((cellsOf r.m r.cols).map fun c => (c.1, c.2, 0))
  let first (s : State) (r : Rec) : State := if r.n 1 1 / 8 % 2 = 1 ∧ r.progress = 0 then zeroed s r else s
  let fin (s : State) (r : Rec) : State := s.modRec r.id fun x => { x with finished := true }
  let counted (s : State) (r : Rec) : State := s.modRec r.id fun x => { x with progress := x.progress + 1 }
  (∀ (s : State) cl k u r, s.runnable cl k (fun r => r.kind == 1) = some (u, r) →
    (r.terms ≤ r.progress → exec (.qmmaRun cl k) s = .next (fin (first u r) r)) ∧
    (r.progress < r.terms → (∀ v, (first u r).qmmaTerm r r.progress = .ok v →
        exec (.qmmaRun cl k) s = .next (if r.terms = r.progress + 1 then fin v r else v)) ∧
      ∀ f, (first u r).qmmaTerm r r.progress = .error f → exec (.qmmaRun cl k) s = .next ((first u r).parkRec r f))) ∧
  (∀ (u : State) r t v xs w ys, r.opA.isBfp = false → r.cols ≤ 64 →
    readEach (fun s i => readEach (r.elem r.opA) s ((termKs r.opA.code r.k t).map fun k => (i, k))) u (List.range r.m) = .ok (v, xs) →
    readEach (fun s j => readEach (r.elem r.opB) s ((termKs r.opA.code r.k t).map fun k => (j, k))) v (List.range r.cols) = .ok (w, ys) →
    ∃ x, u.qmmaTerm r t = .ok x ∧ x = { w with clusters := x.clusters, records := x.records } ∧
      (∃ g : BitVec 5 → BitVec 5, x.records = w.records.map fun y => if y.id = r.id then
        { y with progress := y.progress + 1, flags := g y.flags } else y) ∧
      (∀ i j, i < r.m → j < r.cols → cellOf (x.bank r.cluster r.ah) i j =
        (elemTerm r.opA.code (cellOf (w.bank r.cluster r.ah) i j) (xs.getD i []) (ys.getD j [])).1) ∧
      (∀ i j, j < 64 → (r.m ≤ i ∨ r.cols ≤ j) → cellOf (x.bank r.cluster r.ah) i j = cellOf (w.bank r.cluster r.ah) i j) ∧
      ∀ c h, c ≠ r.cluster ∨ h ≠ r.ah → x.bank c h = w.bank c h) ∧
  (∀ (u : State) r t v xs w ys, r.opA.isBfp = true → r.cols ≤ 64 →
    readEach (r.block r.opA) u ((List.range r.m).map fun i => (i, t)) = .ok (v, xs) →
    readEach (r.block r.opB) v ((List.range r.cols).map fun j => (j, t)) = .ok (w, ys) →
    ∃ x, u.qmmaTerm r t = .ok x ∧ x = { w with clusters := x.clusters, records := x.records } ∧
      (∃ g : BitVec 5 → BitVec 5, x.records = w.records.map fun y => if y.id = r.id then
        { y with progress := y.progress + 1, flags := g y.flags } else y) ∧
      (∀ i j, i < r.m → j < r.cols → ∃ f : BitVec 5, (cellOf (x.bank r.cluster r.ah) i j, f) =
        addTerm (cellOf (w.bank r.cluster r.ah) i j) (bfpTerm r.opA.mw r.opB.mw (xs.getD i (0, 0)) (ys.getD j (0, 0)))) ∧
      (∀ i j, j < 64 → (r.m ≤ i ∨ r.cols ≤ j) → cellOf (x.bank r.cluster r.ah) i j = cellOf (w.bank r.cluster r.ah) i j) ∧
      ∀ c h, c ≠ r.cluster ∨ h ≠ r.ah → x.bank c h = w.bank c h) ∧
  (∀ (ma mb : Nat) (a b : Nat × Nat), (a.2 = 255 ∨ b.2 = 255 → (bfpTerm ma mb a b).1.isNan = true ∧ (bfpTerm ma mb a b).2 = 0) ∧
    (a.2 ≠ 255 → b.2 ≠ 255 → (a.2 = 0 ∨ b.2 = 0) → bfpTerm ma mb a b = (.fin false 0 0, 0)) ∧
    (0 < a.2 → a.2 < 255 → 0 < b.2 → b.2 < 255 → 0 < ma → 0 < mb → ∃ sg m e, bfpTerm ma mb a b = (.fin sg m e, 0) ∧
      e = ((a.2 : Int) - 127 - (ma - 1)) + ((b.2 : Int) - 127 - (mb - 1)) ∧
      (if sg then -(m : Int) else m) = ((List.range 32).map fun k => (BitVec.ofNat ma (a.1 / 2 ^ (ma * k))).toInt *
        (BitVec.ofNat mb (b.1 / 2 ^ (mb * k))).toInt).sum)) ∧
  (∀ (acc : Word) t, (addTerm acc t).1 = BitVec.ofNat 32 (F32.deliver 0 (addVals 0 (F32.decode acc.toNat) t.1)).1) ∧
  (∀ (s : State) (r : Rec) (o : Opnd) row q u bs v e, o.src = 2 →
    readEach (fun s (i : Nat) => r.read s (r.rowByte o (q / o.pwb) row (o.rowBytes o.pwb) (q % o.pwb * 4 * o.mw + i)) 1) s
      (List.range (4 * o.mw)) = .ok (u, bs) →
    r.read u (r.rowByte o (q / o.pwb) row (o.rowBytes o.pwb) (o.pwb * 4 * o.mw + q % o.pwb)) 1 = .ok (v, e) →
    r.block o s (row, q) = .ok (v, leNat bs.flatten, leNat e)) ∧
  (∀ (s : State) (r : Rec) (o : Opnd) row q u bs v e, o.src = 3 →
    let j := tidElem o.tid (o.o 0 + 32 * q) (o.o 1 + row) (o.o 2) (o.o 3)
    readEach (fun s (i : Nat) => r.read s (.glob (tidBase o.tid + j / 32 * 4 * o.mw + 4 * i)) 4) s (List.range o.mw) = .ok (u, bs) →
    r.scaleByte u (tidSbase o.tid + j / 2 ^ tidShift o.tid) = .ok (v, e) →
    r.block o s (row, q) = .ok (v, leNat bs.flatten, leNat e)) ∧
  (∀ (s : State) (r : Rec) (o : Opnd) row k, o.src = 1 → r.elem o s (row, k) = .ok (s,
    if o.size = 4 then ((o.cap.getD row []).getD k 0).toNat
    else ((o.cap.getD row []).getD (k / 2) 0).toNat / 2 ^ (16 * (k % 2)) % 2 ^ 16)) ∧
  (∀ (acc : Word) x y, (elemTerm 0 acc [x] [y]).1 =
    BitVec.ofNat 32 (F32.deliver 0 (fmaVals 0 (F32.decode x) (F32.decode y) (F32.decode acc.toNat))).1) ∧
  (∀ code k t, (code = 1 ∨ code = 2) → termKs code k t = (List.range (min (8 * t + 8) k - 8 * t)).map (· + 8 * t)) ∧
  (∀ (s : State) cl k u r, s.runnable cl k (fun r => r.kind == 2) = some (u, r) →
    (r.sparseTerms.drop r.progress = [] → exec (.qspmmRun cl k) s = .next (fin (first u r) r)) ∧
    ∀ x xs, r.sparseTerms.drop r.progress = x :: xs → (∀ v, (first u r).qspmmTerm r x = .ok v →
        exec (.qspmmRun cl k) s = .next (if xs = [] then fin v r else v)) ∧
      ∀ f, (first u r).qspmmTerm r x = .error f → exec (.qspmmRun cl k) s = .next ((first u r).parkRec r f)) ∧
  (∀ (u : State) r (t : Nat × List (Nat × Nat)) v xs w ys, r.cols ≤ 64 →
    readEach r.sparseVal u (t.2.map (·.2)) = .ok (v, xs) →
    readEach (fun s j => readEach (r.elem r.opB) s (t.2.map fun g => (j, g.1))) v (List.range r.cols) = .ok (w, ys) →
    ∃ x, u.qspmmTerm r t = .ok x ∧ x = { w with clusters := x.clusters, records := x.records } ∧
      (∀ j, j < r.cols → cellOf (x.bank r.cluster r.ah) t.1 j =
        (elemTerm r.opB.code (cellOf (w.bank r.cluster r.ah) t.1 j) xs (ys.getD j [])).1) ∧
      ∀ i j, j < 64 → (i ≠ t.1 ∨ r.cols ≤ j) → cellOf (x.bank r.cluster r.ah) i j = cellOf (w.bank r.cluster r.ah) i j) ∧
  (∀ (s : State) cl k u r, s.runnable cl k (Rec.isAcc 0) = some (u, r) → r.cols ≤ 64 → r.cluster = cl →
    ∃ t, exec (.qaccZero cl k) s = .next t ∧ t = { u with clusters := t.clusters, records := t.records } ∧
      (∀ i j, j < 64 → cellOf (t.bank cl r.ah) i j = if i < r.m ∧ j < r.cols then 0 else cellOf (u.bank cl r.ah) i j) ∧
      ∀ c h, c ≠ cl ∨ h ≠ r.ah → t.bank c h = u.bank c h) ∧
  (∀ (s : State) cl k u r tk, s.runnable cl k (Rec.isAcc 1) = some (u, r) → r.team = some tk → r.regThr.Nodup →
    ∃ t, exec (.qaccRead cl k) s = .next t ∧ t = { u with teams := t.teams, records := t.records } ∧
      (∀ i, (i ∉ r.regThr ∨ (u.thread tk i).isLive = false) → t.thread tk i = u.thread tk i) ∧
      ∀ i ∈ r.regThr, (u.thread tk i).isLive = true → ∀ n, (t.thread tk i).g n =
          (if r.opA.rf ≤ n ∧ n < r.opA.rf + r.opA.w then
            cellOf (u.bank cl r.ah) (i % 64) (r.opA.c0 + (n - r.opA.rf)) else (u.thread tk i).g n) ∧
        (t.thread tk i).full n = (decide (r.opA.rf ≤ n ∧ n < r.opA.rf + r.opA.w) || (u.thread tk i).full n)) ∧
  (∀ (s : State) cl k u r, s.runnable cl k (Rec.isAcc 2) = some (u, r) → r.opA.c0 + r.opA.w ≤ 64 → r.cluster = cl →
    ∃ t, exec (.qaccWrite cl k) s = .next t ∧ t = { u with clusters := t.clusters, records := t.records } ∧
      (∀ i j, j < 64 → cellOf (t.bank cl r.ah) i j = if i < r.m ∧ r.opA.c0 ≤ j ∧ j < r.opA.c0 + r.opA.w then
        (r.opA.cap.getD i []).getD (j - r.opA.c0) 0 else cellOf (u.bank cl r.ah) i j) ∧
      ∀ c h, c ≠ cl ∨ h ≠ r.ah → t.bank c h = u.bank c h) ∧
  (∀ (s : State) cl k u r, s.runnable cl k (Rec.isAcc 3) = some (u, r) → r.progress < r.m →
    let put := r.writeEach u ((List.range r.cols).map fun j =>
      (r.cellLoc r.opA r.progress j, leBytes 4 (cellOf (u.bank cl r.ah) r.progress j).toNat))
    (∀ v, put = .ok v → exec (.qaccStore cl k) s = .next (if r.m = r.progress + 1 then fin (counted v r) r else counted v r)) ∧
    ∀ f, put = .error f → exec (.qaccStore cl k) s = .next (u.parkRec r f)) ∧
  (∀ (s : State) cl k u r, s.runnable cl k (Rec.isAcc 4) = some (u, r) → r.progress < r.m →
    let get := readEach (fun s j => r.read s (r.cellLoc r.opA r.progress j) 4) u (List.range r.cols)
    (∀ v bs, get = .ok (v, bs) →
      let w := counted (v.setBank cl r.ah fun m => putCells m ((indexed bs).map fun x =>
        (r.progress, x.1, BitVec.ofNat 32 (leNat x.2)))) r
      exec (.qaccLoad cl k) s = .next (if r.m = r.progress + 1 then fin w r else w)) ∧
    ∀ f, get = .error f → exec (.qaccLoad cl k) s = .next (u.parkRec r f)) ∧
  (∀ (s : State) cl k u r, s.runnable cl k (fun r => r.kind == 4) = some (u, r) → r.progress < r.m →
    let row := r.cvtRow (u.bank cl r.ah) r.progress
    (∀ v, r.writeEach u row.1 = .ok v →
      let w := counted (v.modRec r.id fun y => { y with flags := y.flags ||| row.2 }) r
      exec (.qcvtRun cl k) s = .next (State.zeroLast (if r.m = r.progress + 1 then fin w r else w) r)) ∧
    ∀ f, r.writeEach u row.1 = .error f → exec (.qcvtRun cl k) s = .next ((u.parkRec r f).zeroLast r)) ∧
  (∀ (s : State) (r : Rec), s.zeroLast r =
    if r.n 1 1 / 8 % 2 = 1 ∧ ∃ x ∈ s.records, x.id = r.id ∧ x.finished = true then zeroed s r else s) ∧
  ∀ (r : Rec) acc i, r.opA.code = 0 → r.opA.isBfp = false → (r.cvtRow acc i).1 = (indexed ((List.range r.cols).map fun j =>
    (scaleCell (cellOf acc i j).toNat (r.n 0xC 4)).1)).map fun c => (r.cellLoc r.opA i c.1, leBytes 4 c.2)

/-- QREC's cells, step by step, obey the recurrence and fill the out block; QRECB's gradients; QTRACE's walk; QRULE and its
checks (R286, R289, R290, R291, R292, R294, R295, R297, R302, R303, R306, R308). -/
def Obligations.RecurrenceRuns : Prop :=
  let fin (s : State) (r : Rec) : State := s.modRec r.id fun x => { x with finished := true }
  let upTo (s : State) (r : Rec) (n : Nat) : State := s.modRec r.id fun x => { x with progress := n }
  (∀ (s : State) (r : Rec) p (h : Nat → Nat → Nat) i j,
    let f := ruleF32 r.rule
    let top (j : Nat) : Nat := vIn f (s.recVec r 0x20 p j)
    let left (i : Nat) : Nat := vIn f (s.recVec r 0x24 p i)
    s.recCell r p h i j = s.recIn r p i j
      (if i = 0 then (if j = 0 then vIn f (s.recVec r 0x28 p 0) else top (j - 1)) else if j = 0 then left (i - 1) else h (i - 1) (j - 1))
      (if i = 0 then top j else h (i - 1) j) (if j = 0 then left i else h i (j - 1))) ∧
  (∀ (r : Rec) t p w, (p, w) ∈ r.frontsAt t ↔ p < r.np ∧ w < r.m + r.cols - 1 ∧
    t = (if ruleOpc r.rule = 2 then 24 else if ruleF32 r.rule then 6 else 2) * w + p) ∧
  (∀ (r : Rec) t, (∀ v, r.nextFront t = some v → t ≤ v ∧ r.frontsAt v ≠ [] ∧ ∀ x, t ≤ x → x < v → r.frontsAt x = []) ∧
    (r.nextFront t = none → ∀ x, t ≤ x → r.frontsAt x = [])) ∧
  (∀ (c : CellIn) x, ruleOpc x = 3 → ruleF32 x = false → (c.eval x).1 =
    (vSub false (vAdd false (vAdd false c.s.1 c.u).1 c.l).1 c.d).1) ∧
  (∀ a b : Word, a ≠ 0x80000000 → b ≠ 0x80000000 →
    (vAdd false a.toNat b.toNat).1 = (BitVec.ofInt 32 (max (-2147483647) (min (a.toInt + b.toInt) 2147483647))).toNat) ∧
  (∀ mx (cs : List (Nat × Nat)), cs ≠ [] → ∃ as bs, cs = as ++ bestMove false mx cs :: bs ∧
    (∀ a ∈ as, if mx then i32In a.2 < i32In (bestMove false mx cs).2 else i32In (bestMove false mx cs).2 < i32In a.2) ∧
    ∀ b ∈ bs, if mx then i32In b.2 ≤ i32In (bestMove false mx cs).2 else i32In (bestMove false mx cs).2 ≤ i32In b.2) ∧
  (∀ (s : State) cl k u r, s.runnable cl k (fun r => r.kind == 0x10) = some (u, r) →
    (r.nextFront r.progress = none → exec (.qrecRun cl k) s = .next (fin u r)) ∧
    ∀ t, r.nextFront r.progress = some t →
      let v := upTo ((r.frontsAt t).foldl (fun s f => s.recFront r f) u) r (t + 1)
      exec (.qrecRun cl k) s = .next (if r.nextFront (t + 1) = none then fin v r else v)) ∧
  (∀ (u : State) (r : Rec) p w, w < r.m + r.cols - 1 → r.m ≤ 64 → r.cols ≤ 64 →
    let t := u.recFront r (p, w)
    let cell (i j : Nat) : Nat × Nat × BitVec 5 := (u.recCell r p (r.held p) i j).eval r.rule
    let h (i j : Nat) : Nat := if i + j = w then (cell i j).1 else r.held p i j
    t = { u with teams := t.teams, clusters := t.clusters, records := t.records } ∧
    (∀ i j, i < r.m → j < r.cols → i + j = w →
      (ruleTrc r.rule = true → nget (t.engineOf r).trace (traceKey r.ah (r.tb + p) i j) 0 = BitVec.ofNat 2 (cell i j).2.1) ∧
      (r.keep = true → cellOf (t.bank r.cluster r.ah) i j = BitVec.ofNat 32 (cell i j).1)) ∧
    (w + 2 ≠ r.m + r.cols → t.teams = u.teams ∧ ∀ x ∈ t.records, x.id = r.id → ∀ i j, i < r.m → j < r.cols →
      (i + j = w ∨ i + j + 1 = w ∨ i + 1 = r.m ∨ j + 1 = r.cols) → x.held p i j = h i j) ∧
    (w + 2 = r.m + r.cols → t.teams = (u.recOut r p h).teams ∧ ∀ x ∈ t.records, x.id = r.id → ∀ i j, x.held p i j = 0 ∨ 64 ≤ i ∨ 64 ≤ j)) ∧
  (∀ (s : State) (r : Rec) p k, r.spc = 0 → r.team = some k → 0 < r.m → r.m ≤ 64 → 0 < r.cols → r.cols ≤ 64 →
    let o := r.n 0x2C 4 + p * r.pitch
    o + 0x204 < 2 ^ 32 → o + 0x204 ≤ (s.team k).sa → ∀ h : Nat → Nat → Nat,
    (∀ j, j < r.cols → (s.recOut r p h).recWord r (o + 4 * j) = h (r.m - 1) j % 2 ^ 32) ∧
    (∀ i, i < r.m → (s.recOut r p h).recWord r (o + 0x100 + 4 * i) = h i (r.cols - 1) % 2 ^ 32) ∧
    (s.recOut r p h).recWord r (o + 0x200) = h (r.m - 1) (r.cols - 1) % 2 ^ 32 ∧
    ∀ a, a < o ∨ o + 0x204 ≤ a → mget ((s.recOut r p h).team k).scratch a = mget (s.team k).scratch a) ∧
  (∀ (s : State) cl k u r, s.runnable cl k (fun r => r.kind == 0x11) = some (u, r) →
    let n := r.m + r.cols - 1
    (r.progress < n → exec (.qrecbRun cl k) s = .next (upTo (u.recBack r (n - 1 - r.progress)) r (r.progress + 1))) ∧
    (n ≤ r.progress → exec (.qrecbRun cl k) s = .next (fin (upTo (u.recInGrads r) r (n + 1)) r))) ∧
  (∀ (u : State) (r : Rec) w, w < r.m + r.cols - 1 → r.m ≤ 64 → r.cols ≤ 64 → r.ah < 8 →
    let t := u.recBack r w
    t = { u with teams := t.teams, clusters := t.clusters, records := t.records } ∧
    (∀ i j, i < r.m → j < r.cols → i + j = w →
      let wt := u.recWeights r i j
      cellOf (t.bank r.cluster (r.ah ^^^ 1)) i j = BitVec.ofNat 32 (u.recGrad r i j).1 ∧
      ∀ x ∈ t.records, x.id = r.id → x.held 0 i j = wt.1 ∧ x.held 1 i j = wt.2.1 ∧ x.held 2 i j = wt.2.2.1) ∧
    (∀ i j, i < r.m → j < r.cols → i + j ≠ w → cellOf (t.bank r.cluster (r.ah ^^^ 1)) i j = cellOf (u.bank r.cluster (r.ah ^^^ 1)) i j) ∧
    (∀ i j, i < r.m → j < r.cols → i + j = w + 1 → ∀ x ∈ t.records, x.id = r.id → ∃ y ∈ u.records, y.id = r.id ∧
      ∀ q, q < 3 → x.held q i j = y.held q i j) ∧
    ∀ h, h < 8 → h ≠ r.ah ^^^ 1 → t.bank r.cluster h = u.bank r.cluster h) ∧
  (∀ (s : State) (r : Rec) i j, i < r.m → j < r.cols →
    let g (i j : Nat) : Nat := (cellOf (s.bank r.cluster (r.ah ^^^ 1)) i j).toNat
    let seed (o : Nat) : Nat := s.recWord r (r.n 0x2C 4 + o)
    (i + 1 < r.m → j + 1 < r.cols → s.recGrad r i j = faddF (faddF (faddF (0, 0) (g (i + 1) (j + 1)) (r.held 0 (i + 1) (j + 1)))
      (g (i + 1) j) (r.held 1 (i + 1) j)) (g i (j + 1)) (r.held 2 i (j + 1))) ∧
    (i + 1 = r.m → j + 1 < r.cols → s.recGrad r i j = addF (faddF (0, 0) (g i (j + 1)) (r.held 2 i (j + 1))) (seed (4 * j))) ∧
    (i + 1 < r.m → j + 1 = r.cols → s.recGrad r i j = addF (faddF (0, 0) (g (i + 1) j) (r.held 1 (i + 1) j)) (seed (0x100 + 4 * i))) ∧
    (i + 1 = r.m → j + 1 = r.cols → s.recGrad r i j = addF (addF (addF (0, 0) (seed (4 * j))) (seed (0x100 + 4 * i))) (seed 0x200))) ∧
  (∀ i j : Nat, traceMove 3 i j = .inr ((i : Int), (j : Int), 3) ∧
    traceMove 0 (i + 1) (j + 1) = .inl (i, j) ∧ traceMove 0 0 0 = .inr (-1, -1, 2) ∧
    traceMove 0 0 (j + 1) = .inr (-1, (j : Int), 0) ∧ traceMove 0 (i + 1) 0 = .inr ((i : Int), -1, 1) ∧
    traceMove 1 (i + 1) j = .inl (i, j) ∧ traceMove 1 0 j = .inr (-1, (j : Int), 0) ∧
    traceMove 2 i (j + 1) = .inl (i, j) ∧ traceMove 2 i 0 = .inr ((i : Int), -1, 1)) ∧
  (∀ (s : State) cl k u r, s.runnable cl k (fun r => r.kind == 0x12) = some (u, r) →
    let i := nget r.wave 0 (r.n 4 1)
    let j := nget r.wave 1 (r.n 5 1)
    let c := (nget (u.engineOf r).trace (traceKey r.ah r.tb i j) 0).toNat
    let v := u.recWrite r (r.n 0x20 4 + r.progress) [BitVec.ofNat 8 c]
    (∀ p q, traceMove c i j = .inl (p, q) → exec (.qtraceRun cl k) s = .next (v.modRec r.id fun y =>
      { y with wave := [(0, p), (1, q)], progress := r.progress + 1 })) ∧
    ∀ p q e, traceMove c i j = .inr (p, q, e) → exec (.qtraceRun cl k) s = .next ((v.recWrite r (r.n 0x24 4)
      (leBytes 8 (wrap p 8 + 256 * wrap q 8 + 65536 * e + 2 ^ 32 * (r.progress + 1)))).modRec r.id fun y =>
        { y with progress := r.progress + 1, finished := true })) ∧
  (∀ s k b ls (r : QruleOp), Gang s (.qrule r) k b ls → ls ≠ [] →
    let l := ls.headD 0
    let ea := if r.space = 0 then (s.rd64 l r.a).toNat else (s.rd l r.a []).toNat
    let cl := clusterOfCore (coreOfTeam k)
    (ea % 32 ≠ 0 → Faults (.qrule r) s k b (ls.map fun l => (l, flt .align))) ∧
    (ea % 32 = 0 → r.slot.toNat ∉ (s.team k).rslots → Faults (.qrule r) s k b (ls.map fun l => (l, flt .perm))) ∧
    (ea % 32 = 0 → r.slot.toNat ∈ (s.team k).rslots → ∀ p u img, s.rangeOf l r.space.toNat ea 1056 true = .ok p →
      s.loadRange l p 1056 true = .ok (u, img) → (∀ w ∈ s.ruleWaits, ∀ m ∈ ls, w.who ≠ .thread k (64 * b + m)) →
      (∀ x ∈ s.records, x.team = some k → x.kind = 0x10 ∨ x.kind = 0x11 → x.n 2 1 = r.slot.toNat → x.started = true) →
      u.ruleWaits = s.ruleWaits →
      (ruleBad img = false → exec (.qrule r) s = .next ((u.modCluster cl fun c =>
        { c with rules := nput c.rules r.slot.toNat img }).popLanes (shapeOf (.qrule r) s.iss.pfx) ls)) ∧
      (ruleBad img = true → ∃ t, exec (.qrule r) s = .next t ∧ t.clusters = u.clusters ∧
        t.iss.outs = ls.map (fun m => (m, s.iss.pc, .flt (flt .rule))) ∧
        (s.iss.multi = false → ∀ m ∈ ls, (t.thread k (64 * b + m)).stat = .parked))) ∧
    (ea % 32 = 0 → r.slot.toNat ∈ (s.team k).rslots → ∀ p u img, s.rangeOf l r.space.toNat ea 1056 true = .ok p →
      s.loadRange l p 1056 true = .ok (u, img) → (∀ w ∈ s.ruleWaits, ∀ m ∈ ls, w.who ≠ .thread k (64 * b + m)) →
      (∃ x ∈ s.records, x.team = some k ∧ (x.kind = 0x10 ∨ x.kind = 0x11) ∧ x.n 2 1 = r.slot.toNat ∧ x.started = false ∧
        x.id < s.fresh) → ∃ t, exec (.qrule r) s = .next t ∧
        t = { s with teams := t.teams, iss := t.iss, ruleWaits := t.ruleWaits, fresh := t.fresh } ∧
        (∀ n, (∀ m ∈ ls, n ≠ 64 * b + m) → t.thread k n = s.thread k n) ∧
        (∀ m ∈ ls, t.thread k (64 * b + m) =
          if s.iss.multi then s.thread k (64 * b + m) else { s.thread k (64 * b + m) with stat := .retry }) ∧
        (s.iss.multi = false → ∀ m ∈ ls, ∃ w ∈ t.ruleWaits, w.who = .thread k (64 * b + m) ∧ w.team = k ∧
          w.slot = r.slot.toNat ∧ s.fresh ≤ w.before))) ∧
  (∀ s c k (r : QruleOp) p u img, Shut s (.qrule r) c → (s.shuttle c).team = some k →
    let ea := if r.space = 0 then (s.viewS c r.a.toNat).toNat else (s.viewS c r.a.toNat).toNat % 2 ^ 32
    ea % 32 = 0 → r.slot.toNat ∈ (s.team k).rslots → s.rangeOf 0 r.space.toNat ea 1056 true = .ok p →
    s.loadRange 0 p 1056 true = .ok (u, img) → (∀ w ∈ s.ruleWaits, w.who ≠ .shuttle c) →
    (∀ x ∈ s.records, x.team = some k → x.kind = 0x10 ∨ x.kind = 0x11 → x.n 2 1 = r.slot.toNat → x.started = true) →
    u.ruleWaits = s.ruleWaits → ruleBad img = false →
    exec (.qrule r) s = .next (u.modCluster (clusterOfCore c) fun c => { c with rules := nput c.rules r.slot.toNat img })) ∧
  ∀ x : Rule, let w := bnat x 0 8
    (w / 2 ^ 15 ≠ 0 ∨ w / 32 % 4 = 3 ∨ 6 ≤ w / 256 % 8 ∨ w / 4096 % 8 = 0 → ruleBad x = true) ∧
    (w = 0x7000 → ruleBad x = false)

/-- Pattern sets: membership of every operation, the bijective hash's distinct columns, ranks in forward order, and the next
member (R314, R315, R316, R318, R322). -/
def Obligations.PatternSets : Prop :=
  (∀ (e : PatSet) (nr nc : Nat) (r c : Int), (r < 0 ∨ c < 0 ∨ (nr : Int) ≤ r ∨ (nc : Int) ≤ c) → e.mem nr nc r c = false) ∧
  (∀ (nr nc r c : Nat), r < nr → c < nc →
    (∀ lo hi, (PatSet.band lo hi).mem nr nc r c = true ↔ lo ≤ (c : Int) - r ∧ (c : Int) - r ≤ hi) ∧
    (∀ st off : Nat, 0 < st → ((PatSet.dil st off).mem nr nc r c = true ↔ ∃ q : Int, (c : Int) = r + off + q * st)) ∧
    (∀ n : Nat, 0 < n → ((PatSet.blkd n).mem nr nc r c = true ↔ r / n = c / n)) ∧
    (∀ k bij seed, (PatSet.hash k bij seed).mem nr nc r c = true ↔ ∃ j, j < k ∧ hashCol bij seed nc r j = c) ∧
    (∀ (bh bw : Nat) (p q : PatSet), 0 < bh → 0 < bw → ((PatSet.kron bh bw p q).mem nr nc r c = true ↔
      p.mem (nr / bh) (nc / bw) (r / bh : Nat) (c / bw : Nat) = true ∧ q.mem bh bw (r % bh : Nat) (c % bw : Nat) = true)) ∧
    (∀ a b : PatSet, ((PatSet.union a b).mem nr nc r c = true ↔ a.mem nr nc r c = true ∨ b.mem nr nc r c = true) ∧
      ((PatSet.inter a b).mem nr nc r c = true ↔ a.mem nr nc r c = true ∧ b.mem nr nc r c = true)) ∧
    (∀ (dr dc : Int) (a : PatSet), (PatSet.shift dr dc a).mem nr nc r c = a.mem nr nc (r - dr) (c - dc)) ∧
    ∀ (rlo rhi clo chi : Nat) (a : PatSet), (PatSet.clip rlo rhi clo chi a).mem nr nc r c = true ↔
      a.mem nr nc r c = true ∧ rlo ≤ r ∧ r < rhi ∧ clo ≤ c ∧ c < chi) ∧
  (∀ b seed x y, 4 ≤ b → x < 2 ^ b → y < 2 ^ b → hashMix b seed x < 2 ^ b ∧ (hashMix b seed x = hashMix b seed y → x = y)) ∧
  (∀ b seed r i j, 4 ≤ b → hashCol true seed (2 ^ b) r i = hashCol true seed (2 ^ b) r j →
    i * 0x9E3779B9 % 2 ^ b = j * 0x9E3779B9 % 2 ^ b) ∧
  patSet [0x10000000, 0xFFFFFFFF, 0x00000001, 0x20000000, 0x00000004, 0x00000000, 0x80000000, 0xF0000000] =
    some (.union (.band (-1) 1) (.dil 4 0)) ∧
  (∀ (e : PatSet) (nr nc r c : Nat), r < nr → c ≤ nc → e.rank nr nc r c = ((List.range (nr * nc)).filter fun (n : Nat) =>
    decide (n < r * nc + c) && e.mem nr nc ((n / nc : Nat) : Int) ((n % nc : Nat) : Int)).length) ∧
  ∀ (e : PatSet) (nr nc : Nat) (tr : Bool) (line pos lineLo lineHi posLo posHi l p : Nat),
    let has (l p : Nat) : Prop := lineLo ≤ l ∧ l < lineHi ∧ posLo ≤ p ∧ p < posHi ∧ (line < l ∨ line = l ∧ pos ≤ p) ∧
      (if tr then e.mem nr nc p l else e.mem nr nc l p) = true
    (e.next nr nc tr line pos lineLo lineHi posLo posHi = some (l, p) ↔
      has l p ∧ ∀ m q, has m q → l < m ∨ l = m ∧ p ≤ q) ∧
    (e.next nr nc tr line pos lineLo lineHi posLo posHi = none ↔ ∀ m q, ¬ has m q)

/-- PATLD, PATBIND, PATNEXT, PATSAVE and PATRESTORE: their checks in order, what they leave, and the round trip of a context
(R311, R318, R322, R325, R326, R327, R330, R331). -/
def Obligations.PatternInstructions : Prop :=
  let ea (s : State) (l : Nat) (space : BitVec 2) (a : BitVec 7) : Nat :=
    if space = 0 then (s.rd64 l a).toNat else (s.rd l a []).toNat
  (∀ (s : State) k b ls l o, s.iss.who = .gang k b ls → o % 4 = 0 → o + 256 ≤ (s.team k).sa → o + 256 ≤ 2 ^ 31 →
    (let ws := (List.range 64).map fun i => BitVec.ofNat 32 (leNat (mread (s.team k).scratch (o + 4 * i) 4))
     s.readProg l 1 o 64 0 = .ok (s, ws.take (patLen 65 (ws.map (·.toNat)))))) ∧
  (∀ s k b ls (r : PatldOp), Gang s (.patld r) k b ls → ls ≠ [] →
    let l := ls.headD 0
    let x := (s.rd l r.b [r.a]).toNat
    let die := dieOfCore (coreOfTeam k)
    (ea s l r.space r.a % 4 ≠ 0 → Faults (.patld r) s k b (ls.map fun l => (l, flt .align))) ∧
    (ea s l r.space r.a % 4 = 0 → (∀ f, f.code ≠ .delayed → s.readProg l r.space.toNat (ea s l r.space r.a) 64 0 = .error f →
      Faults (.patld r) s k b (ls.map fun l => (l, f))) ∧
     ∀ u ws, s.readProg l r.space.toNat (ea s l r.space r.a) 64 0 = .ok (u, ws) →
      (u = s → patSet ws = none → Faults (.patld r) s k b (ls.map fun l => (l, flt .pattern))) ∧
      (u = s → (patSet ws).isSome = true →
        ¬ (partOfCore (coreOfTeam k) % 2 * 2048 ≤ x ∧ x + ws.length ≤ partOfCore (coreOfTeam k) % 2 * 2048 + 2048) →
        Faults (.patld r) s k b (ls.map fun l => (l, flt .perm))) ∧
      ((patSet ws).isSome = true → partOfCore (coreOfTeam k) % 2 * 2048 ≤ x →
        x + ws.length ≤ partOfCore (coreOfTeam k) % 2 * 2048 + 2048 → u.iss = s.iss → ∃ m,
        exec (.patld r) s = .next ((ls.foldl (fun v l => v.put32 l r.d.toNat (BitVec.ofNat 32 ws.length))
          (u.modDie die fun d => { d with pattern := m })).popLanes (shapeOf (.patld r) s.iss.pfx) ls) ∧
        ∀ i, nget m i 0 = if x ≤ i ∧ i < x + ws.length then ws.getD (i - x) 0 else nget (u.die die).pattern i 0))) ∧
  (∀ s k b ls (r : RA), Gang s (.patbind r) k b ls → ls ≠ [] →
    let w (i : Nat) : Nat := (s.rg (ls.headD 0) (r.a.toNat + i)).toNat
    let pref := w 0 % 2 ^ 12
    let prog := s.patProg (dieOfCore (coreOfTeam k)) pref
    let half := partOfCore (coreOfTeam k) % 2
    let bad (c : Code) : Prop := Faults (.patbind r) s k b (ls.map fun l => (l, flt c))
    if 2 ^ 13 ≤ w 0 ∨ w 7 ≠ 0 then bad .illInst
    else if pref / 2048 ≠ half then bad .perm
    else if patBindOk prog (w 1) (w 2) = false then bad .pattern
    else if ¬ (w 3 ≤ w 4 ∧ w 4 ≤ w 1 ∧ w 5 ≤ w 6 ∧ w 6 ≤ w 2) then bad .qShape
    else if w 0 / 2 ^ 12 % 2 = 1 ∧ (patSet prog).any PatSet.invertible = false then bad .nonInv
    else exec (.patbind r) s = .next ((s.modTeam k fun t => { t with pat := some (
      { pref := pref, tdecl := decide (w 0 / 2 ^ 12 % 2 = 1), nrow := w 1, ncol := w 2, rowLo := w 3, rowHi := w 4
        colLo := w 5, colHi := w 6, frow := w 3, fpos := w 5, tcol := w 5, tpos := w 3, crow := 0, cbase := 0
        prog := prog } : PatCtx) }).popLanes (shapeOf (.patbind r) s.iss.pfx) ls)) ∧
  (∀ s k b ls (r : PatnextOp), Gang s (.patnext r) k b ls →
    ((s.team k).pat = none → Faults (.patnext r) s k b (ls.map fun l => (l, flt .pattern))) ∧
    (∀ x, (s.team k).pat = some x →
      (r.dir = true → x.set.invertible = false → Faults (.patnext r) s k b (ls.map fun l => (l, flt .nonInv))) ∧
      ((r.dir = true → x.set.invertible = true) → ∃ (y : Nat → PatCtx) (t : State),
        (let line (p : Nat × Nat) : Nat := if r.dir then p.2 else p.1
         let got (i : Nat) : Option (Nat × Nat) := match (y i).next r.dir with
           | none => none
           | some p => if r.line = true ∧ (x.next r.dir).any (fun q => line q != line p) = true then none else some p
         y 0 = x ∧ (∀ i, y (i + 1) = match got i with
           | some p => (y i).advance r.dir p.1 p.2
           | none => y i) ∧
         (ls ≠ [] → exec (.patnext r) s = .next (t.modTeam k fun q => { q with pat := some (y ls.length) })) ∧
         LaneResult s t k b ls (shapeOf (.patnext r) s.iss.pfx)
          (fun l n => match got (ls.idxOf l) with
            | some p =>
              let v := (y (ls.idxOf l)).rankOf s.fresh p.1 p.2
              if n = r.d.toNat then some (BitVec.ofNat 32 p.1)
              else if n = r.d.toNat + 1 then some (BitVec.ofNat 32 p.2)
              else if n = r.d.toNat + 2 then some (v.setWidth 32)
              else if n = r.d.toNat + 3 then some ((v >>> 32).setWidth 32) else none
            | none => if r.d.toNat ≤ n ∧ n ≤ r.d.toNat + 3 then some (BitVec.allOnes 32) else none)
          (fun l n => if n = r.pd.toNat ∧ n < 7 then some (got (ls.idxOf l)).isSome else none) 0)))) ∧
  (∀ (x : PatCtx) f r c, x.exact = true → x.rankOf f r c = BitVec.ofNat 64 (x.set.rank x.nrow x.ncol r c)) ∧
  (∀ (x : PatCtx) tr r c, let y := x.advance tr r c
    (tr = false → (y.frow, y.fpos) = (r, c + 1) ∧ (y.tcol, y.tpos) = (x.tcol, x.tpos)) ∧
    (tr = true → (y.tcol, y.tpos) = (c, r + 1) ∧ (y.frow, y.fpos) = (x.frow, x.fpos)) ∧
    y = { x with frow := y.frow, fpos := y.fpos, tcol := y.tcol, tpos := y.tpos, crow := y.crow, cbase := y.cbase } ∧
    (x.exact = true → r ≤ x.nrow → y.exact = true)) ∧
  (∀ s k b ls (r : PatsaveOp), Gang s (.patsave r) k b ls → ls ≠ [] →
    let l := ls.headD 0
    (ea s l r.space r.a % 32 ≠ 0 → Faults (.patsave r) s k b (ls.map fun l => (l, flt .align))) ∧
    (ea s l r.space r.a % 32 = 0 →
      (∀ f, f.code ≠ .delayed → s.rangeOf l r.space.toNat (ea s l r.space r.a) 256 true = .error f →
        Faults (.patsave r) s k b (ls.map fun l => (l, f))) ∧
      ∀ p u, s.rangeOf l r.space.toNat (ea s l r.space r.a) 256 true = .ok p →
        s.storeRange l p (patImage s.fresh (s.team k).pat) = .ok u → u.iss = s.iss →
        exec (.patsave r) s = .next (({ u with fresh := u.fresh + 1 } : State).popLanes (shapeOf (.patsave r) s.iss.pfx) ls))) ∧
  (∀ n, patImage n none = List.replicate 256 0) ∧
  (∀ n x, (patImage n (some x)).length = 256 ∧ bnat (patImage n (some x)) 0 2 = x.pref % 65536 ∧
    bnat (patImage n (some x)) 2 1 = (if x.tdecl then 3 else 1)) ∧
  ∀ s k b ls (r : PatsaveOp), Gang s (.patrestore r) k b ls → ls ≠ [] →
    let l := ls.headD 0
    (ea s l r.space r.a % 32 ≠ 0 → Faults (.patrestore r) s k b (ls.map fun l => (l, flt .align))) ∧
    (ea s l r.space r.a % 32 = 0 → ∀ p u bs, s.rangeOf l r.space.toNat (ea s l r.space r.a) 256 true = .ok p →
      s.loadRange l p 256 false = .ok (u, bs) → u.iss = s.iss →
      (bnat bs 2 1 % 2 = 0 → exec (.patrestore r) s = .next ((u.modTeam k fun t => { t with pat := none }).popLanes
        (shapeOf (.patrestore r) s.iss.pfx) ls)) ∧
      ∀ n (x : PatCtx), bs.take 64 = (patImage n (some x)).take 64 → x.pref < 4096 →
        (∀ v ∈ [x.nrow, x.ncol, x.rowLo, x.rowHi, x.colLo, x.colHi, x.frow, x.fpos, x.tcol, x.tpos, x.crow], v < 2 ^ 32) →
        x.cbase < 2 ^ 64 → x.prog = u.patProg (dieOfCore (coreOfTeam k)) x.pref →
        (u.bindFault x.pref x.nrow x.ncol x.tdecl x.rowLo x.rowHi x.colLo x.colHi = none →
          exec (.patrestore r) s = .next ((u.modTeam k fun t => { t with pat := some x }).popLanes
            (shapeOf (.patrestore r) s.iss.pfx) ls)) ∧
        (u = s → ∀ c, u.bindFault x.pref x.nrow x.ncol x.tdecl x.rowLo x.rowHi x.colLo x.colHi = some c →
          Faults (.patrestore r) s k b (ls.map fun l => (l, flt c))))

/-- The row base CROW and CBASE that PATMERGE moves, and the rank where a restored row base is inexact, are the model's
reading (log 24). -/
def Obligations.PatternMerge : Prop :=
  let merge (u : State) (r : PatmergeOp) (k l : Nat) : Except Flt (State × Nat × Option Nat) :=
    let w (i : Nat) : Nat := (u.rg l (r.a.toNat + i)).toNat
    match (u.team k).pat with
    | none => .error (flt .pattern)
    | some x =>
      let lines := if r.dir then (x.colLo, x.colHi) else (x.rowLo, x.rowHi)
      let win := if r.dir then (x.rowLo, x.rowHi) else (x.colLo, x.colHi)
      let span := win.2 - win.1
      if r.dir = true ∧ x.set.invertible = false then .error (flt .nonInv)
      else if ¬ (lines.1 ≤ w 0 ∧ w 0 < lines.2) ∨ 16384 < w 2 ∨ 16384 < span then .error (flt .qShape)
      else if w 1 % 4 ≠ 0 ∨ w 3 % 16 ≠ 0 then .error (flt .align)
      else match u.rangeOf l r.ssp.toNat (w 1) (4 * w 2) true,
          u.rangeOf l r.osp.toNat (w 3) (16 * (if r.mode then w 2 + span else min (w 2) span)) true with
        | .error f, _ => .error f
        | _, .error f => .error f
        | .ok a, .ok o =>
          let ps := x.set.line x.nrow x.ncol r.dir (w 0) win.1 win.2
          let gs := ps.map fun p => (p, if r.dir then x.rankOf u.fresh p (w 0) else x.rankOf u.fresh (w 0) p)
          let y := u.mergeLoop r.mode a o (w 2) (w 2 + span + 1) 0 0 (if w 2 = 0 then none else some (leNat (u.nearRead a 4))) gs
          .ok (match y with
            | (v, n, none) => (v.countMerge x r.dir (w 0) ps, n, none)
            | _ => y)
  (∀ s k b ls t (r : PatmergeOp), Gang s (.patmerge r) k b ls →
    Serve (fun u l => match merge u r k l with
      | .error f => .error (.flt f)
      | .ok (v, n, none) => .ok (v.put32 l r.d.toNat (BitVec.ofNat 32 n))
      | .ok (_, _, some i) => .error (.flt ⟨.sortViol, 0, i⟩)) s ls t →
    exec (.patmerge r) s = .next (t.popLanes (shapeOf (.patmerge r) s.iss.pfx) ls)) ∧
  (∀ s k b l (r : PatmergeOp), Gang s (.patmerge r) k b [l] →
    (∀ f, merge s r k l = .error f → Faults (.patmerge r) s k b [(l, f)]) ∧
    ∀ v n i, merge s r k l = .ok (v, n, some i) → v.iss = s.iss → ∃ t, exec (.patmerge r) s = .next t ∧
      t.iss.outs = [(l, s.iss.pc, .flt ⟨.sortViol, 0, i⟩)] ∧
      t = { (if s.iss.multi then v.popLanes (shapeOf (.patmerge r) s.iss.pfx) [] else
        ((v.popLanes (shapeOf (.patmerge r) s.iss.pfx) []).countFaults (coreOfTeam k) s.issAsid [⟨.sortViol, 0, i⟩]).faultLanes
          k b s.iss.gpc s.iss.npc [(l, s.iss.pc, ⟨.sortViol, 0, i⟩)]) with iss := t.iss }) ∧
  (∀ (s : State) (x : PatCtx) tr line ps, ∃ y : PatCtx, y = { x with crow := y.crow, cbase := y.cbase } ∧ x.crow ≤ y.crow ∧
    (x.exact = true → (∀ p ∈ ps, p ≤ x.nrow) → line ≤ x.nrow → y.exact = true) ∧
    s.countMerge x tr line ps = if y = x then s else s.setCtx (some y)) ∧
  (∀ (e : PatSet) (nr nc : Nat) (tr : Bool) (l lo hi p : Nat), (e.line nr nc tr l lo hi).Pairwise (· < ·) ∧
    (p ∈ e.line nr nc tr l lo hi ↔ lo ≤ p ∧ p < hi ∧ (if tr then e.mem nr nc p l else e.mem nr nc l p) = true)) ∧
  ∀ (s : State) k mode a o (vs : List Nat) (gs : List (Nat × Dword)),
    vs.Pairwise (· < ·) → (∀ v ∈ vs, v < 2 ^ 32) → (gs.map (·.1)).Pairwise (· < ·) → (∀ g ∈ gs, g.1 < 2 ^ 32) →
    (∀ i v, vs[i]? = some v → leNat (mread (s.team k).scratch (a + 4 * i) 4) = v) →
    (a + 4 * vs.length ≤ o ∨ o + 16 * (vs.length + gs.length) ≤ a) →
    ∀ ps : List Nat, ps.Pairwise (· < ·) → (∀ p, p ∈ ps ↔ if mode then p ∈ vs ∨ p ∈ gs.map (·.1) else p ∈ vs ∧ p ∈ gs.map (·.1)) →
    (let entry (p : Nat) : List Byte := leBytes 4 p ++ leBytes 4 (if p ∈ vs then vs.idxOf p else 0xFFFFFFFF) ++
       leBytes 8 (match gs.find? fun g => g.1 == p with | some g => g.2.toNat | none => 2 ^ 64 - 1)
     ∃ t, s.mergeLoop mode (.scr k a) (.scr k o) vs.length (vs.length + gs.length + 1) 0 0 vs.head? gs = (t, ps.length, none) ∧
       t = { s with teams := t.teams } ∧ (∀ j, j ≠ k → t.team j = s.team j) ∧
       t.team k = { s.team k with scratch := (t.team k).scratch } ∧
       mread (t.team k).scratch o (16 * ps.length) = ps.flatMap entry ∧
       (∀ c, c < o ∨ o + 16 * ps.length ≤ c → mget (t.team k).scratch c = mget (s.team k).scratch c) ∧
       ∀ v i n, v ≤ vs.getLastD 0 → vs ≠ [] → i = vs.length → i < n →
         leNat (mread (s.team k).scratch (a + 4 * i) 4) = v →
         (a + 4 * n ≤ o ∨ o + 16 * (n + gs.length) ≤ a) →
         (s.mergeLoop mode (.scr k a) (.scr k o) n (n + gs.length + 1) 0 0 vs.head? gs).2.2 = some i)

/-- GSPAWN claims and writes a packet; GDONE makes one add for its issue; TIDSET and TIDGET write and read an entry (R311,
R226, R377, R379, R380, R381, R382). What waits for a port that is not ACTIVE is the model's choice (log 71). -/
def Obligations.GraphInstructions : Prop :=
  let core (k : Nat) : Nat := coreOfTeam k
  let asid (s : State) (c : Nat) : Nat := (s.part (partOfCore c)).asid
  let block (s : State) (l : Nat) (a : BitVec 7) : List Byte := (List.range 16).flatMap fun i => leBytes 4 (s.rblk l a i).toNat
  let slot (q : Queue) (i : Nat) : Nat := q.ring + 64 * (i % 2 ^ q.log2n)
  let free (s : State) (sup : Bool) (ws : List Who) : Prop := ∀ c ∈ s.claims, c.sup = sup → ∀ w ∈ ws, w ∉ c.whos
  let whos (k b : Nat) (ls : List Nat) : List Who := ls.map fun l => Who.thread k (64 * b + l)
  (∀ s k b ls (r : R3), Gang s (.gspawn r) k b ls → ls ≠ [] → free s false (whos k b ls) →
    let l := ls.headD 0
    let n := (s.rd l r.b []).toNat % 4096
    let q := s.queue n
    let c : Claim := ⟨whos k b ls, false, n, q.wridx.toNat, false⟩
    let v := { s with claims := s.claims ++ [c] }.modQueue n fun x => { x with wridx := x.wridx + 1 }
    (q.en = false ∨ q.devq = false ∨ q.asid ≠ asid s (core k) → Faults (.gspawn r) s k b (ls.map fun l => (l, flt .perm))) ∧
    (q.en = true → q.devq = true → q.asid = asid s (core k) → 2 ^ q.log2n ≤ (q.wridx - q.rdidx).toNat →
      ∃ t, exec (.gspawn r) s = .next t ∧
        LaneResult s t k b ls (shapeOf (.gspawn r) s.iss.pfx) (one r.d.toNat (fun _ _ => 0x80000001) s) (nothing s) 0) ∧
    (q.en = true → q.devq = true → q.asid = asid s (core k) → (q.wridx - q.rdidx).toNat < 2 ^ q.log2n →
      (∀ f, v.translate (.core (core k)) (asid s (core k)) (slot q q.wridx.toNat) .write = .error f → ∃ t,
        exec (.gspawn r) s = .next t ∧ t.iss.outs = ls.map (fun l => (l, s.iss.pc, .flt f)) ∧
        t = { (if s.iss.multi then v.popLanes (shapeOf (.gspawn r) s.iss.pfx) [] else
          ((v.popLanes (shapeOf (.gspawn r) s.iss.pfx) []).countFaults (core k) s.issAsid (ls.map fun _ => f)).faultLanes k b
            s.iss.gpc s.iss.npc (ls.map fun l => (l, s.iss.pc, f))) with iss := t.iss }) ∧
      ∀ u pa e, v.translate (.core (core k)) (asid s (core k)) (slot q q.wridx.toNat) .write = .ok (u, pa, e) →
        u.iss = s.iss → u.claims = v.claims →
        exec (.gspawn r) s = .next ((ls.foldl (fun (w : State) l => w.put32 l r.d.toNat (BitVec.ofNat 32 (q.wridx.toNat % 2 ^ 31)))
          { u.engineStore (core k) pa (block s l r.a) with claims := s.claims }).popLanes (shapeOf (.gspawn r) s.iss.pfx) ls))) ∧
  (∀ s k b ls (r : R3) (c : Claim), Gang s (.gspawn r) k b ls → ls ≠ [] → s.claims = [c] → c.sup = false → c.whos = whos k b ls →
    ∀ u pa e, s.translate (.core (core k)) (asid s (core k)) (slot (s.queue c.queue) c.idx) .write = .ok (u, pa, e) →
      u.iss = s.iss → u.claims = s.claims →
      exec (.gspawn r) s = .next ((ls.foldl (fun (w : State) l => w.put32 l r.d.toNat (BitVec.ofNat 32 (c.idx % 2 ^ 31)))
        { u.engineStore (core k) pa (block s (ls.headD 0) r.a) with claims := [] }).popLanes (shapeOf (.gspawn r) s.iss.pfx) ls)) ∧
  (∀ s c (r : R3), Shut s (.gspawn r) c → free s (s.shuttle c).mode [Who.shuttle c] →
    let n := (s.viewS c r.b.toNat).toNat % 4096
    let q := s.queue n
    let v := { s with claims := s.claims ++ [(⟨[.shuttle c], (s.shuttle c).mode, n, q.wridx.toNat, false⟩ : Claim)] }.modQueue n
      fun x => { x with wridx := x.wridx + 1 }
    q.en = true → q.devq = true → q.asid = asid s c → (q.wridx - q.rdidx).toNat < 2 ^ q.log2n →
    ∀ u pa e, v.translate (.core c) (asid s c) (slot q q.wridx.toNat) .write = .ok (u, pa, e) → u.iss = s.iss → u.claims = v.claims →
      exec (.gspawn r) s = .next ({ u.engineStore c pa (block s 0 r.a) with claims := s.claims }.setS c r.d.toNat q.wridx)) ∧
  (∀ s k b ls (r : RAB), Gang s (.gdone r) k b ls → ls ≠ [] →
    (∀ g ∈ s.gdones, g.sup = false → ∀ w ∈ whos k b ls, w ∉ g.whos) →
    let l := ls.headD 0
    let va := (s.rd64 l r.a).toNat
    let v := (s.rd l r.b []).toNat
    (va % 8 ≠ 0 → Faults (.gdone r) s k b (ls.map fun l => (l, flt .align))) ∧
    (va % 8 = 0 → va < 2 ^ 55 →
      (∀ f, s.translate (.core (core k)) (asid s (core k)) va .atomic = .error f →
        Faults (.gdone r) s k b (ls.map fun l => (l, f))) ∧
      ∀ u pa e, s.translate (.core (core k)) (asid s (core k)) va .atomic = .ok (u, pa, e) → u.iss = s.iss →
        let unit := s.unitOf (.thread k (64 * b + l))
        let seen := u.viewed unit (asid s (core k)) va
        ((∀ w ∈ whos k b ls, u.settling 4 w = none) →
          (seen = false → u.reach (core k) pa = .ok () → exec (.gdone r) s = .next ((((u.homeAtomic (core k) pa 8 fun x =>
            (x + v) % 2 ^ 64).1).retestGates pa).popLanes (shapeOf (.gdone r) s.iss.pfx) ls)) ∧
          (seen = true → exec (.gdone r) s = .next (((u.detAdd unit ⟨pa, 2, BitVec.ofNat 64 v⟩).retestGates pa).popLanes
            (shapeOf (.gdone r) s.iss.pfx) ls))) ∧
        ((∃ w ∈ whos k b ls, u.settling 4 w ≠ none) ∨ seen = false ∧ u.reach (core k) pa ≠ .ok () → ∃ t,
          exec (.gdone r) s = .next t ∧
          t = { u with teams := t.teams, gdones := t.gdones, iss := t.iss } ∧
          (∀ m ∈ ls, t.thread k (64 * b + m) =
            if s.iss.multi then u.thread k (64 * b + m) else { u.thread k (64 * b + m) with stat := .retry }) ∧
          (s.iss.multi = false → (∀ g ∈ u.gdones, g.id ≠ u.fresh) → (∀ g ∈ u.gdones, g.sup = false → ∀ w ∈ whos k b ls, w ∉ g.whos) →
            t.gdones = u.gdones ++ [⟨u.fresh, whos k b ls, false, core k, asid s (core k), unit, va, pa, v, false⟩])))) ∧
  (∀ s k b ls (r : RAB) (g : GDone), Gang s (.gdone r) k b ls → ls ≠ [] → s.gdones = [g] → g.sup = false → g.whos = whos k b ls →
    g.added = true →
    exec (.gdone r) s = .next ({ s with gdones := [] }.popLanes (shapeOf (.gdone r) s.iss.pfx) ls)) ∧
  (∀ s c (r : RAB), Shut s (.gdone r) c → (∀ g ∈ s.gdones, g.sup = (s.shuttle c).mode → Who.shuttle c ∉ g.whos) →
    let va := (s.viewS c r.a.toNat).toNat
    va % 8 = 0 → va < 2 ^ 55 → ∀ u pa e, s.translate (.core c) (asid s c) va .atomic = .ok (u, pa, e) → u.iss = s.iss →
    u.settling 4 (.shuttle c) = none → u.reach c pa = .ok () → u.viewed (s.unitOf (.shuttle c)) (asid s c) va = false →
    exec (.gdone r) s = .next (((u.homeAtomic c pa 8 fun x =>
      (x + (s.viewS c r.b.toNat).toNat % 2 ^ 32) % 2 ^ 64).1).retestGates pa)) ∧
  (∀ s k b ls (r : RAB), Gang s (.tidset r) k b ls → ls ≠ [] →
    let l := ls.headD 0
    let e := block s l r.a
    let x := (s.rd l r.b []).toNat
    let bad (c : Code) : Prop := Faults (.tidset r) s k b (ls.map fun l => (l, flt c))
    if 1023 < x then bad .qShape
    else if tidReservedOk e = false then bad .illInst
    else if tidSparse e = true ∧ tidPatref e / 2048 ≠ partOfCore (core k) % 2 then bad .perm
    else exec (.tidset r) s = .next ((s.modSpace (asid s (core k)) fun p => { p with tids := nput p.tids x e }).popLanes
      (shapeOf (.tidset r) s.iss.pfx) ls)) ∧
  (∀ s c (r : RAB), Shut s (.tidset r) c → let e := block s 0 r.a
    let x := (s.viewS c r.b.toNat).toNat % 2 ^ 32
    x ≤ 1023 → tidReservedOk e = true → tidSparse e = false →
    exec (.tidset r) s = .next (s.modSpace (asid s c) fun p => { p with tids := nput p.tids x e })) ∧
  (∀ (s : State) a b x y e, (s.modSpace a fun p => { p with tids := nput p.tids x e }).tid b y =
    if b = a ∧ y = x then e else s.tid b y) ∧
  (∀ (s : State) a x, nfind (s.space a).tids x = none → s.tid a x = List.replicate 64 0) ∧
  (∀ s k b ls (r : TidgetOp), Gang s (.tidget r) k b ls →
    let x := (s.rd (ls.headD 0) r.b []).toNat
    (1023 < x → Faults (.tidget r) s k b (ls.map fun l => (l, flt .qShape))) ∧
    (x ≤ 1023 → ∃ t, exec (.tidget r) s = .next t ∧ LaneResult s t k b ls (shapeOf (.tidget r) s.iss.pfx)
      (fun _ n => if r.d.toNat ≤ n ∧ n < r.d.toNat + 16 then
        some (BitVec.ofNat 32 (bnat (s.tid (asid s (core k)) x) (4 * (n - r.d.toNat)) 4)) else none) (nothing s) 0)) ∧
  ∀ s c (r : TidgetOp), Shut s (.tidget r) c → let x := (s.viewS c r.b.toNat).toNat % 2 ^ 32
    x ≤ 1023 → ∃ t, exec (.tidget r) s = .next t ∧ ShutWrites s t c fun n =>
      if r.d.toNat ≤ n ∧ n < r.d.toNat + 8 then some (BitVec.ofNat 64 (bnat (s.tid (asid s c) x) (8 * (n - r.d.toNat)) 8)) else none

/-- MFS reads every special register; MTS and its FSTAT, FCTL and CARVE forms write exactly the fields the issuer may write
(R58, R59, R111, R134, R135, R165, R173, R178, R200, R405, R408). -/
def Obligations.SpecialRegisters : Prop :=
  (∀ s k b ls (r : MfsOp), Gang s (.mfs r) k b ls → ∃ t, exec (.mfs r) s = .next t ∧
    (let tm := s.viewTeam k
     let v (l : Nat) : Nat := match r.num.toNat with
       | 0 => 64 * b + l
       | 1 => tm.teamix % 2 ^ 24
       | 2 => (tm.teamix * (64 * tm.bands) + (64 * b + l)) % 2 ^ 32
       | 3 => coreOfTeam k
       | 4 => tm.allot.toNat + 4 * (tm.bands - 1) + 32 * ((64 * b + l) / 64) + 256 * ((64 * b + l) % 64) +
           16384 * ((64 * b + l) % 64 / 4)
       | 8 => tm.fstat.toNat
       | 9 => tm.fctl.toNat
       | 10 => tm.rngkey.toNat
       | 11 => (tm.thread (64 * b + l)).draws.toNat
       | 12 => let w := (tm.thread (64 * b + l)).limbL
           if w = 0 then 0 else w + 256 * ((64 * b + l) % 64 % w) + 65536 * ((64 * b + l) % 64 / w)
       | 16 => tm.pinrev.toNat
       | 17 => tm.hemrec.toNat
       | 18 => tm.regg + 64 * tm.scrg + 4096 * tm.slice + 262144 * s.l1g (coreOfTeam k) + if tm.denied then 2 ^ 24 else 0
       | _ => (s.core (coreOfTeam k)).cycles % 2 ^ 64
     LaneResult s t k b ls (shapeOf (.mfs r) s.iss.pfx)
      (if r.num = 0x20 then pair r.d.toNat (fun _ l => BitVec.ofNat 64 (v l)) s
       else one r.d.toNat (fun _ l => BitVec.ofNat 32 (v l)) s) (nothing s) 0)) ∧
  (∀ s k b ls i n (a : BitVec 7) (e : Bool), (i = .mtsFstat ⟨a, e⟩ ∧ n = 8 ∨ i = .mtsFctl ⟨a, e⟩ ∧ n = 9 ∨
      i = .mtsCarve ⟨a, e⟩ ∧ n = 18 ∨ ∃ num : BitVec 10, i = .mts ⟨a, e, num⟩ ∧ n = num.toNat) →
    Gang s i k b ls → ls ≠ [] →
    let v (l : Nat) : Nat := (s.rd l a []).toNat
    let on := ls.filter fun l => s.iss.mts.all fun m => m.1 != n || decide (m.2 ≤ l)
    let legal := on.filter fun l => decide (v l % 8 ≤ 4)
    let u : State := { s with iss := { s.iss with mts := (on.map fun l => (n, l)).reverse ++ s.iss.mts } }
    let gives (f : Team → Team) : Prop := exec i s = .next ((u.modTeam k f).popLanes (shapeOf i s.iss.pfx) ls)
    (n = 8 → on ≠ [] → gives fun t => { t with fstat := BitVec.ofNat 5 (v (on.getLastD 0)) ||| s.iss.raised }) ∧
    (n = 10 → on ≠ [] → gives fun t => { t with rngkey := BitVec.ofNat 32 (v (on.getLastD 0)) }) ∧
    (n = 9 → legal ≠ [] → gives fun t => { t with fctl := BitVec.ofNat 3 (v (legal.getLastD 0)) }) ∧
    (n = 9 → on ≠ [] → legal = [] → gives id) ∧
    (on = [] ∨ n ≠ 8 ∧ n ≠ 9 ∧ n ≠ 10 → exec i s = .next (u.popLanes (shapeOf i s.iss.pfx) ls))) ∧
  (∀ s c (r : MfsOp), Shut s (.mfs r) c →
    let h := s.shuttle c
    let rec0 := s.headRecord c
    let named := 8 * c + bnat rec0 3 1 % 8
    let team : Option Nat := if h.mode = true ∧ 0 < (s.core c).trapCount ∧ bnat rec0 2 1 ≠ 5 ∧ (s.team named).live = true
      then some named else h.team
    let n := r.num.toNat
    let reads (v : Dword) : Prop := exec (.mfs r) s = .next (s.setS c r.d.toNat v)
    (n = 3 → reads (BitVec.ofNat 64 (BitVec.ofNat 32 c).toNat)) ∧
    (n = 0x20 → reads (BitVec.ofNat 64 ((s.core c).cycles % 2 ^ 64))) ∧
    (n = 0x140 → reads (BitVec.ofNat 64 (BitVec.ofNat 32 ((s.core c).trapHead + 64 * (s.core c).trapCount + 8192 * (c % 32))).toNat)) ∧
    (n = 0x141 → reads (BitVec.ofNat 64 (BitVec.ofNat 32 (s.part (partOfCore c)).asid).toNat)) ∧
    (∀ e, n = 0x100 + e → e < 64 → (nget (s.core c).events e 0).toNat / 2 ^ 63 = 0 → reads (nget (s.core c).events e 0)) ∧
    ∀ k, team = some k →
      (n = 1 → reads (BitVec.ofNat 64 ((s.team k).teamix % 2 ^ 24))) ∧
      (n = 8 → reads ((s.team k).fstat.setWidth 64)) ∧ (n = 9 → reads ((s.team k).fctl.setWidth 64)) ∧
      (n = 10 → reads ((s.team k).rngkey.setWidth 64)) ∧ (n = 16 → reads ((s.team k).pinrev.setWidth 64)) ∧
      (n = 17 → reads ((s.team k).hemrec.setWidth 64)) ∧
      (n = 18 → reads (BitVec.ofNat 64 (BitVec.ofNat 32 (s.carveReg k)).toNat))) ∧
  ∀ s c i n (a : BitVec 7) (e : Bool), (i = .mtsFstat ⟨a, e⟩ ∧ n = 8 ∨ i = .mtsFctl ⟨a, e⟩ ∧ n = 9 ∨
      i = .mtsCarve ⟨a, e⟩ ∧ n = 18 ∨ ∃ num : BitVec 10, i = .mts ⟨a, e, num⟩ ∧ n = num.toNat) → Shut s i c →
    let v := (s.viewS c a.toNat).toNat % 2 ^ 32
    let sup := (s.shuttle c).mode
    let w := s.viewS c a.toNat &&& 0x80FFFFFFFFFFFFFF
    (∀ e, n = 0x100 + e → e < 64 → exec i s = .next (s.modCore c fun q => { q with events := nput q.events e w })) ∧
    ∀ k, s.regTeam = some k →
      (n = 8 → exec i s = .next (s.modTeam k fun t => { t with fstat := BitVec.ofNat 5 v ||| s.iss.raised })) ∧
      (n = 10 → exec i s = .next (s.modTeam k fun t => { t with rngkey := BitVec.ofNat 32 v })) ∧
      (n = 9 → v % 8 ≤ 4 → exec i s = .next (s.modTeam k fun t => { t with fctl := BitVec.ofNat 3 v })) ∧
      (n = 16 → sup = true → exec i s = .next (s.modTeam k fun t => { t with pinrev := BitVec.ofNat 32 v })) ∧
      (n = 17 → sup = true → exec i s = .next (s.modTeam k fun t => { t with hemrec := BitVec.ofNat 32 v })) ∧
      (n = 18 → sup = true → exec i s = .next (s.modTeam k fun t => { t with
        denied := decide (v / 2 ^ 24 % 2 = 1)
        carveReq := if t.carveReq.any (fun c => c.1 == t.barDone + 1) = true then t.carveReq
          else t.carveReq ++ [(t.barDone + 1, v / 2 ^ 6 % 2 ^ 6, v / 2 ^ 12 % 2 ^ 6)] })) ∧
      (n = 1 ∨ n = 3 ∨ ((n = 16 ∨ n = 17 ∨ n = 18) ∧ sup = false) → exec i s = .next s)

/-- The numbers of the reports to the monitor, 1000000 + 8 k + b for a band and 2000000 + c for a Shuttle, are the model's
choice (log 56); which threads a late fault parks is its reading (log 20). -/
def Obligations.TrapsAndRecords : Prop :=
  ((∀ s k b ls code, Gang s (.trap code) k b ls → Faults (.trap code) s k b (ls.map fun l => (l, flt (.trap code)))) ∧
   ∀ s k b ls tag, Gang s (.bkpt tag) k b ls → Faults (.bkpt tag) s k b (ls.map fun l => (l, ⟨.bkpt, 0, tag.toNat⟩))) ∧
  ((∀ (s : State) k b pc resume next (ls : List Nat) (f : Flt), ls ≠ [] → ls.Nodup → f.code.num ≠ 0x3F →
     let c := coreOfTeam k
     let d := dieOfCore c
     let q := s.core c
     let at_ := halfBase (partOfCore c) + 16777216 - 131072 + 4096 * (c % 32) + 64 * ((q.trapHead + q.trapCount) % 64)
     let bytes := trapBytes f.code.num f.code.sub 0 (slotOfTeam k + 8 * b) pc.toNat
       (laneMask ((s.team k).recordLanes b ls)).toNat f.addr f.info 0
       (s.team k).asid
     let t := s.faultLanes k b resume next (ls.map fun l => (l, pc, f))
     (∀ l ∈ ls, t.thread k (64 * b + l) = { s.thread k (64 * b + l) with
       stat := .parked, pc := (match f.code with | .trap _ => next | .bkpt => next | _ => resume) }) ∧
     (∀ i, (∀ l ∈ ls, i ≠ 64 * b + l) → t.thread k i = s.thread k i) ∧
     t = { s with teams := t.teams, cores := t.cores, dies := t.dies, fresh := s.fresh + 1 } ∧
     (∀ j, j ≠ k → t.team j = s.team j) ∧ t.team k = { s.team k with threads := (t.team k).threads } ∧
     (∀ e, e ≠ c → t.core e = s.core e) ∧ (∀ e, e ≠ d → t.die e = s.die e) ∧
     t.die d = { s.die d with chip := (t.die d).chip } ∧
     (q.trapCount < 64 → (t.core c).trapCount = q.trapCount + 1 ∧ (t.core c).trapHead = q.trapHead ∧
       (t.core c).trapWait = q.trapWait ∧ mread (t.die d).chip at_ 64 = bytes ∧
       ∀ a, a < at_ ∨ at_ + 64 ≤ a → mget (t.die d).chip a = mget (s.die d).chip a) ∧
     (64 ≤ q.trapCount → t.core c = { q with trapWait := q.trapWait ++ [bytes] } ∧ t.die d = s.die d)) ∧
   (∀ code sub src slot pc who addr i0 i1 asid, code < 256 → sub < 256 → src < 256 → slot < 256 → pc < 2 ^ 32 → who < 2 ^ 64 →
     addr < 2 ^ 64 → i0 < 2 ^ 64 → i1 < 2 ^ 64 → asid < 65536 →
     (let r := trapBytes code sub src slot pc who addr i0 i1 asid
      r.length = 64 ∧ bnat r 0 1 = code ∧ bnat r 1 1 = sub ∧ bnat r 2 1 = src ∧ bnat r 3 1 = slot ∧ bnat r 4 4 = pc ∧
      bnat r 8 8 = who ∧ bnat r 0x10 8 = addr ∧ bnat r 0x18 8 = i0 ∧ bnat r 0x20 8 = i1 ∧ bnat r 0x28 2 = asid ∧
      bnat r 0x2A 22 = 0)) ∧
   (∀ (s : State) c r rs, (s.core c).trapCount = 64 → (s.core c).trapWait = r :: rs →
     let t := s.retireTrap c
     (t.core c).trapCount = 64 ∧ (t.core c).trapHead = ((s.core c).trapHead + 1) % 64 ∧ (t.core c).trapWait = rs ∧
     (r.length = 64 → mread (t.die (dieOfCore c)).chip (trapAddr c ((s.core c).trapHead % 64)) 64 = r)) ∧
   (∀ (s : State) c, (s.core c).trapWait = [] → ∀ t, t = s.retireTrap c →
     t.core c = { s.core c with trapHead := ((s.core c).trapHead + 1) % 64, trapCount := (s.core c).trapCount - 1 } ∧
     t = { s with cores := t.cores }) ∧
   (∀ (s : State) c pc (f : Flt), (s.shuttle c).mode = false → f.code ≠ .freeze → (s.core c).trapCount < 64 →
     let t := s.faultShuttle c pc f
     let q := s.core c
     t.shuttle c = { s.shuttle c with parked := true } ∧ (t.core c).trapCount = q.trapCount + 1 ∧
     mread (t.die (dieOfCore c)).chip (trapAddr c ((q.trapHead + q.trapCount) % 64)) 64 = trapBytes f.code.num f.code.sub 1
       (match (s.shuttle c).team with | some k => slotOfTeam k | none => 0) pc.toNat 0 f.addr f.info 0
       (s.part (partOfCore c)).asid ∧ t.teams = s.teams) ∧
   (∀ (s : State) c pc (f : Flt), (s.shuttle c).mode = true ∨ f.code = .freeze → s.faultShuttle c pc f =
     (s.modShuttle c fun h => { h with frozen := true }).report (2000000 + c)) ∧
   (∀ (t : Team) b ls l, l ∈ t.recordLanes b ls ↔ l < 64 ∧ (l ∈ ls ∨ (t.thread (64 * b + l)).bset ≠ 0 ∧
     ∃ m ∈ ls, (t.thread (64 * b + m)).bset = (t.thread (64 * b + l)).bset)) ∧
   (∀ (s : State) k b ls i, i ∈ s.lateParks k b ls ↔ ∃ l ∈ (s.team k).recordLanes b ls, i = 64 * b + l ∧
     (l ∈ ls ∨ (s.thread k i).mayPark = true)) ∧
   ∀ (s : State) k b pc resume next (ls : List Nat), ls ≠ [] → (s.team k).frozen = [] →
     let t := s.faultLanes k b resume next (ls.map fun l => (l, pc, flt .freeze))
     (t.team k).frozen = [b] ∧ t.reports = s.reports ++ [1000000 + 8 * k + b] ∧ t.dies = s.dies ∧ t.cores = s.cores ∧
     ∀ i, (t.thread k i).stat = (s.thread k i).stat)

/-- The report number 2000000 + c is the model's choice (log 56); what ERET does with late faults and terminated work is its
reading (log 5, 41, 44). -/
def Obligations.HandlerAndReturn : Prop :=
  (∀ (s : State) c, (s.core c).trapCount = 0 ∨ (s.shuttle c).mode = true ∨ s.shuttleRuns c = false →
    exec (.trapHandlerEntry c) s = .next s) ∧
  (∀ (s : State) c, 0 < (s.core c).trapCount → (s.shuttle c).mode = false → s.shuttleRuns c = true → ∃ t,
    exec (.trapHandlerEntry c) s = .next t ∧
    (let h := s.shuttle c
     let n := (s.core c).trapHead + 64 * (s.core c).trapCount + 8192 * (c % 32)
     t = { s with cores := t.cores, objReqs := t.objReqs, ruleWaits := t.ruleWaits } ∧ (∀ d, d ≠ c → t.core d = s.core d) ∧
     t.core c = { s.core c with shuttle := { h with
      mode := true, upc := h.pc, pc := 0x18000, waiting := false, sup := nput h.sup 0 (BitVec.ofNat 64 n)
      hold := (match h.hold with | .waitAcq _ _ => .none | x => x) } } ∧
     t.ruleWaits = s.ruleWaits.filter (fun w => w.who != Who.shuttle c) ∧
     (∀ q ∈ s.objReqs, q.who ≠ .shuttle c → q ∈ t.objReqs) ∧
     ∀ obj excl, h.hold = .waitAcq obj excl → ∀ q ∈ t.objReqs, ¬ (q.who = .shuttle c ∧ q.obj = obj ∧ q.excl = excl))) ∧
  (∀ s c i, (i = .eret ∨ i = .eretTerm) → Shut s i c → (s.core c).trapCount = 0 → ∃ t, exec i s = .next t ∧
    t.iss.outs = [(0, s.iss.pc, .flt (flt .illInst))] ∧
    t = { (if s.iss.multi then s else (s.modShuttle c fun h => { h with frozen := true }).report (2000000 + c)) with iss := t.iss }) ∧
  (∀ s c i (term : Bool), i = (if term then Instr.eretTerm else Instr.eret) → Shut s i c → 0 < (s.core c).trapCount → ∃ t,
    exec i s = .next t ∧
    (let u := (s.eretAct c term (s.headRecord c)).retireTrap c
     let left := (u.core c).trapCount
     t = { u with cores := t.cores, iss := t.iss } ∧ t.iss = { u.iss with xfer := t.iss.xfer } ∧
     (∀ d, d ≠ c → t.core d = u.core d) ∧ t.core c = { u.core c with shuttle := t.shuttle c } ∧
     (0 < left → t.shuttle c = { u.shuttle c with
        pc := 0x18000
        sup := nput (u.shuttle c).sup 0 (BitVec.ofNat 64 ((u.core c).trapHead + 64 * left + 8192 * (c % 32))) } ∧
       t.nextPc 0 = 0x18000) ∧
     (left = 0 → t.shuttle c = { u.shuttle c with mode := false, pc := (u.shuttle c).upc } ∧ t.nextPc 0 = (u.shuttle c).upc))) ∧
  (∀ (s : State) c (r : List Byte),
    let k := 8 * c + bnat r 3 1 % 8
    let b := bnat r 3 1 / 8 % 8
    let who := bnat r 8 8
    let ts := ((List.range 64).filter fun l => decide (who / 2 ^ l % 2 = 1) && (s.thread k (64 * b + l)).stat == .parked).map
      (64 * b + ·)
    (bnat r 2 1 = 0 → ∃ t : State, s.eretAct c false r = t.replayLate k ts ∧
      ((∀ f ∈ s.fills, f.team = k → ∀ i p pc xs, f.val ≠ .stopped i p pc xs) → t.replayLate k ts = t) ∧
      t = { s with teams := t.teams } ∧ (∀ j, j ≠ k → t.team j = s.team j) ∧
      t.team k = { s.team k with threads := (t.team k).threads, ctxs := (t.team k).ctxs } ∧
      ∀ i, t.thread k i = if i / 64 = b ∧ who / 2 ^ (i % 64) % 2 = 1 ∧ (s.thread k i).stat = .parked then
        { s.thread k i with stat := .ready } else s.thread k i) ∧
    (bnat r 2 1 = 0 → s.eretAct c true r = s.endThreads k ts) ∧
    (bnat r 2 1 = 1 → s.eretAct c false r = (s.modShuttle c fun h => { h with parked := false }) ∧
      s.eretAct c true r = s.modShuttle c fun h =>
        { h with parked := false, active := false, hold := .none, chunk := none, rel := none }) ∧
    (bnat r 2 1 = 2 → (∀ q, ((s.eretAct c false r).team k).queue q = if q = who then
        { (s.team k).queue q with stream := { ((s.team k).queue q).stream with paused := false } } else (s.team k).queue q) ∧
      ∀ q, ((s.eretAct c true r).team k).queue q = if q = who then { (s.team k).queue q with stream :=
        { ((s.team k).queue q).stream with running := false, paused := false, frozen := false } } else (s.team k).queue q) ∧
    (bnat r 2 1 = 3 → ∀ x, (s.channelCopies (clusterOfCore c) who).find? (·.stopped) = some x →
      s.eretAct c false r = s.modCopy x.id (fun y => { y with stopped := false }) ∧
      (s.whoLives x.who = true → (∀ n, x.who ≠ .node n) → ∃ t, s.eretAct c true r = t ∧ x ∉ t.copies ∧
        t.held = s.held ++ [⟨x.who, x.id, none, recordFlt r⟩])) ∧
    (bnat r 2 1 = 4 → ∀ x, s.records.find? (fun x => x.parked && x.core == c && x.tok.toNat == who &&
        (x.team.isNone || x.team == some k)) = some x →
      s.eretAct c false r = s.modRec x.id (fun y => { y with parked := false }) ∧
      (x.node = none → x ∉ (s.eretAct c true r).records)) ∧
    (bnat r 2 1 = 5 → s.eretAct c false r = (s.modBobbin who fun e => { e with stat := .ready }) ∧
      ((s.eretAct c true r).bobbin who).stat = .idle)) ∧
  ∀ (s : State) k (ts : List Nat) i, i ∈ ts → ((s.endThreads k ts).thread k i).isLive = false

/-- The event PAGE_WALK, a walker that runs unasked and sets A, is the model's reading (log 43), how far ahead a tile
translation engine walks its choice (log 65). -/
def Obligations.Translations : Prop :=
  let missed (s : State) (tlb : TlbId) (asid va : Nat) : Prop :=
    s.tlbFind tlb asid va = none ∧ ∀ t, tlbSecond tlb = some t → s.tlbFind t asid va = none
  (∀ (s : State) asid va, va < 2 ^ 55 → (s.space asid).valid = true →
    let a2 := (s.space asid).root.toNat * 65536 + 8 * (va / 2 ^ 42)
    let e2 := s.homeNat a2 8
    let a1 := e2 / 2 ^ 16 % 2 ^ 36 * 65536 + 8 * (va / 2 ^ 29 % 2 ^ 13)
    let e1 := s.homeNat a1 8
    let a0 := e1 / 2 ^ 16 % 2 ^ 36 * 65536 + 8 * (va / 2 ^ 16 % 2 ^ 13)
    let e0 := s.homeNat a0 8
    let table (e : Nat) : Prop := e % 4 = 3 ∧ e / 4 % 2 ^ 14 = 0 ∧ e / 2 ^ 52 = 0
    let leaf (e : Nat) : Prop := e % 4 = 1 ∧ e / 2 ^ 11 % 2 = 0 ∧ e / 2 ^ 60 = 0 ∧ e / 2 ^ 12 % 16 ≤ 1
    (¬ table e2 → s.walk asid va = .error ⟨.notMapped, va, 2⟩) ∧
    (table e2 → ¬ table e1 → ¬ (leaf e1 ∧ e1 / 2 ^ 16 % 2 ^ 13 = 0) → s.walk asid va = .error ⟨.notMapped, va, 1⟩) ∧
    (table e2 → leaf e1 → e1 / 2 ^ 16 % 2 ^ 13 = 0 → ∃ l, s.walk asid va = .ok l ∧ l.e = e1 ∧ l.at_ = a1 ∧
      l.pa va = e1 / 2 ^ 16 % 2 ^ 36 * 65536 + va % 2 ^ 29) ∧
    (table e2 → table e1 → ¬ leaf e0 → s.walk asid va = .error ⟨.notMapped, va, 0⟩) ∧
    (table e2 → table e1 → leaf e0 → ∃ l, s.walk asid va = .ok l ∧ l.e = e0 ∧ l.at_ = a0 ∧ l.base ≤ va ∧ va < l.base + l.size ∧
      l.pa va = if e0 / 2 ^ 7 % 2 = 0 then e0 / 2 ^ 16 % 2 ^ 36 * 65536 + va % 2 ^ 16
        else e0 / 2 ^ 16 % 2 ^ 36 / 32 * 32 * 65536 + va % 2 ^ 21)) ∧
  (∀ (s : State) asid va, 2 ^ 55 ≤ va → s.walk asid va = .error ⟨.notMapped, va, 3⟩) ∧
  (∀ (s : State) asid va, va < 2 ^ 55 → (s.space asid).valid = false → s.walk asid va = .error ⟨.notMapped, va, 2⟩) ∧
  (∀ (s : State) (l : Leaf) va (a : Acc), s.windowOf (l.pa va) = none →
    let on (i : Nat) : Prop := l.e / 2 ^ i % 2 = 1
    ((a.r = true ∧ ¬ on 2) ∨ (a.w = true ∧ (¬ on 3 ∨ on 5)) ∨ (a.x = true ∧ ¬ on 4) → s.checkLeaf l va a = some ⟨.perm, va, 0⟩) ∧
    ((a.r = true → on 2) → (a.w = true → on 3 ∧ ¬ on 5) → (a.x = true → on 4) →
      (a.w = true → on 6 → s.checkLeaf l va a = some ⟨.cow, va, 0⟩) ∧
      (¬ (a.w = true ∧ on 6) → s.checkLeaf l va a = none))) ∧
  (∀ (s : State) asid va, (∀ w ∈ s.walks, w.asid ≠ asid) → s.walkMiss asid va = s.walk asid va) ∧
  (∀ (s : State) asid va lvl a, s.tableAt asid va lvl a = s.homeNat a 8 ∨ ∃ w ∈ s.walks, w.asid = asid ∧ w.lvl = lvl ∧
    w.va ≤ va ∧ va < w.va + 2 ^ levelBits lvl ∧ s.tableAt asid va lvl a = w.e) ∧
  (∀ (s : State) tlb asid va (a : Acc) f, va < 2 ^ 55 → missed s tlb asid va → s.walkMiss asid va = .error f →
    s.translate tlb asid va a = .error f) ∧
  (∀ (s : State) tlb asid va (a : Acc) (e : TlbEntry), va < 2 ^ 55 → s.tlbFind tlb asid va = some e →
    let l : Leaf := ⟨e.leaf.toNat, e.at_, e.va, e.size⟩
    (∀ f, s.checkLeaf l va a = some f → s.translate tlb asid va a = .error f) ∧
    (s.checkLeaf l va a = none → s.permitted asid (l.pa va) = false → s.translate tlb asid va a = .error ⟨.freeze, va, 0⟩) ∧
    (s.checkLeaf l va a = none → s.permitted asid (l.pa va) = true → (a.w = false ∨ l.e / 2 ^ 10 % 2 = 1) →
      s.translate tlb asid va a = .ok (s, l.pa va, l.e)) ∧
    (s.checkLeaf l va a = none → s.permitted asid (l.pa va) = true → a.w = true → l.e / 2 ^ 10 % 2 = 0 → ∃ t,
      s.translate tlb asid va a = .ok (t, l.pa va, l.e) ∧
      t = { s.homePut l.at_ 8 (s.homeNat l.at_ 8 ||| 2 ^ 10) with tlb := t.tlb } ∧
      ∃ x, t.tlbFind tlb asid va = some x ∧ x.leaf.toNat / 2 ^ 10 % 2 = 1 ∧ x.at_ = e.at_)) ∧
  (∀ (s : State) tlb asid va (l : Leaf), va < 2 ^ 55 → missed s tlb asid va → s.walkMiss asid va = .ok l →
    l.base ≤ va → va < l.base + l.size → l.e < 2 ^ 64 → (∀ cl, tlb = .tile cl → s.walksAhead cl asid va = true) →
    ∃ t, exec (.pageWalk tlb asid va false) s = .next t ∧
      t.tlbFind tlb asid va = some ⟨tlb, asid, l.base, l.size, BitVec.ofNat 64 l.e, l.at_⟩ ∧
      t = { (if l.e / 2 ^ 9 % 2 = 1 then s else s.homePut l.at_ 8 (s.homeNat l.at_ 8 ||| 2 ^ 9)) with
        tlb := t.tlb, walks := t.walks, cores := t.cores } ∧
      (∀ c, (t.core c).l1 = (s.core c).l1 ∧ (t.core c).shuttle = (s.core c).shuttle) ∧
      ∀ a : Acc, (∀ f, t.checkLeaf l va a = some f → s.translate tlb asid va a = .error f) ∧
        (t.checkLeaf l va a = none → t.permitted asid (l.pa va) = true → (a.w = false ∨ l.e / 2 ^ 10 % 2 = 1) →
          s.translate tlb asid va a = .ok (t, l.pa va, l.e))) ∧
  (∀ (s : State) tlb asid va w f, va < 2 ^ 55 → missed s tlb asid va → s.walkMiss asid va = .error f →
    exec (.pageWalk tlb asid va w) s = .next s) ∧
  (∀ (s : State) cl asid va w, (∀ u ∈ s.tileUses cl asid, u / 65536 + 64 < va / 65536 ∨ va / 65536 + 64 < u / 65536) →
    exec (.pageWalk (.tile cl) asid va w) s = .next s) ∧
  ∀ s c i (k : Shoot), Shut s i c → (∀ d ∈ s.dies, d.2.pins = []) → s.draws = [] →
    ((∃ r : RAB, i = .tlbinvPage r ∧ k = .page ((s.viewS c r.b.toNat).toNat % 4096) (s.viewS c r.a.toNat).toNat) ∨
     (∃ r : TlbAsidOp, i = .tlbinvAsid r ∧ k = .asid ((s.viewS c r.b.toNat).toNat % 4096)) ∨
     (∃ r : TlbAllOp, i = .tlbinvAll r ∧ k = .all)) →
    let keeps (asid lo size : Nat) : Bool := match k with
      | .page a va => !(asid == a && decide (lo ≤ va) && decide (va < lo + size))
      | .asid a => asid != a
      | .all => false
    exec i s = .next { s with
      tlb := s.tlb.filter fun e => keeps e.asid e.va e.size, walks := s.walks.filter fun w => keeps w.asid w.va w.size }

/-- PGSHARE and PGREL: the status checks in order, the leaves they write, what they clean and shoot down, and the status
register (R411, R412, R400). -/
def Obligations.SharedPages : Prop :=
  (∀ s c (r : R3), Shut s (.pgshare r) c →
    let x := s.pgshare (s.part (partOfCore c)).asid (s.viewS c r.a.toNat).toNat (s.viewS c r.b.toNat).toNat
    exec (.pgshare r) s = .next (x.1.setS c r.d.toNat (BitVec.ofNat 64 x.2))) ∧
  (∀ s c (r : R3), Shut s (.pgrel r) c →
    let x := s.pgrel (s.part (partOfCore c)).asid (s.viewS c r.a.toNat).toNat (s.viewS c r.b.toNat).toNat
    exec (.pgrel r) s = .next (x.1.setS c r.d.toNat (BitVec.ofNat 64 (x.2.1 + x.2.2 * 65536)))) ∧
  (∀ (s : State) asid va vb,
    let valid (e : Nat) : Prop := e % 4 = 1 ∧ e / 2 ^ 7 % 2 = 0 ∧ e / 2 ^ 11 % 2 = 0 ∧ e / 2 ^ 60 = 0 ∧ e / 2 ^ 12 % 16 ≤ 1
    let x := s.pgshare asid va vb
    (s.entry0 asid va = none → x = (s, 5)) ∧
    (∀ al ls, s.entry0 asid va = some (al, ls) → (¬ valid ls → x = (s, 5)) ∧ (valid ls →
      (s.entry0 asid vb = none → x = (s, 6)) ∧
      ∀ ad ld, s.entry0 asid vb = some (ad, ld) →
        let n := ls / 2 ^ 52
        (n = 0 → x = (s, 2)) ∧ (n = 255 → x = (s, 1)) ∧
        (n ≠ 0 → n ≠ 255 → (ld % 2 = 1 ∨ ld / 2 ^ 52 % 256 ≠ 0) → x = (s, 3)) ∧
        (n ≠ 0 → n ≠ 255 → ld % 2 = 0 → ld / 2 ^ 52 % 256 = 0 → x =
          ((((s.homePut al 8 (ls % 2 ^ 52 + (n + 1) * 2 ^ 52 ||| 64)).homePut ad 8
            (ls % 2 ^ 52 / 2 ^ 11 * 2 ^ 11 + ls % 2 ^ 9 ||| 64)).dropFrame (ls / 2 ^ 16 % 2 ^ 36)).shoot (.page asid va), 0))))) ∧
  (∀ (s : State) k, s.draws = [] → s.shoot k = s.shootdown k) ∧
  (∀ (s : State) k, ∀ d ∈ (s.shoot k).draws, s.shot k (s.part (partOfCore (s.coreOfWho d.who))).asid d.va = false) ∧
  ∀ (s : State) asid va vb,
    let leaf (e : Nat) : Prop := e / 2 % 2 = 0 ∧ e / 2 ^ 7 % 2 = 0
    let x := s.pgrel asid va vb
    (s.entry0 asid va = none ∨ s.entry0 asid vb = none → x = (s, 4, 0)) ∧
    ∀ av lv aa la, s.entry0 asid va = some (av, lv) → s.entry0 asid vb = some (aa, la) →
      let n := la / 2 ^ 52 % 256
      let same := va / 65536 = vb / 65536
      (¬ (leaf lv ∧ leaf la) → x = (s, 4, 0)) ∧
      (leaf lv → leaf la → (lv % 2 = 0 ∧ ¬ same → x = (s, 2, 0)) ∧ (lv % 2 = 1 ∨ same →
        (n = 0 ∨ lv / 2 ^ 16 % 2 ^ 36 ≠ la / 2 ^ 16 % 2 ^ 36 → x = (s, 3, 0)) ∧
        (n ≠ 0 → lv / 2 ^ 16 % 2 ^ 36 = la / 2 ^ 16 % 2 ^ 36 →
          let low := la % 2 ^ 52 + la / 2 ^ 60 * 2 ^ 60
          (same → n ≠ 1 → x = ((s.homePut aa 8 ((low + (n - 1) * 2 ^ 52) / 2 * 2)).shoot (.page asid va), 0, 0)) ∧
          (¬ same → n ≠ 1 → x = (((s.homePut av 8 0).homePut aa 8 (low + (n - 1) * 2 ^ 52)).shoot (.page asid va), 0, 0)) ∧
          (same → n = 1 → x = (((s.homePut aa 8 0).shoot (.page asid va)).shoot (.page asid vb), 1,
            la / 2 ^ 16 % 2 ^ 36)) ∧
          (¬ same → n = 1 → x = ((((s.homePut av 8 0).homePut aa 8 0).shoot (.page asid va)).shoot (.page asid vb), 1,
            la / 2 ^ 16 % 2 ^ 36)))))

/-- HALT and the host's halt; CTXSAVE and CTXLOAD: their statuses, and that a context saved and loaded again is the same
(R214, R402, R403, R404, R413, R414). -/
def Obligations.HaltsAndContexts : Prop :=
  (∀ s c, Shut s .haltStop c → let p := partOfCore c
    let u := s.halt p (some c)
    let wait := (u.part p).runner = some c ∧ u.midPacket p = true
    (¬ wait → exec .haltStop s = .next u) ∧
    (wait → ∃ t, exec .haltStop s = .next t ∧ t = { u with cores := t.cores, iss := t.iss } ∧ (∀ d, d ≠ c → t.core d = u.core d) ∧
      t.core c = (if s.iss.multi then u.core c else { u.core c with shuttle := { u.shuttle c with waiting := true } }) ∧
      t.iss.outs = [(0, s.iss.pc, .retry)]) ∧
    ((s.part p).halted = true → u = s) ∧
    ((s.part p).halted = false → (u.part p).halted = true ∧ (u.part p).runner = some c ∧
      u.shuttle c = (s.drain p).shuttle c ∧ (∀ q ∈ u.objReqs, (s.drain p).inPart p q.who = false) ∧
      (∀ q ∈ s.objReqs, (s.drain p).inPart p q.who = false → (s.drain p).objReqs = s.objReqs → q ∈ u.objReqs) ∧
      (∀ k, u.team k = (s.drain p).team k) ∧ u.iss = s.iss ∧ ∀ d, u.die d = (s.drain p).die d)) ∧
  (∀ (s : State) p, ((s.part p).opened = false ∨ (s.part p).halted = true → exec (.haltRequest p) s = .next s) ∧
    ((s.part p).opened = true → (s.part p).halted = false → ∃ t, exec (.haltRequest p) s = .next t ∧
      (t.part p).halted = true ∧ (t.part p).runner = none ∧ ∀ q, q ≠ p → t.part q = (s.drain p).part q)) ∧
  (∀ s c, Shut s .haltRun c → let p := partOfCore c
    ((s.part p).halted = false → exec .haltRun s = .next s) ∧
    ((s.part p).halted = true → ∃ t, exec .haltRun s = .next t ∧ t = { s with objReqs := t.objReqs, parts := t.parts } ∧
      t.part p = { s.part p with halted := false, runner := none } ∧ (∀ q, q ≠ p → t.part q = s.part q) ∧
      s.objReqs <+: t.objReqs)) ∧
  (∀ (s : State) p, s.draws = [] → s.fills = [] → s.drain p = s) ∧
  (∀ s c (r : CtxOp), (Shut s (.ctxsave r) c → let x := s.ctxSave (partOfCore c) r.h
      exec (.ctxsave r) s = .next (x.1.setS c r.d.toNat (BitVec.ofNat 64 x.2))) ∧
    (Shut s (.ctxload r) c → let x := s.ctxLoad (partOfCore c) r.h
      exec (.ctxload r) s = .next (x.1.setS c r.d.toNat (BitVec.ofNat 64 x.2)))) ∧
  (∀ s c (r : CtxMemOp), let p := partOfCore c
    let pa := (s.viewS c r.a.toNat).toNat % 2 ^ 52
    (Shut s (.ctxsaveMem r) c →
      (∀ u st, s.ctxSaveMem p r.h pa = .ok (u, st) → exec (.ctxsaveMem r) s = .next (u.setS c r.d.toNat (BitVec.ofNat 64 st))) ∧
      (∀ f, s.ctxSaveMem p r.h pa = .error f → ShutFaults (.ctxsaveMem r) s c f)) ∧
    (Shut s (.ctxloadMem r) c →
      (∀ u st, s.ctxLoadMem p r.h pa = .ok (u, st) → exec (.ctxloadMem r) s = .next (u.setS c r.d.toNat (BitVec.ofNat 64 st))) ∧
      (∀ f, s.ctxLoadMem p r.h pa = .error f → ShutFaults (.ctxloadMem r) s c f))) ∧
  (∀ (s : State) p h pa, let x := s.part p
    ((x.halted = false → s.ctxSave p h = (s, 1) ∧ s.ctxLoad p h = (s, 1)) ∧
     (x.halted = true → (x.half h).isSome = true → s.ctxSave p h = (s, 2)) ∧
     (x.halted = true → x.half h = none → s.ctxLoad p h = (s, 3)) ∧
     (x.halted = true → (x.half h).isSome = true → s.ctxEmpty p = false → s.ctxLoad p h = (s, 4)) ∧
     (x.halted = true → ∀ i, x.half h = some i → s.ctxEmpty p = true → (s.space i.casid).valid = false → s.ctxLoad p h = (s, 5)) ∧
     (x.half h = none → s.ctxSaveMem p h pa = .ok (s, 3)) ∧
     ((x.half h).isSome = true → pa % 65536 ≠ 0 → s.ctxSaveMem p h pa = .ok (s, 6)) ∧
     ((x.half h).isSome = true → s.ctxLoadMem p h pa = .ok (s, 2)) ∧
     (x.half h = none → pa % 65536 ≠ 0 → s.ctxLoadMem p h pa = .ok (s, 6)) ∧
     (x.half h = none → pa % 65536 = 0 → s.rangePermitted s.issAsid pa 64 = true →
       (bnat (s.homeRead pa 64) 0 4 ≠ 0x58544343 ∨ bnat (s.homeRead pa 64) 8 8 % 64 ≠ 0 ∨ bnat (s.homeRead pa 64) 6 2 ≥ 2 ∨
        2 ^ 25 < bnat (s.homeRead pa 64) 8 8) → s.ctxLoadMem p h pa = .ok (s, 7)))) ∧
  (∀ (i : CtxImage) k, i.casid < 4096 → i.flags < 2 → i.len < 2 ^ 64 → let b := i.bytes k
    bnat b 0 4 = 0x58544343 ∧ bnat b 4 2 = i.casid ∧ bnat b 6 2 = i.flags ∧ bnat b 8 8 = i.len ∧ bnat b 0x10 48 = 0) ∧
  ∀ (s : State) p h, (s.part p).halted = true → (s.part p).half h = none → s.ctxEmpty p = false →
    (s.space (s.part p).asid).valid = true → (s.teams.map (·.1)).Pairwise (· < ·) → (s.clusters.map (·.1)).Pairwise (· < ·) →
    (s.bobbins.map (·.1)).Pairwise (· < ·) →
    let t := s.ctxSave p h
    let u := t.1.ctxLoad p h
    t.2 = 0 ∧ ((t.1.part p).half h).isSome = true ∧ (t.1.part p).asid = (s.part p).asid ∧
    (∀ k, partOfCore (coreOfTeam k) = p → t.1.team k = .free) ∧
    u.2 = 0 ∧ (u.1.part p).half h = none ∧ (∀ k, u.1.team k = s.team k) ∧ (∀ c, u.1.cluster c = if partOfCluster c = p then (s.cluster c).noScale else s.cluster c) ∧
    ∀ b, u.1.bobbin b = s.bobbin b

/-- Bobbin scalar, branch, local-store and vector instructions: results, x0, the program counter, subcodes ALIGN, LOCAL, PC
(R334, R336, R342, R343, R344, R345, R346, R347). -/
def Obligations.BobbinRegisters : Prop :=
  let X (e : Bobbin) (n : BitVec 5) : Dword := if n = 0 then 0 else nget e.x n.toNat 0
  let goes (s t : State) (b : Nat) : Prop := t = { s with bobbins := t.bobbins } ∧ (∀ c, c ≠ b → t.bobbin c = s.bobbin c)
  let next (e f : Bobbin) : Prop := f.pc = e.pc + 1 ∧ f.past = decide (e.store.length ≤ e.pc.toNat + 1)
  let writes (i : Instr) (d : BitVec 5) (v : Bobbin → Dword) : Prop := ∀ s b, s.iss.who = .bobbin b → ∃ t, exec i s = .next t ∧
    goes s t b ∧ next (s.bobbin b) (t.bobbin b) ∧
    t.bobbin b = { s.bobbin b with x := (t.bobbin b).x, pc := (t.bobbin b).pc, past := (t.bobbin b).past } ∧
    ∀ n : BitVec 5, X (t.bobbin b) n = if n = d ∧ n ≠ 0 then v (s.bobbin b) else X (s.bobbin b) n
  let faults (i : Instr) (s : State) (b sub : Nat) : Prop := ∃ t, exec i s = .next t ∧
    t = { s with bobbins := t.bobbins, cores := t.cores, dies := t.dies } ∧
    t.bobbin b = { s.bobbin b with stat := .parked } ∧ (∀ c, c ≠ b → t.bobbin c = s.bobbin c) ∧
    (let c := (s.bobbin b).trapCore
     (s.core c).trapCount < 64 → (t.core c).trapCount = (s.core c).trapCount + 1 ∧
      mread (t.die (dieOfCore c)).chip (trapAddr c (((s.core c).trapHead + (s.core c).trapCount) % 64)) 64 =
        trapBytes 0x30 sub 5 0 0 b 0 0 0 (s.bobbin b).asid)
  let A (r : B3) (e : Bobbin) : Dword := X e r.a
  let B (r : B3) (e : Bobbin) : Dword := X e r.b
  let jumps (i : Instr) (off : BitVec 13) : Prop := ∀ s b, s.iss.who = .bobbin b →
    let e := s.bobbin b
    let target : Int := e.pc.toNat + off.toInt
    (0 ≤ target → target < e.store.length → exec i s = .next (s.modBobbin b fun e => { e with pc := BitVec.ofNat 12 target.toNat })) ∧
    (target < 0 ∨ (e.store.length : Int) ≤ target → faults i s b 8)
  let ea (e : Bobbin) (base : BitVec 5) (off : BitVec 15) (n : Nat) : Nat := ((X e base).toNat + off.toNat * n) % 2 ^ 64
  let size (r : BmOp) : Nat := if r.w then 8 else 4
  let V (e : Bobbin) (n : BitVec 5) (i : Nat) : Word := (nget e.v n.toNat (List.replicate 16 0)).getD i 0
  let full (e : Bobbin) : Prop := ∀ n : BitVec 5, (nget e.v n.toNat (List.replicate 16 0)).length = 16
  let lanes (i : Instr) (d : BitVec 5) (v : Bobbin → Nat → Word) : Prop := ∀ s b, s.iss.who = .bobbin b → full (s.bobbin b) →
    ∃ t, exec i s = .next t ∧ goes s t b ∧ next (s.bobbin b) (t.bobbin b) ∧
      t.bobbin b = { s.bobbin b with v := (t.bobbin b).v, pc := (t.bobbin b).pc, past := (t.bobbin b).past } ∧
      full (t.bobbin b) ∧ ∀ (n : BitVec 5) j, j < 16 → V (t.bobbin b) n j = if n = d then v (s.bobbin b) j else V (s.bobbin b) n j
  let f32 (r : FRes) : Word := BitVec.ofNat 32 (F32.deliver 0 r).1
  let dec (w : Word) : FVal := F32.decode w.toNat
  (∀ r : B3, writes (.bAdd r) r.d (fun e => A r e + B r e) ∧ writes (.bSub r) r.d (fun e => A r e - B r e) ∧
    writes (.bMul r) r.d (fun e => A r e * B r e) ∧ writes (.bAnd r) r.d (fun e => A r e &&& B r e) ∧
    writes (.bOr r) r.d (fun e => A r e ||| B r e) ∧ writes (.bXor r) r.d (fun e => A r e ^^^ B r e) ∧
    writes (.bShl r) r.d (fun e => A r e <<< (B r e).toNat) ∧ writes (.bShr r) r.d (fun e => A r e >>> (B r e).toNat) ∧
    writes (.bSar r) r.d (fun e => (A r e).sshiftRight (B r e).toNat) ∧
    writes (.slt r) r.d (fun e => if (A r e).slt (B r e) then 1 else 0) ∧
    writes (.sltu r) r.d (fun e => if (A r e).ult (B r e) then 1 else 0)) ∧
  (∀ r : BaddiOp, writes (.bAddi r) r.d fun e => X e r.a + r.imm.signExtend 64) ∧
  (∀ r : LdiOp, ∃ v, writes (.ldi r) r.d v ∧ ∀ e j, (v e).getLsbD j =
    if 16 * r.h.toNat ≤ j ∧ j < 16 * r.h.toNat + 16 then r.imm.getLsbD (j - 16 * r.h.toNat) else (X e r.d).getLsbD j) ∧
  (∀ off, jumps (.bAl off) off) ∧
  (∀ (r : BccOp) s b, s.iss.who = .bobbin b → r.cond.toNat ≤ 5 →
    let e := s.bobbin b
    let holds : Bool := match r.cond.toNat with
      | 0 => X e r.a == X e r.b
      | 1 => X e r.a != X e r.b
      | 2 => (X e r.a).slt (X e r.b)
      | 3 => (X e r.b).sle (X e r.a)
      | 4 => (X e r.a).ult (X e r.b)
      | _ => (X e r.b).ule (X e r.a)
    let target : Int := e.pc.toNat + r.off.toInt
    (holds = false → ∃ t, exec (.bCc r) s = .next t ∧ goes s t b ∧ next e (t.bobbin b) ∧
      t.bobbin b = { e with pc := (t.bobbin b).pc, past := (t.bobbin b).past }) ∧
    (holds = true → 0 ≤ target → target < e.store.length →
      exec (.bCc r) s = .next (s.modBobbin b fun e => { e with pc := BitVec.ofNat 12 target.toNat })) ∧
    (holds = true → target < 0 ∨ (e.store.length : Int) ≤ target → faults (.bCc r) s b 8)) ∧
  (∀ (r : BmOp) s b, s.iss.who = .bobbin b →
    let e := s.bobbin b
    let n := size r
    let a := ea e r.base r.off n
    (a % n ≠ 0 → faults (.ldl r) s b 6 ∧ faults (.stl r) s b 6) ∧
    (a % n = 0 → 524288 < a + n → faults (.ldl r) s b 7 ∧ faults (.stl r) s b 7) ∧
    (a % n = 0 → a + n ≤ 524288 →
      (∃ t, exec (.ldl r) s = .next t ∧ goes s t b ∧ next e (t.bobbin b) ∧
        t.bobbin b = { e with x := (t.bobbin b).x, pc := (t.bobbin b).pc, past := (t.bobbin b).past } ∧
        ∀ m : BitVec 5, X (t.bobbin b) m = if m = r.d ∧ m ≠ 0 then BitVec.ofNat 64 (leNat (mread e.loc a n)) else X e m) ∧
      ∃ t, exec (.stl r) s = .next t ∧ goes s t b ∧ next e (t.bobbin b) ∧
        t.bobbin b = { e with loc := (t.bobbin b).loc, pc := (t.bobbin b).pc, past := (t.bobbin b).past } ∧
        mread (t.bobbin b).loc a n = leBytes n (X e r.d).toNat ∧
        ∀ c, c < a ∨ a + n ≤ c → mget (t.bobbin b).loc c = mget e.loc c)) ∧
  (∀ (r : BvOp) s b, s.iss.who = .bobbin b → r.sp = false →
    let e := s.bobbin b
    let a := ea e r.base r.off 64
    (a % 64 ≠ 0 → faults (.ldv r) s b 6 ∧ faults (.stv r) s b 6) ∧
    (a % 64 = 0 → 524288 < a + 64 → faults (.ldv r) s b 7 ∧ faults (.stv r) s b 7) ∧
    (a % 64 = 0 → a + 64 ≤ 524288 →
      (∃ t, exec (.ldv r) s = .next t ∧ goes s t b ∧ next e (t.bobbin b) ∧
        t.bobbin b = { e with v := (t.bobbin b).v, pc := (t.bobbin b).pc, past := (t.bobbin b).past } ∧
        ∀ (m : BitVec 5) j, j < 16 → V (t.bobbin b) m j = if m = r.v then BitVec.ofNat 32 (leNat (mread e.loc (a + 4 * j) 4))
          else V e m j) ∧
      (full e → ∃ t, exec (.stv r) s = .next t ∧ goes s t b ∧ next e (t.bobbin b) ∧
        t.bobbin b = { e with loc := (t.bobbin b).loc, pc := (t.bobbin b).pc, past := (t.bobbin b).past } ∧
        (∀ j, j < 16 → mread (t.bobbin b).loc (a + 4 * j) 4 = leBytes 4 (V e r.v j).toNat) ∧
        ∀ c, c < a ∨ a + 64 ≤ c → mget (t.bobbin b).loc c = mget e.loc c))) ∧
  (∀ r : B3, lanes (.vadd r) r.d (fun e j => f32 (addVals 0 (dec (V e r.a j)) (dec (V e r.b j)))) ∧
    lanes (.vsub r) r.d (fun e j => f32 (subVals 0 (dec (V e r.a j)) (dec (V e r.b j)))) ∧
    lanes (.vmul r) r.d (fun e j => f32 (mulVals (dec (V e r.a j)) (dec (V e r.b j))))) ∧
  (∀ r : B4, lanes (.vfma r) r.d fun e j => f32 (fmaVals 0 (dec (V e r.a j)) (dec (V e r.b j)) (dec (V e r.c j)))) ∧
  ∀ r : B2, lanes (.vbc r) r.d fun e _ => (X e r.a).setWidth 32

/-- Bobbin stack memory, CHASE, SAMPLE, ADAMW, FADDC, SIGNAL, WAITN and DONE: checks in order, results, and what is written
(R224, R225, R338, R339, R345, R346, R348, R349, R350, R351, R352, R353). -/
def Obligations.BobbinMemory : Prop :=
  let X (e : Bobbin) (n : BitVec 5) : Nat := (if n = 0 then 0 else nget e.x n.toNat 0).toNat
  let ea (e : Bobbin) (base : BitVec 5) (off : BitVec 15) (n : Nat) : Nat := (X e base + off.toNat * n) % 2 ^ 64
  let size (r : BmOp) : Nat := if r.w then 8 else 4
  let moved (u : State) (b : Nat) (f : Bobbin → Bobbin) : State := u.modBobbin b fun e => (f e).advance
  let unit (u : State) (b : Nat) : UnitKey := u.unitOf (u.bobbin b).node
  let plain (u : State) (b va : Nat) : Prop := u.viewed (unit u b) (u.bobbin b).asid va = false
  let bad (i : Instr) (s : State) (b : Nat) (f : Flt) : Prop := exec i s = .next (s.bobFault b f)
  (∀ (s : State) b f, f.code ≠ .freeze → s.bobFault b f = ((s.modBobbin b fun e => { e with stat := .parked }).record
    (s.bobbin b).trapCore (trapBytes f.code.num f.code.sub 5 0 0 b f.addr f.info 0 (s.bobbin b).asid))) ∧
  (∀ (s : State) b va (a : Acc), let asid := (s.bobbin b).asid
    (∀ f, s.lookup (.bobbin b) asid va = .error f → f.code = .notMapped → s.bobTranslate b va a = .error ⟨.bobbin 3, f.addr, f.info⟩) ∧
    ∀ (e : TlbEntry), va < 2 ^ 55 → s.tlbFind (.bobbin b) asid va = some e →
      let l : Leaf := ⟨e.leaf.toNat, e.at_, e.va, e.size⟩
      let here : Prop := isStackLocal (l.pa va) = true ∧ stackOf (l.pa va) = b / 8
      (¬ here → s.bobTranslate b va a = .error ⟨.bobbin 2, va, 0⟩) ∧
      (here → s.checkLeaf l va a = some ⟨.perm, va, 0⟩ → s.bobTranslate b va a = .error ⟨.bobbin 4, va, 0⟩) ∧
      (here → s.checkLeaf l va a = some ⟨.cow, va, 0⟩ → s.bobTranslate b va a = .error ⟨.bobbin 5, va, 0⟩) ∧
      (here → s.checkLeaf l va a = none → s.permitted asid (l.pa va) = true → a.w = false →
        s.bobTranslate b va a = .ok (s, l.pa va))) ∧
  (∀ (s : State) pa (bs : List Byte), bs ≠ [] → pa % 32 + bs.length ≤ 32 →
    let t := s.bobbinWrite pa bs
    mread t.hbm pa bs.length = bs ∧ t.homeSec (pa / 32) = mread t.hbm (pa / 32 * 32) 32 ∧
    (∀ a, a / 32 ≠ pa / 32 → mget t.hbm a = mget s.hbm a) ∧ (∀ q, q ≠ pa / 32 → t.homeSec q = s.homeSec q) ∧
    t = { s with hbm := t.hbm, llc := t.llc, dies := t.dies } ∧
    (nfind (s.die (homeDie (pa / 32 * 32))).l2 (pa / 32) = none → nfind s.llc (pa / 32) = none →
      ∀ a, a < pa ∨ pa + bs.length ≤ a → mget t.hbm a = mget s.hbm a)) ∧
  (∀ (r : BmOp) s b, s.iss.who = .bobbin b →
    let n := size r
    let a := ea (s.bobbin b) r.base r.off n
    (a % n ≠ 0 → bad (.ldh r) s b ⟨.bobbin 6, 0, 0⟩ ∧ bad (.sth r) s b ⟨.bobbin 6, 0, 0⟩) ∧
    (a % n = 0 → (∀ f, s.bobTranslate b a .read = .error f → bad (.ldh r) s b f) ∧
      (∀ f, s.bobTranslate b a .write = .error f → bad (.sth r) s b f) ∧
      (∀ u pa, s.bobTranslate b a .read = .ok (u, pa) → plain u b a → exec (.ldh r) s = .next (moved u b fun e =>
        e.setX r.d.toNat (BitVec.ofNat 64 (leNat (mread u.hbm pa n))))) ∧
      ∀ u pa, s.bobTranslate b a .write = .ok (u, pa) → plain u b a →
        exec (.sth r) s = .next (moved (u.bobbinWrite pa (leBytes n (X (s.bobbin b) r.d))) b id))) ∧
  (∀ (r : BvOp) s b, s.iss.who = .bobbin b → r.sp = true →
    let a := ea (s.bobbin b) r.base r.off 64
    (a % 64 ≠ 0 → bad (.ldv r) s b ⟨.bobbin 6, 0, 0⟩ ∧ bad (.stv r) s b ⟨.bobbin 6, 0, 0⟩) ∧
    (a % 64 = 0 →
      (∀ u pa, s.bobTranslate b a .read = .ok (u, pa) → plain u b a → plain u b (a + 32) → exec (.ldv r) s = .next (moved u b fun e =>
        { e with v := nput e.v r.v.toNat ((List.range 16).map fun j => BitVec.ofNat 32 (leNat (mread u.hbm (pa + 4 * j) 4))) })) ∧
      ∀ u pa, s.bobTranslate b a .write = .ok (u, pa) → plain u b a → plain u b (a + 32) → exec (.stv r) s = .next (moved (u.bobbinWrite pa
        ((nget (s.bobbin b).v r.v.toNat (List.replicate 16 0)).flatMap fun w => leBytes 4 w.toNat)) b id))) ∧
  (∀ (r : ChaseOp) s b, s.iss.who = .bobbin b →
    let e := s.bobbin b
    let inp := X e r.d
    let out := X e r.a
    let m := X e r.b % 2 ^ 32
    let off := X e r.c
    let k := r.k.toNat
    (¬ (inp % 8 = 0 ∧ out % 8 = 0 ∧ off % 8 = 0) → bad (.chase r) s b ⟨.bobbin 6, 0, 0⟩) ∧
    (inp % 8 = 0 → out % 8 = 0 → off % 8 = 0 →
      (k = 0 → bad (.chase r) s b ⟨.bobbin 1, 0, 0⟩) ∧
      (k ≠ 0 → 524288 < inp + 8 * m ∨ 524288 < out + 8 * m → bad (.chase r) s b ⟨.bobbin 7, 0, 0⟩) ∧
      (k ≠ 0 → inp + 8 * m ≤ 524288 → out + 8 * m ≤ 524288 →
        (inp < out + 8 * m → out < inp + 8 * m → bad (.chase r) s b ⟨.bobbin 1, 0, 0⟩) ∧
        (out + 8 * m ≤ inp ∨ inp + 8 * m ≤ out →
          (m ≤ e.wm → exec (.chase r) s = .next (s.modBobbin b fun e => ({ e with wm := 0 } : Bobbin).advance)) ∧
          (e.wm < m → ∀ M : Nat → Nat, (∀ q, M q < 2 ^ 64) →
            (let hop (p : Nat) : Nat := if p = 0 then 0 else M ((p + off) % 2 ^ 64)
             let p0 : Nat := leNat (mread e.loc (inp + 8 * e.wm) 8)
             (∀ j, j < k → Nat.repeat hop j p0 ≠ 0 → (Nat.repeat hop j p0 + off) % 2 ^ 64 % 8 = 0 ∧
               s.bobLoad b ((Nat.repeat hop j p0 + off) % 2 ^ 64) 8 = .ok (s, leBytes 8 (M ((Nat.repeat hop j p0 + off) % 2 ^ 64)))) →
             ∃ t, exec (.chase r) s = .next t ∧ t = { s with bobbins := t.bobbins } ∧ (∀ c, c ≠ b → t.bobbin c = s.bobbin c) ∧
               (let f : Bobbin := { e with loc := (t.bobbin b).loc, wm := (t.bobbin b).wm }
                t.bobbin b = if e.wm + 1 = m then { f with wm := 0 }.advance else { f with wm := e.wm + 1 }) ∧
               leNat (mread (t.bobbin b).loc (out + 8 * e.wm) 8) = Nat.repeat hop k p0 ∧
               ∀ c, c < out + 8 * e.wm ∨ out + 8 * e.wm + 8 ≤ c → mget (t.bobbin b).loc c = mget e.loc c)) ∧
          (∀ f, e.wm < m → s.hops b off k (leNat (mread e.loc (inp + 8 * e.wm) 8)) = .error f → f.code ≠ .freeze → ∃ u : State,
            exec (.chase r) s = .next (u.bobFault b { f with info := e.wm }) ∧ (u.bobbin b).wm = e.wm ∧
            (u.bobbin b).pc = e.pc ∧ (u.bobbin b).x = e.x ∧
            ∀ c, c < out + 8 * (e.wm + 1) ∨ out + 8 * m ≤ c → mget (u.bobbin b).loc c = mget e.loc c))))) ∧
  (∀ (r : B3) s b, s.iss.who = .bobbin b →
    let e := s.bobbin b
    let p := X e r.a
    let x := X e r.b
    (p % 8 ≠ 0 → bad (.sample r) s b ⟨.bobbin 6, 0, 0⟩) ∧
    (p % 8 = 0 → r.b = 0 ∨ r.b = r.d → bad (.sample r) s b ⟨.bobbin 1, 0, 0⟩) ∧
    (p % 8 = 0 → r.b ≠ 0 → r.b ≠ r.d → ∀ u nb, s.bobLoad b p 4 = .ok (u, nb) →
      let n := leNat nb
      let at_ := p + 8 + 8 * ((drawWord e.bkey (BitVec.ofNat 32 (x % 2 ^ 32)) (BitVec.ofNat 32 (x / 2 ^ 32))).toNat * n / 2 ^ 32)
      let draws (v : State) (w : Dword) : Prop := exec (.sample r) s = .next (moved v b fun e =>
        (e.setX r.d.toNat w).setX r.b.toNat (BitVec.ofNat 64 (x % 2 ^ 32 + (x / 2 ^ 32 + 1) % 2 ^ 32 * 2 ^ 32)))
      (n = 0 → draws u (BitVec.allOnes 64)) ∧ (n ≠ 0 → ∀ v vb, u.bobLoad b at_ 8 = .ok (v, vb) → draws v (BitVec.ofNat 64 (leNat vb))))) ∧
  (∀ (r : AdamwOp) s b, s.iss.who = .bobbin b →
    let e := s.bobbin b
    let sa := X e r.a
    let ga := X e r.b
    let la := X e r.c
    (¬ (sa % 64 = 0 ∧ ga % 64 = 0 ∧ la % 32 = 0) → bad (.adamw r) s b ⟨.bobbin 6, 0, 0⟩) ∧
    (sa % 64 = 0 → ga % 64 = 0 → la % 32 = 0 → 524288 < la + 32 → bad (.adamw r) s b ⟨.bobbin 7, 0, 0⟩) ∧
    (sa % 64 = 0 → ga % 64 = 0 → la % 32 = 0 → la + 32 ≤ 524288 → sa % 65536 + 192 ≤ 65536 →
      ∀ u pa v gpa, s.bobTranslate b sa .atomic = .ok (u, pa) → u.bobTranslate b ga .read = .ok (v, gpa) →
        (∀ i, i < 6 → plain v b (sa + 32 * i)) → plain v b ga → plain v b (ga + 32) →
        v.bobbin b = e →
        let f32 (r : FRes) : Word := BitVec.ofNat 32 (F32.deliver 0 r).1
        let d (w : Word) : FVal := F32.decode w.toNat
        let add (x y : Word) : Word := f32 (addVals 0 (d x) (d y))
        let sub (x y : Word) : Word := f32 (subVals 0 (d x) (d y))
        let mul (x y : Word) : Word := f32 (mulVals (d x) (d y))
        let par (i : Nat) : Word := BitVec.ofNat 32 (leNat (mread e.loc (la + 4 * i) 4))
        let old (i : Nat) : Word := BitVec.ofNat 32 (leNat (mread v.hbm (pa + 4 * i) 4))
        let g (i : Nat) : Word := BitVec.ofNat 32 (leNat (mread v.hbm (gpa + 4 * i) 4))
        let m (i : Nat) : Word := add (mul (par 1) (old (16 + i))) (mul (sub 0x3F800000 (par 1)) (g i))
        let w2 (i : Nat) : Word := add (mul (par 2) (old (32 + i))) (mul (mul (sub 0x3F800000 (par 2)) (g i)) (g i))
        let den (i : Nat) : Word := add (f32 (sqrtVal (d (mul (w2 i) (par 6))))) (par 3)
        let q (i : Nat) : Word := add (f32 (divVals (d (mul (m i) (par 5))) (d (den i)))) (mul (par 4) (old i))
        let w (i : Nat) : Word := sub (old i) (mul (par 0) (q i))
        exec (.adamw r) s = .next (moved (v.bobbinWrite pa (((List.range 16).map w ++ (List.range 16).map m ++
          (List.range 16).map w2).flatMap fun x => leBytes 4 x.toNat)) b id))) ∧
  (∀ (r : B2) s b, s.iss.who = .bobbin b → let va := X (s.bobbin b) r.a
    (r.d = 0 ∨ r.d = 31 → bad (.faddc r) s b ⟨.bobbin 1, 0, 0⟩) ∧
    (r.d ≠ 0 → r.d ≠ 31 → va % 32 ≠ 0 → bad (.faddc r) s b ⟨.bobbin 6, 0, 0⟩) ∧
    (r.d ≠ 0 → r.d ≠ 31 → va % 32 = 0 → (∀ f, s.bobTranslate b va .atomic = .error f → bad (.faddc r) s b f) ∧
      ∀ u pa, s.bobTranslate b va .atomic = .ok (u, pa) →
      let k := unit u b
      let draws (rd : Nat → Nat → Nat) (put : List Byte → State) : Prop := ∃ start len,
        (start, len) = drawOf (rd 0 8) (rd 8 8) (rd 16 4) (rd 20 4) (rd 24 4) ∧
        exec (.faddc r) s = .next (moved (put (leBytes 8 ((start + len) % 2 ^ 64))) b fun e =>
          (e.setX r.d.toNat (BitVec.ofNat 64 start)).setX (r.d.toNat + 1) (BitVec.ofNat 64 len))
      (plain u b va → draws (fun o n => u.homeNat (pa + o) n) fun bs => u.bobbinWrite pa bs) ∧
      (¬ plain u b va → draws (fun o n => leNat (u.viewRead k (pa + o) n)) fun bs => u.viewWrite k pa va bs))) ∧
  (∀ (r : Bab) s b, s.iss.who = .bobbin b →
    let va := X (s.bobbin b) r.a
    let v := X (s.bobbin b) r.b
    (va % 8 ≠ 0 → bad (.signal r) s b ⟨.bobbin 6, 0, 0⟩ ∧ bad (.waitn r) s b ⟨.bobbin 6, 0, 0⟩) ∧
    (va % 8 = 0 →
      (∀ f, s.bobTranslate b va .atomic = .error f → bad (.signal r) s b f ∧ bad (.waitn r) s b f) ∧
      ∀ u pa, s.bobTranslate b va .atomic = .ok (u, pa) →
        (plain u b va → exec (.signal r) s =
          .next (((moved (u.bobbinWrite pa (leBytes 8 ((u.homeNat pa 8 + v) % 2 ^ 64))) b id).pollAll pa).retestGates pa)) ∧
        (¬ plain u b va → exec (.signal r) s = .next (moved (if u.replays (unit u b) then u else u.modUnit (unit u b) fun d =>
          { d with contribs := d.contribs ++ [⟨pa, 2, BitVec.ofNat 64 v⟩] }) b id)) ∧
        (v ≤ u.bobWord b va pa → exec (.waitn r) s = .next (moved u b id)) ∧
        (u.bobWord b va pa < v → exec (.waitn r) s = .next (u.modBobbin b fun e =>
          { e with stat := .waitn va pa (BitVec.ofNat 64 v) })))) ∧
  (∀ (s : State) b va pa, (plain s b va → s.bobWord b va pa = s.homeNat pa 8) ∧
    (¬ plain s b va → s.bobWord b va pa = leNat (s.viewRead (unit s b) pa 8))) ∧
  (∀ (s : State) b va pa (v : Dword), (s.bobbin b).stat = .waitn va pa v →
    ((s.bobbin b).frozen = true ∨ (s.part (partOfBobbin b)).halted = true → exec (.waitnPoll b) s = .next s) ∧
    ((s.bobbin b).frozen = false → (s.part (partOfBobbin b)).halted = false →
      (∀ f, s.bobTranslate b va .atomic = .error f → exec (.waitnPoll b) s = .next (s.bobFault b f)) ∧
      ∀ u p, s.bobTranslate b va .atomic = .ok (u, p) →
        (v.toNat ≤ u.bobWord b va p →
          exec (.waitnPoll b) s = .next (u.modBobbin b fun e => ({ e with stat := .ready } : Bobbin).advance)) ∧
        (u.bobWord b va p < v.toNat → exec (.waitnPoll b) s = .next s))) ∧
  (∀ (s : State) pa b va v, (s.bobbins.map (·.1)).Nodup →
    (∀ c x w, (s.bobbin c).stat = .waitn x pa w → s.bobTranslate c x .atomic = .ok (s, pa)) →
    (s.bobbin b).stat = .waitn va pa v → (s.bobbin b).frozen = false → (s.part (partOfBobbin b)).halted = false →
    v.toNat ≤ s.bobWord b va pa →
    (s.pollAll pa).hbm = s.hbm ∧ (s.pollAll pa).bobbin b = ({ s.bobbin b with stat := .ready } : Bobbin).advance) ∧
  ∀ s b, s.iss.who = .bobbin b → ∃ t, exec .bDone s = .next t ∧ t = { s with bobbins := t.bobbins, nodes := t.nodes } ∧
    (let e := s.bobbin b
     t.bobbin b = { e with x := [], v := [], pc := 0, past := false, bkey := 0, wm := 0, node := .nobody, stat := .idle } ∧
     (∀ c, c ≠ b → t.bobbin c = s.bobbin c) ∧ t.nodes = s.nodes.map fun x =>
       if e.node = .node x.id then { x with fin := true } else x)

/-- Queues and packets: doorbells, which queue is served, each packet type starting (its event completes) or refused, the
recheck, and completion (R356, R357, R358, R359, R360, R361, R362, R363, R369, R371, R416, R418). -/
def Obligations.PacketsAndQueues : Prop :=
  let events (q : Nat) : List (Instr × Nat) := [(.graphPacket q, 0), (.gridPacket q, 1), (.copyPacket q, 2), (.bobbinPacket q, 3),
    (.barrierAndPacket q, 4), (.signalPacket q, 5)]
  let word (u : State) (q : Nat) (b : List Byte) : Prop := bnat b 0x38 8 = 0 ∨ u.addable (u.queue q).asid (bnat b 0x38 8) = true
  let pack (u : State) (q : Nat) (b : List Byte) : Packet := ⟨u.fresh, q, (u.queue q).started.toNat, b,
    if bnat b 0x38 8 = 0 ∨ u.addable (u.queue q).asid (bnat b 0x38 8) = false then none else some (bnat b 0x38 8), [], [], false, 0⟩
  let taken (u : State) (q : Nat) (b : List Byte) : State :=
    { u with fresh := u.fresh + 1, packets := u.packets ++ [pack u q b] }.modQueue q fun x => { x with started := x.started + 1 }
  let refused (u : State) (q : Nat) (b : List Byte) (code : Nat) : State :=
    ((taken u q b).noteErr q (u.queue q).started code).modPacket u.fresh fun p => { p with err := true }
  let starts (s : State) (q ty : Nat) (b : List Byte) (u : State) : Prop := ∃ lv, s.nextQueue = some (q, b, lv) ∧
    u = s.serveTurn q lv ∧ bnat b 0 4 % 16 = ty ∧ reservedBad ty b = false ∧ word u q b
  let acq (s : State) (b : List Byte) (mask : Nat) : State := if bnat b 0 4 / 16 % 4 = 0 then s else s.acquire mask
  let key (s : State) (p : Packet) (o : Nat) : Nat := 65536 * s.pkAsid p + bnat p.bytes o 2
  let bob (b : List Byte) : List Byte := [0x03, 0, 0, 0] ++ List.replicate 36 0 ++ bslice b 4 18 ++ List.replicate 6 0
  (∀ (s : State) (f page off n : Nat) (st : Option Nat) (v : Dword), s.boot = .running → f < 32 → (s.func f).frozen = false →
    (s.idePolicy = true → ¬ ((s.func f).ide = true ∧ st = some f) →
      exec (.notifyRegisterWrite ⟨f, st⟩ page off n v) s = .next (s.modFunc f fun x => { x with answers := x.answers ++ [none] })) ∧
    (s.idePolicy = false ∨ ((s.func f).ide = true ∧ st = some f) →
      (s.doorbell f page = none → exec (.notifyRegisterWrite ⟨f, st⟩ page off n v) s = .next s) ∧
      ∀ q, s.doorbell f page = some q → let x := s.queue q
        (off ≠ 0 ∨ n ≠ 8 → exec (.notifyRegisterWrite ⟨f, st⟩ page off n v) s = .next s) ∧
        (off = 0 → n = 8 →
          (x.devq = true ∨ x.en = false ∨ 2 ^ x.log2n < (v - x.rdidx).toNat ∨ v.toNat < x.wridx.toNat →
            exec (.notifyRegisterWrite ⟨f, st⟩ page off n v) s =
              .next (s.modQueue q fun y => if y.errcode = 0 then { y with errcode := 8, erridx := v } else y)) ∧
          (x.devq = false → x.en = true → (v - x.rdidx).toNat ≤ 2 ^ x.log2n → x.wridx.toNat ≤ v.toNat →
            exec (.notifyRegisterWrite ⟨f, st⟩ page off n v) s = .next (s.modQueue q fun y => { y with wridx := v }))))) ∧
  (∀ (s : State) f page, s.doorbell f page = if f = 0 then (if (nfind s.queues page).isSome then some page else none)
    else ((s.queues.filter fun q => q.2.func == f).map (·.1))[page]?) ∧
  (∀ (s : State) x, s.nextQueue = some x → x ∈ s.ready ∧ (∀ y ∈ s.ready, y.2.2 ≤ x.2.2) ∧
    (nfind s.turns x.2.2 = none → (s.ready.filter fun y => y.2.2 == x.2.2).head? = some x)) ∧
  (∀ (s : State), s.nextQueue = none → s.ready = []) ∧
  (∀ q i ty, (i, ty) ∈ events q → ∀ (s : State),
    (s.nextQueue = none → exec i s = .next s) ∧
    ∀ p b lv, s.nextQueue = some (p, b, lv) →
      let t := bnat b 0 4 % 16
      (p ≠ q ∨ (t ≠ ty ∧ (ty ≠ 0 ∨ t ≤ 5)) → exec i s = .next s) ∧
      (p = q → ty = 0 → 5 < t → exec i s = .next (refused (s.serveTurn q lv) q b 1)) ∧
      (p = q → t = ty →
        let u := s.serveTurn q lv
        (reservedBad ty b = true → exec i s = .next (refused u q b 2)) ∧
        (reservedBad ty b = false →
          (∀ c, (taken u q b).launch (pack u q b) = .error c → (word u q b → exec i s = .next (refused u q b c)) ∧
            (¬ word u q b → exec i s = .next (refused u q b (min c 4)))) ∧
          ∀ w, (taken u q b).launch (pack u q b) = .ok w → ¬ word u q b → exec i s = .next (refused u q b 4)))) ∧
  (∀ (s : State) q b u, let p := pack u q b
    let v := taken u q b
    let n (o w : Nat) : Nat := bnat b o w
    let asid := v.pkAsid p
    let mask := v.pkMask p
    (starts s q 0 b u → ∀ m t ns, nfind v.images (key v p 4) = some m → 0 < n 8 4 → n 8 4 ≤ 2 ^ 20 → n 16 8 % 64 = 0 → mask ≠ 0 →
      (acq v b mask).readNodes asid (n 16 8) (n 8 4) mask m.bobbinProgs.length = .some (t, ns) → countsOk ns = true →
      (∀ x ∈ ns, bnat x.1 0 1 = 3 → bobbinFits mask x.1 = true) →
      exec (.graphPacket q) s = .next ((((t.launchImage (key v p 4) (partsOf mask)).kernelBoundary asid).takeChip
        p.id (partsOf mask)).addNodes p ns)) ∧
    (starts s q 1 b u → ∀ t, (acq v b mask).startGrid p none b = .ok t → exec (.gridPacket q) s =
      .next (((t.kernelBoundary asid).takeChip p.id (partsOf mask)).modPacket p.id fun x => { x with left := 1 })) ∧
    (starts s q 2 b u → n 8 8 % 4 = 0 → n 16 8 % 4 = 0 → n 24 4 % 4 = 0 → mask ≠ 0 → ∃ r,
      exec (.copyPacket q) s = .next ((acq v b mask).addNodes p [(r, [])]) ∧ r.length = 64 ∧ bnat r 0 1 = 4 ∧ bnat r 4 4 = 0 ∧
        bnat r 0x18 8 = 0 ∧ bnat r 0x28 8 = n 8 8 ∧ bnat r 0x30 8 = n 16 8 ∧ bnat r 0x38 4 = n 24 4) ∧
    (starts s q 3 b u → ∀ m, nfind v.images (key v p 0x16) = some m → mask ≠ 0 → recordOk mask m.bobbinProgs.length (bob b) = true →
      bobbinFits mask (bob b) = true → exec (.bobbinPacket q) s =
        .next (((acq v b mask).launchImage (key v p 0x16) (partsOf mask)).addNodes p [(bob b, [])])) ∧
    (starts s q 4 b u → 1 ≤ n 4 1 → n 4 1 ≤ 3 → (∀ j, j < n 4 1 → n (8 + 16 * j) 8 % 8 = 0) →
      exec (.barrierAndPacket q) s = .next ((acq v b mask).modPacket p.id fun x =>
        { x with words := (List.range (n 4 1)).map (fun j => (n (8 + 16 * j) 8, n (16 + 16 * j) 8)), left := 1 })) ∧
    (starts s q 5 b u → n 8 8 % 8 = 0 → (n 0x18 2 = 0xFFFF ∨ n 0x18 2 < if (u.queue q).func = 0 then 2048 else 64) →
      ∀ w pa, (acq v b mask).procAt asid (n 8 8) .atomic = some (w, pa) → exec (.signalPacket q) s =
        .next (let x := (w.homePut pa 8 ((w.homeNat pa 8 + n 16 8) % 2 ^ 64)).retestGates pa
          if n 0x18 2 = 0xFFFF then x
          else x.modFunc (v.queue q).func fun f => { f with vectors := f.vectors ++ [n 0x18 2] }))) ∧
  (∀ (s : State) (p : Packet), let n (o w : Nat) : Nat := bnat p.bytes o w
    let asid := s.pkAsid p
    let mask := s.pkMask p
    (p.ty = 0 → (nfind s.images (key s p 4) = none → s.launch p = .error 3) ∧ ∀ m, nfind s.images (key s p 4) = some m →
      (n 8 4 = 0 ∨ 2 ^ 20 < n 8 4 ∨ n 16 8 % 64 ≠ 0 → s.launch p = .error 4) ∧
      (0 < n 8 4 → n 8 4 ≤ 2 ^ 20 → n 16 8 % 64 = 0 → (mask = 0 → s.launch p = .error 5) ∧
        (mask ≠ 0 → (acq s p.bytes mask).readNodes asid (n 16 8) (n 8 4) mask m.bobbinProgs.length = none →
          s.launch p = .error 7))) ∧
    (p.ty = 1 → ∀ c, (acq s p.bytes mask).startGrid p none p.bytes = .error c → s.launch p = .error c) ∧
    (p.ty = 2 → (n 8 8 % 4 ≠ 0 ∨ n 16 8 % 4 ≠ 0 ∨ n 24 4 % 4 ≠ 0 → s.launch p = .error 4) ∧
      (n 8 8 % 4 = 0 → n 16 8 % 4 = 0 → n 24 4 % 4 = 0 → mask = 0 → s.launch p = .error 5)) ∧
    (p.ty = 3 → (nfind s.images (key s p 0x16) = none → s.launch p = .error 3) ∧ ∀ m, nfind s.images (key s p 0x16) = some m →
      (mask = 0 → s.launch p = .error 5) ∧
      (mask ≠ 0 → (recordOk mask m.bobbinProgs.length (bob p.bytes) = false → s.launch p = .error 4) ∧
        (recordOk mask m.bobbinProgs.length (bob p.bytes) = true → bobbinFits mask (bob p.bytes) = false → s.launch p = .error 5))) ∧
    (p.ty = 4 → n 4 1 = 0 ∨ 3 < n 4 1 ∨ (∃ j, j < n 4 1 ∧ n (8 + 16 * j) 8 % 8 ≠ 0) → s.launch p = .error 4) ∧
    (p.ty = 5 → (acq s p.bytes mask).addable asid (n 8 8) = false ∨ (n 0x18 2 ≠ 0xFFFF ∧ (if (s.queue p.queue).func = 0 then 2048 else 64) ≤ n 0x18 2) →
      s.launch p = .error 4)) ∧
  (∀ (s : State) (p : Packet) ns, (∀ x ∈ s.nodes, x.id < s.fresh) →
    let t := s.addNodes p ns
    t.fresh = s.fresh + ns.length ∧ t.nodes.take s.nodes.length = s.nodes ∧ t.nodes.length = s.nodes.length + ns.length ∧
    (∀ x ∈ t.packets, x.id = p.id → x.left = ns.length) ∧
    t = { s with nodes := t.nodes, fresh := t.fresh, packets := t.packets, poolSeq := t.poolSeq } ∧
    ∀ i r succ, ns[i]? = some (r, succ) → ∃ m, t.nodes[s.nodes.length + i]? = some m ∧ m.id = s.fresh + i ∧ m.pkt = p.id ∧
      m.n = i ∧ m.bytes = r ∧ m.succ = succ ∧ m.count = bnat r 4 4 ∧ m.fin = false ∧ m.err = false ∧
      (m.stat ≠ .waiting ↔ m.count = 0 ∧ t.gateOpen m = true)) ∧
  (∀ (s : State) k, (s.packets[k]? = none → exec (.barrierAndRecheck k) s = .next s) ∧
    ∀ p, s.packets[k]? = some p → p.ty = 4 → 0 < p.left →
      ((∀ w ∈ p.words, ∃ v, s.procWord (s.pkAsid p) w.1 = some v ∧ w.2 ≤ v) →
        exec (.barrierAndRecheck k) s = .next (s.modPacket p.id fun x => { x with left := 0 })) ∧
      ((∃ w ∈ p.words, ∀ v, s.procWord (s.pkAsid p) w.1 = some v → v < w.2) → exec (.barrierAndRecheck k) s = .next s)) ∧
  (∀ (s : State) k, (∀ p, s.packets[k]? = some p →
    0 < p.left ∨ s.releaseWaits (bnat p.bytes 0 4 / 64 % 4) (s.pkMask p) = true) → exec (.packetCompletion k) s = .next s) ∧
  (∀ (s : State) rel mask, s.releaseWaits rel mask = true ↔ 2 ≤ rel ∧ ∃ x ∈ s.outbox, (rel = 3 ∨ isPeer x.2.1 = true) ∧
    (x.1 = .nobody ∨ mask / 2 ^ partOfCore x.1.heldCore % 2 = 1)) ∧
  ∀ (s : State) k p, s.packets[k]? = some p → p.left = 0 → s.releaseWaits (bnat p.bytes 0 4 / 64 % 4) (s.pkMask p) = false →
    ∃ t, exec (.packetCompletion k) s = .next t ∧
    (let v := if p.ty = 1 ∧ p.det = true then s.mergeGates (s.unitOfPacket p.id) else s
     let u := v.releaseScope (bnat p.bytes 0 4 / 64 % 4) (s.pkMask p)
     t.packets = s.packets.filter (fun x => x.id != p.id) ∧
     t.nodes = v.nodes.filter (fun x => x.pkt != p.id) ∧ (∀ x ∈ t.grids, x.pkt ≠ p.id) ∧ (∀ d ∈ t.det, s.unitOfPacket p.id d = false) ∧ (∀ g ∈ s.grids, g.pkt ≠ p.id → g ∈ t.grids) ∧
     (p.sig = none → t.hbm = u.hbm ∧ t.llc = u.llc ∧ ∀ d, (t.die d).l2 = (u.die d).l2) ∧
     (∀ va v pa, p.sig = some va → u.procAt (s.pkAsid p) va .atomic = some (v, pa) →
       let w := v.homePut pa 8 (if p.err then (v.homeNat pa 8 + 1) % 2 ^ 64 ||| 2 ^ 63 else (v.homeNat pa 8 + 1) % 2 ^ 64)
       t.hbm = w.hbm ∧ t.llc = w.llc) ∧
     (let done := (s.queue p.queue).done ++ [p.idx]
      let old := (s.queue p.queue).rdidx
      done.length < 2 ^ 64 → (t.queue p.queue).rdidx.toNat ∉ done ∧
        ∀ i : Nat, i < ((t.queue p.queue).rdidx - old).toNat → (old + BitVec.ofNat 64 i).toNat ∈ done))

/-- Grids: the curve, the descriptor's refusals, the dealing of blocks, a team's state at its start, and its end (R63, R64,
R65, R80, R81, R172, R364, R365, R366, R368, R372). -/
def Obligations.TeamsOfGrids : Prop :=
  (∀ BX BY x y v w, 0 < BX → 0 < BY → BX ≤ 2 ^ 24 → BY ≤ 2 ^ 24 → x < BX → v < BX → y < BY → w < BY →
    curvePos BX BY x y < BX * BY ∧ (curvePos BX BY x y = curvePos BX BY v w → x = v ∧ y = w)) ∧
  (∀ (ps : List Nat) n k, ps ≠ [] → k < n → let span := (n + ps.length - 1) / ps.length
    (dealBlocks ps n)[k]? = some (ps.getD (k / span) 0, k) ∧ k / span < ps.length) ∧
  (∀ (s : State) pk nd d c, s.gridCode (s.pkAsid pk) d = c → c ≠ 0 → s.startGrid pk nd d = .error c) ∧
  (∀ (s : State) asid d, bnat d 6 1 / 32 ≠ 0 ∨ bnat d 0x28 8 ≠ 0 ∨ bnat d 0x30 8 ≠ 0 → s.gridCode asid d = 2) ∧
  (∀ (s : State) asid d, bnat d 6 1 / 32 = 0 → bnat d 0x28 8 = 0 → bnat d 0x30 8 = 0 →
    nfind s.images (65536 * asid + bnat d 4 2) = none → s.gridCode asid d = 3) ∧
  (∀ (s : State) pk nd d t, s.startGrid pk nd d = .ok t → ∃ g : Grid, t.grids = s.grids ++ [g] ∧
    g.pkt = pk.id ∧ g.node = nd ∧ g.asid = s.pkAsid pk ∧ g.desc = d ∧ g.running = 0 ∧ g.redo = [] ∧ g.det = pk.det ∧
    g.todo = dealBlocks (partsOf (s.pkMask pk)) (bnat d 8 4 * bnat d 12 4 / (bnat d 0x10 1 * bnat d 0x11 1))) ∧
  (∀ (s : State) (pk : Packet) nd d m u bs items, s.gridCode (s.pkAsid pk) d = 0 →
    nfind s.images (65536 * s.pkAsid pk + bnat d 4 2) = some m → partsOf (s.pkMask pk) ≠ [] →
    (∀ b ∈ dealBlocks (partsOf (s.pkMask pk)) (descBlocks d), s.blockFits b.1 m d = true) →
    s.procRead (s.pkAsid pk) (bnat d 0x20 8) (8 * bnat d 0x12 2) = some (u, bs) →
    groupItems (bnat d 8 4 * bnat d 12 4) bs = some items → ∃ t, s.startGrid pk nd d = .ok t) ∧
  (∀ (s : State) (g : Grid) p, (p ∈ g.grouped ∨ s.takesWork p g.asid = false → s.setGridGroups g [p] = (s, g)) ∧
    (p ∉ g.grouped → s.takesWork p g.asid = true →
      s.setGridGroups g [p] = (s.setGroups [p] g.id g.groups, { g with grouped := g.grouped ++ [p] }))) ∧
  (∀ (s : State) ps grid items p n e, let new := nget ((s.setGroups ps grid items).part p).groups n []
    (p ∈ ps → (∃ i ∈ items, i.1 = n) → (e ∈ new ↔ e.1 = grid ∧ ∃ i ∈ items, i.1 = n ∧ i.2.1 ≤ e.2 ∧ e.2 < i.2.1 + i.2.2)) ∧
    (p ∉ ps ∨ (∀ i ∈ items, i.1 ≠ n) → new = nget (s.part p).groups n [])) ∧
  (∀ (s : State) (g : Grid) m c ix t, s.startTeam g m c ix = some t → ∃ j a e,
    j < 8 ∧ (s.team (8 * c + j)).live = false ∧ a < 3 ∧ e < 3 ∧
    (let k := 8 * c + j
     let args := bnat g.desc 0x18 8
     let n := 64 * m.bands
     let tm := t.team k
     tm.live = true ∧ tm.grid = g.id ∧ tm.asid = g.asid ∧ tm.teamix = ix ∧ tm.bands = m.bands ∧ tm.allot = m.allot ∧
     tm.scrg = m.scratch ∧ tm.fstat = 0 ∧ tm.fctl = 0 ∧ tm.rngkey = BitVec.ofNat 32 (bnat g.desc 0x14 4) ∧
     tm.handles.length = bnat g.desc 6 1 % 16 ∧ tm.rslots.length = bnat g.desc 7 1 ∧ tm.scratch = [] ∧ tm.queues = [] ∧ tm.dq = [] ∧
     tm.pat = none ∧ tm.tokens = 0 ∧ tm.barDone = 0 ∧ tm.hemrec = 0 ∧ tm.det = g.det ∧
     tm.ctxs.map (fun x => (x.band, x.quads)) = (List.range m.bands).map (fun b => (b, List.range 16)) ∧
     (∀ i, i < n → let x := tm.thread i
       x.stat = .ready ∧ x.pc = BitVec.ofNat 17 (a * 32768 + m.entryPkt * 4) ∧ x.empty = [] ∧ x.preds = 0 ∧ x.sstk = [] ∧
       x.draws = 0 ∧ x.bset = 0 ∧ ∀ r, x.g r = if r = 0 then BitVec.ofNat 32 i else if r = 1 then BitVec.ofNat 32 ix
         else if r = 2 then BitVec.ofNat 32 args else if r = 3 then BitVec.ofNat 32 (args / 2 ^ 32) else 0) ∧
     (∀ i, n ≤ i → (tm.thread i).isLive = false) ∧ (∀ q, q ≠ k → t.team q = s.team q) ∧
     (∀ h ∈ tm.handles, ∀ i r, cellOf (t.bank (c / 4) h) i r = 0) ∧
     (m.hasShuttle = false → t.shuttle c = s.shuttle c) ∧
     (m.hasShuttle = true → (t.shuttle c).team = some k ∧ (t.shuttle c).active = true ∧ (t.shuttle c).hold = .none ∧
       (∀ r, nget (t.shuttle c).user r 0 = if r = 0 then BitVec.ofNat 64 args else if r = 1 then BitVec.ofNat 64 ix
         else if r = 2 then BitVec.ofNat 64 n else 0) ∧
       ((s.shuttle c).mode = false → (t.shuttle c).pc = BitVec.ofNat 17 (e * 32768 + m.shPkt * 4))))) ∧
  (∀ (s : State) k cl, s.grids[k]? = none → exec (.teamStart k cl) s = .next s) ∧
  (∀ (s : State) k cl (g : Grid) m, s.grids[k]? = some g → nfind s.images g.imageKey = some m →
    let p := cl / 8
    let u := (s.setGridGroups g [p]).1
    let h := (s.setGridGroups g [p]).2
    let put (t : State) (y : Grid) : State := { t with grids := t.grids.map fun x => if x.id = g.id then y else x }
    (s.outranked k g cl = true ∨ s.takesWork p g.asid = false → exec (.teamStart k cl) s = .next s) ∧
    (s.outranked k g cl = false → s.takesWork p g.asid = true →
      (g.redo.find? (fun b => b.1 == p) = none →
        (g.todo.find? (fun b => b.1 == p) = none → exec (.teamStart k cl) s = .next s) ∧
        ∀ b, g.todo.find? (fun b => b.1 == p) = some b →
          let ixs := (List.range g.block).map (· + b.2 * g.block)
          (u.startTeams h m cl ixs = none → exec (.teamStart k cl) s = .next s) ∧
          ∀ t, u.startTeams h m cl ixs = some t → exec (.teamStart k cl) s = .next (put t
            { h with todo := h.todo.erase b, running := h.running + g.block, started := h.started ++ ixs })) ∧
      ∀ b t, g.redo.find? (fun b => b.1 == p) = some b → u.startTeams h m cl [b.2] = some t →
        exec (.teamStart k cl) s = .next (put t
          { h with redo := h.redo.erase b, running := h.running + 1, started := h.started ++ [b.2] }))) ∧
  (∀ (s : State) k (g : Grid) cl, s.outranked k g cl = true ↔
    (∃ j h, s.grids[j]? = some h ∧ (s.prioOf g.pkt < s.prioOf h.pkt ∨ s.prioOf g.pkt = s.prioOf h.pkt ∧ j < k) ∧
      s.nextBlock h cl ≠ none) ∨
    ∃ n ∈ s.pool, n.kind = 1 ∧ s.prioOf g.pkt < s.prioOf n.pkt ∧ s.freeUnit n = some (cl / 8)) ∧
  (∀ (s : State) (g : Grid) m cl ix r, s.startTeams g m cl (ix :: r) = (match s.startTeam g m (4 * cl) ix with
    | some t => t.startTeams g m cl r
    | none => match s.startTeam g m (4 * cl + 1) ix with
      | some t => t.startTeams g m cl r
      | none => match s.startTeam g m (4 * cl + 2) ix with
        | some t => t.startTeams g m cl r
        | none => match s.startTeam g m (4 * cl + 3) ix with
          | some t => t.startTeams g m cl r
          | none => none)) ∧
  (∀ (s : State) k, (s.team k).live = false ∨ (s.team k).liveThreads ≠ [] ∨ s.teamWork k = true → exec (.teamEnd k) s = .next s) ∧
  ∀ (s : State) k, (s.team k).live = true → (s.team k).liveThreads = [] → s.teamWork k = false → ∃ t, exec (.teamEnd k) s = .next t ∧
    (let tm := s.team k
     let c := coreOfTeam k
     t.team k = .free ∧ (∀ j, j ≠ k → t.team j = s.team j) ∧ (∀ d, d ≠ c → t.core d = s.core d) ∧
     t = { s with teams := t.teams, cores := t.cores, grids := t.grids, draws := t.draws, packets := t.packets } ∧
     ((s.shuttle c).team = some k → t.shuttle c = { s.shuttle c with
       team := none, user := [], active := false, hold := .none, parked := false, batch := .none }) ∧
     ((s.shuttle c).team ≠ some k → t.shuttle c = s.shuttle c) ∧
     t.grids = s.grids.map (fun g => if g.id = tm.grid then
       { g with running := g.running - 1, ended := g.ended ++ [tm.teamix] } else g) ∧
     ∀ g, t.grids.find? (fun g => g.id == tm.grid) = some g →
       t.packets = if g.todo = [] ∧ g.redo = [] ∧ g.running = 0 ∧ g.node = none then
         s.packets.map (fun p => if p.id = g.pkt then { p with left := p.left - 1 } else p) else s.packets)

/-- Nodes: gates, dispatch to the first unit that fits in the pool's order, the start of each kind, and completion (R335,
R337, R369, R370, R371, R372, R373, R375, R227). -/
def Obligations.NodesOfGraphs : Prop :=
  (∀ (s : State) (n : Node), bnat n.bytes 0x18 8 = 0 → s.gateOpen n = true) ∧
  (∀ (s : State) (n : Node) v, bnat n.bytes 0x18 8 ≠ 0 → s.procWord (s.nodeAsid n) (bnat n.bytes 0x18 8) = some v →
    (s.gateOpen n = true ↔ bnat n.bytes 0xC 4 ≤ v)) ∧
  (∀ (s : State) (n : Node), s.nodes.find? (fun m => m.id == n.id) = some n →
    (n.count = 0 → n.stat = .waiting → s.gateOpen n = true → s.enterNode n.id = { s with
      nodes := s.nodes.map (fun m => if m.id = n.id then { m with stat := .pooled s.poolSeq } else m), poolSeq := s.poolSeq + 1 }) ∧
    (n.count ≠ 0 ∨ n.stat ≠ .waiting ∨ s.gateOpen n = false → s.enterNode n.id = s)) ∧
  (∀ (s : State) a b, s.pool[0]? = some a → b ∈ s.nodes → ∀ x y, a.stat = .pooled x → b.stat = .pooled y → x ≤ y) ∧
  (∀ (s : State) k u, (s.pool[k]? = none ∨ (∃ n, s.pool[k]? = some n ∧ (s.freeUnit n ≠ some u ∨ ∃ m ∈ s.pool, m.kind = n.kind ∧
      s.nodeBefore m n = true ∧ (s.freeUnit m).isSome = true))) → exec (.nodeDispatch k u) s = .next s) ∧
  (∀ (s : State) k u n pk, s.pool[k]? = some n → s.freeUnit n = some u → s.packet n.pkt = some pk →
    (∀ m ∈ s.pool, m.kind = n.kind → s.nodeBefore m n = true → s.freeUnit m = none) →
    let v := (s.modNodeStat n.id .running).acquire (s.pkMask pk)
    let asid := s.pkAsid pk
    let unit (w : State) (core : Nat) : State := if pk.det = true then w.startUnit (.node pk.id n.n) asid core 0 0 pk.id else w
    (n.kind = 1 → ∀ w d, v.procRead asid (bnat n.bytes 0x28 8) 0x38 = some (w, d) →
      (∀ t, w.startGrid pk (some n.id) d = .ok t → exec (.nodeDispatch k u) s = .next t) ∧
      (∀ c, w.startGrid pk (some n.id) d = .error c →
        exec (.nodeDispatch k u) s = .next (w.failNode n.id (if c = 5 ∨ c = 6 then c else 7)))) ∧
    (n.kind = 2 → bnat n.bytes 0x30 8 = 0 → let v := unit v (4 * u)
      let h := (v.freeHandles u true).headD 0
      let w := (v.modCluster u fun c => { (c.zeroHandle h) with nodeHandles := c.nodeHandles ++ [h] }).modNode n.id fun x =>
        { x with unitAt := u, handle := h, rslot := none }
      exec (.nodeDispatch k u) s = .next (w.issueNodeRec n.id)) ∧
    (n.kind = 3 → ∀ m w args, v.nodeImage pk = some m → v.procRead asid (bnat n.bytes 0x28 8) 64 = some (w, args) →
      let w := unit w (bnat n.bytes 0x38 2)
      ∃ t, exec (.nodeDispatch k u) s = .next t ∧ t = { w with bobbins := t.bobbins } ∧ (∀ c, c ≠ u → t.bobbin c = w.bobbin c) ∧
      (let e := t.bobbin u
       e.pc = 0 ∧ e.past = false ∧ e.stat = .ready ∧ e.node = .node n.id ∧ e.asid = asid ∧ e.wm = 0 ∧ e.v = [] ∧
       e.bkey = BitVec.ofNat 32 (bnat n.bytes 0x30 4) ∧ e.trapCore = bnat n.bytes 0x38 2 ∧
       e.store = m.bobbinProgs.getD (bnat n.bytes 0x34 2) [] ∧
       (∀ r, r < 32 → e.rx r = if 1 ≤ r ∧ r ≤ 8 then BitVec.ofNat 64 (bnat args (8 * (r - 1)) 8)
         else if r = 9 then BitVec.ofNat 64 u else 0) ∧
       e.loc = if (w.bobbin u).asid = asid then (w.bobbin u).loc else [])) ∧
    (n.kind = 4 →
      let v := unit v (4 * (u / 16))
      let dst := bnat n.bytes 0x28 8
      let src := bnat n.bytes 0x30 8
      let len := bnat n.bytes 0x38 4
      let good : Prop := dst % 4 = 0 ∧ src % 4 = 0 ∧ len % 4 = 0 ∧ dst < 2 ^ 55 ∧ src < 2 ^ 55 ∧
        v.destOverlap (u / 16) (u % 16) asid (.glob dst) ⟨dst, len, 1, len⟩ = false
      (¬ good → exec (.nodeDispatch k u) s = .next (v.failNode n.id 7)) ∧
      (good → ∃ t c, exec (.nodeDispatch k u) s = .next t ∧ t.copies = v.copies ++ [c] ∧ c.who = .node n.id ∧
        c.cluster = u / 16 ∧ c.ch = u % 16 ∧ c.dst = .glob dst ∧ c.src = .glob src ∧ c.width = len ∧ c.rows = 1 ∧ c.moved = 0 ∧
        c.start = ((v.cluster (u / 16)).channel (u % 16)).tail ∧
        ((t.cluster (u / 16)).channel (u % 16)).tail = ((v.cluster (u / 16)).channel (u % 16)).tail + len ∧
        ∀ h, h ≠ u % 16 → (t.cluster (u / 16)).channel h = (v.cluster (u / 16)).channel h))) ∧
  (∀ (s : State) id code, let t := s.failNode id code
    t.nodes = s.nodes.map (fun n => if n.id = id then { n with err := true, fin := true, nextRec := 256 } else n) ∧
    ∀ n p, s.nodes.find? (fun n => n.id == id) = some n → s.packets.find? (fun p => p.id == n.pkt) = some p → t.queues =
      (s.modQueue p.queue fun x => if x.errcode = 0 then { x with errcode := code, erridx := BitVec.ofNat 64 p.idx } else x).queues) ∧
  (∀ (s : State) k, (∀ n, s.running[k]? = some n → s.nodeDone n = false) → exec (.nodeCompletion k) s = .next s) ∧
  ∀ (s : State) k n pk, s.running[k]? = some n → s.packet n.pkt = some pk → s.nodeDone n = true →
    (s.nodes.map (·.id)).Nodup → n.succ.Nodup → n.n ∉ n.succ → ∃ t, exec (.nodeCompletion k) s = .next t ∧
    t.teams = s.teams ∧ t.records = s.records ∧ t.copies = s.copies ∧
    (pk.det = true → ∀ d ∈ t.det, s.unitOfNode n d = false) ∧
    t.grids = s.grids.filter (fun g => g.node != some n.id) ∧
    (∀ x ∈ t.packets, x.id = pk.id → ∃ y ∈ s.packets, y.id = pk.id ∧ x = { y with err := y.err || n.err, left := y.left - 1 }) ∧
    (n.kind = 2 → (t.cluster n.unitAt).nodeHandles = (s.cluster n.unitAt).nodeHandles.erase n.handle) ∧
    ∀ m ∈ (if pk.det = true then s.mergeGates (s.unitOfNode n) else s).nodes, ∃ x ∈ t.nodes, x.id = m.id ∧ x.n = m.n ∧ x.bytes = m.bytes ∧ x.succ = m.succ ∧
      (m.id = n.id → x.stat = .done ∧ x.count = m.count) ∧
      (m.id ≠ n.id → m.pkt = n.pkt → m.n ∈ n.succ → (∀ y ∈ s.nodes, y.pkt = m.pkt → y.n = m.n → y = m) → x.count = m.count - 1 ∧
        (m.stat = .waiting → (x.stat ≠ .waiting ↔ x.count = 0 ∧ t.gateOpen x = true))) ∧
      (m.id ≠ n.id → ¬ (m.pkt = n.pkt ∧ m.n ∈ n.succ) → x = m)

/-- What a lane does at an instruction: guard, empty registers, missing queue entries, and the decode faults of the issue
(R42, R45, R46, R47, R48, R49, R50, R51, R52, R383). -/
def Obligations.GateOutcomes : Prop :=
  (∀ (s : State) k b ls i (sh : Shape) l, s.iss.who = .gang k b ls →
    let x := (s.viewTeam k).thread (64 * b + l)
    let own : Prop := ∀ g, sh.own = some g → x.p g.1 ≠ g.2
    let guard : Prop := own ∧ ∀ p, s.iss.pfx = some p → x.p p.maskp.toNat ≠ p.maskn
    let hollow (e : Bool) : Prop := ∃ c ∈ sh.srcs, c.e = e ∧ c.f < 112 ∧ ∃ j, j < c.n ∧ x.full (c.f + j) = false
    let hole : Prop := ∃ c ∈ sh.dsts, ∃ j, j < c.n ∧ x.full (c.f + j) = false
    let gone : Prop := ∃ p ∈ popsOf x sh.srcs, ((s.viewTeam k).queue p.1).at_ p.2 l = none
    (guard → hollow true → s.laneDo k b i sh l = .out (.flt (flt .emptyReg))) ∧
    (guard → ¬ hollow true → hollow false ∨ hole → ∃ es, es ≠ [] ∧ (∀ n ∈ es, x.full n = false) ∧
      s.laneDo k b i sh l = .out (.held es [])) ∧
    (guard → ¬ hollow true → ¬ hollow false → ¬ hole → gone →
      (sh.pure = true → s.laneDo k b i sh l = .late) ∧
      (sh.pure = false → ∃ ps, ps ≠ [] ∧ s.laneDo k b i sh l = .out (.held [] ps))) ∧
    (guard → ¬ hollow true → ¬ hollow false → ¬ hole → ¬ gone → s.laneDo k b i sh l = .run) ∧
    (¬ own → s.laneDo k b i sh l = .run) ∧
    (own → ¬ guard → (∀ p, s.iss.pfx = some p → p.policy ≠ 2 ∨ ¬ hole) → s.laneDo k b i sh l = .off) ∧
    (own → ¬ guard → ∀ p, s.iss.pfx = some p → p.policy = 2 → hole → ∃ es, es ≠ [] ∧ (∀ n ∈ es, x.full n = false) ∧
      s.laneDo k b i sh l = .out (if x.popped then .held es [] else .zeros es (popsOf x sh.srcs) (popsDq i)))) ∧
  (∀ (s : State) k b ls (r : R3), s.iss.who = .gang k b ls → ls.Pairwise (· < ·) → s.iss.outs = [] → s.iss.xfer = [] →
    s.decodeFault (.add r) = none → (∀ l ∈ ls, s.boundSet l = 0) →
    let todo (l : Nat) : LaneDo := s.laneDo k b (.add r) (shapeOf (.add r) s.iss.pfx) l
    (∀ l ∈ ls, ∀ f, todo l = .out f → (∃ es ps, f = .held es ps) ∨ ∃ es ps, f = .zeros es ps false) →
    ∃ t, exec (.add r) s = .next t ∧
      t = { s with teams := t.teams, fills := t.fills, fresh := t.fresh, iss := t.iss } ∧ (∀ j, j ≠ k → t.team j = s.team j) ∧
      t.team k = { s.team k with threads := (t.team k).threads, queues := (t.team k).queues, dq := (t.team k).dq
                                 dqFirst := (t.team k).dqFirst } ∧
      (∃ fs, t.fills = s.fills ++ fs) ∧ (∀ i, (∀ l ∈ ls, i ≠ 64 * b + l) → t.thread k i = s.thread k i) ∧
      ∀ l ∈ ls, let x := s.thread k (64 * b + l)
        let y := t.thread k (64 * b + l)
        let d := r.d.toNat
        let pops := popsOf x (shapeOf (.add r) s.iss.pfx).srcs
        let passed := if x.popped then x.qpos else (x.pop pops).qpos
        let only (v : Word) : Prop := y.full d = true ∧ (∀ n, y.g n = if n = d then v else x.g n) ∧ ∀ n, n ≠ d → y.full n = x.full n
        (todo l = .run → y = { x with regs := y.regs, empty := y.empty, qpos := (x.pop pops).qpos } ∧ only (s.rd l r.a [] + s.rd l r.b [r.a])) ∧
        (todo l = .off → ∀ p, s.iss.pfx = some p →
          (p.policy = 0 → y = x) ∧ (p.policy = 1 → y = { x with qpos := passed, popped := false }) ∧
          (p.policy = 2 → y = { x with regs := y.regs, empty := y.empty, qpos := passed, popped := false } ∧ only 0)) ∧
        (todo l = .late → y = { x with empty := y.empty, qpos := (x.pop pops).qpos } ∧ y.full d = false ∧
          (∀ n, n ≠ d → y.full n = x.full n) ∧ ∃ f ∈ t.fills, f.team = k ∧ f.t = 64 * b + l ∧ f.regs = [d]) ∧
        (∀ es ps, todo l = .out (.held es ps) → y = if s.iss.multi then x else { x with stat := .held es ps }) ∧
        (∀ es ps, todo l = .out (.zeros es ps false) → ps = pops ∧
          y = if s.iss.multi then x else { x with qpos := (x.pop pops).qpos, popped := true, stat := .held es [] })) ∧
  (∀ i w n x, decodeCore w n = .ok i x →
    (∀ (s : State) k b ls c, s.iss.who = .gang k b ls → s.decodeFault i = some c → ∃ t, exec i s = .next t ∧
      t = { (if s.iss.multi then s else (s.countFaults (coreOfTeam k) s.issAsid (ls.map fun _ => flt c)).faultLanes k b
          s.iss.gpc s.iss.npc (ls.map fun l => (l, s.iss.pc, flt c))) with iss := t.iss } ∧
      t.iss.outs = s.iss.outs ++ ls.map fun l => (l, s.iss.pc, .flt (flt c))) ∧
    (∀ (s : State) c f, s.iss.who = .shuttle c → s.iss.outs = [] → s.decodeFault i = some f → ShutFaults i s c (flt f))) ∧
  (∀ (s : State) k b ls (r : R3), s.iss.who = .gang k b ls → s.iss.pfx = none →
    let al := (s.team k).allotment
    let ok (f : BitVec 7) : Prop := f.toNat < al ∨ 112 ≤ f.toNat
    (r.d.toNat < al ∧ ok r.a ∧ ok r.b → s.decodeFault (.add r) = none) ∧
    (¬ (r.d.toNat < al ∧ ok r.a ∧ ok r.b) → s.decodeFault (.add r) = some .illInst) ∧
    s.decodeFault .eret = some .priv ∧ ∀ q : S3, s.decodeFault (.sadd q) = some .illInst) ∧
  (∀ (s : State) c (r : R3), s.iss.who = .shuttle c →
    s.decodeFault .eret = (if (s.shuttle c).mode then none else some .priv) ∧ s.decodeFault (.add r) = some .illInst)

/-- The report numbers 9000000 + 256 p + width (0 for DOWN, 100 for frozen) and 10000000 + f are the model's choice (log 56). -/
def Obligations.PortsAndFunctions : Prop :=
  (∀ (s : State) p seq ok, let x := s.port p
    let put (f : Port → Port) : Out1 := .next (s.modPort p f)
    let e : Instr := .flitReceive p seq ok
    let joins (good : Bool) (h : List (Nat × Bool)) : Prop := ∀ n b, (n, b) ∈ h ↔ (n ≠ seq ∧ (n, b) ∈ x.held) ∨
      (n = seq ∧ b = (good || decide ((seq, true) ∈ x.held)))
    (18 ≤ p ∨ seq < x.expect → exec e s = .next s) ∧
    (p < 18 → x.expect ≤ seq →
      (x.st ≠ .active → ∃ h, exec e s = put (fun x => { x with held := h }) ∧ joins false h) ∧
      (x.st = .active → ok = true → seq ≠ x.expect → ∃ h, exec e s = put (fun x => { x with held := h }) ∧ joins true h) ∧
      (x.st = .active → ok = false →
        (seq ≠ x.expect → exec e s = .next (s.modPort p id)) ∧
        (seq = x.expect → x.retries + 1 ≠ 8 → exec e s = put fun x => { x with retries := x.retries + 1 }) ∧
        (seq = x.expect → x.retries + 1 = 8 → ∃ h, exec e s =
            put (fun x => { x with st := .equalise, retries := 0, held := h }) ∧ joins false h)) ∧
      (x.st = .active → ok = true → seq = x.expect → x.held.Pairwise (fun a b => a.1 < b.1) → ∃ n h,
        exec e s = put (fun x => { x with expect := n, held := h, retries := 0 }) ∧ seq < n ∧ (n, true) ∉ x.held ∧
          (∀ m, seq < m → m < n → (m, true) ∈ x.held) ∧ ∀ m b, (m, b) ∈ h ↔ (m, b) ∈ x.held ∧ n ≤ m))) ∧
  (∀ (s : State) p good (auth : PeerAuth), let x := s.port p
    let e : Instr := .portRetrain p good auth
    let w := if 8 ≤ good then 8 else if 4 ≤ good then 4 else 2
    let digest := Config.shake256 (Config.freeNonce s.fresh ++ auth.nonce ++ Config.ownChain ++ auth.chain)
    let own := [Config.ownChain, Config.freeNonce s.fresh, Config.sign digest]
    let pass : Prop := auth.nonce.length = 32 ∧ Config.validChain auth.chain = true ∧ Config.identity auth.chain ∈ s.domain ∧
      Config.validSig auth.chain digest auth.sig = true ∧ Config.validChain Config.ownChain = true ∧
      Config.validSig Config.ownChain digest (Config.sign digest) = true ∧ auth.passed = true
    let now := if w = x.lanes then s.reports else s.reports ++ [9000000 + 256 * p + w]
    (18 ≤ p ∨ s.boot ≠ .running → exec e s = .next s) ∧
    (p < 18 → s.boot = .running →
      (good < 2 → exec e s = .next { s.modPort p (fun x => { x with st := .down, bad := 9 - good, spare := false }) with
        reports := s.reports ++ [9000000 + 256 * p] }) ∧
      (2 ≤ good → ¬ pass → exec e s = .next { s.modPort p (fun x =>
          { x with st := .down, lanes := w, bad := 9 - good, spare := decide (9 ≤ good), sent := own }) with
        reports := now ++ [9000000 + 256 * p] }) ∧
      (2 ≤ good → pass → ∃ n h, exec e s = .next { s.modPort p (fun x => { x with
            st := .active, lanes := w, bad := 9 - good, spare := decide (9 ≤ good), retries := 0, frozen := false
            expect := n, held := h, sent := own }) with
          reports := now, fresh := s.fresh + 1 } ∧ x.expect ≤ n ∧
        (x.held.Pairwise (fun a b => a.1 < b.1) → (∀ q ∈ x.held, x.expect ≤ q.1) →
          let good_ (m : Nat) : Prop := ∃ i b, x.held[i]? = some (m, b) ∧ (b || auth.crcs.getD i true) = true
          ¬ good_ n ∧ (∀ m, x.expect ≤ m → m < n → good_ m) ∧
          ∀ m, (∃ b, (m, b) ∈ h) ↔ n ≤ m ∧ ∃ b, (m, b) ∈ x.held)))) ∧
  (∀ (s : State) p off size (o : PeerOp), let x := s.port p
    let e : Instr := .fabricAccess p off size o
    let pa := s.exBase + off
    let fits : Prop := match o with
      | .read => 0 < size
      | .write d => 0 < size ∧ d.length = size
      | .atomic op ty v cmp => op < 8 ∧ ty < 5 ∧ size = (if ty = 2 then 8 else 4) ∧ off % size = 0 ∧ v < 2 ^ (8 * size) ∧
          cmp < 2 ^ (8 * size)
    let answer (d : List Byte) (t : State) : State := t.modPort p fun x => { x with answers := x.answers ++ [d] }
    (18 ≤ p ∨ x.frozen = true ∨ ¬ fits → exec e s = .next s) ∧
    (p < 18 → x.frozen = false → fits → s.exSize < off + size ∨ x.st ≠ .active →
      exec e s = .next ((s.modPort p fun x => { x with frozen := true }).report (9000000 + 256 * p + 100))) ∧
    (p < 18 → x.frozen = false → fits → off + size ≤ s.exSize → x.st = .active →
      (o = .read → exec e s = .next (answer (s.fabricRead pa size) s)) ∧
      (∀ d, o = .write d → exec e s = .next (s.homeWriteHbm pa d)) ∧
      ∀ op ty v cmp, o = .atomic op ty v cmp → exec e s = .next (answer (leBytes size (s.homeNat pa size))
        (s.homeWriteHbm pa (leBytes size (peerAtomic op ty v cmp (s.homeNat pa size))))))) ∧
  (∀ ty v cmp old : Nat, [0, 1, 2, 3, 4, 5, 6, 7].map (fun op => peerAtomic op ty v cmp old) = [atomAdd ty old v,
    atomMinMax false ty old v, atomMinMax true ty old v, old &&& v, old ||| v, old ^^^ v, v, if old = cmp then v else old]) ∧
  (∀ (s : State) f str off size d, let x := s.func f
    let e (w : Bool) : Instr := .apertureRequest ⟨f, str⟩ off size (if w then some d else none)
    let pa := x.bar2Base + off
    let may : Prop := targetOf pa = .hbm ∧ ∃ a ∈ s.funcSpaces f, ∀ q ∈ pagesOf pa size, s.permitted a q = true
    (∀ w, s.answers f = false ∨ x.bar2 < off + size ∨ size = 0 ∨ (w = true ∧ d.length ≠ size) → exec (e w) s = .next s) ∧
    (∀ w, s.answers f = true → off + size ≤ x.bar2 → 0 < size → (w = true → d.length = size) →
      (s.accepts f str = false → exec (e w) s = .next (s.modFunc f fun x => { x with answers := x.answers ++ [none] })) ∧
      (s.accepts f str = true → ¬ may →
        exec (e w) s = .next ((s.modFunc f fun x => { x with frozen := true }).report (10000000 + f))) ∧
      (s.accepts f str = true → may → exec (e w) s = .next (if w then s.homeWriteHbm pa d else
        s.modFunc f fun x => { x with answers := x.answers ++ [some (s.homeRead pa size)] })))) ∧
  (∀ (s : State) f str, s.accepts f str = true ↔ s.idePolicy = false ∨ ((s.func f).ide = true ∧ str = some f)) ∧
  (∀ (s : State) f, s.answers f = true ↔ s.boot = .running ∧ f < 32 ∧ (s.func f).frozen = false) ∧
  (∀ (s : State) f a, a ∈ s.funcSpaces f ↔ ∃ q ∈ s.queues, q.2.en = true ∧ q.2.func = f ∧
    ∃ p, p < 8 ∧ q.2.pmask.getLsbD p = true ∧ (s.part p).asid = a) ∧
  (∀ (s : State) f, (s.boot = .running → f < 32 → exec (.ideKm f) s = .next (s.modFunc f fun x => { x with ide := true })) ∧
    (s.boot = .running → exec (.ideKm 32) s = .next { s with linkIde := true }) ∧
    (s.boot ≠ .running ∨ 32 < f → exec (.ideKm f) s = .next s)) ∧
  (∀ (s : State) f, (f ≠ 32 → (s.func f).ide = true →
      exec (.ideIntegrityFailure f) s = .next (s.modFunc f fun x => { x with ide := false })) ∧
    (f ≠ 32 → (s.func f).ide = false → exec (.ideIntegrityFailure f) s = .next s) ∧
    exec (.ideIntegrityFailure 32) s = .next { s with linkIde := false }) ∧
  (∀ (s : State) f v, let may : Prop := f < 32 ∧ v ≠ 0xFFFF ∧ v < if f = 0 then 2048 else 64
    (may → s.table (.raiseVector f v) = s.modFunc f fun x => { x with vectors := x.vectors ++ [v] }) ∧
    (¬ may → s.table (.raiseVector f v) = s)) ∧
  (∀ (s : State) f, (f < 32 →
      exec (.flr f) s = .next (s.modFunc f fun x => { x with frozen := false, vectors := [], answers := [] })) ∧
    (32 ≤ f → exec (.flr f) s = .next s))

/-- The report numbers 3000000 + i and 9000000 + 256 p + 100 are the model's choice (log 56). -/
def Obligations.WindowsAndClones : Prop :=
  (∀ (s : State) (b : List Byte), let at_ (o n : Nat) : Nat := bnat b o n
    let n := at_ 0x12 2
    let w : WindowDesc := { wbase := at_ 0 8, wlen := at_ 8 8, fmt := at_ 0x10 1, nrank := n, myrank := at_ 0x14 2
                            dest := at_ 0x18 8, done := at_ 0x20 8
                            members := (List.range n).map fun i => s.homeNat (at_ 0x28 8 + 2 * i) 2 }
    let ok : Prop := b.length = 48 ∧ at_ 0x11 1 = 0 ∧ at_ 0x16 2 = 0 ∧ w.wbase % 65536 = 0 ∧ w.wlen % 65536 = 0 ∧ 0 < w.wlen ∧ w.fmt ≤ 1 ∧ 1 ≤ w.nrank ∧ w.nrank ≤ 256 ∧
      w.myrank < w.nrank ∧ w.dest % 4 = 0 ∧ w.done % 8 = 0 ∧ targetOf w.dest = .hbm ∧
      s.exists_ w.dest = true ∧ s.exists_ (w.dest + w.wlen - 1) = true ∧ targetOf w.done = .hbm ∧ s.exists_ w.done = true ∧
      ∀ x ∈ s.windows, x.desc.wbase + x.desc.wlen ≤ w.wbase ∨ w.wbase + w.wlen ≤ x.desc.wbase
    (ok → exec (.windowCreate b) s = .next { s with windows := s.windows ++ [⟨w, [], [], 0⟩] }) ∧
    (¬ ok → exec (.windowCreate b) s = .next s)) ∧
  (∀ (s : State) p i rank off v, let e : Instr := .windowContribution i ⟨p, rank⟩ off v
    (18 ≤ p ∨ (s.port p).frozen = true → exec e s = .next s) ∧
    (p < 18 → (s.port p).frozen = false → (s.port p).st ≠ .active →
      exec e s = .next ((s.modPort p fun x => { x with frozen := true }).report (9000000 + 256 * p + 100))) ∧
    (p < 18 → (s.port p).frozen = false → (s.port p).st = .active → (s.windows[i]? = none → exec e s = .next s) ∧
    ∀ w, s.windows[i]? = some w →
      let held (r : Nat) (x : Word) : Prop := (w.round.find? fun c => c.1 == off && c.2.1 == r) = some (off, r, x)
      (off % 4 ≠ 0 ∨ w.covers off = false ∨ w.desc.nrank ≤ rank → exec e s = .next s) ∧
      (off % 4 = 0 → w.covers off = true → rank < w.desc.nrank →
        (∀ x, held rank x → exec e s = .next ((s.modWindow i fun w => { w with extra := w.extra + 1 }).report (3000000 + i))) ∧
        ((∀ x, ¬ held rank x) →
          ((∃ r, r < w.desc.nrank ∧ r ≠ rank ∧ ∀ x, ¬ held r x) →
            exec e s = .next (s.modWindow i fun w => { w with round := w.round ++ [(off, rank, v)] })) ∧
          ∀ c : Nat → Word, c rank = v → (∀ r, r < w.desc.nrank → r ≠ rank → held r (c r)) →
            let d := off - w.desc.wbase
            let rest := (List.range (w.desc.nrank - 1)).map fun r => c (r + 1)
            let half (h : Nat) : Nat :=
              let up (x : Word) : Nat := (F32.deliver 0 (BF16.operand (x.toNat / 2 ^ (16 * h) % 65536), 0)).1
              (BF16.deliver 0 (F32.decode (rest.foldl (fun a x => addF32 a (up x)) (up (c 0))), 0)).1
            let sum := rest.foldl (fun a x => addF32 a x.toNat) (c 0).toNat
            let total := if w.desc.fmt = 0 then (if (F32.decode sum).isNan then F32.nan else sum) else half 0 + 65536 * half 1
            let sums := w.sums ++ [d]
            let sector := (List.range 8).map fun j => d / 32 * 32 + 4 * j
            let whole := sector.all sums.contains
            let u := (s.homePut (w.desc.dest + d) 4 total).modWindow i fun w => { w with
              round := (w.round ++ [(off, rank, v)]).filter fun c => c.1 != off
              sums := if whole then sector.foldl List.erase sums else sums }
            exec e s = .next (if whole then u.homePut w.desc.done 8 ((u.homeNat w.desc.done 8 + 1) % 2 ^ 64) else u))))) ∧
  (∀ (s : State) n, let t := s.takeNode n
    t = { s with nodeNum := n, windows := t.windows } ∧ t.windows.length = s.windows.length ∧
    ∀ (i : Nat) w, s.windows[i]? = some w → t.windows[i]? = some
      (if n ∈ w.desc.members then { w with desc := { w.desc with myrank := w.desc.members.idxOf n } } else w)) ∧
  (∀ (s : State) take node src dst len clone,
    let ok : Prop := s.boot = .running ∧
      (∃ p, nfind s.routes node = some p ∧ (s.port p).st = .active ∧ (s.port p).frozen = false) ∧ src % 32 = 0 ∧ dst % 32 = 0 ∧ len % 32 = 0 ∧ src + len ≤ 2 ^ 43 ∧ node < 256 ∧
      targetOf dst = .hbm ∧ (len = 0 ∨ (s.exists_ dst = true ∧ s.exists_ (dst + len - 1) = true))
    (¬ ok → exec (.stateClone take node src dst len clone) s = .next s) ∧
    (ok → ∀ f : Nat → State, f 0 = (match take with | some n => s.takeNode (n % 256) | none => s) →
      (∀ i, i < len / 32 → f (i + 1) =
        (f i).homeWriteHbm (dst + 32 * i) ((f i).homeRead (2 ^ 51 + node * 2 ^ 43 + (src + 32 * i) % 2 ^ 43) 32)) →
      exec (.stateClone take node src dst len clone) s = .next (match clone with
        | some o => (f (len / 32)).homePut (fabricPa node o) 8 (((f (len / 32)).homeNat (fabricPa node o) 8 + 1) % 2 ^ 64)
        | none => f (len / 32))))

/-- The report numbers 4000000 + c, 8000000 + stack, 11000000 + k, 12000000 and 13000000 are the model's choice (log 56), as
are the bring-up event's arguments (log 51) and the report's layout (log 53). -/
def Obligations.MonitorActs : Prop :=
  (∀ (s : State) k split ports, let e : Instr := .powerOn k split ports
    let verified : Prop := Config.validSig Config.fusedHash (Config.shake256 s.monitorImg) s.monitorSig = true
    (s.boot = .running → exec e s = .next s) ∧
    (s.boot ≠ .running → ∃ t, exec e s = .next t ∧ t.power = true ∧ t.hbm = [] ∧ t.llc = [] ∧ t.hotHalt = false ∧ t.iss = .none ∧
      t.teams = [] ∧ t.packets = [] ∧ t.nodes = [] ∧ t.tlb = [] ∧ t.hostMem = s.hostMem ∧ t.monitorImg = s.monitorImg ∧
      t.monitorSig = s.monitorSig ∧ t.plan = s.plan ∧ t.supOvl = s.supOvl ∧ t.sparesUsed = s.sparesUsed ∧
      (∀ c, (t.core c).l1 = [] ∧ (t.core c).trapCount = 0) ∧
      (∀ d, (t.die d).l2 = [] ∧ (t.die d).chip = [] ∧ (t.die d).pattern = [] ∧ (t.die d).pins = []) ∧
      (verified → k = 0 ∨ 6 < k → split ≤ 48 → t.boot = .running ∧ t.interleaved = split ∧
        t.idePolicy = s.plan.ide ∧ t.exBase = s.plan.exBase ∧ t.exSize = s.plan.exSize ∧ t.nodeNum = s.plan.node ∧
        t.routes = s.plan.routes ∧ t.domain = s.plan.domain ∧
        (∀ p, p < 18 → (t.port p).st = .active → ∃ x, ports[p]? = some x ∧ 2 ≤ x.1) ∧
        (∀ p, p < 8 → (t.part p).opened = true ∧ (t.part p).halted = false) ∧
        ∀ c, c < 256 → (t.core c).enabled = ((s.core c).enabled || (s.core c).spareNext)) ∧
      ((¬ verified ∨ k = 1) → t.boot = .recovery ∧ 11000001 ∈ t.reports) ∧
      (verified → 2 ≤ k → k ≤ 6 → split ≤ 48 ∨ k ≤ 2 → t.boot = .failed k ∧ (11000000 + k) ∈ t.reports) ∧
      (verified → 48 < split → k = 0 ∨ 2 < k → t.boot = .failed 2 ∧ 11000002 ∈ t.reports) ∧
      (t.boot ≠ .running → (∀ p, (t.part p).opened = false) ∧ ∀ c, (t.core c).enabled = (s.core c).enabled))) ∧
  (∀ (s : State) i n, (i, n) ∈ [((.dieHot : Instr), 12000000), (.supplyFault, 13000000)] → ∃ t, exec i s = .next t ∧
    t.hotHalt = true ∧ t.reports.getLast? = some n ∧ t.queues = s.queues ∧
    ∀ p, p < 8 → (t.part p).opened = (s.part p).opened ∧ ((s.part p).opened = true → (t.part p).halted = true ∧
      (t.part p).runner = none) ∧ ((s.part p).opened = false → t.part p = s.part p)) ∧
  (∀ s : State, exec .overheat s = .next { s with power := false, boot := .off }) ∧
  (∀ (s : State) p,
    ((s.part p).opened = false ∨ (s.part p).halted = false ∨ (s.part p).runner ≠ none → exec (.partitionRestart p) s = .next s) ∧
    ((s.part p).opened = true → (s.part p).halted = true → (s.part p).runner = none → ∃ t, exec (.partitionRestart p) s = .next t ∧
      (t.part p).halted = false ∧ (t.part p).opened = true ∧ (∀ q, q ≠ p → t.part q = s.part q) ∧
      (t.hotHalt = true ↔ s.hotHalt = true ∧ ∃ q, q < 8 ∧ q ≠ p ∧ (s.part q).halted = true))) ∧
  (∀ (s : State) nonce, ∃ imgs : List (List Byte), imgs.Nodup ∧
    (∀ b, b ∈ imgs ↔ ∃ e ∈ s.cores, ∃ r, nfind e.2.slots 3 = some r ∧ (s.part (partOfCore e.1)).opened = true ∧
      b = mread e.2.imem 196608 r.len) ∧
    let body := Config.shake256 s.monitorImg ++ imgs.flatMap Config.shake256 ++
      Config.fusedHash ++ [if s.idePolicy then 1 else 0] ++ leBytes 8 s.exSize ++
      [BitVec.ofNat 8 (((List.range 8).map fun p => if (s.part p).opened then 2 ^ p else 0).sum)] ++ nonce
    (s.boot = .running → nonce.length = 32 →
      exec (.attestationRequest nonce) s = .next { s with doeOut := body ++ Config.sign body }) ∧
    (s.boot = .recovery → ∃ d, exec (.attestationRequest nonce) s = .next { s with doeOut := d, fresh := s.fresh + 1 }) ∧
    (s.boot ≠ .recovery → s.boot ≠ .running ∨ nonce.length ≠ 32 → exec (.attestationRequest nonce) s = .next s)) ∧
  (∀ (s : State) c, (256 ≤ c ∨ (s.core c).enabled = false → exec (.coreRetirement c) s = .next s ∧
      exec (.uncorrectableError (.retire c)) s = .next s) ∧
    (c < 256 → (s.core c).enabled = true → ∃ t, exec (.coreRetirement c) s = .next t ∧
      exec (.uncorrectableError (.retire c)) s = .next t ∧ t.reports.getLast? = some (4000000 + c) ∧
      (let free := decide (c % 64 / 16 ∉ (s.die (dieOfCore c)).spares)
       t.core c = { Core.fresh with enabled := false, spareNext := free, cycles := (s.core c).cycles } ∧
       (c % 64 / 16) ∈ (t.die (dieOfCore c)).spares ∧ ∀ d, d ≠ dieOfCore c → (t.die d).spares = (s.die d).spares) ∧
      ∀ j, j < 8 → (t.team (8 * c + j)).live = false)) ∧
  (∀ (s : State), exec (.uncorrectableError .reRead) s = .next s) ∧
  (∀ (s : State) id, let e : Instr := .uncorrectableError (.reRun id)
    (s.nodes.find? (fun n => n.id == id) = none → exec e s = .next s) ∧
    ∀ n, s.nodes.find? (fun n => n.id == id) = some n →
      let may : Prop := n.stat = .running ∧ n.fin = false ∧
        (bits (bnat n.bytes 1 1) 0 1 = 1 ∨ ∃ p, s.packet n.pkt = some p ∧ p.det = true)
      (¬ may → exec e s = .next s) ∧
      (may → ∃ t, exec e s = .next t ∧
        (n.kind ≠ 1 → ∀ m ∈ t.nodes, m.id = id → m.stat = .pooled s.poolSeq) ∧
        (n.kind = 1 → t.nodes = s.nodes ∧ ∀ g ∈ t.grids, g.node = some id → g.started = [] ∧ g.ended = [] ∧ g.running = 0 ∧
          g.todo = dealBlocks (partsOf g.pmask.toNat) (descBlocks g.desc)))) ∧
  (∀ (s : State) k, let e : Instr := .uncorrectableError (.reRunTeam k)
    ((s.team k).live = false ∨ (s.team k).det = false → exec e s = .next s) ∧
    ((s.team k).live = true → (s.team k).det = true → ∃ t, exec e s = .next t ∧ (t.team k).live = false ∧
      ∀ g ∈ t.grids, g.id = (s.team k).grid → (partOfCore (coreOfTeam k), (s.team k).teamix) ∈ g.redo)) ∧
  (∀ (s : State) stack part,
    (stack < 12 → (stack, part) ∉ s.sparesUsed → exec (.hbmRowFailure stack part) s =
      .next ({ s with sparesUsed := s.sparesUsed ++ [(stack, part)] }.report (8000000 + stack))) ∧
    (12 ≤ stack ∨ (stack, part) ∈ s.sparesUsed → exec (.hbmRowFailure stack part) s = .next s)) ∧
  (∀ (s : State) k b, (b ∉ (s.team k).frozen → exec (.monitorRelease (.band k b)) s = .next s) ∧
    (b ∈ (s.team k).frozen → ∃ t, exec (.monitorRelease (.band k b)) s = .next t ∧
      (t.team k).frozen = (s.team k).frozen.erase b ∧ (∀ j, j ≠ k → t.team j = s.team j) ∧
      ∀ i, i / 64 = b → (t.thread k i).isLive = false)) ∧
  (∀ (s : State) c, ((s.shuttle c).frozen = false → exec (.monitorRelease (.shuttle c)) s = .next s) ∧
    ((s.shuttle c).frozen = true → ∃ t, exec (.monitorRelease (.shuttle c)) s = .next t ∧
      (t.part (partOfCore c)).opened = true ∧
      (t.part (partOfCore c)).halted = (s.hotHalt && (s.part (partOfCore c)).halted) ∧
      ∀ k, (t.team k).live = true → partOfCore (coreOfTeam k) ≠ partOfCore c)) ∧
  (∀ (s : State) cl e, (((s.cluster cl).engine e).frozen = false → exec (.monitorRelease (.engine cl e)) s = .next s) ∧
    (((s.cluster cl).engine e).frozen = true → let u := s.modCluster cl fun x => x.modEngine e fun y => { y with frozen := false }
      exec (.monitorRelease (.engine cl e)) s = .next (match s.records.find? fun r => r.frozen && r.cluster == cl && r.ah / 2 == e with
        | some r => u.terminateRec r none
        | none => u))) ∧
  (∀ (s : State) cl ch,
    ((s.channelCopies cl ch).find? (·.frozen) = none → exec (.monitorRelease (.channel cl ch)) s = .next s) ∧
    ∀ c, (s.channelCopies cl ch).find? (·.frozen) = some c →
      exec (.monitorRelease (.channel cl ch)) s = .next (s.terminateCopy c none)) ∧
  (∀ (s : State) k q, (((s.team k).queue q).stream.frozen = false → exec (.monitorRelease (.stream k q)) s = .next s) ∧
    (((s.team k).queue q).stream.frozen = true → exec (.monitorRelease (.stream k q)) s = .next (s.terminateStream k q))) ∧
  (∀ (s : State) b, ((s.bobbin b).frozen = false → exec (.monitorRelease (.bobbin b)) s = .next s) ∧
    ((s.bobbin b).frozen = true → exec (.monitorRelease (.bobbin b)) s = .next (s.terminateBobbin b))) ∧
  (∀ (s : State) f, exec (.monitorRelease (.function f)) s = .next s ∧
    (f < 32 → ∃ t, exec (.flr f) s = .next t ∧ (t.func f).frozen = false)) ∧
  (∀ (s : State) p, exec (.monitorRelease (.port p)) s = .next s ∧
    ∀ good auth t, p < 18 → s.boot = .running → exec (.portRetrain p good auth) s = .next t → (t.port p).st = .active →
      (t.port p).frozen = false)

/-- The machine right after reset: power on, nothing verified, open, placed or running, canonical memory (R386, R429, R430). -/
def Obligations.ResetState : Prop :=
  let s := State.reset
  s.power = true ∧ s.boot = .rom ∧ s.memOk = true ∧ s.iss = .none ∧ s.sched = [] ∧
  (∀ p, (s.part p).opened = false) ∧ (∀ k, (s.team k).live = false) ∧ (∀ k i, (s.thread k i).isLive = false) ∧
  (∀ k i n, (s.thread k i).g n = 0) ∧ (∀ c n, nget (s.shuttle c).user n 0 = 0 ∧ nget (s.shuttle c).sup n 0 = 0) ∧
  (∀ c, (s.shuttle c).mode = false ∧ (s.shuttle c).active = false ∧ (s.shuttle c).frozen = false ∧ (s.core c).trapCount = 0) ∧
  s.packets = [] ∧ s.grids = [] ∧ s.nodes = [] ∧ s.records = [] ∧ s.copies = [] ∧
  (∀ k, (s.team k).frozen = [] ∧ ∀ q, ((s.team k).queue q).stream.frozen = false) ∧
  (∀ cl n, ((s.cluster cl).engine n).frozen = false ∧ ((s.cluster cl).channel n).frozen = false) ∧
  (∀ n, (s.bobbin n).frozen = false ∧ (s.func n).frozen = false ∧ (s.port n).frozen = false) ∧
  (∀ b r, (s.bobbin b).rx r = 0 ∧ (s.bobbin b).stat = .idle) ∧
  (∀ pa n, targetOf pa = .hbm → s.homeNat pa n = 0) ∧ (∀ p, p < 18 → (s.port p).st ≠ .active)

/-- One step: the instruction that the bytes at the counter decode to runs, and the step adds only what moves on after it
(R31, R33, R34, R36, R37, R69, R74, R87, R336, R341, R404). -/
def Obligations.StepRunsDecodedInstruction : Prop :=
  let then_ (o : Out1) (f : State → State) : Out1 := match o with | .next t => .next (f t) | o => o
  -- context cx of a band, at the counter its issue selects, runs one instruction or meets a decode fault; `t` is what it leaves
  let issues (v : State) (k band : Nat) (cx : Ctx) (t : State) : Prop :=
    let q := cx.quads.headD 0
    ∃ p, (v.team k).selectPc band q = some p ∧
      let pc : Pc := BitVec.ofNat 17 p
      let ws := v.packetWords (coreOfTeam k) (pcSlot pc) (pcPkt pc)
      let j := pc.toNat % 4
      let w := ws.getD j 0
      let dec := decodeCore w (if j < 2 then ws[j + 1]? else none)
      let run (next : Pc) : State := v.gangIssue k band ((v.team k).issueLanes band q p) pc next
      let after (n : Nat) : Pc := wordPc (pcSlot pc) (pcPkt pc) (j + n)
      pcPkt pc ≤ 5460 ∧ j < 3 ∧ pcSlot pc ≠ 3 ∧ isPfx w = false ∧
      ((∃ i x u, isXBase w = x ∧ dec = .ok i x ∧ bit (ws.getD (j + x.toNat) 0) 31 = false ∧
        exec i ((run (after (x.toNat + 1))).enter ⟨pc, none, some i, some i⟩) = .next u ∧ t = State.finishGang k band q p u) ∨
      (isExt w = false ∧ isXBase w = false ∧ bit w 31 = false ∧ dec = .illInst ∧
        t = State.finishGang k band q p ((run (after 1)).faultAll .illInst pc)) ∨
      ∃ i x, isXBase w = x ∧ dec = .bad i x ∧ bit (ws.getD (j + x.toNat) 0) 31 = false ∧ t = State.finishGang k band q p
        ((run (after (x.toNat + 1))).faultAll (if rangeFault i pc then .illPacket else .illInst) pc))
  let ready (v : State) (e : Nat × Nat) : Prop := v.nextCtx e.1 e.2 [] ≠ none
  (∀ (s : State) r c, s.sched = .issue (.core c) :: r → s.power = true → s.iss = .none →
    let u := ({ s with sched := r } : State)
    let v := (u.teamsOfCore c).foldl (State.wakeTeam exec) u
    let grant (t : State) (k band : Nat) : Out1 :=
      .next (t.modCore c fun y => ({ y with granted := 8 * slotOfTeam k + band }).count 0x01 1).tick
    ((∀ e ∈ v.grantOrder c, ¬ ready v e) → step s = .next v.tick) ∧
    ∀ pre k band post cx t, v.grantOrder c = pre ++ (k, band) :: post → (∀ e ∈ pre, ¬ ready v e) →
      v.nextCtx k band [] = some cx → issues v k band cx t →
      let idle (w : State) : State := { w with iss := .none }
      (t.issued = true → v.nextCtx k band cx.quads = none → step s = grant t k band) ∧
      (t.issued = true → ∀ cy w, v.nextCtx k band cx.quads = some cy → issues v k band cy w →
        (w.issued = true → ∀ u, (cy.low < cx.low → issues w k band cx u → step s = grant u k band) ∧
          (cx.low ≤ cy.low → issues t k band cy u → step s = grant u k band)) ∧
        (w.issued = false → (idle w).nextCtx k band cx.quads = none → ∀ u, issues (idle w) k band cx u → step s = grant u k band)) ∧
      (t.issued = false → ¬ ready (idle t) (k, band) → (∀ e ∈ post, ¬ ready (idle t) e) → step s = .next t.tick)) ∧
  (∀ (s : State) k band skip c, s.nextCtx k band skip = some c ↔ ((s.team k).live = true ∧ band ∉ (s.team k).frozen ∧
    (s.core (coreOfTeam k)).enabled = true) ∧ (s.team k).readyCtx band skip (fun pc =>
      !(s.part (partOfCore (coreOfTeam k))).halted || pc % 4 != 0) = some c) ∧
  (∀ c : Ctx, (∀ q ∈ c.quads, q < 16) → c.quads ≠ [] → c.low ∈ c.quads ∧ ∀ q ∈ c.quads, c.low ≤ q) ∧
  (∀ (s : State) k, let w := s.wakeTeam exec k
    w = { s with teams := w.teams } ∧ (∀ j, j ≠ k → w.team j = s.team j) ∧
    (w.team k) = { s.team k with threads := (w.team k).threads, ctxs := (w.team k).ctxs } ∧
    ∀ i, let x := s.thread k i
      (w.thread k i = x ∨ (x.isLive = true ∧ ((s.team k).heldDone i = true ∨ x.isWaiting = true) ∧ w.thread k i = { x with stat := .ready })) ∧
      (x.isLive = true → (s.team k).heldDone i = true → w.thread k i = { x with stat := .ready })) ∧
  (∀ (s : State) r c i x, s.sched = .issue (.shuttle c) :: r → s.power = true →
    let u := ({ s with sched := r } : State)
    u.shuttleIssues c = true →
    let pc := (u.shuttle c).pc
    let ws := u.packetWords c (pcSlot pc) (pcPkt pc)
    let j := pc.toNat % 4
    pcPkt pc ≤ 5460 → j < 3 → pcSlot pc ≠ 3 ∨ (u.shuttle c).mode = true → isPfx (ws.getD j 0) = false →
    isXBase (ws.getD j 0) = x → decodeCore (ws.getD j 0) (if j < 2 then ws[j + 1]? else none) = .ok i x →
    bit (ws.getD (j + x.toNat) 0) 31 = false →
    step s = then_ (exec i ((u.shuttleIssue c (wordPc (pcSlot pc) (pcPkt pc) (j + x.toNat + 1))).enter ⟨pc, none, some i, some i⟩))
      fun t => (State.finishShuttle c t).tick) ∧
  (∀ (s : State) r b i x, s.sched = .issue (.bobbin b) :: r → s.power = true →
    let u := ({ s with sched := r } : State)
    u.bobRuns b = true → (u.bobbin b).stat = .ready → (u.bobbin b).past = false →
    ∀ w, (u.bobbin b).store[(u.bobbin b).pc.toNat]? = some w → decodeBobbin w = .ok i x →
    step s = then_ (exec i (u.bobIssue b)) State.tick) ∧
  (∀ (s : State) r i, s.sched = .event i :: r → s.power = true → step s = then_ (exec i ({ s with sched := r } : State)) State.tick) ∧
  (∀ (s : State) r k split ports, s.sched = .event (.powerOn k split ports) :: r →
    step s = then_ (exec (.powerOn k split ports) ({ s with sched := r } : State)) State.tick) ∧
  (∀ (s : State), s.power = false → (∀ a r, s.sched = a :: r → a.isPowerOn = false) → step s = .fault .poweredOff) ∧
  (∀ (s : State), s.power = true → s.sched = [] →
    (s.moves exec = [] → step s = .next s.tick) ∧ (s.moves exec ≠ [] → ∃ f ∈ s.moves exec, step s = then_ (f s) State.tick))

/-- Words written out in the spec decode to the instructions they stand for (R37, R39, R87, R92, R118, R119, R156, R187,
R190, R207, R215, R341). -/
def Obligations.DecodeWords : Prop :=
  let one_ (w : Word) (i : Instr) : Prop := ∀ n, decodeCore w n = .ok i false
  let two_ (w x : Word) (i : Instr) : Prop := decodeCore w (some x) = .ok i true
  let bob (w : Word) (i : Instr) : Prop := decodeBobbin w = .ok i false
  one_ 0x010FFFFD (.br ⟨2, false, 0x7FFFD⟩) ∧
  two_ 0x87800007 0x7D005000 (.call ⟨7, false, 7, 20⟩) ∧
  one_ 0x0C010A11 (.pad 0x0A11) ∧
  two_ 0x9C4005FF 0x7D400000 (.movi ⟨8, 0x1FF, 0x400000⟩) ∧
  one_ 0x1C805603 (.cmpi ⟨1, 0, 5, false, 3⟩) ∧
  two_ 0xA4000003 0x7D000000 (.bind 0) ∧
  one_ 0x24000004 .unbind ∧
  two_ 0xA0508120 0x7D700000 (.ladd ⟨10, 8, 9, false, false, 3, 4⟩) ∧
  one_ 0x282050C0 (.fadd ⟨4, 5, 6, false, false⟩) ∧
  two_ 0xBC509000 0x7D200000 (.cvt ⟨10, 9, 0, false, false, 2, 0, 0, false⟩) ∧
  two_ 0xC0508000 0x7DD00208 (.shfl ⟨10, 8, 0, false, false, 3, 2, 0, false, false, true, 1⟩) ∧
  two_ 0xC0000002 0x7D24E300 (.vote ⟨0, 1, 1, false, 3, true, 12⟩) ∧
  one_ 0x44380003 (.rand ⟨7⟩) ∧
  one_ 0x48402404 (.ld ⟨8, 2, false, 4, 0, 4⟩) ∧
  two_ 0xD0484000 0x7D800000 (.atomAdd ⟨9, 4, false, 0, 0, 4, false, 0⟩) ∧
  one_ 0x58020003 (.fence 3) ∧
  one_ 0x58008C40 (.barCarve ⟨6, 8⟩) ∧
  one_ 0x58010405 (.barg ⟨4, 5⟩) ∧
  two_ 0xDC506103 0x7D180800 (.region ⟨10, 6, 8, false, false, 12, false, false, 1⟩) ∧
  two_ 0xDC006001 0x7DA00000 (.tryacq ⟨6, false, true, 2⟩) ∧
  two_ 0xE060000B 0x7D000004 (.sldi ⟨12, 4⟩) ∧
  one_ 0x6000001A .sdone ∧
  two_ 0xE0008006 0x7D000000 (.stream ⟨8, 0⟩) ∧
  two_ 0xE4006100 0x7D143400 (.cpy ⟨0, 6, 8, false, false, 10, false, 3, 1, 0, false⟩) ∧
  one_ 0x68F20000 (.qmma ⟨30, 32, false⟩) ∧
  two_ 0xEC006003 0x7D300000 (.qrule ⟨6, false, 3, 0⟩) ∧
  one_ 0x70020001 (.patbind ⟨32, false⟩) ∧
  one_ 0x74F203A0 (.gspawn ⟨30, 32, 29, false, false⟩) ∧
  one_ 0x75000123 (.tidget ⟨32, 9, false⟩) ∧
  two_ 0xF8400000 0x7D000020 (.mfs ⟨8, 0x20⟩) ∧
  one_ 0x78080002 .eretTerm ∧
  one_ 0x782060E4 (.pgshare ⟨4, 6, 7, false, false⟩) ∧
  two_ 0xF8200006 0x7DA00000 (.ctxload ⟨4, true⟩) ∧
  bob 0x30052002 (.chase ⟨0, 5, 4, 0, 2⟩) ∧ bob 0x14C58000 (.ldl ⟨6, 5, true, 0⟩) ∧ bob 0x35071800 (.sample ⟨8, 7, 3⟩) ∧
  bob 0x08800001 (.bAddi ⟨4, 0, 1⟩) ∧ bob 0x48000000 .bDone ∧
  decodeTableWord 32 0x10000000 = some (.add ⟨0, 0, 0, false, false⟩) ∧ decodeTableWord 64 0x7D4000009C4005FF = some (.movi ⟨8, 0x1FF, 0x400000⟩)

/-- Decoding and encoding agree, for every well-formed core and Bobbin instruction and every word (R6, R37, R39, R40, R44,
R340, R341). -/
def Obligations.EncodingRoundTrip : Prop :=
  let bob : Instr → Bool := fun i => match i with
    | .bAdd _ | .bSub _ | .bMul _ | .bAnd _ | .bOr _ | .bXor _ | .bShl _ | .bShr _ | .bSar _ | .slt _ | .sltu _ | .bAddi _ | .ldi _
    | .bCc _ | .bAl _ | .ldl _ | .stl _ | .ldh _ | .sth _ | .ldv _ | .stv _ | .vadd _ | .vsub _ | .vmul _ | .vfma _ | .vbc _
    | .chase _ | .sample _ | .adamw _ | .faddc _ | .signal _ | .waitn _ | .bDone => true
    | _ => false
  (∀ i c, i.wf = true → ∀ w r, encode c i = w :: r →
    (bob i = true → r = [] ∧ decodeBobbin w = .ok i false) ∧
    (bob i = false → (r = [] ∧ ∀ n, decodeCore w n = .ok i false) ∨ ∃ x, r = [x] ∧ decodeCore w (some x) = .ok i true)) ∧
  (∀ w n i x, decodeCore w n = .ok i x → i.wf = true ∧ bob i = false ∧
    ((shapeOf i none).alone = false → ∃ c, encode c i = w :: (if x then n.toList else [])) ∧
    ((shapeOf i none).alone = true → x = false ∧ encode false i = [w &&& 0x7FFFFFFF])) ∧
  (∀ w i x, decodeBobbin w = .ok i x → i.wf = true ∧ bob i = true ∧ ∀ c, encode c i = [w]) ∧
  (∀ p : Pfx, p.policy ≠ 3 → p.round.toNat ≤ 5 → decodePfx (encodePfx p) = some p ∧ isPfx (encodePfx p) = true) ∧
  (∀ w p, isPfx w = true → bit w 31 = false → decodePfx w = some p → encodePfx p = w) ∧
  ∀ i, encode false i = [] → ∀ w n x, decodeCore w n ≠ .ok i x ∧ decodeBobbin w ≠ .ok i x

/-- Every step keeps the memories in canonical form and leaves no issue in progress (R193, R202, R392, R423, R429). -/
def Obligations.StepKeepsInvariant : Prop :=
  (∀ s t : State, s.memOk = true → step s = .next t → t.memOk = true ∧ t.iss = .none) ∧
  (∀ (s : State) f, step s = .fault f → s.power = false) ∧ ∀ (s : State) f, step s ≠ .refused f

end Statements
end

