-- ==== Sys2Proof/Laws/Maps.lean ====
section
/-! SUPPORT. What reads of the sparse containers give after writes, and that every memory operation keeps the canonical form. -/

namespace Sys2Proof.Machine
open Sys2Proof

/-! ### Maps by number -/

@[simp] theorem nget_nput_same {α : Type} (m : NMap α) (k : Nat) (v d : α) : nget (nput m k v) k d = v := by
  induction m with
  | nil => simp [nput, nget]
  | cons e r ih =>
    obtain ⟨j, u⟩ := e
    simp only [nput]
    split
    · simp [nget]
    · split
      · simp [nget]
      · simp [nget, *]

theorem nget_nput_ne {α : Type} (m : NMap α) (k j : Nat) (v d : α) (h : j ≠ k) : nget (nput m k v) j d = nget m j d := by
  induction m with
  | nil => simp [nput, nget, h.symm]
  | cons e r ih =>
    obtain ⟨i, u⟩ := e
    simp only [nput]
    split
    · rename_i hik; subst hik; simp [nget, h.symm]
    · split
      · simp [nget, h.symm]
      · simp only [nget, ih]

theorem nget_nput {α : Type} (m : NMap α) (k j : Nat) (v d : α) :
    nget (nput m k v) j d = if j = k then v else nget m j d := by
  split
  · next h => subst h; simp
  · next h => exact nget_nput_ne m k j v d h

@[simp] theorem nget_nmod_same {α : Type} (m : NMap α) (k : Nat) (d : α) (f : α → α) :
    nget (nmod m k d f) k d = f (nget m k d) := by simp [nmod]

theorem nget_nmod_ne {α : Type} (m : NMap α) (k j : Nat) (d : α) (f : α → α) (h : j ≠ k) :
    nget (nmod m k d f) j d = nget m j d := nget_nput_ne m k j _ d h

theorem nget_ndel {α : Type} (m : NMap α) (k j : Nat) (d : α) : nget (ndel m k) j d = if j = k then d else nget m j d := by
  induction m with
  | nil => simp [ndel, nget]
  | cons e r ih =>
    obtain ⟨i, u⟩ := e
    by_cases hik : i = k
    · subst hik
      have : ndel ((i, u) :: r) i = ndel r i := by simp [ndel]
      rw [this, ih]
      by_cases hj : j = i
      · simp [hj]
      · simp [nget, hj, Ne.symm hj]
    · have : ndel ((i, u) :: r) k = (i, u) :: ndel r k := by simp [ndel, hik]
      rw [this]
      simp only [nget, ih]
      by_cases hij : i = j
      · subst hij; simp [hik]
      · simp [hij]

/-! ### Bytes by address: a read after a write -/

theorem mget_mset (m : Mem) (a c : Nat) (b : Byte) : mget (mset m a b) c = if c = a then b else mget m c := by
  simp only [mget, mset]
  split
  · next h => subst h; exact nget_ndel m a c 0
  · exact nget_nput m a c b 0

theorem mget_mset_same (m : Mem) (a : Nat) (b : Byte) : mget (mset m a b) a = b := by simp [mget_mset]

theorem mget_mset_ne (m : Mem) (a c : Nat) (b : Byte) (h : c ≠ a) : mget (mset m a b) c = mget m c := by
  simp [mget_mset, h]

theorem mget_mwrite_out (m : Mem) (a c : Nat) (bs : List Byte) (h : c < a ∨ a + bs.length ≤ c) :
    mget (mwrite m a bs) c = mget m c := by
  induction bs generalizing m a with
  | nil => rfl
  | cons b r ih =>
    simp only [List.length_cons] at h
    rw [mwrite, ih _ _ (by omega), mget_mset_ne _ _ _ _ (by omega)]

theorem mget_mwrite_in (m : Mem) (a i : Nat) (bs : List Byte) (h : i < bs.length) :
    mget (mwrite m a bs) (a + i) = bs[i] := by
  induction bs generalizing m a i with
  | nil => simp at h
  | cons b r ih =>
    cases i with
    | zero => rw [mwrite, mget_mwrite_out _ _ _ _ (by omega)]; simp [mget_mset_same]
    | succ j =>
      rw [mwrite]
      have : a + (j + 1) = a + 1 + j := by omega
      rw [this, ih _ _ _ (by simpa using h)]
      simp

theorem mread_length (m : Mem) (a n : Nat) : (mread m a n).length = n := by
  induction n generalizing a with
  | zero => rfl
  | succ k ih => simp [mread, ih]

theorem mread_mwrite (m : Mem) (a : Nat) (bs : List Byte) : mread (mwrite m a bs) a bs.length = bs := by
  have key : ∀ (n : Nat) (bs : List Byte) (m' : Mem) (a : Nat), n = bs.length →
      (∀ i (h : i < bs.length), mget m' (a + i) = bs[i]) → mread m' a n = bs := by
    intro n
    induction n with
    | zero => intro bs m' a h _; simp [mread, List.eq_nil_of_length_eq_zero h.symm]
    | succ k ih =>
      intro bs m' a h hb
      cases bs with
      | nil => simp at h
      | cons b r =>
        simp only [mread]
        congr 1
        · have := hb 0 (by simp)
          simpa only [Nat.add_zero, List.getElem_cons_zero] using this
        · refine ih r m' (a + 1) (by simpa using h) fun i hi => ?_
          have := hb (i + 1) (by simpa using hi)
          simpa [Nat.add_assoc, Nat.add_comm 1 i] using this
  exact key _ bs _ a rfl fun i h => mget_mwrite_in m a i bs h

/-! ### The canonical form (`Memory.wf`) -/

theorem wfFrom_mono {lo lo' : Nat} {m : Mem} (hl : lo' ≤ lo) (h : Memory.wfFrom lo m = true) : Memory.wfFrom lo' m = true := by
  cases m with
  | nil => rfl
  | cons e r =>
    obtain ⟨a, b⟩ := e
    simp only [Memory.wfFrom, Bool.and_eq_true, decide_eq_true_eq] at h ⊢
    exact ⟨⟨by omega, h.1.2⟩, h.2⟩

theorem wfFrom_filter {lo : Nat} {m : Mem} (p : Host.Cell → Bool) (h : Memory.wfFrom lo m = true) :
    Memory.wfFrom lo (m.filter p) = true := by
  induction m generalizing lo with
  | nil => rfl
  | cons e r ih =>
    obtain ⟨a, b⟩ := e
    simp only [Memory.wfFrom, Bool.and_eq_true, decide_eq_true_eq] at h
    rw [List.filter_cons]
    split
    · simp only [Memory.wfFrom, Bool.and_eq_true, decide_eq_true_eq]
      exact ⟨h.1, ih h.2⟩
    · exact wfFrom_mono (by omega) (ih h.2)

theorem wfFrom_nput {lo : Nat} {m : Mem} (a : Nat) (b : Byte) (hb : b ≠ 0) (hl : lo ≤ a) (h : Memory.wfFrom lo m = true) :
    Memory.wfFrom lo (nput m a b) = true := by
  induction m generalizing lo with
  | nil => simp only [nput, Memory.wfFrom, Bool.and_eq_true, decide_eq_true_eq, Bool.and_true]; exact ⟨hl, hb⟩
  | cons e r ih =>
    obtain ⟨j, u⟩ := e
    simp only [Memory.wfFrom, Bool.and_eq_true, decide_eq_true_eq] at h
    simp only [nput]
    split
    · next hj =>
      subst hj
      simp only [Memory.wfFrom, Bool.and_eq_true, decide_eq_true_eq]
      exact ⟨⟨hl, hb⟩, h.2⟩
    · split
      · next hj hlt =>
        simp only [Memory.wfFrom, Bool.and_eq_true, decide_eq_true_eq]
        exact ⟨⟨hl, hb⟩, ⟨hlt, h.1.2⟩, h.2⟩
      · simp only [Memory.wfFrom, Bool.and_eq_true, decide_eq_true_eq]
        exact ⟨h.1, ih (by omega) h.2⟩

theorem mset_wf {m : Mem} (a : Nat) (b : Byte) (h : Memory.wf m = true) : Memory.wf (mset m a b) = true := by
  simp only [mset]
  split
  · exact wfFrom_filter _ h
  · next hb => exact wfFrom_nput a b hb (Nat.zero_le a) h

theorem mwrite_wf {m : Mem} (a : Nat) (bs : List Byte) (h : Memory.wf m = true) : Memory.wf (mwrite m a bs) = true := by
  induction bs generalizing m a with
  | nil => exact h
  | cons b r ih => exact ih _ (mset_wf a b h)

theorem mwriteMasked_wf {m : Mem} (a mask : Nat) (bs : List Byte) (h : Memory.wf m = true) :
    Memory.wf (mwriteMasked m a mask bs) = true := by
  induction bs generalizing m a mask with
  | nil => exact h
  | cons b r ih =>
    rw [mwriteMasked]
    split
    · exact ih _ _ (mset_wf a b h)
    · exact ih _ _ h

theorem mbelow_wf {m : Mem} (hi : Nat) (h : Memory.wf m = true) : Memory.wf (mbelow m hi) = true := wfFrom_filter _ h
theorem moutside_wf {m : Mem} (lo hi : Nat) (h : Memory.wf m = true) : Memory.wf (moutside m lo hi) = true :=
  wfFrom_filter _ h

/-! ### Little-endian numbers (R5) -/

theorem leBytes_length (n v : Nat) : (leBytes n v).length = n := by
  induction n generalizing v with
  | zero => rfl
  | succ k ih => simp [leBytes, ih]

theorem leNat_leBytes (n v : Nat) : leNat (leBytes n v) = v % 256 ^ n := by
  induction n generalizing v with
  | zero => simp [leBytes, leNat, Nat.mod_one]
  | succ k ih =>
    simp only [leBytes, leNat, ih, BitVec.toNat_ofNat]
    rw [show (2 : Nat) ^ 8 = 256 from rfl, pow_succ', Nat.mod_mul]

end Sys2Proof.Machine
end

