-- ==== Sys2Proof/Laws/State.lean ====
section
/-! SUPPORT. What the updates of one part of the state leave alone: one lemma per field per update, and what the part holds
afterwards. No later proof unfolds a record update. -/

namespace Sys2Proof.Machine
open Sys2Proof

section modCore
variable (s : State) (k j : Nat) (f : Core → Core)
@[simp] theorem State.modCore_power : (s.modCore k f).power = s.power := rfl
@[simp] theorem State.modCore_boot : (s.modCore k f).boot = s.boot := rfl
@[simp] theorem State.modCore_hotHalt : (s.modCore k f).hotHalt = s.hotHalt := rfl
@[simp] theorem State.modCore_reports : (s.modCore k f).reports = s.reports := rfl
@[simp] theorem State.modCore_monitorImg : (s.modCore k f).monitorImg = s.monitorImg := rfl
@[simp] theorem State.modCore_monitorSig : (s.modCore k f).monitorSig = s.monitorSig := rfl
@[simp] theorem State.modCore_plan : (s.modCore k f).plan = s.plan := rfl
@[simp] theorem State.modCore_idePolicy : (s.modCore k f).idePolicy = s.idePolicy := rfl
@[simp] theorem State.modCore_interleaved : (s.modCore k f).interleaved = s.interleaved := rfl
@[simp] theorem State.modCore_exBase : (s.modCore k f).exBase = s.exBase := rfl
@[simp] theorem State.modCore_exSize : (s.modCore k f).exSize = s.exSize := rfl
@[simp] theorem State.modCore_nodeNum : (s.modCore k f).nodeNum = s.nodeNum := rfl
@[simp] theorem State.modCore_routes : (s.modCore k f).routes = s.routes := rfl
@[simp] theorem State.modCore_domain : (s.modCore k f).domain = s.domain := rfl
@[simp] theorem State.modCore_outbox : (s.modCore k f).outbox = s.outbox := rfl
@[simp] theorem State.modCore_linkIde : (s.modCore k f).linkIde = s.linkIde := rfl
@[simp] theorem State.modCore_sparesUsed : (s.modCore k f).sparesUsed = s.sparesUsed := rfl
@[simp] theorem State.modCore_supOvl : (s.modCore k f).supOvl = s.supOvl := rfl
@[simp] theorem State.modCore_supBytes : (s.modCore k f).supBytes = s.supBytes := rfl
@[simp] theorem State.modCore_hbm : (s.modCore k f).hbm = s.hbm := rfl
@[simp] theorem State.modCore_hostMem : (s.modCore k f).hostMem = s.hostMem := rfl
@[simp] theorem State.modCore_peerMem : (s.modCore k f).peerMem = s.peerMem := rfl
@[simp] theorem State.modCore_llc : (s.modCore k f).llc = s.llc := rfl
@[simp] theorem State.modCore_dies : (s.modCore k f).dies = s.dies := rfl
@[simp] theorem State.modCore_teams : (s.modCore k f).teams = s.teams := rfl
@[simp] theorem State.modCore_clusters : (s.modCore k f).clusters = s.clusters := rfl
@[simp] theorem State.modCore_records : (s.modCore k f).records = s.records := rfl
@[simp] theorem State.modCore_copies : (s.modCore k f).copies = s.copies := rfl
@[simp] theorem State.modCore_fills : (s.modCore k f).fills = s.fills := rfl
@[simp] theorem State.modCore_draws : (s.modCore k f).draws = s.draws := rfl
@[simp] theorem State.modCore_held : (s.modCore k f).held = s.held := rfl
@[simp] theorem State.modCore_objReqs : (s.modCore k f).objReqs = s.objReqs := rfl
@[simp] theorem State.modCore_ruleWaits : (s.modCore k f).ruleWaits = s.ruleWaits := rfl
@[simp] theorem State.modCore_det : (s.modCore k f).det = s.det := rfl
@[simp] theorem State.modCore_spaces : (s.modCore k f).spaces = s.spaces := rfl
@[simp] theorem State.modCore_tlb : (s.modCore k f).tlb = s.tlb := rfl
@[simp] theorem State.modCore_walks : (s.modCore k f).walks = s.walks := rfl
@[simp] theorem State.modCore_stable : (s.modCore k f).stable = s.stable := rfl
@[simp] theorem State.modCore_bobbins : (s.modCore k f).bobbins = s.bobbins := rfl
@[simp] theorem State.modCore_queues : (s.modCore k f).queues = s.queues := rfl
@[simp] theorem State.modCore_images : (s.modCore k f).images = s.images := rfl
@[simp] theorem State.modCore_packets : (s.modCore k f).packets = s.packets := rfl
@[simp] theorem State.modCore_grids : (s.modCore k f).grids = s.grids := rfl
@[simp] theorem State.modCore_nodes : (s.modCore k f).nodes = s.nodes := rfl
@[simp] theorem State.modCore_poolSeq : (s.modCore k f).poolSeq = s.poolSeq := rfl
@[simp] theorem State.modCore_turns : (s.modCore k f).turns = s.turns := rfl
@[simp] theorem State.modCore_claims : (s.modCore k f).claims = s.claims := rfl
@[simp] theorem State.modCore_gdones : (s.modCore k f).gdones = s.gdones := rfl
@[simp] theorem State.modCore_parts : (s.modCore k f).parts = s.parts := rfl
@[simp] theorem State.modCore_saved : (s.modCore k f).saved = s.saved := rfl
@[simp] theorem State.modCore_funcs : (s.modCore k f).funcs = s.funcs := rfl
@[simp] theorem State.modCore_ports : (s.modCore k f).ports = s.ports := rfl
@[simp] theorem State.modCore_windows : (s.modCore k f).windows = s.windows := rfl
@[simp] theorem State.modCore_doeOut : (s.modCore k f).doeOut = s.doeOut := rfl
@[simp] theorem State.modCore_fresh : (s.modCore k f).fresh = s.fresh := rfl
@[simp] theorem State.modCore_sched : (s.modCore k f).sched = s.sched := rfl
@[simp] theorem State.modCore_iss : (s.modCore k f).iss = s.iss := rfl
@[simp] theorem State.modCore_team : (s.modCore k f).team j = s.team j := rfl
@[simp] theorem State.modCore_cluster : (s.modCore k f).cluster j = s.cluster j := rfl
@[simp] theorem State.modCore_die : (s.modCore k f).die j = s.die j := rfl
@[simp] theorem State.modCore_part : (s.modCore k f).part j = s.part j := rfl
@[simp] theorem State.modCore_space : (s.modCore k f).space j = s.space j := rfl
@[simp] theorem State.modCore_bobbin : (s.modCore k f).bobbin j = s.bobbin j := rfl
@[simp] theorem State.modCore_queue : (s.modCore k f).queue j = s.queue j := rfl
@[simp] theorem State.modCore_func : (s.modCore k f).func j = s.func j := rfl
@[simp] theorem State.modCore_port : (s.modCore k f).port j = s.port j := rfl
@[simp] theorem State.modCore_core_same : (s.modCore k f).core k = f (s.core k) := nget_nmod_same s.cores k _ f
theorem State.modCore_core_ne (h : j ≠ k) : (s.modCore k f).core j = s.core j := nget_nmod_ne s.cores k j _ f h
end modCore

section modTeam
variable (s : State) (k j : Nat) (f : Team → Team)
@[simp] theorem State.modTeam_power : (s.modTeam k f).power = s.power := rfl
@[simp] theorem State.modTeam_boot : (s.modTeam k f).boot = s.boot := rfl
@[simp] theorem State.modTeam_hotHalt : (s.modTeam k f).hotHalt = s.hotHalt := rfl
@[simp] theorem State.modTeam_reports : (s.modTeam k f).reports = s.reports := rfl
@[simp] theorem State.modTeam_monitorImg : (s.modTeam k f).monitorImg = s.monitorImg := rfl
@[simp] theorem State.modTeam_monitorSig : (s.modTeam k f).monitorSig = s.monitorSig := rfl
@[simp] theorem State.modTeam_plan : (s.modTeam k f).plan = s.plan := rfl
@[simp] theorem State.modTeam_idePolicy : (s.modTeam k f).idePolicy = s.idePolicy := rfl
@[simp] theorem State.modTeam_interleaved : (s.modTeam k f).interleaved = s.interleaved := rfl
@[simp] theorem State.modTeam_exBase : (s.modTeam k f).exBase = s.exBase := rfl
@[simp] theorem State.modTeam_exSize : (s.modTeam k f).exSize = s.exSize := rfl
@[simp] theorem State.modTeam_nodeNum : (s.modTeam k f).nodeNum = s.nodeNum := rfl
@[simp] theorem State.modTeam_routes : (s.modTeam k f).routes = s.routes := rfl
@[simp] theorem State.modTeam_domain : (s.modTeam k f).domain = s.domain := rfl
@[simp] theorem State.modTeam_outbox : (s.modTeam k f).outbox = s.outbox := rfl
@[simp] theorem State.modTeam_linkIde : (s.modTeam k f).linkIde = s.linkIde := rfl
@[simp] theorem State.modTeam_sparesUsed : (s.modTeam k f).sparesUsed = s.sparesUsed := rfl
@[simp] theorem State.modTeam_supOvl : (s.modTeam k f).supOvl = s.supOvl := rfl
@[simp] theorem State.modTeam_supBytes : (s.modTeam k f).supBytes = s.supBytes := rfl
@[simp] theorem State.modTeam_hbm : (s.modTeam k f).hbm = s.hbm := rfl
@[simp] theorem State.modTeam_hostMem : (s.modTeam k f).hostMem = s.hostMem := rfl
@[simp] theorem State.modTeam_peerMem : (s.modTeam k f).peerMem = s.peerMem := rfl
@[simp] theorem State.modTeam_llc : (s.modTeam k f).llc = s.llc := rfl
@[simp] theorem State.modTeam_dies : (s.modTeam k f).dies = s.dies := rfl
@[simp] theorem State.modTeam_cores : (s.modTeam k f).cores = s.cores := rfl
@[simp] theorem State.modTeam_clusters : (s.modTeam k f).clusters = s.clusters := rfl
@[simp] theorem State.modTeam_records : (s.modTeam k f).records = s.records := rfl
@[simp] theorem State.modTeam_copies : (s.modTeam k f).copies = s.copies := rfl
@[simp] theorem State.modTeam_fills : (s.modTeam k f).fills = s.fills := rfl
@[simp] theorem State.modTeam_draws : (s.modTeam k f).draws = s.draws := rfl
@[simp] theorem State.modTeam_held : (s.modTeam k f).held = s.held := rfl
@[simp] theorem State.modTeam_objReqs : (s.modTeam k f).objReqs = s.objReqs := rfl
@[simp] theorem State.modTeam_ruleWaits : (s.modTeam k f).ruleWaits = s.ruleWaits := rfl
@[simp] theorem State.modTeam_det : (s.modTeam k f).det = s.det := rfl
@[simp] theorem State.modTeam_spaces : (s.modTeam k f).spaces = s.spaces := rfl
@[simp] theorem State.modTeam_tlb : (s.modTeam k f).tlb = s.tlb := rfl
@[simp] theorem State.modTeam_walks : (s.modTeam k f).walks = s.walks := rfl
@[simp] theorem State.modTeam_stable : (s.modTeam k f).stable = s.stable := rfl
@[simp] theorem State.modTeam_bobbins : (s.modTeam k f).bobbins = s.bobbins := rfl
@[simp] theorem State.modTeam_queues : (s.modTeam k f).queues = s.queues := rfl
@[simp] theorem State.modTeam_images : (s.modTeam k f).images = s.images := rfl
@[simp] theorem State.modTeam_packets : (s.modTeam k f).packets = s.packets := rfl
@[simp] theorem State.modTeam_grids : (s.modTeam k f).grids = s.grids := rfl
@[simp] theorem State.modTeam_nodes : (s.modTeam k f).nodes = s.nodes := rfl
@[simp] theorem State.modTeam_poolSeq : (s.modTeam k f).poolSeq = s.poolSeq := rfl
@[simp] theorem State.modTeam_turns : (s.modTeam k f).turns = s.turns := rfl
@[simp] theorem State.modTeam_claims : (s.modTeam k f).claims = s.claims := rfl
@[simp] theorem State.modTeam_gdones : (s.modTeam k f).gdones = s.gdones := rfl
@[simp] theorem State.modTeam_parts : (s.modTeam k f).parts = s.parts := rfl
@[simp] theorem State.modTeam_saved : (s.modTeam k f).saved = s.saved := rfl
@[simp] theorem State.modTeam_funcs : (s.modTeam k f).funcs = s.funcs := rfl
@[simp] theorem State.modTeam_ports : (s.modTeam k f).ports = s.ports := rfl
@[simp] theorem State.modTeam_windows : (s.modTeam k f).windows = s.windows := rfl
@[simp] theorem State.modTeam_doeOut : (s.modTeam k f).doeOut = s.doeOut := rfl
@[simp] theorem State.modTeam_fresh : (s.modTeam k f).fresh = s.fresh := rfl
@[simp] theorem State.modTeam_sched : (s.modTeam k f).sched = s.sched := rfl
@[simp] theorem State.modTeam_iss : (s.modTeam k f).iss = s.iss := rfl
@[simp] theorem State.modTeam_core : (s.modTeam k f).core j = s.core j := rfl
@[simp] theorem State.modTeam_cluster : (s.modTeam k f).cluster j = s.cluster j := rfl
@[simp] theorem State.modTeam_die : (s.modTeam k f).die j = s.die j := rfl
@[simp] theorem State.modTeam_part : (s.modTeam k f).part j = s.part j := rfl
@[simp] theorem State.modTeam_space : (s.modTeam k f).space j = s.space j := rfl
@[simp] theorem State.modTeam_bobbin : (s.modTeam k f).bobbin j = s.bobbin j := rfl
@[simp] theorem State.modTeam_queue : (s.modTeam k f).queue j = s.queue j := rfl
@[simp] theorem State.modTeam_func : (s.modTeam k f).func j = s.func j := rfl
@[simp] theorem State.modTeam_port : (s.modTeam k f).port j = s.port j := rfl
@[simp] theorem State.modTeam_team_same : (s.modTeam k f).team k = f (s.team k) := nget_nmod_same s.teams k _ f
theorem State.modTeam_team_ne (h : j ≠ k) : (s.modTeam k f).team j = s.team j := nget_nmod_ne s.teams k j _ f h
end modTeam

section modCluster
variable (s : State) (k j : Nat) (f : Cluster → Cluster)
@[simp] theorem State.modCluster_power : (s.modCluster k f).power = s.power := rfl
@[simp] theorem State.modCluster_boot : (s.modCluster k f).boot = s.boot := rfl
@[simp] theorem State.modCluster_hotHalt : (s.modCluster k f).hotHalt = s.hotHalt := rfl
@[simp] theorem State.modCluster_reports : (s.modCluster k f).reports = s.reports := rfl
@[simp] theorem State.modCluster_monitorImg : (s.modCluster k f).monitorImg = s.monitorImg := rfl
@[simp] theorem State.modCluster_monitorSig : (s.modCluster k f).monitorSig = s.monitorSig := rfl
@[simp] theorem State.modCluster_plan : (s.modCluster k f).plan = s.plan := rfl
@[simp] theorem State.modCluster_idePolicy : (s.modCluster k f).idePolicy = s.idePolicy := rfl
@[simp] theorem State.modCluster_interleaved : (s.modCluster k f).interleaved = s.interleaved := rfl
@[simp] theorem State.modCluster_exBase : (s.modCluster k f).exBase = s.exBase := rfl
@[simp] theorem State.modCluster_exSize : (s.modCluster k f).exSize = s.exSize := rfl
@[simp] theorem State.modCluster_nodeNum : (s.modCluster k f).nodeNum = s.nodeNum := rfl
@[simp] theorem State.modCluster_routes : (s.modCluster k f).routes = s.routes := rfl
@[simp] theorem State.modCluster_domain : (s.modCluster k f).domain = s.domain := rfl
@[simp] theorem State.modCluster_outbox : (s.modCluster k f).outbox = s.outbox := rfl
@[simp] theorem State.modCluster_linkIde : (s.modCluster k f).linkIde = s.linkIde := rfl
@[simp] theorem State.modCluster_sparesUsed : (s.modCluster k f).sparesUsed = s.sparesUsed := rfl
@[simp] theorem State.modCluster_supOvl : (s.modCluster k f).supOvl = s.supOvl := rfl
@[simp] theorem State.modCluster_supBytes : (s.modCluster k f).supBytes = s.supBytes := rfl
@[simp] theorem State.modCluster_hbm : (s.modCluster k f).hbm = s.hbm := rfl
@[simp] theorem State.modCluster_hostMem : (s.modCluster k f).hostMem = s.hostMem := rfl
@[simp] theorem State.modCluster_peerMem : (s.modCluster k f).peerMem = s.peerMem := rfl
@[simp] theorem State.modCluster_llc : (s.modCluster k f).llc = s.llc := rfl
@[simp] theorem State.modCluster_dies : (s.modCluster k f).dies = s.dies := rfl
@[simp] theorem State.modCluster_cores : (s.modCluster k f).cores = s.cores := rfl
@[simp] theorem State.modCluster_teams : (s.modCluster k f).teams = s.teams := rfl
@[simp] theorem State.modCluster_records : (s.modCluster k f).records = s.records := rfl
@[simp] theorem State.modCluster_copies : (s.modCluster k f).copies = s.copies := rfl
@[simp] theorem State.modCluster_fills : (s.modCluster k f).fills = s.fills := rfl
@[simp] theorem State.modCluster_draws : (s.modCluster k f).draws = s.draws := rfl
@[simp] theorem State.modCluster_held : (s.modCluster k f).held = s.held := rfl
@[simp] theorem State.modCluster_objReqs : (s.modCluster k f).objReqs = s.objReqs := rfl
@[simp] theorem State.modCluster_ruleWaits : (s.modCluster k f).ruleWaits = s.ruleWaits := rfl
@[simp] theorem State.modCluster_det : (s.modCluster k f).det = s.det := rfl
@[simp] theorem State.modCluster_spaces : (s.modCluster k f).spaces = s.spaces := rfl
@[simp] theorem State.modCluster_tlb : (s.modCluster k f).tlb = s.tlb := rfl
@[simp] theorem State.modCluster_walks : (s.modCluster k f).walks = s.walks := rfl
@[simp] theorem State.modCluster_stable : (s.modCluster k f).stable = s.stable := rfl
@[simp] theorem State.modCluster_bobbins : (s.modCluster k f).bobbins = s.bobbins := rfl
@[simp] theorem State.modCluster_queues : (s.modCluster k f).queues = s.queues := rfl
@[simp] theorem State.modCluster_images : (s.modCluster k f).images = s.images := rfl
@[simp] theorem State.modCluster_packets : (s.modCluster k f).packets = s.packets := rfl
@[simp] theorem State.modCluster_grids : (s.modCluster k f).grids = s.grids := rfl
@[simp] theorem State.modCluster_nodes : (s.modCluster k f).nodes = s.nodes := rfl
@[simp] theorem State.modCluster_poolSeq : (s.modCluster k f).poolSeq = s.poolSeq := rfl
@[simp] theorem State.modCluster_turns : (s.modCluster k f).turns = s.turns := rfl
@[simp] theorem State.modCluster_claims : (s.modCluster k f).claims = s.claims := rfl
@[simp] theorem State.modCluster_gdones : (s.modCluster k f).gdones = s.gdones := rfl
@[simp] theorem State.modCluster_parts : (s.modCluster k f).parts = s.parts := rfl
@[simp] theorem State.modCluster_saved : (s.modCluster k f).saved = s.saved := rfl
@[simp] theorem State.modCluster_funcs : (s.modCluster k f).funcs = s.funcs := rfl
@[simp] theorem State.modCluster_ports : (s.modCluster k f).ports = s.ports := rfl
@[simp] theorem State.modCluster_windows : (s.modCluster k f).windows = s.windows := rfl
@[simp] theorem State.modCluster_doeOut : (s.modCluster k f).doeOut = s.doeOut := rfl
@[simp] theorem State.modCluster_fresh : (s.modCluster k f).fresh = s.fresh := rfl
@[simp] theorem State.modCluster_sched : (s.modCluster k f).sched = s.sched := rfl
@[simp] theorem State.modCluster_iss : (s.modCluster k f).iss = s.iss := rfl
@[simp] theorem State.modCluster_core : (s.modCluster k f).core j = s.core j := rfl
@[simp] theorem State.modCluster_team : (s.modCluster k f).team j = s.team j := rfl
@[simp] theorem State.modCluster_die : (s.modCluster k f).die j = s.die j := rfl
@[simp] theorem State.modCluster_part : (s.modCluster k f).part j = s.part j := rfl
@[simp] theorem State.modCluster_space : (s.modCluster k f).space j = s.space j := rfl
@[simp] theorem State.modCluster_bobbin : (s.modCluster k f).bobbin j = s.bobbin j := rfl
@[simp] theorem State.modCluster_queue : (s.modCluster k f).queue j = s.queue j := rfl
@[simp] theorem State.modCluster_func : (s.modCluster k f).func j = s.func j := rfl
@[simp] theorem State.modCluster_port : (s.modCluster k f).port j = s.port j := rfl
@[simp] theorem State.modCluster_cluster_same : (s.modCluster k f).cluster k = f (s.cluster k) := nget_nmod_same s.clusters k _ f
theorem State.modCluster_cluster_ne (h : j ≠ k) : (s.modCluster k f).cluster j = s.cluster j := nget_nmod_ne s.clusters k j _ f h
end modCluster

section modDie
variable (s : State) (k j : Nat) (f : Die → Die)
@[simp] theorem State.modDie_power : (s.modDie k f).power = s.power := rfl
@[simp] theorem State.modDie_boot : (s.modDie k f).boot = s.boot := rfl
@[simp] theorem State.modDie_hotHalt : (s.modDie k f).hotHalt = s.hotHalt := rfl
@[simp] theorem State.modDie_reports : (s.modDie k f).reports = s.reports := rfl
@[simp] theorem State.modDie_monitorImg : (s.modDie k f).monitorImg = s.monitorImg := rfl
@[simp] theorem State.modDie_monitorSig : (s.modDie k f).monitorSig = s.monitorSig := rfl
@[simp] theorem State.modDie_plan : (s.modDie k f).plan = s.plan := rfl
@[simp] theorem State.modDie_idePolicy : (s.modDie k f).idePolicy = s.idePolicy := rfl
@[simp] theorem State.modDie_interleaved : (s.modDie k f).interleaved = s.interleaved := rfl
@[simp] theorem State.modDie_exBase : (s.modDie k f).exBase = s.exBase := rfl
@[simp] theorem State.modDie_exSize : (s.modDie k f).exSize = s.exSize := rfl
@[simp] theorem State.modDie_nodeNum : (s.modDie k f).nodeNum = s.nodeNum := rfl
@[simp] theorem State.modDie_routes : (s.modDie k f).routes = s.routes := rfl
@[simp] theorem State.modDie_domain : (s.modDie k f).domain = s.domain := rfl
@[simp] theorem State.modDie_outbox : (s.modDie k f).outbox = s.outbox := rfl
@[simp] theorem State.modDie_linkIde : (s.modDie k f).linkIde = s.linkIde := rfl
@[simp] theorem State.modDie_sparesUsed : (s.modDie k f).sparesUsed = s.sparesUsed := rfl
@[simp] theorem State.modDie_supOvl : (s.modDie k f).supOvl = s.supOvl := rfl
@[simp] theorem State.modDie_supBytes : (s.modDie k f).supBytes = s.supBytes := rfl
@[simp] theorem State.modDie_hbm : (s.modDie k f).hbm = s.hbm := rfl
@[simp] theorem State.modDie_hostMem : (s.modDie k f).hostMem = s.hostMem := rfl
@[simp] theorem State.modDie_peerMem : (s.modDie k f).peerMem = s.peerMem := rfl
@[simp] theorem State.modDie_llc : (s.modDie k f).llc = s.llc := rfl
@[simp] theorem State.modDie_cores : (s.modDie k f).cores = s.cores := rfl
@[simp] theorem State.modDie_teams : (s.modDie k f).teams = s.teams := rfl
@[simp] theorem State.modDie_clusters : (s.modDie k f).clusters = s.clusters := rfl
@[simp] theorem State.modDie_records : (s.modDie k f).records = s.records := rfl
@[simp] theorem State.modDie_copies : (s.modDie k f).copies = s.copies := rfl
@[simp] theorem State.modDie_fills : (s.modDie k f).fills = s.fills := rfl
@[simp] theorem State.modDie_draws : (s.modDie k f).draws = s.draws := rfl
@[simp] theorem State.modDie_held : (s.modDie k f).held = s.held := rfl
@[simp] theorem State.modDie_objReqs : (s.modDie k f).objReqs = s.objReqs := rfl
@[simp] theorem State.modDie_ruleWaits : (s.modDie k f).ruleWaits = s.ruleWaits := rfl
@[simp] theorem State.modDie_det : (s.modDie k f).det = s.det := rfl
@[simp] theorem State.modDie_spaces : (s.modDie k f).spaces = s.spaces := rfl
@[simp] theorem State.modDie_tlb : (s.modDie k f).tlb = s.tlb := rfl
@[simp] theorem State.modDie_walks : (s.modDie k f).walks = s.walks := rfl
@[simp] theorem State.modDie_stable : (s.modDie k f).stable = s.stable := rfl
@[simp] theorem State.modDie_bobbins : (s.modDie k f).bobbins = s.bobbins := rfl
@[simp] theorem State.modDie_queues : (s.modDie k f).queues = s.queues := rfl
@[simp] theorem State.modDie_images : (s.modDie k f).images = s.images := rfl
@[simp] theorem State.modDie_packets : (s.modDie k f).packets = s.packets := rfl
@[simp] theorem State.modDie_grids : (s.modDie k f).grids = s.grids := rfl
@[simp] theorem State.modDie_nodes : (s.modDie k f).nodes = s.nodes := rfl
@[simp] theorem State.modDie_poolSeq : (s.modDie k f).poolSeq = s.poolSeq := rfl
@[simp] theorem State.modDie_turns : (s.modDie k f).turns = s.turns := rfl
@[simp] theorem State.modDie_claims : (s.modDie k f).claims = s.claims := rfl
@[simp] theorem State.modDie_gdones : (s.modDie k f).gdones = s.gdones := rfl
@[simp] theorem State.modDie_parts : (s.modDie k f).parts = s.parts := rfl
@[simp] theorem State.modDie_saved : (s.modDie k f).saved = s.saved := rfl
@[simp] theorem State.modDie_funcs : (s.modDie k f).funcs = s.funcs := rfl
@[simp] theorem State.modDie_ports : (s.modDie k f).ports = s.ports := rfl
@[simp] theorem State.modDie_windows : (s.modDie k f).windows = s.windows := rfl
@[simp] theorem State.modDie_doeOut : (s.modDie k f).doeOut = s.doeOut := rfl
@[simp] theorem State.modDie_fresh : (s.modDie k f).fresh = s.fresh := rfl
@[simp] theorem State.modDie_sched : (s.modDie k f).sched = s.sched := rfl
@[simp] theorem State.modDie_iss : (s.modDie k f).iss = s.iss := rfl
@[simp] theorem State.modDie_core : (s.modDie k f).core j = s.core j := rfl
@[simp] theorem State.modDie_team : (s.modDie k f).team j = s.team j := rfl
@[simp] theorem State.modDie_cluster : (s.modDie k f).cluster j = s.cluster j := rfl
@[simp] theorem State.modDie_part : (s.modDie k f).part j = s.part j := rfl
@[simp] theorem State.modDie_space : (s.modDie k f).space j = s.space j := rfl
@[simp] theorem State.modDie_bobbin : (s.modDie k f).bobbin j = s.bobbin j := rfl
@[simp] theorem State.modDie_queue : (s.modDie k f).queue j = s.queue j := rfl
@[simp] theorem State.modDie_func : (s.modDie k f).func j = s.func j := rfl
@[simp] theorem State.modDie_port : (s.modDie k f).port j = s.port j := rfl
@[simp] theorem State.modDie_die_same : (s.modDie k f).die k = f (s.die k) := nget_nmod_same s.dies k _ f
theorem State.modDie_die_ne (h : j ≠ k) : (s.modDie k f).die j = s.die j := nget_nmod_ne s.dies k j _ f h
end modDie

section modPart
variable (s : State) (k j : Nat) (f : Part → Part)
@[simp] theorem State.modPart_power : (s.modPart k f).power = s.power := rfl
@[simp] theorem State.modPart_boot : (s.modPart k f).boot = s.boot := rfl
@[simp] theorem State.modPart_hotHalt : (s.modPart k f).hotHalt = s.hotHalt := rfl
@[simp] theorem State.modPart_reports : (s.modPart k f).reports = s.reports := rfl
@[simp] theorem State.modPart_monitorImg : (s.modPart k f).monitorImg = s.monitorImg := rfl
@[simp] theorem State.modPart_monitorSig : (s.modPart k f).monitorSig = s.monitorSig := rfl
@[simp] theorem State.modPart_plan : (s.modPart k f).plan = s.plan := rfl
@[simp] theorem State.modPart_idePolicy : (s.modPart k f).idePolicy = s.idePolicy := rfl
@[simp] theorem State.modPart_interleaved : (s.modPart k f).interleaved = s.interleaved := rfl
@[simp] theorem State.modPart_exBase : (s.modPart k f).exBase = s.exBase := rfl
@[simp] theorem State.modPart_exSize : (s.modPart k f).exSize = s.exSize := rfl
@[simp] theorem State.modPart_nodeNum : (s.modPart k f).nodeNum = s.nodeNum := rfl
@[simp] theorem State.modPart_routes : (s.modPart k f).routes = s.routes := rfl
@[simp] theorem State.modPart_domain : (s.modPart k f).domain = s.domain := rfl
@[simp] theorem State.modPart_outbox : (s.modPart k f).outbox = s.outbox := rfl
@[simp] theorem State.modPart_linkIde : (s.modPart k f).linkIde = s.linkIde := rfl
@[simp] theorem State.modPart_sparesUsed : (s.modPart k f).sparesUsed = s.sparesUsed := rfl
@[simp] theorem State.modPart_supOvl : (s.modPart k f).supOvl = s.supOvl := rfl
@[simp] theorem State.modPart_supBytes : (s.modPart k f).supBytes = s.supBytes := rfl
@[simp] theorem State.modPart_hbm : (s.modPart k f).hbm = s.hbm := rfl
@[simp] theorem State.modPart_hostMem : (s.modPart k f).hostMem = s.hostMem := rfl
@[simp] theorem State.modPart_peerMem : (s.modPart k f).peerMem = s.peerMem := rfl
@[simp] theorem State.modPart_llc : (s.modPart k f).llc = s.llc := rfl
@[simp] theorem State.modPart_dies : (s.modPart k f).dies = s.dies := rfl
@[simp] theorem State.modPart_cores : (s.modPart k f).cores = s.cores := rfl
@[simp] theorem State.modPart_teams : (s.modPart k f).teams = s.teams := rfl
@[simp] theorem State.modPart_clusters : (s.modPart k f).clusters = s.clusters := rfl
@[simp] theorem State.modPart_records : (s.modPart k f).records = s.records := rfl
@[simp] theorem State.modPart_copies : (s.modPart k f).copies = s.copies := rfl
@[simp] theorem State.modPart_fills : (s.modPart k f).fills = s.fills := rfl
@[simp] theorem State.modPart_draws : (s.modPart k f).draws = s.draws := rfl
@[simp] theorem State.modPart_held : (s.modPart k f).held = s.held := rfl
@[simp] theorem State.modPart_objReqs : (s.modPart k f).objReqs = s.objReqs := rfl
@[simp] theorem State.modPart_ruleWaits : (s.modPart k f).ruleWaits = s.ruleWaits := rfl
@[simp] theorem State.modPart_det : (s.modPart k f).det = s.det := rfl
@[simp] theorem State.modPart_spaces : (s.modPart k f).spaces = s.spaces := rfl
@[simp] theorem State.modPart_tlb : (s.modPart k f).tlb = s.tlb := rfl
@[simp] theorem State.modPart_walks : (s.modPart k f).walks = s.walks := rfl
@[simp] theorem State.modPart_stable : (s.modPart k f).stable = s.stable := rfl
@[simp] theorem State.modPart_bobbins : (s.modPart k f).bobbins = s.bobbins := rfl
@[simp] theorem State.modPart_queues : (s.modPart k f).queues = s.queues := rfl
@[simp] theorem State.modPart_images : (s.modPart k f).images = s.images := rfl
@[simp] theorem State.modPart_packets : (s.modPart k f).packets = s.packets := rfl
@[simp] theorem State.modPart_grids : (s.modPart k f).grids = s.grids := rfl
@[simp] theorem State.modPart_nodes : (s.modPart k f).nodes = s.nodes := rfl
@[simp] theorem State.modPart_poolSeq : (s.modPart k f).poolSeq = s.poolSeq := rfl
@[simp] theorem State.modPart_turns : (s.modPart k f).turns = s.turns := rfl
@[simp] theorem State.modPart_claims : (s.modPart k f).claims = s.claims := rfl
@[simp] theorem State.modPart_gdones : (s.modPart k f).gdones = s.gdones := rfl
@[simp] theorem State.modPart_saved : (s.modPart k f).saved = s.saved := rfl
@[simp] theorem State.modPart_funcs : (s.modPart k f).funcs = s.funcs := rfl
@[simp] theorem State.modPart_ports : (s.modPart k f).ports = s.ports := rfl
@[simp] theorem State.modPart_windows : (s.modPart k f).windows = s.windows := rfl
@[simp] theorem State.modPart_doeOut : (s.modPart k f).doeOut = s.doeOut := rfl
@[simp] theorem State.modPart_fresh : (s.modPart k f).fresh = s.fresh := rfl
@[simp] theorem State.modPart_sched : (s.modPart k f).sched = s.sched := rfl
@[simp] theorem State.modPart_iss : (s.modPart k f).iss = s.iss := rfl
@[simp] theorem State.modPart_core : (s.modPart k f).core j = s.core j := rfl
@[simp] theorem State.modPart_team : (s.modPart k f).team j = s.team j := rfl
@[simp] theorem State.modPart_cluster : (s.modPart k f).cluster j = s.cluster j := rfl
@[simp] theorem State.modPart_die : (s.modPart k f).die j = s.die j := rfl
@[simp] theorem State.modPart_space : (s.modPart k f).space j = s.space j := rfl
@[simp] theorem State.modPart_bobbin : (s.modPart k f).bobbin j = s.bobbin j := rfl
@[simp] theorem State.modPart_queue : (s.modPart k f).queue j = s.queue j := rfl
@[simp] theorem State.modPart_func : (s.modPart k f).func j = s.func j := rfl
@[simp] theorem State.modPart_port : (s.modPart k f).port j = s.port j := rfl
@[simp] theorem State.modPart_part_same : (s.modPart k f).part k = f (s.part k) := nget_nmod_same s.parts k _ f
theorem State.modPart_part_ne (h : j ≠ k) : (s.modPart k f).part j = s.part j := nget_nmod_ne s.parts k j _ f h
end modPart

section modSpace
variable (s : State) (k j : Nat) (f : Space → Space)
@[simp] theorem State.modSpace_power : (s.modSpace k f).power = s.power := rfl
@[simp] theorem State.modSpace_boot : (s.modSpace k f).boot = s.boot := rfl
@[simp] theorem State.modSpace_hotHalt : (s.modSpace k f).hotHalt = s.hotHalt := rfl
@[simp] theorem State.modSpace_reports : (s.modSpace k f).reports = s.reports := rfl
@[simp] theorem State.modSpace_monitorImg : (s.modSpace k f).monitorImg = s.monitorImg := rfl
@[simp] theorem State.modSpace_monitorSig : (s.modSpace k f).monitorSig = s.monitorSig := rfl
@[simp] theorem State.modSpace_plan : (s.modSpace k f).plan = s.plan := rfl
@[simp] theorem State.modSpace_idePolicy : (s.modSpace k f).idePolicy = s.idePolicy := rfl
@[simp] theorem State.modSpace_interleaved : (s.modSpace k f).interleaved = s.interleaved := rfl
@[simp] theorem State.modSpace_exBase : (s.modSpace k f).exBase = s.exBase := rfl
@[simp] theorem State.modSpace_exSize : (s.modSpace k f).exSize = s.exSize := rfl
@[simp] theorem State.modSpace_nodeNum : (s.modSpace k f).nodeNum = s.nodeNum := rfl
@[simp] theorem State.modSpace_routes : (s.modSpace k f).routes = s.routes := rfl
@[simp] theorem State.modSpace_domain : (s.modSpace k f).domain = s.domain := rfl
@[simp] theorem State.modSpace_outbox : (s.modSpace k f).outbox = s.outbox := rfl
@[simp] theorem State.modSpace_linkIde : (s.modSpace k f).linkIde = s.linkIde := rfl
@[simp] theorem State.modSpace_sparesUsed : (s.modSpace k f).sparesUsed = s.sparesUsed := rfl
@[simp] theorem State.modSpace_supOvl : (s.modSpace k f).supOvl = s.supOvl := rfl
@[simp] theorem State.modSpace_supBytes : (s.modSpace k f).supBytes = s.supBytes := rfl
@[simp] theorem State.modSpace_hbm : (s.modSpace k f).hbm = s.hbm := rfl
@[simp] theorem State.modSpace_hostMem : (s.modSpace k f).hostMem = s.hostMem := rfl
@[simp] theorem State.modSpace_peerMem : (s.modSpace k f).peerMem = s.peerMem := rfl
@[simp] theorem State.modSpace_llc : (s.modSpace k f).llc = s.llc := rfl
@[simp] theorem State.modSpace_dies : (s.modSpace k f).dies = s.dies := rfl
@[simp] theorem State.modSpace_cores : (s.modSpace k f).cores = s.cores := rfl
@[simp] theorem State.modSpace_teams : (s.modSpace k f).teams = s.teams := rfl
@[simp] theorem State.modSpace_clusters : (s.modSpace k f).clusters = s.clusters := rfl
@[simp] theorem State.modSpace_records : (s.modSpace k f).records = s.records := rfl
@[simp] theorem State.modSpace_copies : (s.modSpace k f).copies = s.copies := rfl
@[simp] theorem State.modSpace_fills : (s.modSpace k f).fills = s.fills := rfl
@[simp] theorem State.modSpace_draws : (s.modSpace k f).draws = s.draws := rfl
@[simp] theorem State.modSpace_held : (s.modSpace k f).held = s.held := rfl
@[simp] theorem State.modSpace_objReqs : (s.modSpace k f).objReqs = s.objReqs := rfl
@[simp] theorem State.modSpace_ruleWaits : (s.modSpace k f).ruleWaits = s.ruleWaits := rfl
@[simp] theorem State.modSpace_det : (s.modSpace k f).det = s.det := rfl
@[simp] theorem State.modSpace_tlb : (s.modSpace k f).tlb = s.tlb := rfl
@[simp] theorem State.modSpace_walks : (s.modSpace k f).walks = s.walks := rfl
@[simp] theorem State.modSpace_stable : (s.modSpace k f).stable = s.stable := rfl
@[simp] theorem State.modSpace_bobbins : (s.modSpace k f).bobbins = s.bobbins := rfl
@[simp] theorem State.modSpace_queues : (s.modSpace k f).queues = s.queues := rfl
@[simp] theorem State.modSpace_images : (s.modSpace k f).images = s.images := rfl
@[simp] theorem State.modSpace_packets : (s.modSpace k f).packets = s.packets := rfl
@[simp] theorem State.modSpace_grids : (s.modSpace k f).grids = s.grids := rfl
@[simp] theorem State.modSpace_nodes : (s.modSpace k f).nodes = s.nodes := rfl
@[simp] theorem State.modSpace_poolSeq : (s.modSpace k f).poolSeq = s.poolSeq := rfl
@[simp] theorem State.modSpace_turns : (s.modSpace k f).turns = s.turns := rfl
@[simp] theorem State.modSpace_claims : (s.modSpace k f).claims = s.claims := rfl
@[simp] theorem State.modSpace_gdones : (s.modSpace k f).gdones = s.gdones := rfl
@[simp] theorem State.modSpace_parts : (s.modSpace k f).parts = s.parts := rfl
@[simp] theorem State.modSpace_saved : (s.modSpace k f).saved = s.saved := rfl
@[simp] theorem State.modSpace_funcs : (s.modSpace k f).funcs = s.funcs := rfl
@[simp] theorem State.modSpace_ports : (s.modSpace k f).ports = s.ports := rfl
@[simp] theorem State.modSpace_windows : (s.modSpace k f).windows = s.windows := rfl
@[simp] theorem State.modSpace_doeOut : (s.modSpace k f).doeOut = s.doeOut := rfl
@[simp] theorem State.modSpace_fresh : (s.modSpace k f).fresh = s.fresh := rfl
@[simp] theorem State.modSpace_sched : (s.modSpace k f).sched = s.sched := rfl
@[simp] theorem State.modSpace_iss : (s.modSpace k f).iss = s.iss := rfl
@[simp] theorem State.modSpace_core : (s.modSpace k f).core j = s.core j := rfl
@[simp] theorem State.modSpace_team : (s.modSpace k f).team j = s.team j := rfl
@[simp] theorem State.modSpace_cluster : (s.modSpace k f).cluster j = s.cluster j := rfl
@[simp] theorem State.modSpace_die : (s.modSpace k f).die j = s.die j := rfl
@[simp] theorem State.modSpace_part : (s.modSpace k f).part j = s.part j := rfl
@[simp] theorem State.modSpace_bobbin : (s.modSpace k f).bobbin j = s.bobbin j := rfl
@[simp] theorem State.modSpace_queue : (s.modSpace k f).queue j = s.queue j := rfl
@[simp] theorem State.modSpace_func : (s.modSpace k f).func j = s.func j := rfl
@[simp] theorem State.modSpace_port : (s.modSpace k f).port j = s.port j := rfl
@[simp] theorem State.modSpace_space_same : (s.modSpace k f).space k = f (s.space k) := nget_nmod_same s.spaces k _ f
theorem State.modSpace_space_ne (h : j ≠ k) : (s.modSpace k f).space j = s.space j := nget_nmod_ne s.spaces k j _ f h
end modSpace

section modBobbin
variable (s : State) (k j : Nat) (f : Bobbin → Bobbin)
@[simp] theorem State.modBobbin_power : (s.modBobbin k f).power = s.power := rfl
@[simp] theorem State.modBobbin_boot : (s.modBobbin k f).boot = s.boot := rfl
@[simp] theorem State.modBobbin_hotHalt : (s.modBobbin k f).hotHalt = s.hotHalt := rfl
@[simp] theorem State.modBobbin_reports : (s.modBobbin k f).reports = s.reports := rfl
@[simp] theorem State.modBobbin_monitorImg : (s.modBobbin k f).monitorImg = s.monitorImg := rfl
@[simp] theorem State.modBobbin_monitorSig : (s.modBobbin k f).monitorSig = s.monitorSig := rfl
@[simp] theorem State.modBobbin_plan : (s.modBobbin k f).plan = s.plan := rfl
@[simp] theorem State.modBobbin_idePolicy : (s.modBobbin k f).idePolicy = s.idePolicy := rfl
@[simp] theorem State.modBobbin_interleaved : (s.modBobbin k f).interleaved = s.interleaved := rfl
@[simp] theorem State.modBobbin_exBase : (s.modBobbin k f).exBase = s.exBase := rfl
@[simp] theorem State.modBobbin_exSize : (s.modBobbin k f).exSize = s.exSize := rfl
@[simp] theorem State.modBobbin_nodeNum : (s.modBobbin k f).nodeNum = s.nodeNum := rfl
@[simp] theorem State.modBobbin_routes : (s.modBobbin k f).routes = s.routes := rfl
@[simp] theorem State.modBobbin_domain : (s.modBobbin k f).domain = s.domain := rfl
@[simp] theorem State.modBobbin_outbox : (s.modBobbin k f).outbox = s.outbox := rfl
@[simp] theorem State.modBobbin_linkIde : (s.modBobbin k f).linkIde = s.linkIde := rfl
@[simp] theorem State.modBobbin_sparesUsed : (s.modBobbin k f).sparesUsed = s.sparesUsed := rfl
@[simp] theorem State.modBobbin_supOvl : (s.modBobbin k f).supOvl = s.supOvl := rfl
@[simp] theorem State.modBobbin_supBytes : (s.modBobbin k f).supBytes = s.supBytes := rfl
@[simp] theorem State.modBobbin_hbm : (s.modBobbin k f).hbm = s.hbm := rfl
@[simp] theorem State.modBobbin_hostMem : (s.modBobbin k f).hostMem = s.hostMem := rfl
@[simp] theorem State.modBobbin_peerMem : (s.modBobbin k f).peerMem = s.peerMem := rfl
@[simp] theorem State.modBobbin_llc : (s.modBobbin k f).llc = s.llc := rfl
@[simp] theorem State.modBobbin_dies : (s.modBobbin k f).dies = s.dies := rfl
@[simp] theorem State.modBobbin_cores : (s.modBobbin k f).cores = s.cores := rfl
@[simp] theorem State.modBobbin_teams : (s.modBobbin k f).teams = s.teams := rfl
@[simp] theorem State.modBobbin_clusters : (s.modBobbin k f).clusters = s.clusters := rfl
@[simp] theorem State.modBobbin_records : (s.modBobbin k f).records = s.records := rfl
@[simp] theorem State.modBobbin_copies : (s.modBobbin k f).copies = s.copies := rfl
@[simp] theorem State.modBobbin_fills : (s.modBobbin k f).fills = s.fills := rfl
@[simp] theorem State.modBobbin_draws : (s.modBobbin k f).draws = s.draws := rfl
@[simp] theorem State.modBobbin_held : (s.modBobbin k f).held = s.held := rfl
@[simp] theorem State.modBobbin_objReqs : (s.modBobbin k f).objReqs = s.objReqs := rfl
@[simp] theorem State.modBobbin_ruleWaits : (s.modBobbin k f).ruleWaits = s.ruleWaits := rfl
@[simp] theorem State.modBobbin_det : (s.modBobbin k f).det = s.det := rfl
@[simp] theorem State.modBobbin_spaces : (s.modBobbin k f).spaces = s.spaces := rfl
@[simp] theorem State.modBobbin_tlb : (s.modBobbin k f).tlb = s.tlb := rfl
@[simp] theorem State.modBobbin_walks : (s.modBobbin k f).walks = s.walks := rfl
@[simp] theorem State.modBobbin_stable : (s.modBobbin k f).stable = s.stable := rfl
@[simp] theorem State.modBobbin_queues : (s.modBobbin k f).queues = s.queues := rfl
@[simp] theorem State.modBobbin_images : (s.modBobbin k f).images = s.images := rfl
@[simp] theorem State.modBobbin_packets : (s.modBobbin k f).packets = s.packets := rfl
@[simp] theorem State.modBobbin_grids : (s.modBobbin k f).grids = s.grids := rfl
@[simp] theorem State.modBobbin_nodes : (s.modBobbin k f).nodes = s.nodes := rfl
@[simp] theorem State.modBobbin_poolSeq : (s.modBobbin k f).poolSeq = s.poolSeq := rfl
@[simp] theorem State.modBobbin_turns : (s.modBobbin k f).turns = s.turns := rfl
@[simp] theorem State.modBobbin_claims : (s.modBobbin k f).claims = s.claims := rfl
@[simp] theorem State.modBobbin_gdones : (s.modBobbin k f).gdones = s.gdones := rfl
@[simp] theorem State.modBobbin_parts : (s.modBobbin k f).parts = s.parts := rfl
@[simp] theorem State.modBobbin_saved : (s.modBobbin k f).saved = s.saved := rfl
@[simp] theorem State.modBobbin_funcs : (s.modBobbin k f).funcs = s.funcs := rfl
@[simp] theorem State.modBobbin_ports : (s.modBobbin k f).ports = s.ports := rfl
@[simp] theorem State.modBobbin_windows : (s.modBobbin k f).windows = s.windows := rfl
@[simp] theorem State.modBobbin_doeOut : (s.modBobbin k f).doeOut = s.doeOut := rfl
@[simp] theorem State.modBobbin_fresh : (s.modBobbin k f).fresh = s.fresh := rfl
@[simp] theorem State.modBobbin_sched : (s.modBobbin k f).sched = s.sched := rfl
@[simp] theorem State.modBobbin_iss : (s.modBobbin k f).iss = s.iss := rfl
@[simp] theorem State.modBobbin_core : (s.modBobbin k f).core j = s.core j := rfl
@[simp] theorem State.modBobbin_team : (s.modBobbin k f).team j = s.team j := rfl
@[simp] theorem State.modBobbin_cluster : (s.modBobbin k f).cluster j = s.cluster j := rfl
@[simp] theorem State.modBobbin_die : (s.modBobbin k f).die j = s.die j := rfl
@[simp] theorem State.modBobbin_part : (s.modBobbin k f).part j = s.part j := rfl
@[simp] theorem State.modBobbin_space : (s.modBobbin k f).space j = s.space j := rfl
@[simp] theorem State.modBobbin_queue : (s.modBobbin k f).queue j = s.queue j := rfl
@[simp] theorem State.modBobbin_func : (s.modBobbin k f).func j = s.func j := rfl
@[simp] theorem State.modBobbin_port : (s.modBobbin k f).port j = s.port j := rfl
@[simp] theorem State.modBobbin_bobbin_same : (s.modBobbin k f).bobbin k = f (s.bobbin k) := nget_nmod_same s.bobbins k _ f
theorem State.modBobbin_bobbin_ne (h : j ≠ k) : (s.modBobbin k f).bobbin j = s.bobbin j := nget_nmod_ne s.bobbins k j _ f h
end modBobbin

section modQueue
variable (s : State) (k j : Nat) (f : Queue → Queue)
@[simp] theorem State.modQueue_power : (s.modQueue k f).power = s.power := rfl
@[simp] theorem State.modQueue_boot : (s.modQueue k f).boot = s.boot := rfl
@[simp] theorem State.modQueue_hotHalt : (s.modQueue k f).hotHalt = s.hotHalt := rfl
@[simp] theorem State.modQueue_reports : (s.modQueue k f).reports = s.reports := rfl
@[simp] theorem State.modQueue_monitorImg : (s.modQueue k f).monitorImg = s.monitorImg := rfl
@[simp] theorem State.modQueue_monitorSig : (s.modQueue k f).monitorSig = s.monitorSig := rfl
@[simp] theorem State.modQueue_plan : (s.modQueue k f).plan = s.plan := rfl
@[simp] theorem State.modQueue_idePolicy : (s.modQueue k f).idePolicy = s.idePolicy := rfl
@[simp] theorem State.modQueue_interleaved : (s.modQueue k f).interleaved = s.interleaved := rfl
@[simp] theorem State.modQueue_exBase : (s.modQueue k f).exBase = s.exBase := rfl
@[simp] theorem State.modQueue_exSize : (s.modQueue k f).exSize = s.exSize := rfl
@[simp] theorem State.modQueue_nodeNum : (s.modQueue k f).nodeNum = s.nodeNum := rfl
@[simp] theorem State.modQueue_routes : (s.modQueue k f).routes = s.routes := rfl
@[simp] theorem State.modQueue_domain : (s.modQueue k f).domain = s.domain := rfl
@[simp] theorem State.modQueue_outbox : (s.modQueue k f).outbox = s.outbox := rfl
@[simp] theorem State.modQueue_linkIde : (s.modQueue k f).linkIde = s.linkIde := rfl
@[simp] theorem State.modQueue_sparesUsed : (s.modQueue k f).sparesUsed = s.sparesUsed := rfl
@[simp] theorem State.modQueue_supOvl : (s.modQueue k f).supOvl = s.supOvl := rfl
@[simp] theorem State.modQueue_supBytes : (s.modQueue k f).supBytes = s.supBytes := rfl
@[simp] theorem State.modQueue_hbm : (s.modQueue k f).hbm = s.hbm := rfl
@[simp] theorem State.modQueue_hostMem : (s.modQueue k f).hostMem = s.hostMem := rfl
@[simp] theorem State.modQueue_peerMem : (s.modQueue k f).peerMem = s.peerMem := rfl
@[simp] theorem State.modQueue_llc : (s.modQueue k f).llc = s.llc := rfl
@[simp] theorem State.modQueue_dies : (s.modQueue k f).dies = s.dies := rfl
@[simp] theorem State.modQueue_cores : (s.modQueue k f).cores = s.cores := rfl
@[simp] theorem State.modQueue_teams : (s.modQueue k f).teams = s.teams := rfl
@[simp] theorem State.modQueue_clusters : (s.modQueue k f).clusters = s.clusters := rfl
@[simp] theorem State.modQueue_records : (s.modQueue k f).records = s.records := rfl
@[simp] theorem State.modQueue_copies : (s.modQueue k f).copies = s.copies := rfl
@[simp] theorem State.modQueue_fills : (s.modQueue k f).fills = s.fills := rfl
@[simp] theorem State.modQueue_draws : (s.modQueue k f).draws = s.draws := rfl
@[simp] theorem State.modQueue_held : (s.modQueue k f).held = s.held := rfl
@[simp] theorem State.modQueue_objReqs : (s.modQueue k f).objReqs = s.objReqs := rfl
@[simp] theorem State.modQueue_ruleWaits : (s.modQueue k f).ruleWaits = s.ruleWaits := rfl
@[simp] theorem State.modQueue_det : (s.modQueue k f).det = s.det := rfl
@[simp] theorem State.modQueue_spaces : (s.modQueue k f).spaces = s.spaces := rfl
@[simp] theorem State.modQueue_tlb : (s.modQueue k f).tlb = s.tlb := rfl
@[simp] theorem State.modQueue_walks : (s.modQueue k f).walks = s.walks := rfl
@[simp] theorem State.modQueue_stable : (s.modQueue k f).stable = s.stable := rfl
@[simp] theorem State.modQueue_bobbins : (s.modQueue k f).bobbins = s.bobbins := rfl
@[simp] theorem State.modQueue_images : (s.modQueue k f).images = s.images := rfl
@[simp] theorem State.modQueue_packets : (s.modQueue k f).packets = s.packets := rfl
@[simp] theorem State.modQueue_grids : (s.modQueue k f).grids = s.grids := rfl
@[simp] theorem State.modQueue_nodes : (s.modQueue k f).nodes = s.nodes := rfl
@[simp] theorem State.modQueue_poolSeq : (s.modQueue k f).poolSeq = s.poolSeq := rfl
@[simp] theorem State.modQueue_turns : (s.modQueue k f).turns = s.turns := rfl
@[simp] theorem State.modQueue_claims : (s.modQueue k f).claims = s.claims := rfl
@[simp] theorem State.modQueue_gdones : (s.modQueue k f).gdones = s.gdones := rfl
@[simp] theorem State.modQueue_parts : (s.modQueue k f).parts = s.parts := rfl
@[simp] theorem State.modQueue_saved : (s.modQueue k f).saved = s.saved := rfl
@[simp] theorem State.modQueue_funcs : (s.modQueue k f).funcs = s.funcs := rfl
@[simp] theorem State.modQueue_ports : (s.modQueue k f).ports = s.ports := rfl
@[simp] theorem State.modQueue_windows : (s.modQueue k f).windows = s.windows := rfl
@[simp] theorem State.modQueue_doeOut : (s.modQueue k f).doeOut = s.doeOut := rfl
@[simp] theorem State.modQueue_fresh : (s.modQueue k f).fresh = s.fresh := rfl
@[simp] theorem State.modQueue_sched : (s.modQueue k f).sched = s.sched := rfl
@[simp] theorem State.modQueue_iss : (s.modQueue k f).iss = s.iss := rfl
@[simp] theorem State.modQueue_core : (s.modQueue k f).core j = s.core j := rfl
@[simp] theorem State.modQueue_team : (s.modQueue k f).team j = s.team j := rfl
@[simp] theorem State.modQueue_cluster : (s.modQueue k f).cluster j = s.cluster j := rfl
@[simp] theorem State.modQueue_die : (s.modQueue k f).die j = s.die j := rfl
@[simp] theorem State.modQueue_part : (s.modQueue k f).part j = s.part j := rfl
@[simp] theorem State.modQueue_space : (s.modQueue k f).space j = s.space j := rfl
@[simp] theorem State.modQueue_bobbin : (s.modQueue k f).bobbin j = s.bobbin j := rfl
@[simp] theorem State.modQueue_func : (s.modQueue k f).func j = s.func j := rfl
@[simp] theorem State.modQueue_port : (s.modQueue k f).port j = s.port j := rfl
@[simp] theorem State.modQueue_queue_same : (s.modQueue k f).queue k = f (s.queue k) := nget_nmod_same s.queues k _ f
theorem State.modQueue_queue_ne (h : j ≠ k) : (s.modQueue k f).queue j = s.queue j := nget_nmod_ne s.queues k j _ f h
end modQueue

section modFunc
variable (s : State) (k j : Nat) (f : Func → Func)
@[simp] theorem State.modFunc_power : (s.modFunc k f).power = s.power := rfl
@[simp] theorem State.modFunc_boot : (s.modFunc k f).boot = s.boot := rfl
@[simp] theorem State.modFunc_hotHalt : (s.modFunc k f).hotHalt = s.hotHalt := rfl
@[simp] theorem State.modFunc_reports : (s.modFunc k f).reports = s.reports := rfl
@[simp] theorem State.modFunc_monitorImg : (s.modFunc k f).monitorImg = s.monitorImg := rfl
@[simp] theorem State.modFunc_monitorSig : (s.modFunc k f).monitorSig = s.monitorSig := rfl
@[simp] theorem State.modFunc_plan : (s.modFunc k f).plan = s.plan := rfl
@[simp] theorem State.modFunc_idePolicy : (s.modFunc k f).idePolicy = s.idePolicy := rfl
@[simp] theorem State.modFunc_interleaved : (s.modFunc k f).interleaved = s.interleaved := rfl
@[simp] theorem State.modFunc_exBase : (s.modFunc k f).exBase = s.exBase := rfl
@[simp] theorem State.modFunc_exSize : (s.modFunc k f).exSize = s.exSize := rfl
@[simp] theorem State.modFunc_nodeNum : (s.modFunc k f).nodeNum = s.nodeNum := rfl
@[simp] theorem State.modFunc_routes : (s.modFunc k f).routes = s.routes := rfl
@[simp] theorem State.modFunc_domain : (s.modFunc k f).domain = s.domain := rfl
@[simp] theorem State.modFunc_outbox : (s.modFunc k f).outbox = s.outbox := rfl
@[simp] theorem State.modFunc_linkIde : (s.modFunc k f).linkIde = s.linkIde := rfl
@[simp] theorem State.modFunc_sparesUsed : (s.modFunc k f).sparesUsed = s.sparesUsed := rfl
@[simp] theorem State.modFunc_supOvl : (s.modFunc k f).supOvl = s.supOvl := rfl
@[simp] theorem State.modFunc_supBytes : (s.modFunc k f).supBytes = s.supBytes := rfl
@[simp] theorem State.modFunc_hbm : (s.modFunc k f).hbm = s.hbm := rfl
@[simp] theorem State.modFunc_hostMem : (s.modFunc k f).hostMem = s.hostMem := rfl
@[simp] theorem State.modFunc_peerMem : (s.modFunc k f).peerMem = s.peerMem := rfl
@[simp] theorem State.modFunc_llc : (s.modFunc k f).llc = s.llc := rfl
@[simp] theorem State.modFunc_dies : (s.modFunc k f).dies = s.dies := rfl
@[simp] theorem State.modFunc_cores : (s.modFunc k f).cores = s.cores := rfl
@[simp] theorem State.modFunc_teams : (s.modFunc k f).teams = s.teams := rfl
@[simp] theorem State.modFunc_clusters : (s.modFunc k f).clusters = s.clusters := rfl
@[simp] theorem State.modFunc_records : (s.modFunc k f).records = s.records := rfl
@[simp] theorem State.modFunc_copies : (s.modFunc k f).copies = s.copies := rfl
@[simp] theorem State.modFunc_fills : (s.modFunc k f).fills = s.fills := rfl
@[simp] theorem State.modFunc_draws : (s.modFunc k f).draws = s.draws := rfl
@[simp] theorem State.modFunc_held : (s.modFunc k f).held = s.held := rfl
@[simp] theorem State.modFunc_objReqs : (s.modFunc k f).objReqs = s.objReqs := rfl
@[simp] theorem State.modFunc_ruleWaits : (s.modFunc k f).ruleWaits = s.ruleWaits := rfl
@[simp] theorem State.modFunc_det : (s.modFunc k f).det = s.det := rfl
@[simp] theorem State.modFunc_spaces : (s.modFunc k f).spaces = s.spaces := rfl
@[simp] theorem State.modFunc_tlb : (s.modFunc k f).tlb = s.tlb := rfl
@[simp] theorem State.modFunc_walks : (s.modFunc k f).walks = s.walks := rfl
@[simp] theorem State.modFunc_stable : (s.modFunc k f).stable = s.stable := rfl
@[simp] theorem State.modFunc_bobbins : (s.modFunc k f).bobbins = s.bobbins := rfl
@[simp] theorem State.modFunc_queues : (s.modFunc k f).queues = s.queues := rfl
@[simp] theorem State.modFunc_images : (s.modFunc k f).images = s.images := rfl
@[simp] theorem State.modFunc_packets : (s.modFunc k f).packets = s.packets := rfl
@[simp] theorem State.modFunc_grids : (s.modFunc k f).grids = s.grids := rfl
@[simp] theorem State.modFunc_nodes : (s.modFunc k f).nodes = s.nodes := rfl
@[simp] theorem State.modFunc_poolSeq : (s.modFunc k f).poolSeq = s.poolSeq := rfl
@[simp] theorem State.modFunc_turns : (s.modFunc k f).turns = s.turns := rfl
@[simp] theorem State.modFunc_claims : (s.modFunc k f).claims = s.claims := rfl
@[simp] theorem State.modFunc_gdones : (s.modFunc k f).gdones = s.gdones := rfl
@[simp] theorem State.modFunc_parts : (s.modFunc k f).parts = s.parts := rfl
@[simp] theorem State.modFunc_saved : (s.modFunc k f).saved = s.saved := rfl
@[simp] theorem State.modFunc_ports : (s.modFunc k f).ports = s.ports := rfl
@[simp] theorem State.modFunc_windows : (s.modFunc k f).windows = s.windows := rfl
@[simp] theorem State.modFunc_doeOut : (s.modFunc k f).doeOut = s.doeOut := rfl
@[simp] theorem State.modFunc_fresh : (s.modFunc k f).fresh = s.fresh := rfl
@[simp] theorem State.modFunc_sched : (s.modFunc k f).sched = s.sched := rfl
@[simp] theorem State.modFunc_iss : (s.modFunc k f).iss = s.iss := rfl
@[simp] theorem State.modFunc_core : (s.modFunc k f).core j = s.core j := rfl
@[simp] theorem State.modFunc_team : (s.modFunc k f).team j = s.team j := rfl
@[simp] theorem State.modFunc_cluster : (s.modFunc k f).cluster j = s.cluster j := rfl
@[simp] theorem State.modFunc_die : (s.modFunc k f).die j = s.die j := rfl
@[simp] theorem State.modFunc_part : (s.modFunc k f).part j = s.part j := rfl
@[simp] theorem State.modFunc_space : (s.modFunc k f).space j = s.space j := rfl
@[simp] theorem State.modFunc_bobbin : (s.modFunc k f).bobbin j = s.bobbin j := rfl
@[simp] theorem State.modFunc_queue : (s.modFunc k f).queue j = s.queue j := rfl
@[simp] theorem State.modFunc_port : (s.modFunc k f).port j = s.port j := rfl
@[simp] theorem State.modFunc_func_same : (s.modFunc k f).func k = f (s.func k) := nget_nmod_same s.funcs k _ f
theorem State.modFunc_func_ne (h : j ≠ k) : (s.modFunc k f).func j = s.func j := nget_nmod_ne s.funcs k j _ f h
end modFunc

section modPort
variable (s : State) (k j : Nat) (f : Port → Port)
@[simp] theorem State.modPort_power : (s.modPort k f).power = s.power := rfl
@[simp] theorem State.modPort_boot : (s.modPort k f).boot = s.boot := rfl
@[simp] theorem State.modPort_hotHalt : (s.modPort k f).hotHalt = s.hotHalt := rfl
@[simp] theorem State.modPort_reports : (s.modPort k f).reports = s.reports := rfl
@[simp] theorem State.modPort_monitorImg : (s.modPort k f).monitorImg = s.monitorImg := rfl
@[simp] theorem State.modPort_monitorSig : (s.modPort k f).monitorSig = s.monitorSig := rfl
@[simp] theorem State.modPort_plan : (s.modPort k f).plan = s.plan := rfl
@[simp] theorem State.modPort_idePolicy : (s.modPort k f).idePolicy = s.idePolicy := rfl
@[simp] theorem State.modPort_interleaved : (s.modPort k f).interleaved = s.interleaved := rfl
@[simp] theorem State.modPort_exBase : (s.modPort k f).exBase = s.exBase := rfl
@[simp] theorem State.modPort_exSize : (s.modPort k f).exSize = s.exSize := rfl
@[simp] theorem State.modPort_nodeNum : (s.modPort k f).nodeNum = s.nodeNum := rfl
@[simp] theorem State.modPort_routes : (s.modPort k f).routes = s.routes := rfl
@[simp] theorem State.modPort_domain : (s.modPort k f).domain = s.domain := rfl
@[simp] theorem State.modPort_outbox : (s.modPort k f).outbox = s.outbox := rfl
@[simp] theorem State.modPort_linkIde : (s.modPort k f).linkIde = s.linkIde := rfl
@[simp] theorem State.modPort_sparesUsed : (s.modPort k f).sparesUsed = s.sparesUsed := rfl
@[simp] theorem State.modPort_supOvl : (s.modPort k f).supOvl = s.supOvl := rfl
@[simp] theorem State.modPort_supBytes : (s.modPort k f).supBytes = s.supBytes := rfl
@[simp] theorem State.modPort_hbm : (s.modPort k f).hbm = s.hbm := rfl
@[simp] theorem State.modPort_hostMem : (s.modPort k f).hostMem = s.hostMem := rfl
@[simp] theorem State.modPort_peerMem : (s.modPort k f).peerMem = s.peerMem := rfl
@[simp] theorem State.modPort_llc : (s.modPort k f).llc = s.llc := rfl
@[simp] theorem State.modPort_dies : (s.modPort k f).dies = s.dies := rfl
@[simp] theorem State.modPort_cores : (s.modPort k f).cores = s.cores := rfl
@[simp] theorem State.modPort_teams : (s.modPort k f).teams = s.teams := rfl
@[simp] theorem State.modPort_clusters : (s.modPort k f).clusters = s.clusters := rfl
@[simp] theorem State.modPort_records : (s.modPort k f).records = s.records := rfl
@[simp] theorem State.modPort_copies : (s.modPort k f).copies = s.copies := rfl
@[simp] theorem State.modPort_fills : (s.modPort k f).fills = s.fills := rfl
@[simp] theorem State.modPort_draws : (s.modPort k f).draws = s.draws := rfl
@[simp] theorem State.modPort_held : (s.modPort k f).held = s.held := rfl
@[simp] theorem State.modPort_objReqs : (s.modPort k f).objReqs = s.objReqs := rfl
@[simp] theorem State.modPort_ruleWaits : (s.modPort k f).ruleWaits = s.ruleWaits := rfl
@[simp] theorem State.modPort_det : (s.modPort k f).det = s.det := rfl
@[simp] theorem State.modPort_spaces : (s.modPort k f).spaces = s.spaces := rfl
@[simp] theorem State.modPort_tlb : (s.modPort k f).tlb = s.tlb := rfl
@[simp] theorem State.modPort_walks : (s.modPort k f).walks = s.walks := rfl
@[simp] theorem State.modPort_stable : (s.modPort k f).stable = s.stable := rfl
@[simp] theorem State.modPort_bobbins : (s.modPort k f).bobbins = s.bobbins := rfl
@[simp] theorem State.modPort_queues : (s.modPort k f).queues = s.queues := rfl
@[simp] theorem State.modPort_images : (s.modPort k f).images = s.images := rfl
@[simp] theorem State.modPort_packets : (s.modPort k f).packets = s.packets := rfl
@[simp] theorem State.modPort_grids : (s.modPort k f).grids = s.grids := rfl
@[simp] theorem State.modPort_nodes : (s.modPort k f).nodes = s.nodes := rfl
@[simp] theorem State.modPort_poolSeq : (s.modPort k f).poolSeq = s.poolSeq := rfl
@[simp] theorem State.modPort_turns : (s.modPort k f).turns = s.turns := rfl
@[simp] theorem State.modPort_claims : (s.modPort k f).claims = s.claims := rfl
@[simp] theorem State.modPort_gdones : (s.modPort k f).gdones = s.gdones := rfl
@[simp] theorem State.modPort_parts : (s.modPort k f).parts = s.parts := rfl
@[simp] theorem State.modPort_saved : (s.modPort k f).saved = s.saved := rfl
@[simp] theorem State.modPort_funcs : (s.modPort k f).funcs = s.funcs := rfl
@[simp] theorem State.modPort_windows : (s.modPort k f).windows = s.windows := rfl
@[simp] theorem State.modPort_doeOut : (s.modPort k f).doeOut = s.doeOut := rfl
@[simp] theorem State.modPort_fresh : (s.modPort k f).fresh = s.fresh := rfl
@[simp] theorem State.modPort_sched : (s.modPort k f).sched = s.sched := rfl
@[simp] theorem State.modPort_iss : (s.modPort k f).iss = s.iss := rfl
@[simp] theorem State.modPort_core : (s.modPort k f).core j = s.core j := rfl
@[simp] theorem State.modPort_team : (s.modPort k f).team j = s.team j := rfl
@[simp] theorem State.modPort_cluster : (s.modPort k f).cluster j = s.cluster j := rfl
@[simp] theorem State.modPort_die : (s.modPort k f).die j = s.die j := rfl
@[simp] theorem State.modPort_part : (s.modPort k f).part j = s.part j := rfl
@[simp] theorem State.modPort_space : (s.modPort k f).space j = s.space j := rfl
@[simp] theorem State.modPort_bobbin : (s.modPort k f).bobbin j = s.bobbin j := rfl
@[simp] theorem State.modPort_queue : (s.modPort k f).queue j = s.queue j := rfl
@[simp] theorem State.modPort_func : (s.modPort k f).func j = s.func j := rfl
@[simp] theorem State.modPort_port_same : (s.modPort k f).port k = f (s.port k) := nget_nmod_same s.ports k _ f
theorem State.modPort_port_ne (h : j ≠ k) : (s.modPort k f).port j = s.port j := nget_nmod_ne s.ports k j _ f h
end modPort

section bump
variable (s : State)
@[simp] theorem State.bump_power : (s.bump).power = s.power := rfl
@[simp] theorem State.bump_boot : (s.bump).boot = s.boot := rfl
@[simp] theorem State.bump_hotHalt : (s.bump).hotHalt = s.hotHalt := rfl
@[simp] theorem State.bump_reports : (s.bump).reports = s.reports := rfl
@[simp] theorem State.bump_monitorImg : (s.bump).monitorImg = s.monitorImg := rfl
@[simp] theorem State.bump_monitorSig : (s.bump).monitorSig = s.monitorSig := rfl
@[simp] theorem State.bump_plan : (s.bump).plan = s.plan := rfl
@[simp] theorem State.bump_idePolicy : (s.bump).idePolicy = s.idePolicy := rfl
@[simp] theorem State.bump_interleaved : (s.bump).interleaved = s.interleaved := rfl
@[simp] theorem State.bump_exBase : (s.bump).exBase = s.exBase := rfl
@[simp] theorem State.bump_exSize : (s.bump).exSize = s.exSize := rfl
@[simp] theorem State.bump_nodeNum : (s.bump).nodeNum = s.nodeNum := rfl
@[simp] theorem State.bump_routes : (s.bump).routes = s.routes := rfl
@[simp] theorem State.bump_domain : (s.bump).domain = s.domain := rfl
@[simp] theorem State.bump_outbox : (s.bump).outbox = s.outbox := rfl
@[simp] theorem State.bump_linkIde : (s.bump).linkIde = s.linkIde := rfl
@[simp] theorem State.bump_sparesUsed : (s.bump).sparesUsed = s.sparesUsed := rfl
@[simp] theorem State.bump_supOvl : (s.bump).supOvl = s.supOvl := rfl
@[simp] theorem State.bump_supBytes : (s.bump).supBytes = s.supBytes := rfl
@[simp] theorem State.bump_hbm : (s.bump).hbm = s.hbm := rfl
@[simp] theorem State.bump_hostMem : (s.bump).hostMem = s.hostMem := rfl
@[simp] theorem State.bump_peerMem : (s.bump).peerMem = s.peerMem := rfl
@[simp] theorem State.bump_llc : (s.bump).llc = s.llc := rfl
@[simp] theorem State.bump_dies : (s.bump).dies = s.dies := rfl
@[simp] theorem State.bump_cores : (s.bump).cores = s.cores := rfl
@[simp] theorem State.bump_teams : (s.bump).teams = s.teams := rfl
@[simp] theorem State.bump_clusters : (s.bump).clusters = s.clusters := rfl
@[simp] theorem State.bump_records : (s.bump).records = s.records := rfl
@[simp] theorem State.bump_copies : (s.bump).copies = s.copies := rfl
@[simp] theorem State.bump_fills : (s.bump).fills = s.fills := rfl
@[simp] theorem State.bump_draws : (s.bump).draws = s.draws := rfl
@[simp] theorem State.bump_held : (s.bump).held = s.held := rfl
@[simp] theorem State.bump_objReqs : (s.bump).objReqs = s.objReqs := rfl
@[simp] theorem State.bump_ruleWaits : (s.bump).ruleWaits = s.ruleWaits := rfl
@[simp] theorem State.bump_det : (s.bump).det = s.det := rfl
@[simp] theorem State.bump_spaces : (s.bump).spaces = s.spaces := rfl
@[simp] theorem State.bump_tlb : (s.bump).tlb = s.tlb := rfl
@[simp] theorem State.bump_walks : (s.bump).walks = s.walks := rfl
@[simp] theorem State.bump_stable : (s.bump).stable = s.stable := rfl
@[simp] theorem State.bump_bobbins : (s.bump).bobbins = s.bobbins := rfl
@[simp] theorem State.bump_queues : (s.bump).queues = s.queues := rfl
@[simp] theorem State.bump_images : (s.bump).images = s.images := rfl
@[simp] theorem State.bump_packets : (s.bump).packets = s.packets := rfl
@[simp] theorem State.bump_grids : (s.bump).grids = s.grids := rfl
@[simp] theorem State.bump_nodes : (s.bump).nodes = s.nodes := rfl
@[simp] theorem State.bump_poolSeq : (s.bump).poolSeq = s.poolSeq := rfl
@[simp] theorem State.bump_turns : (s.bump).turns = s.turns := rfl
@[simp] theorem State.bump_claims : (s.bump).claims = s.claims := rfl
@[simp] theorem State.bump_gdones : (s.bump).gdones = s.gdones := rfl
@[simp] theorem State.bump_parts : (s.bump).parts = s.parts := rfl
@[simp] theorem State.bump_saved : (s.bump).saved = s.saved := rfl
@[simp] theorem State.bump_funcs : (s.bump).funcs = s.funcs := rfl
@[simp] theorem State.bump_ports : (s.bump).ports = s.ports := rfl
@[simp] theorem State.bump_windows : (s.bump).windows = s.windows := rfl
@[simp] theorem State.bump_doeOut : (s.bump).doeOut = s.doeOut := rfl
@[simp] theorem State.bump_sched : (s.bump).sched = s.sched := rfl
@[simp] theorem State.bump_iss : (s.bump).iss = s.iss := rfl
end bump

section report
variable (s : State) (n : Nat)
@[simp] theorem State.report_power : (s.report n).power = s.power := rfl
@[simp] theorem State.report_boot : (s.report n).boot = s.boot := rfl
@[simp] theorem State.report_hotHalt : (s.report n).hotHalt = s.hotHalt := rfl
@[simp] theorem State.report_monitorImg : (s.report n).monitorImg = s.monitorImg := rfl
@[simp] theorem State.report_monitorSig : (s.report n).monitorSig = s.monitorSig := rfl
@[simp] theorem State.report_plan : (s.report n).plan = s.plan := rfl
@[simp] theorem State.report_idePolicy : (s.report n).idePolicy = s.idePolicy := rfl
@[simp] theorem State.report_interleaved : (s.report n).interleaved = s.interleaved := rfl
@[simp] theorem State.report_exBase : (s.report n).exBase = s.exBase := rfl
@[simp] theorem State.report_exSize : (s.report n).exSize = s.exSize := rfl
@[simp] theorem State.report_nodeNum : (s.report n).nodeNum = s.nodeNum := rfl
@[simp] theorem State.report_routes : (s.report n).routes = s.routes := rfl
@[simp] theorem State.report_domain : (s.report n).domain = s.domain := rfl
@[simp] theorem State.report_outbox : (s.report n).outbox = s.outbox := rfl
@[simp] theorem State.report_linkIde : (s.report n).linkIde = s.linkIde := rfl
@[simp] theorem State.report_sparesUsed : (s.report n).sparesUsed = s.sparesUsed := rfl
@[simp] theorem State.report_supOvl : (s.report n).supOvl = s.supOvl := rfl
@[simp] theorem State.report_supBytes : (s.report n).supBytes = s.supBytes := rfl
@[simp] theorem State.report_hbm : (s.report n).hbm = s.hbm := rfl
@[simp] theorem State.report_hostMem : (s.report n).hostMem = s.hostMem := rfl
@[simp] theorem State.report_peerMem : (s.report n).peerMem = s.peerMem := rfl
@[simp] theorem State.report_llc : (s.report n).llc = s.llc := rfl
@[simp] theorem State.report_dies : (s.report n).dies = s.dies := rfl
@[simp] theorem State.report_cores : (s.report n).cores = s.cores := rfl
@[simp] theorem State.report_teams : (s.report n).teams = s.teams := rfl
@[simp] theorem State.report_clusters : (s.report n).clusters = s.clusters := rfl
@[simp] theorem State.report_records : (s.report n).records = s.records := rfl
@[simp] theorem State.report_copies : (s.report n).copies = s.copies := rfl
@[simp] theorem State.report_fills : (s.report n).fills = s.fills := rfl
@[simp] theorem State.report_draws : (s.report n).draws = s.draws := rfl
@[simp] theorem State.report_held : (s.report n).held = s.held := rfl
@[simp] theorem State.report_objReqs : (s.report n).objReqs = s.objReqs := rfl
@[simp] theorem State.report_ruleWaits : (s.report n).ruleWaits = s.ruleWaits := rfl
@[simp] theorem State.report_det : (s.report n).det = s.det := rfl
@[simp] theorem State.report_spaces : (s.report n).spaces = s.spaces := rfl
@[simp] theorem State.report_tlb : (s.report n).tlb = s.tlb := rfl
@[simp] theorem State.report_walks : (s.report n).walks = s.walks := rfl
@[simp] theorem State.report_stable : (s.report n).stable = s.stable := rfl
@[simp] theorem State.report_bobbins : (s.report n).bobbins = s.bobbins := rfl
@[simp] theorem State.report_queues : (s.report n).queues = s.queues := rfl
@[simp] theorem State.report_images : (s.report n).images = s.images := rfl
@[simp] theorem State.report_packets : (s.report n).packets = s.packets := rfl
@[simp] theorem State.report_grids : (s.report n).grids = s.grids := rfl
@[simp] theorem State.report_nodes : (s.report n).nodes = s.nodes := rfl
@[simp] theorem State.report_poolSeq : (s.report n).poolSeq = s.poolSeq := rfl
@[simp] theorem State.report_turns : (s.report n).turns = s.turns := rfl
@[simp] theorem State.report_claims : (s.report n).claims = s.claims := rfl
@[simp] theorem State.report_gdones : (s.report n).gdones = s.gdones := rfl
@[simp] theorem State.report_parts : (s.report n).parts = s.parts := rfl
@[simp] theorem State.report_saved : (s.report n).saved = s.saved := rfl
@[simp] theorem State.report_funcs : (s.report n).funcs = s.funcs := rfl
@[simp] theorem State.report_ports : (s.report n).ports = s.ports := rfl
@[simp] theorem State.report_windows : (s.report n).windows = s.windows := rfl
@[simp] theorem State.report_doeOut : (s.report n).doeOut = s.doeOut := rfl
@[simp] theorem State.report_fresh : (s.report n).fresh = s.fresh := rfl
@[simp] theorem State.report_sched : (s.report n).sched = s.sched := rfl
@[simp] theorem State.report_iss : (s.report n).iss = s.iss := rfl
end report

end Sys2Proof.Machine
end

