-- ==== Sys2Proof/Laws/Access.lean ====
section
/-! SUPPORT. What memory operations leave alone: the issue in progress, whatever the access does to caches and memories. -/

namespace Sys2Proof.Machine
open Sys2Proof

@[simp] theorem fillLlc_iss (s : State) (q : Nat) : (s.fillLlc q).iss = s.iss := by
  unfold State.fillLlc
  split <;> rfl

@[simp] theorem fillHome_iss (s : State) (q : Nat) : (s.fillHome q).iss = s.iss := by
  unfold State.fillHome
  split
  · rfl
  · simp

@[simp] theorem fillDie_iss (s : State) (d q : Nat) : (s.fillDie d q).iss = s.iss := by
  unfold State.fillDie
  split
  · rfl
  · dsimp only
    split <;> simp

@[simp] theorem fillCore_iss (s : State) (c q : Nat) : (s.fillCore c q).iss = s.iss := by
  unfold State.fillCore
  split
  · rfl
  · simp

theorem foldl_keeps {α β : Type} (p : State → β) (f : State → α → State) (hf : ∀ s a, p (f s a) = p s) (l : List α) (s : State) :
    p (l.foldl f s) = p s := by
  induction l generalizing s with
  | nil => rfl
  | cons a r ih => rw [List.foldl_cons, ih, hf]

theorem foldl_keeps_fst {α β γ : Type} (p : State → β) (f : State × γ → α → State × γ) (hf : ∀ x a, p (f x a).1 = p x.1)
    (l : List α) (x : State × γ) : p (l.foldl f x).1 = p x.1 := by
  induction l generalizing x with
  | nil => rfl
  | cons a r ih => rw [List.foldl_cons, ih, hf]

@[simp] theorem coreTouch_iss (s : State) (c pa n : Nat) : (s.coreTouch c pa n).iss = s.iss := by
  unfold State.coreTouch
  split
  · exact foldl_keeps (·.iss) _ (fun s p => by simp) _ _
  · rfl

@[simp] theorem homeWriteHbm_iss (s : State) (pa : Nat) (bs : List Byte) : (s.homeWriteHbm pa bs).iss = s.iss := by
  unfold State.homeWriteHbm
  exact foldl_keeps_fst (·.iss) _ (fun x p => by simp) _ _

@[simp] theorem peerWrite_iss (s : State) (n pa : Nat) (bs : List Byte) : (s.peerWrite n pa bs).iss = s.iss := by
  unfold State.peerWrite
  split <;> rfl

@[simp] theorem homeWrite_iss (s : State) (pa : Nat) (bs : List Byte) : (s.homeWrite pa bs).iss = s.iss := by
  unfold State.homeWrite
  split
  · simp
  · rfl
  · split <;> simp

@[simp] theorem homePut_iss (s : State) (pa n v : Nat) : (s.homePut pa n v).iss = s.iss := homeWrite_iss _ _ _

@[simp] theorem coreWrite_iss (s : State) (c pa : Nat) (bs : List Byte) : (s.coreWrite c pa bs).iss = s.iss := by
  unfold State.coreWrite
  split
  · exact foldl_keeps_fst (·.iss) _ (fun x p => by simp) _ _
  · simp

@[simp] theorem orLeaf_iss (s : State) (a m : Nat) : (s.orLeaf a m).iss = s.iss := homePut_iss _ _ _ _

@[simp] theorem tlbPut_iss (s : State) (t : TlbId) (a : Nat) (l : Leaf) : (s.tlbPut t a l).iss = s.iss := rfl

@[simp] theorem tlbMiss_iss (s : State) (t : TlbId) (w : Bool) : (s.tlbMiss t w).iss = s.iss := by
  unfold State.tlbMiss
  split <;> simp

@[simp] theorem keepWalk_iss (s : State) (a va : Nat) : (s.keepWalk a va).iss = s.iss := rfl

@[simp] theorem tlbFill_iss (s : State) (t : TlbId) (a : Nat) (l : Leaf) : (s.tlbFill t a l).iss = s.iss := by
  unfold State.tlbFill
  dsimp only
  split <;> split <;> simp

theorem lookup_iss {s t : State} {l : Leaf} {tlb : TlbId} {a va : Nat} (h : s.lookup tlb a va = .ok (t, l)) : t.iss = s.iss := by
  unfold State.lookup at h
  split at h
  · cases h
  · split at h
    · cases h; rfl
    · split at h
      · cases h; simp
      · split at h
        · cases h
        · cases h; simp

@[simp] theorem markM_iss (s : State) (t : TlbId) (a : Nat) (l : Leaf) : (s.markM t a l).iss = s.iss := by
  unfold State.markM
  split
  · rfl
  · simp

theorem translate_iss {s t : State} {tlb : TlbId} {a va : Nat} {k : Acc} {pa e : Nat} (h : s.translate tlb a va k = .ok (t, pa, e)) :
    t.iss = s.iss := by
  unfold State.translate at h
  split at h
  · cases h
  · rename_i u l hl
    split at h
    · cases h
    · split at h
      · cases h
        split
        · rw [markM_iss, lookup_iss hl]
        · exact lookup_iss hl
      · cases h

@[simp] theorem record_iss' (s : State) (c : Nat) (bs : List Byte) : (s.record c bs).iss = s.iss := by
  unfold State.record
  dsimp only
  split <;> simp

@[simp] theorem contribute_iss (s : State) (i rank off : Nat) (v : Word) : (s.contribute i rank off v).iss = s.iss := by
  unfold State.contribute
  split
  · rfl
  · split
    · rfl
    · dsimp only
      split
      · rfl
      · split
        · rw [homePut_iss]; simp [State.modWindow]
        · simp [State.modWindow]

@[simp] theorem windowStore_iss (s : State) (off : Nat) (bs : List Byte) (skip : Nat → Bool) : (s.windowStore off bs skip).iss = s.iss := by
  unfold State.windowStore
  split
  · rfl
  · split
    · dsimp only
      split
      · rfl
      · simp
    · exact foldl_keeps (·.iss) _ (fun s x => by split <;> simp) _ _

@[simp] theorem detAdd_iss (s : State) (u : UnitKey) (c : Contribution) : (s.detAdd u c).iss = s.iss := by
  unfold State.detAdd
  split <;> rfl

@[simp] theorem viewWrite_iss (s : State) (u : UnitKey) (pa va : Nat) (bs : List Byte) : (s.viewWrite u pa va bs).iss = s.iss := rfl

@[simp] theorem physStore_iss (s : State) (w : Who) (c pa : Nat) (u : Bool) (bs : List Byte) (skip : Nat → Bool) :
    (s.physStore w c pa u bs skip).iss = s.iss := by
  unfold State.physStore
  split
  · simp
  · rfl
  · split <;> simp

@[simp] theorem recordHem_iss (s : State) (w : Bool) (a b c d : Nat) : (s.recordHem w a b c d).iss = s.iss := by
  unfold State.recordHem
  split <;> rfl

@[simp] theorem nearWrite_iss (s : State) (l : Loc) (bs : List Byte) : (s.nearWrite l bs).iss = s.iss := by
  unfold State.nearWrite
  split <;> rfl

@[simp] theorem noteStable_iss (s : State) (a e pa n : Nat) : (s.noteStable a e pa n).iss = s.iss := by
  unfold State.noteStable
  split <;> rfl

theorem loadBy_iss {s t : State} {tlb : TlbId} {c a va n : Nat} {u : UnitKey} {bs : List Byte}
    (h : s.loadBy tlb c a u va n = .ok (t, bs)) : t.iss = s.iss := by
  unfold State.loadBy at h
  split at h
  · cases h
  · rename_i hl
    split at h
    · cases h; exact translate_iss hl
    · split at h
      · cases h
      · split at h
        · cases h; exact translate_iss hl
        · cases h; rw [coreTouch_iss, noteStable_iss, translate_iss hl]

theorem globalLoad_iss {s t : State} {c a va n : Nat} {u : UnitKey} {bs : List Byte} (h : s.globalLoad c a u va n = .ok (t, bs)) :
    t.iss = s.iss := loadBy_iss h

theorem globalStore_iss {s t : State} {w : Who} {c a va : Nat} {u : UnitKey} {bs : List Byte} {skip : Nat → Bool}
    (h : s.globalStore w c a u va bs skip = .ok t) : t.iss = s.iss := by
  unfold State.globalStore at h
  split at h
  · cases h
  · rename_i hl
    split at h
    · injection h with h
      rw [← h, viewWrite_iss, translate_iss hl]
    · injection h with h
      rw [← h, physStore_iss, translate_iss hl]

/-- A load leaves the issue as it is. -/
theorem loadAt_iss {s t : State} {l sp ea n : Nat} {bs : List Byte} (h : s.loadAt l sp ea n = .ok (t, bs)) : t.iss = s.iss := by
  unfold State.loadAt at h
  split at h
  · cases h
  · cases h; simp
  · exact globalLoad_iss h
  · split at h
    · cases h
    · cases h
    · cases h; simp
  · cases h; rfl

/-- A store leaves the issue as it is. -/
theorem storeAt_iss {s t : State} {l sp ea : Nat} {bs : List Byte} {skip : Nat → Bool} (h : s.storeAt l sp ea bs skip = .ok t) :
    t.iss = s.iss := by
  unfold State.storeAt at h
  split at h
  · cases h
  · cases h; simp
  · exact globalStore_iss h
  · split at h
    · cases h
    · cases h; simp
  · cases h; simp

@[simp] theorem cleanRemote_iss (s : State) (d q : Nat) : (s.cleanRemote d q).iss = s.iss := by
  unfold State.cleanRemote
  split
  · rfl
  · split
    · split
      · rfl
      · simp
    · rfl

@[simp] theorem cleanL1_iss (s : State) (c q : Nat) : (s.cleanL1 c q).iss = s.iss := by
  unfold State.cleanL1
  split
  · split
    · rfl
    · simp
  · rfl

@[simp] theorem dropL1_iss (s : State) (c q : Nat) : (s.dropL1 c q).iss = s.iss := rfl
@[simp] theorem dropRemote_iss (s : State) (d q : Nat) : (s.dropRemote d q).iss = s.iss := by
  unfold State.dropRemote
  split <;> rfl

@[simp] theorem surrender_iss (s : State) (c pa n : Nat) : (s.surrender c pa n).iss = s.iss := by
  unfold State.surrender
  split
  · exact foldl_keeps (·.iss) _ (fun s p => by simp) _ _
  · rfl

@[simp] theorem homeAtomic_iss (s : State) (c pa w : Nat) (f : Nat → Nat) : (s.homeAtomic c pa w f).1.iss = s.iss := by
  simp [State.homeAtomic]

/-- An atomic leaves the issue as it is. -/
theorem atomicAt_iss {s t : State} {l sp ea w old : Nat} {f : Nat → Nat} {c : Option (Nat × Nat)}
    (h : s.atomicAt l sp ea w f c = .ok (t, old)) : t.iss = s.iss := by
  unfold State.atomicAt at h
  split at h
  · cases h
  · cases h; simp
  · split at h
    · cases h
    · rename_i hl
      dsimp only at h
      split at h
      · split at h <;> (cases h; rw [← translate_iss hl]; simp)
      · split at h
        · cases h
        · injection h with h
          have := congrArg (fun x => x.1.iss) h
          simp only [homeAtomic_iss] at this
          rw [← this, translate_iss hl]
  · split at h
    · cases h
    · cases h
    · injection h with h
      have := congrArg (fun x => x.1.iss) h
      simpa only [homeAtomic_iss] using this.symm
  · cases h; simp

end Sys2Proof.Machine
end

