-- ==== Sys2Proof/Laws/Issue.lean ====
section
/-! SUPPORT. What issuing an instruction does, said once: where every lane executes, it is the instruction's body and the pops of
the queues it names; for a Shuttle it is the body; what writes to the lanes of an issue leave alone. -/

namespace Sys2Proof.Machine
open Sys2Proof

theorem insertAsc_last (x : Nat) (l : List Nat) (h : ∀ y ∈ l, y < x) : insertAsc x l = l ++ [x] := by
  induction l with
  | nil => rfl
  | cons y r ih =>
    have hy := h y (by simp)
    simp only [insertAsc]
    rw [if_neg (by omega), ih fun z hz => h z (by simp [hz])]
    rfl

theorem sortAsc_sorted (l : List Nat) (h : l.Pairwise (· < ·)) : sortAsc l = l := by
  have key : ∀ (r acc : List Nat), (acc ++ r).Pairwise (· < ·) →
      r.foldl (fun acc x => insertAsc x acc) acc = acc ++ r := by
    intro r
    induction r with
    | nil => intro acc _; simp
    | cons x r ih =>
      intro acc hp
      have hx : ∀ y ∈ acc, y < x := fun y hy => (List.pairwise_append.mp hp).2.2 y hy x (by simp)
      simp only [List.foldl_cons]
      rw [insertAsc_last x acc hx, ih (acc ++ [x]) (by simpa using hp)]
      simp
  simpa [sortAsc] using key l [] (by simpa using h)

theorem closeOuts_nil (s : State) (ls : List Nat) : s.closeOuts ls [] = [] := by
  simp [State.closeOuts]

theorem State.setLanes_self {s : State} {k b : Nat} {ls : List Nat} (h : s.iss.who = .gang k b ls) : s.setLanes ls = s := by
  obtain ⟨⟩ := s
  rename_i iss
  obtain ⟨⟩ := iss
  simp_all [State.setLanes]

theorem gate_all {s : State} {i : Instr} {sh : Shape} {k b : Nat} {ls : List Nat} (h : ∀ l ∈ ls, s.laneDo k b i sh l = .run)
    (ha : s.guardDiv sh ls = []) :
    s.gate i sh k b ls = ⟨ls, [], [], []⟩ := by
  have hd : (ls.map fun l => (l, s.laneDo k b i sh l)) = ls.map fun l => (l, LaneDo.run) :=
    List.map_congr_left fun l hl => by rw [h l hl]
  simp [State.gate, hd, ha, closeOuts_nil, List.filterMap_map, List.filter_map, Function.comp_def]

theorem divergent_nil {s : State} (off : List Nat) (h : s.iss.xfer = []) : s.divergent off = [] := by
  simp [State.divergent, State.nextPc, h]

theorem lane_iss (s : State) (l : Nat) (f : Thread → Thread) : (s.lane l f).iss = s.iss := by
  unfold State.lane
  split <;> rfl

theorem foldl_lane_iss (ls : List Nat) (f : Nat → Thread → Thread) (s : State) :
    (ls.foldl (fun s l => s.lane l (f l)) s).iss = s.iss := by
  induction ls generalizing s with
  | nil => rfl
  | cons l r ih => rw [List.foldl_cons, ih, lane_iss]

theorem retirePops_iss (s : State) : s.retirePops.iss = s.iss := by
  unfold State.retirePops
  split <;> rfl

theorem popLanes_iss (s : State) (sh : Shape) (ls : List Nat) : (s.popLanes sh ls).iss = s.iss := by
  unfold State.popLanes
  split
  · rw [retirePops_iss, foldl_lane_iss ls (fun _ t => t.pop (popsOf t sh.srcs)) s]
  · rfl

theorem addOuts_nil (s : State) : s.addOuts [] = s := by
  obtain ⟨⟩ := s
  rename_i iss
  obtain ⟨⟩ := iss
  simp [State.addOuts]

theorem countFaults_nil (s : State) (c asid : Nat) : s.countFaults c asid [] = s := rfl

theorem faultLanes_nil (s : State) (k b : Nat) (resume next : Pc) : s.faultLanes k b resume next [] = s := rfl

theorem settle_nil (s : State) : s.settle [] = s := by
  unfold State.settle
  split <;> rfl

/-- Where no lane has left since the first n, there is nothing to settle. -/
theorem leave_none {s : State} {n : Nat} (h : s.iss.outs.length = n) : s.leave n = s := by
  unfold State.leave
  rw [← h, List.drop_length, settle_nil]
  split <;> rfl

theorem runLanes_all {s : State} {k b : Nat} {ls : List Nat} {run : State → State} (keep : Out → Bool)
    (hw : s.iss.who = .gang k b ls) (ho : s.iss.outs = []) (hr : (run s).iss.outs = []) (hd : (run s).divergent [] = []) :
    State.runLanes run keep 65 s ls [] = run s := by
  rw [State.runLanes]
  simp [State.setLanes_self hw, hr, ho, hd, closeOuts_nil]

/-- Where every lane executes, the body lets no lane leave and no bound set diverges, the issue is the body and the pops. -/
theorem issue_gang_of {s : State} {i : Instr} {k b : Nat} {ls : List Nat} {run : State → State} (h : Gang s i k b ls)
    (hw : (run s).iss.who = .gang k b ls) (ho : (run s).iss.outs = []) (hd : (run s).divergent [] = []) :
    s.issue i run = (run s).popLanes (shapeOf i s.iss.pfx) ls := by
  have hg : s.gate i (shapeOf i s.iss.pfx) k b ls = ⟨ls, [], [], []⟩ := gate_all h.run h.agree
  have hrl := runLanes_all (keepsWork i) h.who h.outs ho hd
  have hlanes : (run s).lanes = ls := by simp [State.lanes, hw]
  have hp : ((run s).popLanes (shapeOf i s.iss.pfx) ls).setLanes (sortAsc ls) = (run s).popLanes (shapeOf i s.iss.pfx) ls := by
    rw [sortAsc_sorted ls h.asc]
    exact State.setLanes_self (k := k) (b := b) (by rw [popLanes_iss, hw])
  unfold State.issue
  rw [h.who]
  dsimp only
  rw [h.ok]
  dsimp only
  rw [hg]
  dsimp only
  rw [addOuts_nil, hrl, hlanes]
  simp only [List.filter_nil, List.foldl_nil, List.append_nil, hp]
  exact leave_none (by rw [popLanes_iss, ho, h.outs])

/-- The same where the body leaves the issue as it is, but for the flags its words raise. -/
theorem issue_gang {s : State} {i : Instr} {k b : Nat} {ls : List Nat} {run : State → State} (h : Gang s i k b ls)
    (hr : (run s).iss = { s.iss with raised := (run s).iss.raised }) :
    s.issue i run = (run s).popLanes (shapeOf i s.iss.pfx) ls :=
  issue_gang_of h (by rw [hr, h.who]) (by rw [hr, h.outs]) (divergent_nil [] (by rw [hr]; exact h.xfer))

theorem foldl_serve {f : State → Nat → Except Out State} {ls : List Nat} {s t : State} (h : Serve f s ls t) :
    ls.foldl (fun s l => match f s l with | .ok t => t | .error o => s.dropLane l o) s = t := by
  induction ls generalizing s with
  | nil => exact h.symm
  | cons l r ih =>
    obtain ⟨u, hu, hr⟩ := h
    rw [List.foldl_cons, hu]
    exact ih hr

/-- A body that serves the lanes one after another is the state after the last, where each is served. -/
theorem forParts_gang {f : State → Nat → Except Out State} {ls : List Nat} {s t : State} {k b : Nat}
    (hw : s.iss.who = .gang k b ls) (h : Serve f s ls t) : s.forParts f = t := by
  simp only [State.forParts, State.parts_, hw]
  exact foldl_serve h

theorem forParts_shuttle {f : State → Nat → Except Out State} {s t : State} {c : Nat}
    (hw : s.iss.who = .shuttle c) (h : f s 0 = .ok t) : s.forParts f = t := by
  simp [State.forParts, State.parts_, hw, h]

/-- A Shuttle's issue is the instruction's body, where the Shuttle does not leave it. -/
theorem issue_shuttle {s : State} {i : Instr} {c : Nat} {run : State → State} (h : Shut s i c) (hr : (run s).iss.outs = []) :
    s.issue i run = run s := by
  unfold State.issue
  simp only [h.who, h.ok]
  exact leave_none (by rw [hr, h.outs])

end Sys2Proof.Machine
end

