-- ==== Sys2Proof/Laws/Lanes.lean ====
section
/-! SUPPORT. Instructions that only write registers and predicates of the executing lanes: what their bodies change, and that
each completes with the results its rule gives. -/

namespace Sys2Proof.Machine
open Sys2Proof

/-! ### Writing one thread -/

/-- A change of a thread that writes the registers and predicates for which a value is given, and nothing else. -/
structure Sets (g : Thread → Thread) (val : Nat → Option Word) (pval : Nat → Option Bool) : Prop where
  shape : ∀ t, ∃ rs es ps, g t = { t with regs := rs, empty := es, preds := ps }
  regs  : ∀ t n, match val n with
    | some v => (g t).g n = v ∧ (g t).full n = true
    | none => (g t).g n = t.g n ∧ (g t).full n = t.full n
  preds : ∀ t n, (g t).p n = (match pval n with | some v => v | none => t.p n)

theorem Thread.setG_g (t : Thread) (d n : Nat) (v : Word) : (t.setG d v).g n = if n = d then v else t.g n := by
  simp [Thread.g, Thread.setG, nget_nput]

theorem Thread.setG_full (t : Thread) (d n : Nat) (v : Word) : (t.setG d v).full n = if n = d then true else t.full n := by
  by_cases h : n = d <;> simp [Thread.full, Thread.setG, h]

theorem Thread.setG_p (t : Thread) (d n : Nat) (v : Word) : (t.setG d v).p n = t.p n := rfl
theorem Thread.setP_g (t : Thread) (d n : Nat) (v : Bool) : (t.setP d v).g n = t.g n := by unfold Thread.setP; split <;> rfl
theorem Thread.setP_full (t : Thread) (d n : Nat) (v : Bool) : (t.setP d v).full n = t.full n := by
  unfold Thread.setP; split <;> rfl

theorem Thread.setP_p (t : Thread) (d n : Nat) (v : Bool) : (t.setP d v).p n = if n = d ∧ n < 7 then v else t.p n := by
  unfold Thread.setP
  by_cases hd : d ≥ 7
  · simp only [hd, if_true]
    rw [if_neg (by omega)]
  · simp only [hd, if_false, Thread.p]
    by_cases hn : n = 7
    · subst hn; simp
    · have key : ∀ (p : BitVec 7), ((if v then p ||| BitVec.ofNat 7 (2 ^ d) else p &&& ~~~(BitVec.ofNat 7 (2 ^ d))).getLsbD n)
          = if n = d ∧ n < 7 then v else p.getLsbD n := by
        intro p
        cases v <;>
          simp only [Bool.false_eq_true, if_false, if_true, BitVec.getLsbD_or, BitVec.getLsbD_and, BitVec.getLsbD_not,
            BitVec.getLsbD_ofNat, Nat.testBit_two_pow] <;>
          by_cases h7 : n < 7 <;> by_cases he : n = d <;>
          simp [h7, he, Ne.symm] <;> (try (intro h; omega)) <;> (try omega) <;>
          (try (subst he; simp_all)) <;> (try (rw [BitVec.getLsbD_of_ge _ _ (by omega)]))
      simp only [hn, if_false]
      exact key t.preds

theorem Sets.id : Sets (fun t => t) (fun _ => none) (fun _ => none) :=
  ⟨fun t => ⟨t.regs, t.empty, t.preds, rfl⟩, fun _ _ => ⟨rfl, rfl⟩, fun _ _ => rfl⟩

theorem Sets.setG (d : Nat) (v : Word) {g val pval} (h : Sets g val pval) :
    Sets (fun t => (g t).setG d v) (fun n => if n = d then some v else val n) pval := by
  refine ⟨fun t => ?_, fun t n => ?_, fun t n => ?_⟩
  · obtain ⟨rs, es, ps, e⟩ := h.shape t
    exact ⟨nput rs d v, es.filter fun m => decide (m ≠ d), ps, by rw [e]; rfl⟩
  · by_cases hn : n = d
    · simp [hn, Thread.setG_g, Thread.setG_full]
    · simp only [hn, if_false, Thread.setG_g, Thread.setG_full]
      exact h.regs t n
  · rw [Thread.setG_p]; exact h.preds t n

theorem Sets.setP (d : Nat) (v : Bool) {g val pval} (h : Sets g val pval) :
    Sets (fun t => (g t).setP d v) val (fun n => if n = d ∧ n < 7 then some v else pval n) := by
  refine ⟨fun t => ?_, fun t n => ?_, fun t n => ?_⟩
  · obtain ⟨rs, es, ps, e⟩ := h.shape t
    refine ⟨rs, es, ((g t).setP d v).preds, ?_⟩
    rw [e]; unfold Thread.setP; split <;> rfl
  · rw [Thread.setP_g, Thread.setP_full]; exact h.regs t n
  · rw [Thread.setP_p]
    split
    · rfl
    · exact h.preds t n

/-! ### The lanes of an issue -/

theorem Team.foldl_modThread_threads (ls : List Nat) (b : Nat) (f : Nat → Thread → Thread) (t : Team) :
    ls.foldl (fun t l => t.modThread (64 * b + l) (f l)) t =
      { t with threads := (ls.foldl (fun t l => t.modThread (64 * b + l) (f l)) t).threads } := by
  induction ls generalizing t with
  | nil => rfl
  | cons l r ih => simp only [List.foldl_cons]; rw [ih]; rfl

theorem Team.modThread_thread (t : Team) (i j : Tix) (f : Thread → Thread) :
    (t.modThread i f).thread j = if j = i then f (t.thread j) else t.thread j := by
  unfold Team.modThread Team.thread
  split
  · next h => subst h; simp
  · next h => exact nget_nmod_ne _ _ _ _ _ h

theorem Team.foldl_modThread_idle (ls : List Nat) (b : Nat) (f : Nat → Thread → Thread) (t : Team) (i : Nat)
    (h : ∀ l ∈ ls, i ≠ 64 * b + l) : (ls.foldl (fun t l => t.modThread (64 * b + l) (f l)) t).thread i = t.thread i := by
  induction ls generalizing t with
  | nil => rfl
  | cons l r ih =>
    rw [List.foldl_cons, ih _ fun m hm => h m (by simp [hm]), Team.modThread_thread, if_neg (h l (by simp))]

theorem Team.foldl_modThread_lane (ls : List Nat) (b : Nat) (f : Nat → Thread → Thread) (t : Team) (l : Nat)
    (hs : ls.Pairwise (· < ·)) (h : l ∈ ls) :
    (ls.foldl (fun t l => t.modThread (64 * b + l) (f l)) t).thread (64 * b + l) = f l (t.thread (64 * b + l)) := by
  induction ls generalizing t with
  | nil => simp at h
  | cons m r ih =>
    obtain ⟨hm, hr⟩ := List.pairwise_cons.mp hs
    rw [List.foldl_cons]
    by_cases hml : m = l
    · subst hml
      rw [Team.foldl_modThread_idle _ _ _ _ _ fun x hx => by have := hm x hx; omega, Team.modThread_thread, if_pos rfl]
    · rw [ih _ hr (by simpa [Ne.symm hml] using h), Team.modThread_thread,
        if_neg fun e => hml (Nat.add_left_cancel e).symm]

/-- What a body of lanes changes: the threads of its lanes, and flags. -/
structure Body (s t : State) (k b : Nat) (ls : List Nat) (f : Nat → Thread → Thread) (fl : BitVec 5) : Prop where
  iss  : t.iss = { s.iss with raised := t.iss.raised }
  only : OnlyTeam s t k
  team : t.team k = { s.team k with threads := (t.team k).threads, fstat := (s.team k).fstat ||| fl }
  idle : ∀ i, (∀ l ∈ ls, i ≠ 64 * b + l) → t.thread k i = s.thread k i
  lane : ∀ l ∈ ls, t.thread k (64 * b + l) = f l (s.thread k (64 * b + l))

theorem Body.who {s t : State} {k b : Nat} {ls : List Nat} {f : Nat → Thread → Thread} {fl : BitVec 5}
    (h : Body s t k b ls f fl) : t.iss.who = s.iss.who := by rw [h.iss]

theorem modTeam_only (s : State) (k : Nat) (g : Team → Team) : OnlyTeam s (s.modTeam k g) k :=
  ⟨rfl, fun _ hj => nget_nmod_ne _ _ _ _ _ hj⟩

theorem modTeam_team_same (s : State) (k : Nat) (g : Team → Team) : (s.modTeam k g).team k = g (s.team k) :=
  nget_nmod_same _ _ _ _

theorem body_eachLane {s : State} {k b : Nat} {ls : List Nat} (f : Nat → Thread → Thread) (hw : s.iss.who = .gang k b ls)
    (hs : ls.Pairwise (· < ·)) : Body s (s.eachLane f) k b ls f 0 := by
  have he : s.eachLane f = s.modTeam k fun t => ls.foldl (fun t l => t.modThread (64 * b + l) (f l)) t := by
    simp [State.eachLane, hw]
  rw [he]
  refine ⟨rfl, modTeam_only _ _ _, ?_, fun i hi => ?_, fun l hl => ?_⟩
  · rw [modTeam_team_same, Team.foldl_modThread_threads]; simp
  · simp only [State.thread, modTeam_team_same]; exact Team.foldl_modThread_idle _ _ _ _ _ hi
  · simp only [State.thread, modTeam_team_same]; exact Team.foldl_modThread_lane _ _ _ _ _ hs hl

theorem OnlyTeam.trans {s t u : State} {k : Nat} (h : OnlyTeam s t k) (g : OnlyTeam t u k) : OnlyTeam s u k := by
  refine ⟨?_, fun _ hj => (g.2 _ hj).trans (h.2 _ hj)⟩
  rw [g.1, h.1]

theorem body_modTeam {s t : State} {k b : Nat} {ls : List Nat} {f : Nat → Thread → Thread} {fl : BitVec 5} (h : Body s t k b ls f 0)
    (g : Team → Team) (hg : g (t.team k) = { t.team k with fstat := (t.team k).fstat ||| fl }) :
    Body s (t.modTeam k g) k b ls f fl := by
  refine ⟨(h.iss : t.iss = _), h.only.trans (modTeam_only _ _ _), ?_, fun i hi => ?_, fun l hl => ?_⟩
  · rw [modTeam_team_same, hg, h.team]; simp
  · simp only [State.thread, modTeam_team_same, hg]; exact h.idle i hi
  · simp only [State.thread, modTeam_team_same, hg]; exact h.lane l hl

theorem body_fpu {s : State} {k b : Nat} {ls : List Nat} (d : BitVec 7) (f : Nat → Nat × BitVec 5)
    (hw : s.iss.who = .gang k b ls) (hs : ls.Pairwise (· < ·)) :
    Body s (s.fpu d f) k b ls (fun l t => t.setG d.toNat (BitVec.ofNat 32 (f l).1)) (ls.foldl (fun m l => m ||| (f l).2) 0) := by
  have hb := body_eachLane (fun l t => t.setG d.toNat (BitVec.ofNat 32 (f l).1)) hw hs
  have hl : s.lanes = ls := by simp [State.lanes, hw]
  have := body_modTeam hb (fun t => { t with fstat := t.fstat ||| ls.foldl (fun m l => m ||| (f l).2) 0 }) rfl
  have he : s.fpu d f = { (s.eachLane fun l t => t.setG d.toNat (BitVec.ofNat 32 (f l).1)).modTeam k
      fun t => { t with fstat := t.fstat ||| ls.foldl (fun m l => m ||| (f l).2) 0 } with
      iss := { s.iss with raised := (s.fpu d f).iss.raised } } := by
    have hr := hb.iss
    simp only [State.fpu, State.raise, hl]
    rw [hb.who, hw, hr]
    rfl
  rw [he]
  exact ⟨rfl, ⟨by rw [this.only.1], this.only.2⟩, this.team, this.idle, this.lane⟩

/-! ### The pops -/

theorem popsOf_qpos (t u : Thread) (h : t.qpos = u.qpos) (srcs : List Src) : popsOf t srcs = popsOf u srcs := by
  simp [popsOf, h]

theorem popsOf_none (t : Thread) (sh : Shape) (h : sh.popsQueue = false) : popsOf t sh.srcs = [] := by
  have h' : ∀ x ∈ sh.srcs, ¬ 112 ≤ x.f := by simpa [Shape.popsQueue] using h
  unfold popsOf
  generalize sh.srcs = xs at h'
  induction xs with
  | nil => rfl
  | cons x r ih =>
    simp only [List.foldl_cons, if_neg (h' x (by simp))]
    exact ih fun y hy => h' y (by simp [hy])

theorem Team.retireQ_eq (t : Team) (q : Nat) : t.retireQ q = { t with queues := (t.retireQ q).queues } := rfl

theorem Team.retireAll_eq (t : Team) :
    t.retireAll = { t with queues := t.retireAll.queues, dq := t.retireAll.dq, dqFirst := t.retireAll.dqFirst } := by
  have key : ∀ (qs : List Nat) (u : Team), qs.foldl Team.retireQ u = { u with queues := (qs.foldl Team.retireQ u).queues } := by
    intro qs
    induction qs with
    | nil => intro u; rfl
    | cons q r ih => intro u; simp only [List.foldl_cons]; rw [ih]; rfl
  unfold Team.retireAll
  rw [key]
  rfl

theorem foldl_lane_team (ls : List Nat) (g : Nat → Thread → Thread) (s : State) {k b : Nat} {ms : List Nat}
    (hw : s.iss.who = .gang k b ms) :
    OnlyTeam s (ls.foldl (fun s l => s.lane l (g l)) s) k ∧
      (ls.foldl (fun s l => s.lane l (g l)) s).team k = ls.foldl (fun t l => t.modThread (64 * b + l) (g l)) (s.team k) := by
  induction ls generalizing s with
  | nil => exact ⟨⟨rfl, fun _ _ => rfl⟩, rfl⟩
  | cons l r ih =>
    have hl : s.lane l (g l) = s.modTeam k fun t => t.modThread (64 * b + l) (g l) := by simp [State.lane, hw, State.modThread]
    simp only [List.foldl_cons]
    rw [hl]
    obtain ⟨h1, h2⟩ := ih (s.modTeam k fun t => t.modThread (64 * b + l) (g l)) hw
    exact ⟨(modTeam_only _ _ _).trans h1, by rw [h2, modTeam_team_same]⟩

/-- A body that changes its lanes one after another. -/
theorem body_foldl_lane {s : State} {k b : Nat} {ls ms : List Nat} (f : Nat → Thread → Thread) (hw : s.iss.who = .gang k b ms)
    (hs : ls.Pairwise (· < ·)) : Body s (ls.foldl (fun s l => s.lane l (f l)) s) k b ls f 0 := by
  obtain ⟨ho, ht⟩ := foldl_lane_team ls f s hw
  refine ⟨by rw [foldl_lane_iss ls f s], ho, ?_, fun i hi => ?_, fun l hl => ?_⟩
  · rw [ht, Team.foldl_modThread_threads]; simp
  · simp only [State.thread, ht]; exact Team.foldl_modThread_idle _ _ _ _ _ hi
  · simp only [State.thread, ht]; exact Team.foldl_modThread_lane _ _ _ _ _ hs hl

theorem popLanes_none {t : State} {sh : Shape} (ls : List Nat) (h : sh.popsQueue = false) : t.popLanes sh ls = t := by
  simp [State.popLanes, h]

/-- The pops after a body that leaves the queue positions: what they change, said once. -/
theorem popLanes_gang {t : State} {k b : Nat} {ls : List Nat} {sh : Shape} (hw : t.iss.who = .gang k b ls)
    (hs : ls.Pairwise (· < ·)) :
    OnlyTeam t (t.popLanes sh ls) k ∧ Threads t (t.popLanes sh ls) k b ls sh fun _ x => x := by
  by_cases hp : sh.popsQueue
  · obtain ⟨ho, ht⟩ := foldl_lane_team ls (fun _ t => t.pop (popsOf t sh.srcs)) t hw
    have hpop : t.popLanes sh ls = (ls.foldl (fun s l => s.lane l fun t => t.pop (popsOf t sh.srcs)) t).modTeam k
        Team.retireAll := by
      have := foldl_lane_iss ls (fun _ t => t.pop (popsOf t sh.srcs)) t
      simp only [State.popLanes, hp, if_true, State.retirePops, this, hw]
    have hteam : (t.popLanes sh ls).team k = (ls.foldl (fun u l => u.modThread (64 * b + l) fun t => t.pop (popsOf t sh.srcs))
        (t.team k)).retireAll := by rw [hpop, modTeam_team_same, ht]
    have hthr : ∀ i, (t.popLanes sh ls).thread k i = (ls.foldl (fun u l => u.modThread (64 * b + l)
        fun t => t.pop (popsOf t sh.srcs)) (t.team k)).thread i := by
      intro i
      simp only [State.thread, hteam]
      rw [Team.retireAll_eq]; rfl
    refine ⟨by rw [hpop]; exact ho.trans (modTeam_only _ _ _), ?_, fun h => absurd hp (by simp [h]), fun i hi => ?_,
      fun l hl => ?_⟩
    · rw [hteam, Team.retireAll_eq, Team.foldl_modThread_threads]
    · rw [hthr, Team.foldl_modThread_idle ls b (fun _ t => t.pop (popsOf t sh.srcs)) _ i hi]; rfl
    · rw [hthr, Team.foldl_modThread_lane ls b (fun _ t => t.pop (popsOf t sh.srcs)) _ l hs hl]; rfl
  · have hp' : sh.popsQueue = false := by simpa using hp
    rw [popLanes_none ls hp']
    exact ⟨⟨rfl, fun _ _ => rfl⟩, rfl, fun _ => ⟨rfl, rfl, rfl⟩, fun _ _ => rfl, fun l _ => by rw [popsOf_none _ _ hp']; rfl⟩

/-- A body of lanes and the pops after it. -/
theorem threads_body {s t : State} {k b : Nat} {ls : List Nat} {f : Nat → Thread → Thread} {sh : Shape}
    (hw : s.iss.who = .gang k b ls) (hs : ls.Pairwise (· < ·)) (hb : Body s t k b ls f 0)
    (hq : ∀ l ∈ ls, (f l (s.thread k (64 * b + l))).qpos = (s.thread k (64 * b + l)).qpos) :
    OnlyTeam s (t.popLanes sh ls) k ∧ Threads s (t.popLanes sh ls) k b ls sh f := by
  obtain ⟨ho, ht⟩ := popLanes_gang (sh := sh) (t := t) (by rw [hb.who, hw]) hs
  refine ⟨hb.only.trans ho, by rw [ht.team, hb.team]; simp, fun h => ?_, fun i hi => (ht.idle i hi).trans (hb.idle i hi),
    fun l hl => ?_⟩
  · obtain ⟨h1, h2, h3⟩ := ht.queue h
    rw [h1, h2, h3, hb.team]
    exact ⟨rfl, rfl, rfl⟩
  · rw [ht.lane l hl, hb.lane l hl, popsOf_qpos _ _ (hq l hl)]

/-- A body that sets registers and predicates, and the pops after it. -/
theorem laneResult_body {s t : State} {k b : Nat} {ls : List Nat} {f : Nat → Thread → Thread} {fl : BitVec 5} {sh : Shape}
    {val : Nat → Nat → Option Word} {pval : Nat → Nat → Option Bool} (hw : s.iss.who = .gang k b ls)
    (hs : ls.Pairwise (· < ·)) (hb : Body s t k b ls f fl) (hf : ∀ l ∈ ls, Sets (f l) (val l) (pval l)) :
    LaneResult s (t.popLanes sh ls) k b ls sh val pval fl := by
  obtain ⟨ho, ht⟩ := popLanes_gang (sh := sh) (t := t) (by rw [hb.who, hw]) hs
  have hlane : ∀ l ∈ ls, (t.popLanes sh ls).thread k (64 * b + l) =
      (f l (s.thread k (64 * b + l))).pop (popsOf (s.thread k (64 * b + l)) sh.srcs) := by
    intro l hl
    obtain ⟨rs, es, ps, e⟩ := (hf l hl).shape (s.thread k (64 * b + l))
    rw [ht.lane l hl, hb.lane l hl, popsOf_qpos _ (s.thread k (64 * b + l)) (by rw [e])]
  refine ⟨⟨by rw [ht.team, hb.team], fun h => ?_, fun i hi => (ht.idle i hi).trans (hb.idle i hi), fun l hl => ?_,
    fun l hl n => ?_, fun l hl n => ?_⟩, hb.only.trans ho⟩
  · obtain ⟨h1, h2, h3⟩ := ht.queue h
    rw [h1, h2, h3, hb.team]
    exact ⟨rfl, rfl, rfl⟩
  · obtain ⟨rs, es, ps, e⟩ := (hf l hl).shape (s.thread k (64 * b + l))
    exact ⟨rs, es, ps, by rw [hlane l hl, e]; rfl⟩
  · rw [hlane l hl]; exact (hf l hl).regs _ n
  · rw [hlane l hl]; exact (hf l hl).preds _ n

/-- Where an instruction's body is a change of its lanes that sets registers and predicates, it completes with them. -/
theorem yieldsIf_body {pre : State → List Nat → Prop} {i : Instr} {run : State → State} {f : State → Nat → Thread → Thread}
    {val : State → Nat → Nat → Option Word} {pval : State → Nat → Nat → Option Bool} {fl : State → List Nat → BitVec 5}
    (hx : ∀ s, exec i s = .next (s.issue i run))
    (hb : ∀ s k b ls, Gang s i k b ls → pre s ls → Body s (run s) k b ls (f s) (fl s ls))
    (hf : ∀ s l, Sets (f s l) (val s l) (pval s l)) : YieldsIf pre i val pval fl := by
  intro s k b ls h hp
  have hbody := hb s k b ls h hp
  refine ⟨s.issue i run, hx s, ?_⟩
  rw [issue_gang h hbody.iss]
  exact laneResult_body h.who h.asc hbody fun l _ => hf s l

theorem yields_eachLane {i : Instr} {run : State → State} {f : State → Nat → Thread → Thread}
    {val : State → Nat → Nat → Option Word} {pval : State → Nat → Nat → Option Bool}
    (hx : ∀ s, exec i s = .next (s.issue i run)) (hr : ∀ s, run s = s.eachLane (f s))
    (hf : ∀ s l, Sets (f s l) (val s l) (pval s l)) : Yields i val pval noFlags :=
  yieldsIf_body hx (fun s _ _ _ h _ => by rw [hr]; exact body_eachLane (f s) h.who h.asc) hf

/-- An instruction of two words: d receives f of the sources. -/
theorem yields_alu {i : Instr} (r : R3) (f : Word → Word → Word) {run : State → State} (hr : run = fun s => s.alu r f)
    (hx : ∀ s, exec i s = .next (s.issue i run)) :
    Yields i (one r.d.toNat fun s l => f (s.rd l r.a []) (s.rd l r.b [r.a])) nothing noFlags := by
  subst hr
  exact yields_eachLane (f := fun s l t => t.setG r.d.toNat (f (s.rd l r.a []) (s.rd l r.b [r.a]))) hx (fun _ => rfl)
    fun s l => Sets.id.setG _ _

theorem Sets.pair (d : Nat) (v : State → Nat → Dword) (s : State) (l : Nat) :
    Sets (fun t => t.setPair d (v s l)) (pair d v s l) (fun _ => none) := by
  have h := (Sets.id.setG d (BitVec.ofNat 32 (v s l).toNat)).setG (d + 1) (BitVec.ofNat 32 ((v s l).toNat / 4294967296))
  have he : (fun n => if n = d + 1 then some (BitVec.ofNat 32 ((v s l).toNat / 4294967296))
      else if n = d then some (BitVec.ofNat 32 (v s l).toNat) else none) = Machine.pair d v s l := by
    funext n
    simp [Machine.pair, two]
  rw [← he]
  exact h

theorem yields_pair {i : Instr} (d : Nat) (v : State → Nat → Dword) {run : State → State}
    (hr : run = fun s => s.eachLane fun l t => t.setPair d (v s l)) (hx : ∀ s, exec i s = .next (s.issue i run)) :
    Yields i (pair d v) nothing noFlags := by
  subst hr
  exact yields_eachLane (f := fun s l t => t.setPair d (v s l)) hx (fun _ => rfl) fun s l => Sets.pair d v s l

theorem yields_pred {i : Instr} (d : Nat) (v : State → Nat → Bool) {run : State → State}
    (hr : run = fun s => s.eachLane fun l t => t.setP d (v s l)) (hx : ∀ s, exec i s = .next (s.issue i run)) :
    Yields i nothing (pred d v) noFlags := by
  subst hr
  exact yields_eachLane (f := fun s l t => t.setP d (v s l)) hx (fun _ => rfl) fun s l => Sets.id.setP _ _

theorem yields_fpu {i : Instr} {run : State → State} {d : BitVec 7} {f : State → Nat → Nat × BitVec 5}
    (hx : ∀ s, exec i s = .next (s.issue i run)) (hr : ∀ s, run s = s.fpu d (f s)) :
    Yields i (one d.toNat fun s l => BitVec.ofNat 32 (f s l).1) nothing (lanesFlags fun s l => (f s l).2) :=
  yieldsIf_body (f := fun s l t => t.setG d.toNat (BitVec.ofNat 32 (f s l).1)) hx
    (fun s _ _ _ h _ => by rw [hr]; exact body_fpu d (f s) h.who h.asc) fun s l => Sets.id.setG _ _

/-- An instruction whose body changes only its lanes' threads, and not their queue positions. -/
theorem changes_eachLane {i : Instr} {run : State → State} {f : State → Nat → Thread → Thread}
    (hx : ∀ s, exec i s = .next (s.issue i run)) (hr : ∀ s, run s = s.eachLane (f s))
    (hq : ∀ s l x, (f s l x).qpos = x.qpos) : Changes i f := by
  intro s k b ls h
  have hb := body_eachLane (f s) h.who h.asc
  refine ⟨s.issue i run, hx s, ?_⟩
  rw [issue_gang h (by rw [hr]; exact hb.iss), hr]
  exact threads_body h.who h.asc hb fun l _ => hq s l _

end Sys2Proof.Machine
end

