-- ==== Sys2Proof/Laws/Faults.lean ====
section
/-! SUPPORT. An instruction that takes a fault in every lane that executes it: the lanes leave the issue, park and write their
records, and nothing else happens. -/

namespace Sys2Proof.Machine
open Sys2Proof

theorem dropLane_gang {s : State} {k b : Nat} {ls : List Nat} (hw : s.iss.who = .gang k b ls) (l : Nat) (o : Out) :
    s.dropLane l o = { s with iss := { s.iss with
      who := .gang k b (ls.filter fun m => decide (m ≠ l)), outs := s.iss.outs ++ [(l, s.iss.pc, o.delay)] } } := by
  simp [State.dropLane, State.setLanes, State.lanes, hw]

/-- A fault that is no wait for a port is left as it is. -/
theorem delay_flt {f : Flt} (h : f.code ≠ .delayed) : (Out.flt f).delay = .flt f := by
  obtain ⟨c, a, i⟩ := f
  cases c <;> first | rfl | exact absurd rfl h

/-- Lanes that leave one after another. -/
theorem foldl_dropLane (o : Nat → Out) (ms : List Nat) (s : State) {k b : Nat} {ls : List Nat}
    (hw : s.iss.who = .gang k b ls) : ms.foldl (fun s l => s.dropLane l (o l)) s = { s with iss := { s.iss with
      who := .gang k b (ls.filter fun m => decide (m ∉ ms))
      outs := s.iss.outs ++ ms.map fun l => (l, s.iss.pc, (o l).delay) } } := by
  induction ms generalizing s ls with
  | nil => obtain ⟨⟩ := s; rename_i iss; obtain ⟨⟩ := iss; simp_all
  | cons m r ih =>
    rw [List.foldl_cons, dropLane_gang hw, ih _ (ls := ls.filter fun x => decide (x ≠ m)) rfl]
    simp only [List.filter_filter, List.map_cons, List.append_assoc, List.cons_append, List.nil_append]
    congr 3
    apply List.filter_congr
    intro x _
    simp [Bool.and_comm]

theorem find_fault (f : Nat → Flt) (ls : List Nat) (l : Nat) (h : l ∈ ls) :
    ((ls.map fun l => (l, Out.flt (f l))).find? fun o => o.1 == l) = some (l, .flt (f l)) := by
  induction ls with
  | nil => simp at h
  | cons m r ih =>
    by_cases hm : m = l
    · simp [hm]
    · have : (m == l) = false := by simpa using hm
      simp only [List.map_cons, List.find?_cons, this]
      exact ih (by simpa [Ne.symm hm] using h)

theorem closeOuts_faults (s : State) (f : Nat → Flt) (ls : List Nat) :
    s.closeOuts ls (ls.map fun l => (l, .flt (f l))) = ls.map fun l => (l, .flt (f l)) := by
  unfold State.closeOuts
  dsimp only
  rw [List.filterMap_congr (g := fun l => some (l, Out.flt (f l))) fun l hl => by rw [find_fault f ls l hl]; rfl]
  simp

/-- The state with another issue in progress. -/
abbrev State.setIss (s : State) (x : Issue) : State := { s with iss := x }

theorem record_iss (s : State) (x : Issue) (c : Nat) (bs : List Byte) :
    (s.setIss x).record c bs = (s.record c bs).setIss x := by
  unfold State.record
  by_cases h : (s.core c).trapCount < Config.trapDepth
  · have h' : ((s.setIss x).core c).trapCount < Config.trapDepth := h
    simp only [h, h', if_true]; rfl
  · have h' : ¬ ((s.setIss x).core c).trapCount < Config.trapDepth := h
    simp only [h, h', if_false]; rfl

theorem foldl_iss {α : Type} (g : State → α → State) (hg : ∀ s x a, g (s.setIss x) a = (g s a).setIss x) (as : List α)
    (s : State) (x : Issue) : as.foldl g (s.setIss x) = (as.foldl g s).setIss x := by
  induction as generalizing s with
  | nil => rfl
  | cons a r ih => rw [List.foldl_cons, List.foldl_cons, hg, ih]

theorem laneRecords_iss (s : State) (x : Issue) (k b : Nat) (fs : List (Nat × Pc × Flt)) :
    (s.setIss x).laneRecords k b fs = (s.laneRecords k b fs).setIss x := by
  unfold State.laneRecords
  rw [← foldl_iss _ fun s x n => ?_]
  dsimp only
  split
  · rfl
  · exact (record_iss (State.bump _) x _ _)

theorem faultLanes_iss (s : State) (x : Issue) (k b : Nat) (resume next : Pc) (fs : List (Nat × Pc × Flt)) :
    (s.setIss x).faultLanes k b resume next fs = (s.faultLanes k b resume next fs).setIss x := by
  unfold State.faultLanes
  rw [← laneRecords_iss, ← foldl_iss _ fun s x f => rfl]

theorem setIss_ite (c : Bool) (s t : State) (x : Issue) :
    (if c then s.setIss x else t.setIss x) = (if c then s else t).setIss x := by
  cases c <;> rfl

theorem countFaults_iss (s : State) (x : Issue) (c asid : Nat) (fs : List Flt) :
    (s.setIss x).countFaults c asid fs = (s.countFaults c asid fs).setIss x := by
  unfold State.countFaults
  rw [← foldl_iss _ fun s x p => ?_]
  split
  · next f _ =>
    exact setIss_ite _ s (s.tlbMiss (.core c) (s.tlbFind (.shared (clusterOfCore c)) asid f.addr).isNone) x
  · rfl

theorem popLanes_setIss (s : State) (x : Issue) {k b c : Nat} {ls ms : List Nat} (sh : Shape) (hw : s.iss.who = .gang k b ls)
    (hx : x.who = .gang k c ms) : (s.setIss x).popLanes sh [] = (s.popLanes sh []).setIss x := by
  unfold State.popLanes
  split
  · simp only [List.foldl_nil, State.retirePops, hw, hx]; rfl
  · rfl

theorem settle_faults {s : State} {k b : Nat} {ls ms : List Nat} (pc : Pc) (f : Nat → Flt) (hw : s.iss.who = .gang k b ms) :
    s.settle (ls.map fun l => (l, pc, .flt (f l))) = (s.countFaults (coreOfTeam k) s.issAsid (ls.map f)).faultLanes k b
      s.iss.gpc s.iss.npc (ls.map fun l => (l, pc, f l)) := by
  have hdrop : ∀ (rs : List Nat) (n : Nat) (u : State),
      (rs.map fun l => (l, pc, Out.flt (f l))).foldl (State.leaveLane k b n) u = u := by
    intro rs n
    induction rs with
    | nil => intro u; rfl
    | cons l r ih => intro u; rw [List.map_cons, List.foldl_cons]; exact ih u
  have hi : ∀ fs, (s.countFaults (coreOfTeam k) s.issAsid fs).iss = s.iss := fun fs => by
    have := countFaults_iss s s.iss (coreOfTeam k) s.issAsid fs
    have hs : s.setIss s.iss = s := rfl
    rw [hs] at this
    rw [this]
  unfold State.settle
  rw [hw]
  dsimp only
  rw [hdrop]
  simp [faultsOf, List.filterMap_map, Out.fault, hi]

/-- Where every lane executes and the body takes a fault in each, the instruction faults in each and does nothing else. -/
theorem faults_all {s : State} {i : Instr} {k b : Nat} {ls : List Nat} {run : State → State} (h : Gang s i k b ls)
    (f : Nat → Flt) (hf : ∀ l, (f l).code ≠ .delayed) (hx : exec i s = .next (s.issue i run))
    (hr : run s = ls.foldl (fun s l => s.dropLane l (.flt (f l))) s) : Faults i s k b (ls.map fun l => (l, f l)) := by
  have hempty : (ls.filter fun m => decide (m ∉ ls)) = [] := by
    rw [List.filter_eq_nil_iff]; intro m hm; simpa using hm
  obtain ⟨x, hrun, hxw, hxo, hxm, hxp⟩ : ∃ x : Issue, run s = s.setIss x ∧ x.who = .gang k b [] ∧
      x.outs = (ls.map fun l => (l, s.iss.pc, Out.flt (f l))) ∧ x.multi = s.iss.multi ∧
      x.gpc = s.iss.gpc ∧ x.npc = s.iss.npc ∧ x.xfer = s.iss.xfer := by
    refine ⟨_, by rw [hr, foldl_dropLane (fun l => .flt (f l)) ls s h.who, hempty, h.outs], ?_⟩
    exact ⟨rfl, by simp only [List.nil_append, delay_flt (hf _)], rfl, rfl, rfl, rfl⟩
  have hg : s.gate i (shapeOf i s.iss.pfx) k b ls = ⟨ls, [], [], []⟩ := gate_all h.run h.agree
  have hl : (run s).lanes = [] := by rw [hrun]; simp [State.lanes, hxw]
  have hdiv : (run s).divergent [] = [] := by simp [State.divergent, hl]
  have hrl : State.runLanes run (keepsWork i) 65 s ls [] = run s := by
    have hc : s.closeOuts ls (ls.map fun l => (l, .flt (f l))) = ls.map fun l => (l, .flt (f l)) := closeOuts_faults s f ls
    rw [State.runLanes]
    have ho : (run s).iss.outs = ls.map fun l => (l, s.iss.pc, .flt (f l)) := by rw [hrun]; exact hxo
    simp only [State.setLanes_self h.who, hdiv, List.append_nil, ho, h.outs, List.length_nil, List.drop_zero, List.map_map,
      Function.comp_def, hc, List.length_map, List.isEmpty_nil, Bool.true_and, beq_self_eq_true, if_true]
  have hp : (run s).popLanes (shapeOf i s.iss.pfx) [] = (s.popLanes (shapeOf i s.iss.pfx) []).setIss x := by
    rw [hrun, popLanes_setIss s _ (shapeOf i s.iss.pfx) h.who hxw]
  have hw : ((run s).popLanes (shapeOf i s.iss.pfx) []).iss.who = .gang k b [] := by rw [hp]; exact hxw
  have he : s.issue i run = ((run s).popLanes (shapeOf i s.iss.pfx) []).leave 0 := by
    unfold State.issue
    rw [h.who]
    dsimp only
    rw [h.ok]
    dsimp only
    rw [hg]
    dsimp only
    rw [addOuts_nil, hrl]
    have hs : ((run s).popLanes (shapeOf i s.iss.pfx) []).setLanes [] = (run s).popLanes (shapeOf i s.iss.pfx) [] :=
      State.setLanes_self hw
    simp only [hl, List.filter_nil, List.foldl_nil, List.append_nil, sortAsc, hs, h.outs, List.length_nil]
  have hpp : (s.popLanes (shapeOf i s.iss.pfx) []).parts = s.parts := by
    unfold State.popLanes State.retirePops
    split
    · split <;> rfl
    · rfl
  unfold Faults
  generalize s.popLanes (shapeOf i s.iss.pfx) [] = p at hp hpp ⊢
  refine ⟨_, hx, ?_⟩
  rw [he, hp, State.leave]
  by_cases hm : s.iss.multi = true
  · have : (p.setIss x).iss.multi = true := by rw [← hm, ← hxm]
    rw [if_pos this, if_pos hm]
    exact ⟨rfl, by simpa [Function.comp_def] using hxo⟩
  · have : ¬ (p.setIss x).iss.multi = true := by rw [← hxm] at hm; exact hm
    have ha : (p.setIss x).issAsid = s.issAsid := by
      simp only [State.issAsid, State.issCore, hxw, h.who, State.part, hpp]
    have ho : (p.setIss x).iss.outs = ls.map fun l => (l, s.iss.pc, .flt (f l)) := hxo
    rw [if_neg this, if_neg hm, List.drop_zero, ho, settle_faults (k := k) (b := b) (ms := []) s.iss.pc f hxw, ha,
      countFaults_iss, faultLanes_iss]
    simp only [List.map_map, Function.comp_def]
    rw [hxp.1, hxp.2.1]
    exact ⟨rfl, hxo⟩

end Sys2Proof.Machine
end

