-- ==== Sys2Proof/Laws/PerInstr.lean ====
section
/-! SUPPORT. One lemma per constructor: an instruction's encoding has at most two words (spec/02_words.md R39), and a hardware
step has none. -/

namespace Sys2Proof

/-- An encoding has at most two words, whatever its chain bit (R37, R39). -/
def Laws.Words.Statement (i : Instr) : Prop := ∀ c, (encode c i).length ≤ 2

theorem Laws.Words.br : ∀ x0, Laws.Words.Statement (.br x0) := fun _ _ => Nat.le_succ 1
theorem Laws.Words.call : ∀ x0, Laws.Words.Statement (.call x0) := fun _ _ => Nat.le_refl 2
theorem Laws.Words.brf : ∀ x0, Laws.Words.Statement (.brf x0) := fun _ _ => Nat.le_refl 2
theorem Laws.Words.callf : ∀ x0, Laws.Words.Statement (.callf x0) := fun _ _ => Nat.le_refl 2
theorem Laws.Words.jt : ∀ x0, Laws.Words.Statement (.jt x0) := fun _ _ => Nat.le_refl 2
theorem Laws.Words.jtc : ∀ x0, Laws.Words.Statement (.jtc x0) := fun _ _ => Nat.le_refl 2
theorem Laws.Words.ret : ∀ x0, Laws.Words.Statement (.ret x0) := fun _ _ => Nat.le_succ 1
theorem Laws.Words.nop : Laws.Words.Statement .nop := fun _ => Nat.le_succ 1
theorem Laws.Words.pad : ∀ x0, Laws.Words.Statement (.pad x0) := fun _ _ => Nat.le_succ 1
theorem Laws.Words.join : ∀ x0, Laws.Words.Statement (.join x0) := fun _ _ => Nat.le_succ 1
theorem Laws.Words.jmaskZ : ∀ x0, Laws.Words.Statement (.jmaskZ x0) := fun _ _ => Nat.le_succ 1
theorem Laws.Words.jmaskG : ∀ x0, Laws.Words.Statement (.jmaskG x0) := fun _ _ => Nat.le_succ 1
theorem Laws.Words.jmaskR : ∀ x0, Laws.Words.Statement (.jmaskR x0) := fun _ _ => Nat.le_succ 1
theorem Laws.Words.jmaskGet : ∀ x0, Laws.Words.Statement (.jmaskGet x0) := fun _ _ => Nat.le_succ 1
theorem Laws.Words.exit : Laws.Words.Statement .exit := fun _ => Nat.le_succ 1
theorem Laws.Words.yield : Laws.Words.Statement .yield := fun _ => Nat.le_succ 1
theorem Laws.Words.dqpop : ∀ x0, Laws.Words.Statement (.dqpop x0) := fun _ _ => Nat.le_succ 1
theorem Laws.Words.trap : ∀ x0, Laws.Words.Statement (.trap x0) := fun _ _ => Nat.le_succ 1
theorem Laws.Words.bkpt : ∀ x0, Laws.Words.Statement (.bkpt x0) := fun _ _ => Nat.le_succ 1
theorem Laws.Words.add : ∀ x0, Laws.Words.Statement (.add x0) := fun _ _ => Nat.le_succ 1
theorem Laws.Words.sub : ∀ x0, Laws.Words.Statement (.sub x0) := fun _ _ => Nat.le_succ 1
theorem Laws.Words.and : ∀ x0, Laws.Words.Statement (.and x0) := fun _ _ => Nat.le_succ 1
theorem Laws.Words.or : ∀ x0, Laws.Words.Statement (.or x0) := fun _ _ => Nat.le_succ 1
theorem Laws.Words.xor : ∀ x0, Laws.Words.Statement (.xor x0) := fun _ _ => Nat.le_succ 1
theorem Laws.Words.shl : ∀ x0, Laws.Words.Statement (.shl x0) := fun _ _ => Nat.le_succ 1
theorem Laws.Words.shr : ∀ x0, Laws.Words.Statement (.shr x0) := fun _ _ => Nat.le_succ 1
theorem Laws.Words.sar : ∀ x0, Laws.Words.Statement (.sar x0) := fun _ _ => Nat.le_succ 1
theorem Laws.Words.mul : ∀ x0, Laws.Words.Statement (.mul x0) := fun _ _ => Nat.le_succ 1
theorem Laws.Words.mulhI32 : ∀ x0, Laws.Words.Statement (.mulhI32 x0) := fun _ _ => Nat.le_succ 1
theorem Laws.Words.mulhN32 : ∀ x0, Laws.Words.Statement (.mulhN32 x0) := fun _ _ => Nat.le_succ 1
theorem Laws.Words.mac : ∀ x0, Laws.Words.Statement (.mac x0) := fun _ _ => Nat.le_succ 1
theorem Laws.Words.divI32 : ∀ x0, Laws.Words.Statement (.divI32 x0) := fun _ _ => Nat.le_succ 1
theorem Laws.Words.divN32 : ∀ x0, Laws.Words.Statement (.divN32 x0) := fun _ _ => Nat.le_succ 1
theorem Laws.Words.remI32 : ∀ x0, Laws.Words.Statement (.remI32 x0) := fun _ _ => Nat.le_succ 1
theorem Laws.Words.remN32 : ∀ x0, Laws.Words.Statement (.remN32 x0) := fun _ _ => Nat.le_succ 1
theorem Laws.Words.addB64 : ∀ x0, Laws.Words.Statement (.addB64 x0) := fun _ _ => Nat.le_succ 1
theorem Laws.Words.subB64 : ∀ x0, Laws.Words.Statement (.subB64 x0) := fun _ _ => Nat.le_succ 1
theorem Laws.Words.mulwI32 : ∀ x0, Laws.Words.Statement (.mulwI32 x0) := fun _ _ => Nat.le_succ 1
theorem Laws.Words.mulwN32 : ∀ x0, Laws.Words.Statement (.mulwN32 x0) := fun _ _ => Nat.le_succ 1
theorem Laws.Words.cmp : ∀ x0, Laws.Words.Statement (.cmp x0) := fun _ _ => Nat.le_refl 2
theorem Laws.Words.bfx : ∀ x0, Laws.Words.Statement (.bfx x0) := fun _ _ => Nat.le_refl 2
theorem Laws.Words.bfi : ∀ x0, Laws.Words.Statement (.bfi x0) := fun _ _ => Nat.le_refl 2
theorem Laws.Words.lea : ∀ x0, Laws.Words.Statement (.lea x0) := fun _ _ => Nat.le_refl 2
theorem Laws.Words.addi : ∀ x0, Laws.Words.Statement (.addi x0) := fun _ _ => Nat.le_succ 1
theorem Laws.Words.shi : ∀ x0, Laws.Words.Statement (.shi x0) := fun _ _ => Nat.le_succ 1
theorem Laws.Words.movi : ∀ x0, Laws.Words.Statement (.movi x0) := fun _ _ => Nat.le_refl 2
theorem Laws.Words.cmpi : ∀ x0, Laws.Words.Statement (.cmpi x0) := fun _ _ => Nat.le_succ 1
theorem Laws.Words.bind : ∀ x0, Laws.Words.Statement (.bind x0) := fun _ _ => Nat.le_refl 2
theorem Laws.Words.unbind : Laws.Words.Statement .unbind := fun _ => Nat.le_succ 1
theorem Laws.Words.ladd : ∀ x0, Laws.Words.Statement (.ladd x0) := fun _ _ => Nat.le_refl 2
theorem Laws.Words.ladc : ∀ x0, Laws.Words.Statement (.ladc x0) := fun _ _ => Nat.le_refl 2
theorem Laws.Words.lsub : ∀ x0, Laws.Words.Statement (.lsub x0) := fun _ _ => Nat.le_refl 2
theorem Laws.Words.lsbc : ∀ x0, Laws.Words.Statement (.lsbc x0) := fun _ _ => Nat.le_refl 2
theorem Laws.Words.lneg : ∀ x0, Laws.Words.Statement (.lneg x0) := fun _ _ => Nat.le_refl 2
theorem Laws.Words.lcmp : ∀ x0, Laws.Words.Statement (.lcmp x0) := fun _ _ => Nat.le_refl 2
theorem Laws.Words.lmulw : ∀ x0, Laws.Words.Statement (.lmulw x0) := fun _ _ => Nat.le_refl 2
theorem Laws.Words.lshl : ∀ x0, Laws.Words.Statement (.lshl x0) := fun _ _ => Nat.le_succ 1
theorem Laws.Words.lshr : ∀ x0, Laws.Words.Statement (.lshr x0) := fun _ _ => Nat.le_succ 1
theorem Laws.Words.lshrI : ∀ x0, Laws.Words.Statement (.lshrI x0) := fun _ _ => Nat.le_succ 1
theorem Laws.Words.fadd : ∀ x0, Laws.Words.Statement (.fadd x0) := fun _ _ => Nat.le_succ 1
theorem Laws.Words.fsub : ∀ x0, Laws.Words.Statement (.fsub x0) := fun _ _ => Nat.le_succ 1
theorem Laws.Words.fmul : ∀ x0, Laws.Words.Statement (.fmul x0) := fun _ _ => Nat.le_succ 1
theorem Laws.Words.fma : ∀ x0, Laws.Words.Statement (.fma x0) := fun _ _ => Nat.le_succ 1
theorem Laws.Words.fmin : ∀ x0, Laws.Words.Statement (.fmin x0) := fun _ _ => Nat.le_succ 1
theorem Laws.Words.fmax : ∀ x0, Laws.Words.Statement (.fmax x0) := fun _ _ => Nat.le_succ 1
theorem Laws.Words.fminp : ∀ x0, Laws.Words.Statement (.fminp x0) := fun _ _ => Nat.le_succ 1
theorem Laws.Words.fmaxp : ∀ x0, Laws.Words.Statement (.fmaxp x0) := fun _ _ => Nat.le_succ 1
theorem Laws.Words.fdiv : ∀ x0, Laws.Words.Statement (.fdiv x0) := fun _ _ => Nat.le_succ 1
theorem Laws.Words.fsqrt : ∀ x0, Laws.Words.Statement (.fsqrt x0) := fun _ _ => Nat.le_succ 1
theorem Laws.Words.frcp : ∀ x0, Laws.Words.Statement (.frcp x0) := fun _ _ => Nat.le_succ 1
theorem Laws.Words.frsq : ∀ x0, Laws.Words.Statement (.frsq x0) := fun _ _ => Nat.le_succ 1
theorem Laws.Words.fexp2 : ∀ x0, Laws.Words.Statement (.fexp2 x0) := fun _ _ => Nat.le_succ 1
theorem Laws.Words.flog2 : ∀ x0, Laws.Words.Statement (.flog2 x0) := fun _ _ => Nat.le_succ 1
theorem Laws.Words.fclass : ∀ x0, Laws.Words.Statement (.fclass x0) := fun _ _ => Nat.le_succ 1
theorem Laws.Words.fcmp : ∀ x0, Laws.Words.Statement (.fcmp x0) := fun _ _ => Nat.le_refl 2
theorem Laws.Words.fsgn : ∀ x0, Laws.Words.Statement (.fsgn x0) := fun _ _ => Nat.le_refl 2
theorem Laws.Words.faddBf16x2 : ∀ x0, Laws.Words.Statement (.faddBf16x2 x0) := fun _ _ => Nat.le_succ 1
theorem Laws.Words.fsubBf16x2 : ∀ x0, Laws.Words.Statement (.fsubBf16x2 x0) := fun _ _ => Nat.le_succ 1
theorem Laws.Words.fmulBf16x2 : ∀ x0, Laws.Words.Statement (.fmulBf16x2 x0) := fun _ _ => Nat.le_succ 1
theorem Laws.Words.fmaBf16x2 : ∀ x0, Laws.Words.Statement (.fmaBf16x2 x0) := fun _ _ => Nat.le_succ 1
theorem Laws.Words.fminBf16x2 : ∀ x0, Laws.Words.Statement (.fminBf16x2 x0) := fun _ _ => Nat.le_succ 1
theorem Laws.Words.fmaxBf16x2 : ∀ x0, Laws.Words.Statement (.fmaxBf16x2 x0) := fun _ _ => Nat.le_succ 1
theorem Laws.Words.fdotBf16x2 : ∀ x0, Laws.Words.Statement (.fdotBf16x2 x0) := fun _ _ => Nat.le_succ 1
theorem Laws.Words.faddF16x2 : ∀ x0, Laws.Words.Statement (.faddF16x2 x0) := fun _ _ => Nat.le_succ 1
theorem Laws.Words.fsubF16x2 : ∀ x0, Laws.Words.Statement (.fsubF16x2 x0) := fun _ _ => Nat.le_succ 1
theorem Laws.Words.fmulF16x2 : ∀ x0, Laws.Words.Statement (.fmulF16x2 x0) := fun _ _ => Nat.le_succ 1
theorem Laws.Words.fmaF16x2 : ∀ x0, Laws.Words.Statement (.fmaF16x2 x0) := fun _ _ => Nat.le_succ 1
theorem Laws.Words.fminF16x2 : ∀ x0, Laws.Words.Statement (.fminF16x2 x0) := fun _ _ => Nat.le_succ 1
theorem Laws.Words.fmaxF16x2 : ∀ x0, Laws.Words.Statement (.fmaxF16x2 x0) := fun _ _ => Nat.le_succ 1
theorem Laws.Words.fdotF16x2 : ∀ x0, Laws.Words.Statement (.fdotF16x2 x0) := fun _ _ => Nat.le_succ 1
theorem Laws.Words.cvt : ∀ x0, Laws.Words.Statement (.cvt x0) := fun _ _ => Nat.le_refl 2
theorem Laws.Words.cvtp : ∀ x0, Laws.Words.Statement (.cvtp x0) := fun _ _ => Nat.le_refl 2
theorem Laws.Words.shfl : ∀ x0, Laws.Words.Statement (.shfl x0) := fun _ _ => Nat.le_refl 2
theorem Laws.Words.bcast : ∀ x0, Laws.Words.Statement (.bcast x0) := fun _ _ => Nat.le_succ 1
theorem Laws.Words.vote : ∀ x0, Laws.Words.Statement (.vote x0) := fun _ _ => Nat.le_refl 2
theorem Laws.Words.match_ : ∀ x0, Laws.Words.Statement (.match_ x0) := fun _ _ => Nat.le_refl 2
theorem Laws.Words.compact : ∀ x0, Laws.Words.Statement (.compact x0) := fun _ _ => Nat.le_refl 2
theorem Laws.Words.greduce : ∀ x0, Laws.Words.Statement (.greduce x0) := fun _ _ => Nat.le_refl 2
theorem Laws.Words.gscan : ∀ x0, Laws.Words.Statement (.gscan x0) := fun _ _ => Nat.le_refl 2
theorem Laws.Words.regput : ∀ x0, Laws.Words.Statement (.regput x0) := fun _ _ => Nat.le_refl 2
theorem Laws.Words.regtake : ∀ x0, Laws.Words.Statement (.regtake x0) := fun _ _ => Nat.le_refl 2
theorem Laws.Words.regflush : ∀ x0, Laws.Words.Statement (.regflush x0) := fun _ _ => Nat.le_succ 1
theorem Laws.Words.rand : ∀ x0, Laws.Words.Statement (.rand x0) := fun _ _ => Nat.le_succ 1
theorem Laws.Words.randf : ∀ x0, Laws.Words.Statement (.randf x0) := fun _ _ => Nat.le_succ 1
theorem Laws.Words.ld : ∀ x0, Laws.Words.Statement (.ld x0) := fun _ _ => Nat.le_succ 1
theorem Laws.Words.st : ∀ x0, Laws.Words.Statement (.st x0) := fun _ _ => Nat.le_succ 1
theorem Laws.Words.atomAdd : ∀ x0, Laws.Words.Statement (.atomAdd x0) := fun _ _ => Nat.le_refl 2
theorem Laws.Words.atomMin : ∀ x0, Laws.Words.Statement (.atomMin x0) := fun _ _ => Nat.le_refl 2
theorem Laws.Words.atomMax : ∀ x0, Laws.Words.Statement (.atomMax x0) := fun _ _ => Nat.le_refl 2
theorem Laws.Words.atomAnd : ∀ x0, Laws.Words.Statement (.atomAnd x0) := fun _ _ => Nat.le_refl 2
theorem Laws.Words.atomOr : ∀ x0, Laws.Words.Statement (.atomOr x0) := fun _ _ => Nat.le_refl 2
theorem Laws.Words.atomXor : ∀ x0, Laws.Words.Statement (.atomXor x0) := fun _ _ => Nat.le_refl 2
theorem Laws.Words.atomExch : ∀ x0, Laws.Words.Statement (.atomExch x0) := fun _ _ => Nat.le_refl 2
theorem Laws.Words.atomCas : ∀ x0, Laws.Words.Statement (.atomCas x0) := fun _ _ => Nat.le_refl 2
theorem Laws.Words.ldt : ∀ x0, Laws.Words.Statement (.ldt x0) := fun _ _ => Nat.le_refl 2
theorem Laws.Words.unpk : ∀ x0, Laws.Words.Statement (.unpk x0) := fun _ _ => Nat.le_refl 2
theorem Laws.Words.cmoClean : ∀ x0, Laws.Words.Statement (.cmoClean x0) := fun _ _ => Nat.le_refl 2
theorem Laws.Words.cmoInv : ∀ x0, Laws.Words.Statement (.cmoInv x0) := fun _ _ => Nat.le_refl 2
theorem Laws.Words.cmoCinv : ∀ x0, Laws.Words.Statement (.cmoCinv x0) := fun _ _ => Nat.le_refl 2
theorem Laws.Words.l2pin : ∀ x0, Laws.Words.Statement (.l2pin x0) := fun _ _ => Nat.le_refl 2
theorem Laws.Words.l2unpin : ∀ x0, Laws.Words.Statement (.l2unpin x0) := fun _ _ => Nat.le_succ 1
theorem Laws.Words.fence : ∀ x0, Laws.Words.Statement (.fence x0) := fun _ _ => Nat.le_succ 1
theorem Laws.Words.bar : Laws.Words.Statement .bar := fun _ => Nat.le_succ 1
theorem Laws.Words.barCarve : ∀ x0, Laws.Words.Statement (.barCarve x0) := fun _ _ => Nat.le_succ 1
theorem Laws.Words.barg : ∀ x0, Laws.Words.Statement (.barg x0) := fun _ _ => Nat.le_succ 1
theorem Laws.Words.acq : ∀ x0, Laws.Words.Statement (.acq x0) := fun _ _ => Nat.le_refl 2
theorem Laws.Words.tryacq : ∀ x0, Laws.Words.Statement (.tryacq x0) := fun _ _ => Nat.le_refl 2
theorem Laws.Words.rel : ∀ x0, Laws.Words.Statement (.rel x0) := fun _ _ => Nat.le_refl 2
theorem Laws.Words.region : ∀ x0, Laws.Words.Statement (.region x0) := fun _ _ => Nat.le_refl 2
theorem Laws.Words.regionFree : ∀ x0, Laws.Words.Statement (.regionFree x0) := fun _ _ => Nat.le_refl 2
theorem Laws.Words.waitge : ∀ x0, Laws.Words.Statement (.waitge x0) := fun _ _ => Nat.le_succ 1
theorem Laws.Words.sadd : ∀ x0, Laws.Words.Statement (.sadd x0) := fun _ _ => Nat.le_succ 1
theorem Laws.Words.ssub : ∀ x0, Laws.Words.Statement (.ssub x0) := fun _ _ => Nat.le_succ 1
theorem Laws.Words.smul : ∀ x0, Laws.Words.Statement (.smul x0) := fun _ _ => Nat.le_succ 1
theorem Laws.Words.sand : ∀ x0, Laws.Words.Statement (.sand x0) := fun _ _ => Nat.le_succ 1
theorem Laws.Words.sor : ∀ x0, Laws.Words.Statement (.sor x0) := fun _ _ => Nat.le_succ 1
theorem Laws.Words.sxor : ∀ x0, Laws.Words.Statement (.sxor x0) := fun _ _ => Nat.le_succ 1
theorem Laws.Words.sshl : ∀ x0, Laws.Words.Statement (.sshl x0) := fun _ _ => Nat.le_succ 1
theorem Laws.Words.sshr : ∀ x0, Laws.Words.Statement (.sshr x0) := fun _ _ => Nat.le_succ 1
theorem Laws.Words.ssar : ∀ x0, Laws.Words.Statement (.ssar x0) := fun _ _ => Nat.le_succ 1
theorem Laws.Words.sdone : Laws.Words.Statement .sdone := fun _ => Nat.le_succ 1
theorem Laws.Words.saddi : ∀ x0, Laws.Words.Statement (.saddi x0) := fun _ _ => Nat.le_refl 2
theorem Laws.Words.sldi : ∀ x0, Laws.Words.Statement (.sldi x0) := fun _ _ => Nat.le_refl 2
theorem Laws.Words.sset : ∀ x0, Laws.Words.Statement (.sset x0) := fun _ _ => Nat.le_refl 2
theorem Laws.Words.sbr : ∀ x0, Laws.Words.Statement (.sbr x0) := fun _ _ => Nat.le_refl 2
theorem Laws.Words.sbrf : ∀ x0, Laws.Words.Statement (.sbrf x0) := fun _ _ => Nat.le_refl 2
theorem Laws.Words.dqpush : ∀ x0, Laws.Words.Statement (.dqpush x0) := fun _ _ => Nat.le_succ 1
theorem Laws.Words.stream : ∀ x0, Laws.Words.Statement (.stream x0) := fun _ _ => Nat.le_refl 2
theorem Laws.Words.sqstop : ∀ x0, Laws.Words.Statement (.sqstop x0) := fun _ _ => Nat.le_refl 2
theorem Laws.Words.cpy : ∀ x0, Laws.Words.Statement (.cpy x0) := fun _ _ => Nat.le_refl 2
theorem Laws.Words.cpy2d : ∀ x0, Laws.Words.Statement (.cpy2d x0) := fun _ _ => Nat.le_refl 2
theorem Laws.Words.seal : ∀ x0, Laws.Words.Statement (.seal x0) := fun _ _ => Nat.le_succ 1
theorem Laws.Words.bwait : ∀ x0, Laws.Words.Statement (.bwait x0) := fun _ _ => Nat.le_succ 1
theorem Laws.Words.wptr : ∀ x0, Laws.Words.Statement (.wptr x0) := fun _ _ => Nat.le_succ 1
theorem Laws.Words.chunk : ∀ x0, Laws.Words.Statement (.chunk x0) := fun _ _ => Nat.le_refl 2
theorem Laws.Words.ovl : ∀ x0, Laws.Words.Statement (.ovl x0) := fun _ _ => Nat.le_refl 2
theorem Laws.Words.qmma : ∀ x0, Laws.Words.Statement (.qmma x0) := fun _ _ => Nat.le_succ 1
theorem Laws.Words.qspmm : ∀ x0, Laws.Words.Statement (.qspmm x0) := fun _ _ => Nat.le_succ 1
theorem Laws.Words.qacc : ∀ x0, Laws.Words.Statement (.qacc x0) := fun _ _ => Nat.le_succ 1
theorem Laws.Words.qcvt : ∀ x0, Laws.Words.Statement (.qcvt x0) := fun _ _ => Nat.le_succ 1
theorem Laws.Words.qwait : ∀ x0, Laws.Words.Statement (.qwait x0) := fun _ _ => Nat.le_succ 1
theorem Laws.Words.qpoll : ∀ x0, Laws.Words.Statement (.qpoll x0) := fun _ _ => Nat.le_succ 1
theorem Laws.Words.qrec : ∀ x0, Laws.Words.Statement (.qrec x0) := fun _ _ => Nat.le_succ 1
theorem Laws.Words.qrecb : ∀ x0, Laws.Words.Statement (.qrecb x0) := fun _ _ => Nat.le_succ 1
theorem Laws.Words.qtrace : ∀ x0, Laws.Words.Statement (.qtrace x0) := fun _ _ => Nat.le_succ 1
theorem Laws.Words.qrule : ∀ x0, Laws.Words.Statement (.qrule x0) := fun _ _ => Nat.le_refl 2
theorem Laws.Words.patld : ∀ x0, Laws.Words.Statement (.patld x0) := fun _ _ => Nat.le_refl 2
theorem Laws.Words.patbind : ∀ x0, Laws.Words.Statement (.patbind x0) := fun _ _ => Nat.le_succ 1
theorem Laws.Words.patnext : ∀ x0, Laws.Words.Statement (.patnext x0) := fun _ _ => Nat.le_refl 2
theorem Laws.Words.patmerge : ∀ x0, Laws.Words.Statement (.patmerge x0) := fun _ _ => Nat.le_refl 2
theorem Laws.Words.patsave : ∀ x0, Laws.Words.Statement (.patsave x0) := fun _ _ => Nat.le_refl 2
theorem Laws.Words.patrestore : ∀ x0, Laws.Words.Statement (.patrestore x0) := fun _ _ => Nat.le_refl 2
theorem Laws.Words.gspawn : ∀ x0, Laws.Words.Statement (.gspawn x0) := fun _ _ => Nat.le_succ 1
theorem Laws.Words.gdone : ∀ x0, Laws.Words.Statement (.gdone x0) := fun _ _ => Nat.le_succ 1
theorem Laws.Words.tidset : ∀ x0, Laws.Words.Statement (.tidset x0) := fun _ _ => Nat.le_succ 1
theorem Laws.Words.tidget : ∀ x0, Laws.Words.Statement (.tidget x0) := fun _ _ => Nat.le_succ 1
theorem Laws.Words.mfs : ∀ x0, Laws.Words.Statement (.mfs x0) := fun _ _ => Nat.le_refl 2
theorem Laws.Words.mts : ∀ x0, Laws.Words.Statement (.mts x0) := fun _ _ => Nat.le_refl 2
theorem Laws.Words.mtsFstat : ∀ x0, Laws.Words.Statement (.mtsFstat x0) := fun _ _ => Nat.le_refl 2
theorem Laws.Words.mtsFctl : ∀ x0, Laws.Words.Statement (.mtsFctl x0) := fun _ _ => Nat.le_refl 2
theorem Laws.Words.mtsCarve : ∀ x0, Laws.Words.Statement (.mtsCarve x0) := fun _ _ => Nat.le_refl 2
theorem Laws.Words.eret : Laws.Words.Statement .eret := fun _ => Nat.le_succ 1
theorem Laws.Words.eretTerm : Laws.Words.Statement .eretTerm := fun _ => Nat.le_succ 1
theorem Laws.Words.tlbinvPage : ∀ x0, Laws.Words.Statement (.tlbinvPage x0) := fun _ _ => Nat.le_succ 1
theorem Laws.Words.tlbinvAsid : ∀ x0, Laws.Words.Statement (.tlbinvAsid x0) := fun _ _ => Nat.le_succ 1
theorem Laws.Words.tlbinvAll : ∀ x0, Laws.Words.Statement (.tlbinvAll x0) := fun _ _ => Nat.le_succ 1
theorem Laws.Words.pgshare : ∀ x0, Laws.Words.Statement (.pgshare x0) := fun _ _ => Nat.le_succ 1
theorem Laws.Words.pgrel : ∀ x0, Laws.Words.Statement (.pgrel x0) := fun _ _ => Nat.le_succ 1
theorem Laws.Words.ctxsave : ∀ x0, Laws.Words.Statement (.ctxsave x0) := fun _ _ => Nat.le_refl 2
theorem Laws.Words.ctxload : ∀ x0, Laws.Words.Statement (.ctxload x0) := fun _ _ => Nat.le_refl 2
theorem Laws.Words.ctxsaveMem : ∀ x0, Laws.Words.Statement (.ctxsaveMem x0) := fun _ _ => Nat.le_refl 2
theorem Laws.Words.ctxloadMem : ∀ x0, Laws.Words.Statement (.ctxloadMem x0) := fun _ _ => Nat.le_refl 2
theorem Laws.Words.haltStop : Laws.Words.Statement .haltStop := fun _ => Nat.le_succ 1
theorem Laws.Words.haltRun : Laws.Words.Statement .haltRun := fun _ => Nat.le_succ 1
theorem Laws.Words.bAdd : ∀ x0, Laws.Words.Statement (.bAdd x0) := fun _ _ => Nat.le_succ 1
theorem Laws.Words.bSub : ∀ x0, Laws.Words.Statement (.bSub x0) := fun _ _ => Nat.le_succ 1
theorem Laws.Words.bMul : ∀ x0, Laws.Words.Statement (.bMul x0) := fun _ _ => Nat.le_succ 1
theorem Laws.Words.bAnd : ∀ x0, Laws.Words.Statement (.bAnd x0) := fun _ _ => Nat.le_succ 1
theorem Laws.Words.bOr : ∀ x0, Laws.Words.Statement (.bOr x0) := fun _ _ => Nat.le_succ 1
theorem Laws.Words.bXor : ∀ x0, Laws.Words.Statement (.bXor x0) := fun _ _ => Nat.le_succ 1
theorem Laws.Words.bShl : ∀ x0, Laws.Words.Statement (.bShl x0) := fun _ _ => Nat.le_succ 1
theorem Laws.Words.bShr : ∀ x0, Laws.Words.Statement (.bShr x0) := fun _ _ => Nat.le_succ 1
theorem Laws.Words.bSar : ∀ x0, Laws.Words.Statement (.bSar x0) := fun _ _ => Nat.le_succ 1
theorem Laws.Words.slt : ∀ x0, Laws.Words.Statement (.slt x0) := fun _ _ => Nat.le_succ 1
theorem Laws.Words.sltu : ∀ x0, Laws.Words.Statement (.sltu x0) := fun _ _ => Nat.le_succ 1
theorem Laws.Words.bAddi : ∀ x0, Laws.Words.Statement (.bAddi x0) := fun _ _ => Nat.le_succ 1
theorem Laws.Words.ldi : ∀ x0, Laws.Words.Statement (.ldi x0) := fun _ _ => Nat.le_succ 1
theorem Laws.Words.bCc : ∀ x0, Laws.Words.Statement (.bCc x0) := fun _ _ => Nat.le_succ 1
theorem Laws.Words.bAl : ∀ x0, Laws.Words.Statement (.bAl x0) := fun _ _ => Nat.le_succ 1
theorem Laws.Words.ldl : ∀ x0, Laws.Words.Statement (.ldl x0) := fun _ _ => Nat.le_succ 1
theorem Laws.Words.stl : ∀ x0, Laws.Words.Statement (.stl x0) := fun _ _ => Nat.le_succ 1
theorem Laws.Words.ldh : ∀ x0, Laws.Words.Statement (.ldh x0) := fun _ _ => Nat.le_succ 1
theorem Laws.Words.sth : ∀ x0, Laws.Words.Statement (.sth x0) := fun _ _ => Nat.le_succ 1
theorem Laws.Words.ldv : ∀ x0, Laws.Words.Statement (.ldv x0) := fun _ _ => Nat.le_succ 1
theorem Laws.Words.stv : ∀ x0, Laws.Words.Statement (.stv x0) := fun _ _ => Nat.le_succ 1
theorem Laws.Words.vadd : ∀ x0, Laws.Words.Statement (.vadd x0) := fun _ _ => Nat.le_succ 1
theorem Laws.Words.vsub : ∀ x0, Laws.Words.Statement (.vsub x0) := fun _ _ => Nat.le_succ 1
theorem Laws.Words.vmul : ∀ x0, Laws.Words.Statement (.vmul x0) := fun _ _ => Nat.le_succ 1
theorem Laws.Words.vfma : ∀ x0, Laws.Words.Statement (.vfma x0) := fun _ _ => Nat.le_succ 1
theorem Laws.Words.vbc : ∀ x0, Laws.Words.Statement (.vbc x0) := fun _ _ => Nat.le_succ 1
theorem Laws.Words.chase : ∀ x0, Laws.Words.Statement (.chase x0) := fun _ _ => Nat.le_succ 1
theorem Laws.Words.sample : ∀ x0, Laws.Words.Statement (.sample x0) := fun _ _ => Nat.le_succ 1
theorem Laws.Words.adamw : ∀ x0, Laws.Words.Statement (.adamw x0) := fun _ _ => Nat.le_succ 1
theorem Laws.Words.faddc : ∀ x0, Laws.Words.Statement (.faddc x0) := fun _ _ => Nat.le_succ 1
theorem Laws.Words.signal : ∀ x0, Laws.Words.Statement (.signal x0) := fun _ _ => Nat.le_succ 1
theorem Laws.Words.waitn : ∀ x0, Laws.Words.Statement (.waitn x0) := fun _ _ => Nat.le_succ 1
theorem Laws.Words.bDone : Laws.Words.Statement .bDone := fun _ => Nat.le_succ 1
theorem Laws.Words.joinCompletion : ∀ x0 x1 x2 x3, Laws.Words.Statement (.joinCompletion x0 x1 x2 x3) := fun _ _ _ _ _ => Nat.zero_le 2
theorem Laws.Words.regtakeServe : ∀ x0 x1, Laws.Words.Statement (.regtakeServe x0 x1) := fun _ _ _ => Nat.zero_le 2
theorem Laws.Words.destinationFill : ∀ x0, Laws.Words.Statement (.destinationFill x0) := fun _ _ => Nat.zero_le 2
theorem Laws.Words.eviction : ∀ x0 x1 x2, Laws.Words.Statement (.eviction x0 x1 x2) := fun _ _ _ _ => Nat.zero_le 2
theorem Laws.Words.uncorrectableError : ∀ x0, Laws.Words.Statement (.uncorrectableError x0) := fun _ _ => Nat.zero_le 2
theorem Laws.Words.barrierPhaseCompletion : ∀ x0, Laws.Words.Statement (.barrierPhaseCompletion x0) := fun _ _ => Nat.zero_le 2
theorem Laws.Words.groupBarrierPhaseCompletion : ∀ x0 x1, Laws.Words.Statement (.groupBarrierPhaseCompletion x0 x1) := fun _ _ _ => Nat.zero_le 2
theorem Laws.Words.objectGrant : ∀ x0, Laws.Words.Statement (.objectGrant x0) := fun _ _ => Nat.zero_le 2
theorem Laws.Words.streamEntryPush : ∀ x0 x1, Laws.Words.Statement (.streamEntryPush x0 x1) := fun _ _ _ => Nat.zero_le 2
theorem Laws.Words.copyPerform : ∀ x0 x1, Laws.Words.Statement (.copyPerform x0 x1) := fun _ _ _ => Nat.zero_le 2
theorem Laws.Words.chunkDraw : ∀ x0, Laws.Words.Statement (.chunkDraw x0) := fun _ _ => Nat.zero_le 2
theorem Laws.Words.qmmaRun : ∀ x0 x1, Laws.Words.Statement (.qmmaRun x0 x1) := fun _ _ _ => Nat.zero_le 2
theorem Laws.Words.qspmmRun : ∀ x0 x1, Laws.Words.Statement (.qspmmRun x0 x1) := fun _ _ _ => Nat.zero_le 2
theorem Laws.Words.qaccZero : ∀ x0 x1, Laws.Words.Statement (.qaccZero x0 x1) := fun _ _ _ => Nat.zero_le 2
theorem Laws.Words.qaccRead : ∀ x0 x1, Laws.Words.Statement (.qaccRead x0 x1) := fun _ _ _ => Nat.zero_le 2
theorem Laws.Words.qaccWrite : ∀ x0 x1, Laws.Words.Statement (.qaccWrite x0 x1) := fun _ _ _ => Nat.zero_le 2
theorem Laws.Words.qaccStore : ∀ x0 x1, Laws.Words.Statement (.qaccStore x0 x1) := fun _ _ _ => Nat.zero_le 2
theorem Laws.Words.qaccLoad : ∀ x0 x1, Laws.Words.Statement (.qaccLoad x0 x1) := fun _ _ _ => Nat.zero_le 2
theorem Laws.Words.qcvtRun : ∀ x0 x1, Laws.Words.Statement (.qcvtRun x0 x1) := fun _ _ _ => Nat.zero_le 2
theorem Laws.Words.recordCompletion : ∀ x0 x1, Laws.Words.Statement (.recordCompletion x0 x1) := fun _ _ _ => Nat.zero_le 2
theorem Laws.Words.qrecRun : ∀ x0 x1, Laws.Words.Statement (.qrecRun x0 x1) := fun _ _ _ => Nat.zero_le 2
theorem Laws.Words.qrecbRun : ∀ x0 x1, Laws.Words.Statement (.qrecbRun x0 x1) := fun _ _ _ => Nat.zero_le 2
theorem Laws.Words.qtraceRun : ∀ x0 x1, Laws.Words.Statement (.qtraceRun x0 x1) := fun _ _ _ => Nat.zero_le 2
theorem Laws.Words.haltRequest : ∀ x0, Laws.Words.Statement (.haltRequest x0) := fun _ _ => Nat.zero_le 2
theorem Laws.Words.trapHandlerEntry : ∀ x0, Laws.Words.Statement (.trapHandlerEntry x0) := fun _ _ => Nat.zero_le 2
theorem Laws.Words.pageWalk : ∀ x0 x1 x2 x3, Laws.Words.Statement (.pageWalk x0 x1 x2 x3) := fun _ _ _ _ _ => Nat.zero_le 2
theorem Laws.Words.teamStart : ∀ x0 x1, Laws.Words.Statement (.teamStart x0 x1) := fun _ _ _ => Nat.zero_le 2
theorem Laws.Words.teamEnd : ∀ x0, Laws.Words.Statement (.teamEnd x0) := fun _ _ => Nat.zero_le 2
theorem Laws.Words.notifyRegisterWrite : ∀ x0 x1 x2 x3 x4, Laws.Words.Statement (.notifyRegisterWrite x0 x1 x2 x3 x4) := fun _ _ _ _ _ _  => Nat.zero_le 2
theorem Laws.Words.graphPacket : ∀ x0, Laws.Words.Statement (.graphPacket x0) := fun _ _ => Nat.zero_le 2
theorem Laws.Words.gridPacket : ∀ x0, Laws.Words.Statement (.gridPacket x0) := fun _ _ => Nat.zero_le 2
theorem Laws.Words.copyPacket : ∀ x0, Laws.Words.Statement (.copyPacket x0) := fun _ _ => Nat.zero_le 2
theorem Laws.Words.bobbinPacket : ∀ x0, Laws.Words.Statement (.bobbinPacket x0) := fun _ _ => Nat.zero_le 2
theorem Laws.Words.barrierAndPacket : ∀ x0, Laws.Words.Statement (.barrierAndPacket x0) := fun _ _ => Nat.zero_le 2
theorem Laws.Words.barrierAndRecheck : ∀ x0, Laws.Words.Statement (.barrierAndRecheck x0) := fun _ _ => Nat.zero_le 2
theorem Laws.Words.signalPacket : ∀ x0, Laws.Words.Statement (.signalPacket x0) := fun _ _ => Nat.zero_le 2
theorem Laws.Words.packetCompletion : ∀ x0, Laws.Words.Statement (.packetCompletion x0) := fun _ _ => Nat.zero_le 2
theorem Laws.Words.nodeDispatch : ∀ x0 x1, Laws.Words.Statement (.nodeDispatch x0 x1) := fun _ _ _ => Nat.zero_le 2
theorem Laws.Words.nodeCompletion : ∀ x0, Laws.Words.Statement (.nodeCompletion x0) := fun _ _ => Nat.zero_le 2
theorem Laws.Words.coreRetirement : ∀ x0, Laws.Words.Statement (.coreRetirement x0) := fun _ _ => Nat.zero_le 2
theorem Laws.Words.monitorRelease : ∀ x0, Laws.Words.Statement (.monitorRelease x0) := fun _ _ => Nat.zero_le 2
theorem Laws.Words.waitnPoll : ∀ x0, Laws.Words.Statement (.waitnPoll x0) := fun _ _ => Nat.zero_le 2
theorem Laws.Words.flitReceive : ∀ x0 x1 x2, Laws.Words.Statement (.flitReceive x0 x1 x2) := fun _ _ _ _ => Nat.zero_le 2
theorem Laws.Words.portRetrain : ∀ x0 x1 x2, Laws.Words.Statement (.portRetrain x0 x1 x2) := fun _ _ _ _  => Nat.zero_le 2
theorem Laws.Words.fabricAccess : ∀ x0 x1 x2 x3, Laws.Words.Statement (.fabricAccess x0 x1 x2 x3) := fun _ _ _ _ _  => Nat.zero_le 2
theorem Laws.Words.windowCreate : ∀ x0, Laws.Words.Statement (.windowCreate x0) := fun _ _ => Nat.zero_le 2
theorem Laws.Words.windowContribution : ∀ x0 x1 x2 x3, Laws.Words.Statement (.windowContribution x0 x1 x2 x3) := fun _ _ _ _ _  => Nat.zero_le 2
theorem Laws.Words.stateClone : ∀ x0 x1 x2 x3 x4 x5, Laws.Words.Statement (.stateClone x0 x1 x2 x3 x4 x5) := fun _ _ _ _ _ _ _ => Nat.zero_le 2
theorem Laws.Words.apertureRequest : ∀ x0 x1 x2 x3, Laws.Words.Statement (.apertureRequest x0 x1 x2 x3) := fun _ _ _ _ _  => Nat.zero_le 2
theorem Laws.Words.ideKm : ∀ x0, Laws.Words.Statement (.ideKm x0) := fun _ _ => Nat.zero_le 2
theorem Laws.Words.ideIntegrityFailure : ∀ x0, Laws.Words.Statement (.ideIntegrityFailure x0) := fun _ _ => Nat.zero_le 2
theorem Laws.Words.flr : ∀ x0, Laws.Words.Statement (.flr x0) := fun _ _ => Nat.zero_le 2
theorem Laws.Words.attestationRequest : ∀ x0, Laws.Words.Statement (.attestationRequest x0) := fun _ _ => Nat.zero_le 2
theorem Laws.Words.powerOn : ∀ x0 x1 x2, Laws.Words.Statement (.powerOn x0 x1 x2) := fun _ _ _ _ => Nat.zero_le 2
theorem Laws.Words.dieHot : Laws.Words.Statement .dieHot := fun _ => Nat.zero_le 2
theorem Laws.Words.overheat : Laws.Words.Statement .overheat := fun _ => Nat.zero_le 2
theorem Laws.Words.supplyFault : Laws.Words.Statement .supplyFault := fun _ => Nat.zero_le 2
theorem Laws.Words.partitionRestart : ∀ x0, Laws.Words.Statement (.partitionRestart x0) := fun _ _ => Nat.zero_le 2
theorem Laws.Words.hbmRowFailure : ∀ x0 x1, Laws.Words.Statement (.hbmRowFailure x0 x1) := fun _ _ _ => Nat.zero_le 2

end Sys2Proof
end

