-- ==== Sys2Proof/Laws/Shuttle.lean ====
section
/-! SUPPORT. What a Shuttle instruction that only writes an s register does, said once. -/

namespace Sys2Proof.Machine
open Sys2Proof

theorem setS_writes {s : State} {c : Nat} (d : Nat) (v : Dword) (hw : s.iss.who = .shuttle c)
    (hs : s.iss.sup = (s.shuttle c).mode) : ShutWrites s (s.setS c d v) c (fun n => if n = d then some v else none) := by
  refine ⟨rfl, fun j hj => State.modCore_core_ne _ _ _ _ hj, ?_, nput (s.shuttle c).bank d v, ?_, ?_⟩
  · simp [State.setS, State.modShuttle, State.shuttle]
  · by_cases hm : (s.shuttle c).mode = true <;>
      simp [State.setS, State.modShuttle, State.shuttle, Shuttle.setBank, Shuttle.bank, hw, hs] <;> simp_all [State.shuttle]
  · intro n
    simp only [nget_nput]
    split <;> simp_all

/-- A Shuttle instruction whose body writes one s register completes with that result. -/
theorem shutYields_setS {i : Instr} {run : State → State} {d : BitVec 7} {v : State → Dword}
    (he : ∀ s, exec i s = .next (s.issue i run)) (hr : ∀ s c, s.iss.who = .shuttle c → run s = s.setS c d.toNat (v s)) :
    ShutYields i (fun s n => if n = d.toNat then some (v s) else none) := by
  intro s c h
  refine ⟨s.setS c d.toNat (v s), ?_, setS_writes d.toNat (v s) h.who h.mode⟩
  rw [he, issue_shuttle h, hr s c h.who]
  rw [hr s c h.who]
  exact h.outs

end Sys2Proof.Machine
end

