-- ==== Sys2Proof/Tests/Slice0.lean ====
section
/-! SUPPORT. Witnesses that the statements' hypotheses can be met together, each clause by a concrete state and operands; words of
the manual decoded; one ill-formed term for each static check; and small tests of single steps against the manual's figures. -/

namespace Sys2Proof.Tests

-- One theorem after another: the kernel checks them one at a time, and elaborating ahead of it only takes memory.
set_option Elab.async false
open Sys2Proof Sys2Proof.Machine

/-! Small states. -/

/-- A thread that is ready at packet 0 of slot 0. -/
def ready : Thread := { Thread.gone with stat := .ready }

/-- A team of four threads on core 0 that holds handle 0, rule slot 0 and two granules of scratchpad. -/
def quad : Team :=
  { Team.free with
    live := true, allot := 3, bands := 1, scrg := 2, handles := [0], rslots := [0]
    threads := [(0, ready), (1, ready), (2, ready), (3, ready)]
    ctxs := [⟨0, [0], 0⟩] }

/-- The four lanes issue a word of packet 0 without a prefix. -/
def issueOf (ls : List Nat) : Issue := { Issue.none with who := .gang 0 0 ls, npc := 1 }

/-- A running module with partition 0 open; half of HBM is one interleaved pool. -/
def module : State := { (State.reset.modPart 0 fun p => { p with opened := true }) with boot := .running, interleaved := 24 }

/-- The threads of `quad`, changed by f, issue an instruction in the lanes ls. -/
def lanesOf (ls : List Nat) (f : Nat → Thread → Thread) : State :=
  let s := module.modTeam 0 fun _ => { quad with threads := quad.threads.map fun (t : Nat × Thread) => (t.1, f t.1 t.2) }
  { s with iss := issueOf ls }

def all4 : List Nat := [0, 1, 2, 3]

/-- Four threads issue an instruction; their registers read 0. -/
def s0 : State := lanesOf all4 fun _ t => t

/-- A team of 64 threads issues an instruction in all of them. -/
def s64 : State :=
  let s := module.modTeam 0 fun _ => { quad with allot := 0, threads := (List.range 64).map fun i => (i, ready) }
  { s with iss := issueOf (List.range 64) }

/-- The Shuttle of core 0 issues, in its user program or in the handler. -/
def shuttle (sup : Bool) : State :=
  let s := (module.modTeam 0 fun _ => quad).modShuttle 0 fun h => { h with mode := sup, active := true, team := some 0 }
  { s with iss := { Issue.none with who := .shuttle 0, npc := 1, sup := sup } }

/-- Operands of most samples: destination r16, sources r32 and r48. -/
def r3 : R3 := ⟨16, 32, 48, false, false⟩
/-- Operands with one source. -/
def r2 : R2 := ⟨16, 32, false⟩

/-! The hypotheses as computations. -/

/-- What `Lanes` asks of band 0 of team 0, computed. -/
def lanesB (s : State) (ls : List Nat) (i : Instr) : Bool :=
  decide (s.iss.who = .gang 0 0 ls) && decide (ls.Pairwise (· < ·)) && s.iss.outs.isEmpty && s.iss.xfer.isEmpty &&
  (s.decodeFault i).isNone && (ls.all fun l => decide (s.laneDo 0 0 i (shapeOf i s.iss.pfx) l = .run))

theorem lanes_of {s : State} {ls : List Nat} {i : Instr} (h : lanesB s ls i = true) : Lanes s i 0 0 ls := by
  simp only [lanesB, Bool.and_eq_true, decide_eq_true_eq, List.isEmpty_iff, Option.isNone_iff_eq_none, List.all_eq_true] at h
  obtain ⟨⟨⟨⟨⟨h1, h2⟩, h3⟩, h4⟩, h5⟩, h6⟩ := h
  exact ⟨h1, h2, h3, h4, h5, h6⟩

/-- What `Gang` asks of band 0 of team 0, computed, with the instruction's static checks. -/
def gangB (s : State) (ls : List Nat) (i : Instr) : Bool :=
  lanesB s ls i && (s.guardDiv (shapeOf i s.iss.pfx) ls).isEmpty && i.wf

theorem gang_of_gangB {s : State} {ls : List Nat} {i : Instr} (h : gangB s ls i = true) : Gang s i 0 0 ls ∧ i.wf = true := by
  simp only [gangB, Bool.and_eq_true, List.isEmpty_iff] at h
  exact ⟨⟨lanes_of h.1.1, h.1.2⟩, h.2⟩

theorem gangs {s : State} {ls : List Nat} {L : List Instr} (h : L.all (gangB s ls) = true) :
    ∀ i ∈ L, Gang s i 0 0 ls ∧ i.wf = true :=
  fun i hi => gang_of_gangB (List.all_eq_true.1 h i hi)

/-- What `Shut` asks of the Shuttle of core 0, computed, with the instruction's static checks. -/
def shutB (s : State) (i : Instr) : Bool :=
  decide (s.iss.who = .shuttle 0) && decide (s.iss.sup = (s.shuttle 0).mode) && s.iss.outs.isEmpty && (s.decodeFault i).isNone && i.wf

theorem shut_of_shutB {s : State} {i : Instr} (h : shutB s i = true) : Shut s i 0 ∧ i.wf = true := by
  simp only [shutB, Bool.and_eq_true, decide_eq_true_eq, List.isEmpty_iff, Option.isNone_iff_eq_none] at h
  exact ⟨⟨h.1.1.1.1, h.1.1.1.2, h.1.1.2, h.1.2⟩, h.2⟩

theorem shut_of {s : State} {i : Instr} (h : shutB s i = true) : Shut s i 0 := (shut_of_shutB h).1

theorem gang_of {s : State} {ls : List Nat} {i : Instr} (h : gangB s ls i = true) : Gang s i 0 0 ls := (gang_of_gangB h).1

theorem shuts {s : State} {L : List Instr} (h : L.all (shutB s) = true) : ∀ i ∈ L, Shut s i 0 ∧ i.wf = true :=
  fun i hi => shut_of_shutB (List.all_eq_true.1 h i hi)

/-- `Serve`, computed: the state after the last participant, where none faults or waits. -/
def served (f : State → Nat → Except Out State) : State → List Nat → Option State
  | s, [] => some s
  | s, l :: r => match f s l with | .ok u => served f u r | .error _ => none

theorem serve_of {f : State → Nat → Except Out State} : ∀ {ls : List Nat} {s : State},
    (served f s ls).isSome = true → Serve f s ls ((served f s ls).getD s)
  | [], s, _ => rfl
  | l :: r, s, h => by
    unfold served at h ⊢
    split at h
    · rename_i u hu
      refine ⟨u, hu, ?_⟩
      have h2 := serve_of h
      cases hq : served f u r with
      | some t => simpa [hq] using h2
      | none => rw [hq] at h; cases h
    · cases h

theorem ok_of {ε α : Type} {x : Except ε α} (h : x.toOption.isSome = true) : ∃ v, x = .ok v := by
  cases x with | ok v => exact ⟨v, rfl⟩ | error f => cases h

theorem ok2_of {ε α β : Type} {x : Except ε (α × β)} (h : x.toOption.isSome = true) : ∃ u v, x = .ok (u, v) := by
  cases x with | ok v => exact ⟨v.1, v.2, rfl⟩ | error f => cases h

/-- An access faults, and it is a trap that it raises. -/
def errs {α : Type} (x : Except Flt α) : Bool :=
  match x with | .error f => decide (f.code ≠ .freeze ∧ f.code ≠ .delayed) | .ok _ => false

theorem err_of {ε α : Type} {x : Except ε α} (h : x.toOption.isNone = true) : ∃ f, x = .error f := by
  cases x with | ok v => cases h | error f => exact ⟨f, rfl⟩

/-! Integer instructions and limbs. -/

theorem witness_AluWordResults : ∀ i ∈ [Instr.add r3, .sub r3,
    .and r3, .or r3, .xor r3,
    .shl r3, .shr r3, .sar ⟨16, 16, 16, false, false⟩],
    Gang s0 i 0 0 all4 ∧ i.wf = true := gangs (by decide)

theorem witness_MultiplyDivideResults : ∀ i ∈ [Instr.mul r3, .mac r3,
    .mulhI32 r3, .mulhN32 r3, .divI32 r3,
    .divN32 r3, .remI32 r3, .remN32 ⟨79, 79, 79, false, false⟩],
    Gang s0 i 0 0 all4 ∧ i.wf = true := gangs (by decide)

theorem witness_PairAndImmediateResults : ∀ i ∈ [Instr.addB64 r3, .subB64 r3,
    .mulwI32 r3, .mulwN32 ⟨78, 78, 78, false, false⟩, .lea ⟨16, 32, 48, false, false, true, 4, -1⟩,
    .addi ⟨16, 32, false, -1⟩, .shi ⟨16, 32, false, 3, 0⟩, .movi ⟨16, -1, 1⟩, .bfx ⟨16, 32, false, true, 0, 32⟩,
    .bfx ⟨16, 32, false, false, 31, 1⟩, .bfi ⟨16, 32, false, 31, 1⟩], Gang s0 i 0 0 all4 ∧ i.wf = true := gangs (by decide)

theorem witness_ComparePredicates : (∀ i ∈ [Instr.cmp ⟨32, 48, false, false, 0, 0, 0, 0, true⟩, .cmp ⟨32, 48, false, false, 7, 11, 2, 7, false⟩,
    .cmpi ⟨0, 0, 32, false, 0⟩, .cmpi ⟨7, 7, 32, false, -1⟩], Gang s0 i 0 0 all4 ∧ i.wf = true) ∧
    ∃ w n e r, decodeCore w n = .ok (.cmp r) e :=
  ⟨gangs (by decide), 0x98020604, some 0x7D000800, true, _, by rfl⟩

/-- The four lanes are one bound set of width 4. -/
def sBound : State := lanesOf all4 fun _ t => { t with limbL := 4, bset := 1 }

theorem witness_LimbSumsAndDifferences : (∀ i ∈ [Instr.ladd ⟨16, 32, 48, false, false, 1, 2⟩, .lsub ⟨16, 32, 48, false, false, 1, 7⟩,
    .ladc ⟨16, 32, 48, false, false, 1, 2, 3⟩, .lsbc ⟨16, 32, 48, false, false, 7, 2, 3⟩, .lneg ⟨16, 32, false, 1, 2⟩],
    Gang sBound i 0 0 all4 ∧ i.wf = true) ∧ ∀ l ∈ all4, sBound.limbL l ≠ 0 := ⟨gangs (by decide), by decide⟩

theorem witness_LimbCompareMultiplyShift : (∀ i ∈ [Instr.lcmp ⟨32, 48, false, false, 1, 2, 3⟩, .lmulw ⟨16, 32, 48, false, false, 18⟩,
    .lshl r3, .lshr r3, .lshrI r3],
    Gang sBound i 0 0 all4 ∧ i.wf = true) ∧ ∀ l ∈ all4, sBound.limbL l ≠ 0 := ⟨gangs (by decide), by decide⟩

theorem witness_BindAndUnbind :
    (Gang s0 (.bind 0) 0 0 all4 ∧ ∀ l ∈ all4, s0.boundSet l = 0 ∧ ∀ m, m / (4 * 2 ^ 0) = l / (4 * 2 ^ 0) → m ∈ all4) ∧
    (Gang s64 (.bind 4) 0 0 (List.range 64) ∧ ∀ l ∈ List.range 64, s64.boundSet l = 0 ∧
      ∀ m, m / (4 * 2 ^ 4) = l / (4 * 2 ^ 4) → m ∈ List.range 64) ∧
    (Gang s0 (.bind 5) 0 0 all4 ∧ 4 < (5 : BitVec 3).toNat) ∧
    (Gang (lanesOf [0, 2] fun _ t => t) (.bind 0) 0 0 [0, 2] ∧ ∃ l ∈ [0, 2], ∃ m, m / (4 * 2 ^ 0) = l / (4 * 2 ^ 0) ∧ m ∉ [0, 2]) ∧
    (Gang sBound (.bind 0) 0 0 all4 ∧ ∃ l ∈ all4, sBound.boundSet l ≠ 0) ∧ Gang sBound .unbind 0 0 all4 := by
  refine ⟨⟨gang_of (by decide), ?_⟩, ⟨gang_of (by decide), ?_⟩, ⟨gang_of (by decide), by decide⟩,
    ⟨gang_of (by decide), 0, by decide, 1, by decide, by decide⟩,
    ⟨gang_of (by decide), 0, by decide, by decide⟩, gang_of (by decide)⟩
  · intro l hl
    refine ⟨(by decide : ∀ l ∈ all4, s0.boundSet l = 0) l hl, fun m hm => ?_⟩
    simp only [all4, List.mem_cons, List.not_mem_nil, or_false] at hl ⊢
    omega
  · intro l hl
    refine ⟨(by decide : ∀ l ∈ List.range 64, s64.boundSet l = 0) l hl, fun m hm => ?_⟩
    simp only [List.mem_range] at hl ⊢
    omega

/-! Floating point. -/

theorem witness_FloatArithmeticResults : ∀ i ∈ [Instr.fadd r3, .fsub r3,
    .fmul r3, .fma r3, .fdiv r3, .fsqrt r2,
    .frcp r2, .frsq r2, .fexp2 r2, .flog2 r2],
    Gang s0 i 0 0 all4 ∧ i.wf = true := gangs (by decide)

theorem witness_SelectClassAndPackedResults : ∀ i ∈ [Instr.fmin r3, .fmax r3,
    .fminp r3, .fmaxp r3, .fclass r2, .fsgn ⟨16, 32, 48, false, false, 0⟩,
    .fsgn ⟨16, 32, 0, false, false, 3⟩, .fcmp ⟨32, 48, false, false, 0, 0, 0, 0, false⟩, .fcmp ⟨32, 48, false, false, 7, 5, 2, 1, true⟩] ++
    [.faddBf16x2 r3, .fsubBf16x2 r3, .fmulBf16x2 r3,
    .fmaBf16x2 r3, .fminBf16x2 r3, .fmaxBf16x2 r3,
    .fdotBf16x2 r3, .faddF16x2 r3, .fsubF16x2 r3,
    .fmulF16x2 r3, .fmaF16x2 r3, .fminF16x2 r3,
    .fmaxF16x2 r3, .fdotF16x2 r3],
    Gang s0 i 0 0 all4 ∧ i.wf = true := gangs (by decide)

/-- The conversions of one statement clause each: destination and source codes, mantissa width and half (R147 to R151). -/
def cvtOf (dst src : BitVec 4) (mw : BitVec 3) (hi : Bool) : Instr :=
  .cvt ⟨16, 32, if dst = 5 ∨ src = 5 then 48 else 0, false, false, dst, src, mw, hi⟩

theorem witness_RoundingAndConversions : (∀ i ∈ [cvtOf 1 0 0 true, cvtOf 2 0 0 false, cvtOf 0 1 0 true, cvtOf 0 2 0 false, cvtOf 3 0 0 false,
    cvtOf 4 0 0 false, cvtOf 6 0 0 false, cvtOf 7 0 0 false, cvtOf 8 0 0 false, cvtOf 9 0 0 false, cvtOf 0 3 0 false, cvtOf 0 9 0 false,
    cvtOf 5 0 0 false, cvtOf 5 0 6 false, cvtOf 0 5 0 false, cvtOf 0 5 6 false, .cvtp ⟨16, 32, 48, false, false, 1⟩,
    .cvtp ⟨16, 32, 48, false, false, 2⟩], Gang s0 i 0 0 all4 ∧ i.wf = true) ∧ 0 < (1 : Nat) ∧ 2 * 1 % 2 ^ (1 + 1) = 2 ^ 1 ∧
    (0xFF800001 : Nat) < 2 ^ 32 := ⟨gangs (by decide), by decide⟩

/-! Cross-lane instructions. -/

theorem witness_CrossLaneResults : ∀ i ∈ [Instr.shfl ⟨16, 32, 0, false, false, 0, 7, 20, false, true, true, 63⟩,
    .shfl ⟨16, 32, 48, false, false, 3, 1, 0, false, false, false, 0⟩, .bcast r2, .vote ⟨0, 0, 0, false, 7, false, 0⟩,
    .vote ⟨16, 4, 7, true, 7, true, 20⟩, .match_ ⟨16, 32, false, true, 1⟩, .match_ ⟨16, 32, false, false, 7⟩,
    .compact ⟨16, 32, false, 7, false, 1⟩, .greduce ⟨16, 32, false, 0, 0⟩, .greduce ⟨16, 32, false, 8, 4⟩,
    .gscan ⟨16, 32, false, 0, 0, true⟩, .gscan ⟨16, 32, false, 8, 4, false⟩, .rand ⟨16⟩, .randf ⟨79⟩],
    Gang s0 i 0 0 all4 ∧ i.wf = true := gangs (by decide)

/-- A pending request of thread 1 for class 3, and the entry that serves it. -/
def sGusset : State := s0.modCore 0 fun c => { c with
  gusset := [⟨0, 3, [7, 8], 0⟩], greqs := [⟨0, 3, [1], 16, 2⟩] }

theorem witness_GussetTable : (∀ i ∈ [Instr.regput ⟨32, 48, false, false, 0, 1⟩, .regput ⟨32, 48, false, false, 7, 6⟩,
    .regtake ⟨16, 32, false, 7⟩, .regflush ⟨32, false⟩], Gang s0 i 0 0 all4 ∧ i.wf = true) ∧
    (((sGusset.core (coreOfTeam 0)).greqs.find? fun q => q.team == 0 && q.cls == 3) = some ⟨0, 3, [1], 16, 2⟩ ∧
      [(1 : Nat)].length ≤ ((sGusset.core (coreOfTeam 0)).entriesOf 0 3).length) ∧
    [(1 : Nat)].Nodup ∧ ∀ i ∈ [(1 : Nat)], (sGusset.thread 0 i).isLive = true :=
  ⟨gangs (by decide), by decide, by decide, by decide⟩

/-! Control flow. -/

/-- Slots 0 and 1 of core 0 hold overlays 0 and 5; packet 2 of slot 0 begins with PAD 5; virtual page 0 lies at physical 0, and
entry 0 of the jump table there names packet 2 of overlay 0. -/
def coded (s : State) : State :=
  { (s.modCore 0 fun c => { c with
      slots := [(0, ⟨0, 0, 0, 16⟩), (1, ⟨0, 5, 0, 16⟩)], imem := [(24, 5), (26, 1), (27, 0x0C)] }) with
    spaces := [(0, ⟨true, 0x40, [(0, 2199023255552)], [], []⟩)]
    hbm := [(0, 8)]
    tlb := [⟨.core 0, 0, 0, 65536, 0x71D, 0x420000⟩, ⟨.tile 0, 0, 0, 65536, 0x71D, 0x420000⟩] }

/-- Threads whose predicates are all set only in the lanes of `on`, with a shadow stack. -/
def sFlow (on : List Nat) (stk : List Word) : State :=
  coded (lanesOf all4 fun i t => { t with preds := if i ∈ on then 0x7F else 0, sstk := stk })

/-- The four lanes are one bound set on the mapped page; predicate 0 is set only in lanes 0 and 1, and each lane's register 32 is
the link on top of its shadow stack: 0 in those lanes, that of packet 1 in the others. -/
def sDivided : State :=
  coded (lanesOf all4 fun i t =>
    let link : Word := if i < 2 then 0 else 4
    ({ t with limbL := 4, bset := 1, preds := if i < 2 then 1 else 0, sstk := [link] } : Thread).setG 32 link)

theorem witness_TransfersOfControl :
    (∀ i ∈ [Instr.br ⟨0, false, 3⟩, .call ⟨0, false, 3, 20⟩, .brf ⟨0, false, 2, 5⟩, .callf ⟨0, false, 5460, 5, 20⟩],
      Gang (sFlow [0, 1] []) i 0 0 all4 ∧ i.wf = true) ∧
    (∀ (b : Nat → Pc), Together (sFlow [0, 1] []) all4 b) ∧
    ((∀ i ∈ [Instr.br ⟨0, false, 3⟩, .call ⟨0, false, 3, 20⟩, .brf ⟨0, false, 2, 9⟩, .callf ⟨0, false, 5460, 5, 20⟩],
        Lanes sDivided i 0 0 all4) ∧ (∃ n, n ≠ 0 ∧ ∀ l ∈ all4, sDivided.boundSet l = n) ∧
      ∃ l ∈ all4, ∃ m ∈ all4, (sDivided.rp l 0 != false) ≠ (sDivided.rp m 0 != false)) ∧
    (Gang sDivided (.ret ⟨32, false⟩) 0 0 all4 ∧ (∀ l ∈ all4, (sDivided.thread 0 l).sstk.head? = some (sDivided.rd l 32 [])) ∧
      HoldsOverlay sDivided (coreOfTeam 0) 0 0 ∧ (sDivided.rd 0 32 []).toNat / 131072 % 1024 = 0 ∧
      (sDivided.rd 2 32 []).toNat / 131072 % 1024 = 0 ∧
      (sDivided.rd 0 32 []).toNat / 4 % 8192 ≠ (sDivided.rd 2 32 []).toNat / 4 % 8192) ∧
    (s0.iss.who = .gang 0 0 all4 ∧ ((s0.iss.pc.toNat / 4 % 8192 : Nat) + (-1 : BitVec 19).toInt < 0)) ∧
    (s0.iss.who = .gang 0 0 all4 ∧ 5460 < ((s0.iss.pc.toNat / 4 % 8192 : Nat) + (5461 : BitVec 19).toInt)) ∧
    HoldsOverlay (sFlow [0, 1] []) (coreOfTeam 0) 1 5 ∧
    (Gang (sFlow all4 [0]) (.ret ⟨32, false⟩) 0 0 all4 ∧ HoldsOverlay (sFlow all4 [0]) (coreOfTeam 0) 0 0 ∧
      ∀ l ∈ all4, ((sFlow all4 [0]).thread 0 l).sstk.head? = some ((sFlow all4 [0]).rd l 32 [])) ∧
    ((∀ i ∈ [Instr.brf ⟨0, false, 2, 9⟩, .callf ⟨0, false, 2, 9, 20⟩], Gang (sFlow all4 []) i 0 0 all4 ∧ i.wf = true) ∧
      (∀ l ∈ all4, ((sFlow all4 []).rp l 0 != false) = true) ∧
      ∀ sl, sl ≤ 2 → (nfind ((sFlow all4 []).core (coreOfTeam 0)).slots sl).map (·.ovl) ≠ some 9) ∧
    (let s := coded (lanesOf all4 fun _ t => ({ t with sstk := [0x120000] } : Thread).setG 32 0x120000)
     Gang s (.ret ⟨32, false⟩) 0 0 all4 ∧ (∀ l ∈ all4, (s.thread 0 l).sstk.head? = some (s.rd l 32 []) ∧
       (s.rd l 32 []).toNat / 131072 % 1024 = 9) ∧ ∀ sl, sl ≤ 2 → (nfind (s.core (coreOfTeam 0)).slots sl).map (·.ovl) ≠ some 9) ∧
    (Gang (sFlow all4 []) (.ret ⟨32, false⟩) 0 0 all4 ∧ ∀ l ∈ all4, ((sFlow all4 []).thread 0 l).sstk = []) ∧
    (Gang (sFlow all4 [8]) (.ret ⟨32, false⟩) 0 0 all4 ∧ ∀ l ∈ all4, ∃ v, ((sFlow all4 [8]).thread 0 l).sstk.head? = some v ∧
      v ≠ (sFlow all4 [8]).rd l 32 []) := by
  refine ⟨gangs (by decide), ?_, ⟨fun i hi => lanes_of ((by decide : ∀ i ∈ [Instr.br ⟨0, false, 3⟩, .call ⟨0, false, 3, 20⟩,
      .brf ⟨0, false, 2, 9⟩, .callf ⟨0, false, 5460, 5, 20⟩], lanesB sDivided all4 i = true) i hi), ⟨1, by decide, by decide⟩,
      0, by decide, 2, by decide, by decide⟩,
    ⟨gang_of (by decide), by decide, ⟨by decide, by decide, by decide⟩, by decide, by decide, by decide⟩, by decide, by decide,
    ⟨by decide, by decide, by decide⟩, ⟨gang_of (by decide), ⟨by decide, by decide, by decide⟩, by decide⟩,
    ⟨gangs (by decide), by decide, by decide⟩, ⟨gang_of (by decide), by decide, by decide⟩, ⟨gang_of (by decide), by decide⟩,
    ⟨gang_of (by decide), ?_⟩⟩
  · intro b l hl m hm h0
    exact absurd ((by decide : ∀ l ∈ all4, (sFlow [0, 1] []).boundSet l = 0) l hl) h0
  · intro l hl
    exact ⟨8, (by decide : ∀ l ∈ all4, ((sFlow all4 [8]).thread 0 l).sstk.head? = some 8) l hl,
      (by decide : ∀ l ∈ all4, (8 : Word) ≠ (sFlow all4 [8]).rd l 32 []) l hl⟩

/-- One lane's turn at a jump table, as JumpTables states it. -/
def turn (u : State) (l : Nat) (a b : BitVec 7) (bound label : Nat) (f : State → State) : Except Out State :=
  match u.tableTarget l (u.rd l a []).toNat (u.rd64 l b).toNat bound label with
  | .ok (v, pc) => .ok ((f v).transfer l pc)
  | .error o => .error o

/-- A load of the word at virtual address 0 by lane 0 completes, and P holds of the state after it and the word. -/
def loads (s : State) (P : State → Nat → Prop) : Prop := ∃ u bs, s.loadAt 0 0 0 4 = .ok (u, bs) ∧ P u (leNat bs)

theorem witness_JumpTables :
    ((0 : Nat) + 1 ≤ 1) ∧ ((2 : Nat) % 4 ≠ 0) ∧ (∃ f, s0.loadAt 0 0 ((0 + 4 * 0) % 2 ^ 64) 4 = .error f) ∧
    loads (sFlow all4 []) (fun u e => e % 4 = 0 ∧ e / 2 ^ 27 % 32 = 0 ∧ e / 4 % 8192 ≤ 5460 ∧
      u.findSlot u.issCore u.issSup (e / 2 ^ 17 % 1024) = some 0) ∧
    loads { sFlow all4 [] with hbm := [(0, 1)] } (fun _ e => e % 4 ≠ 0) ∧
    loads { sFlow all4 [] with hbm := [(2, 4)] } (fun u e => e % 4 = 0 ∧ e / 2 ^ 27 % 32 = 0 ∧ e / 4 % 8192 ≤ 5460 ∧
      u.findSlot u.issCore u.issSup (e / 2 ^ 17 % 1024) = none) ∧
    (Gang (sFlow all4 []) (.jt ⟨32, 48, false, false, 0, 5⟩) 0 0 all4 ∧
      ∃ t, Serve (fun u l => turn u l 32 48 0 5 id) (sFlow all4 []) all4 t ∧ Together (sFlow all4 []) all4 t.nextPc) ∧
    (Gang (sFlow all4 []) (.jtc ⟨16, 32, 48, false, false, 0, 5⟩) 0 0 all4 ∧
      ∃ t, Serve (fun u l => turn u l 32 48 0 5 fun v => v.lane l fun x => (x.push (v.linkOf v.issCore v.iss.pc)).setG 16
        (v.linkOf v.issCore v.iss.pc)) (sFlow all4 []) all4 t ∧ Together (sFlow all4 []) all4 t.nextPc) := by
  refine ⟨by decide, by decide, ⟨_, rfl⟩, ⟨_, _, rfl, by decide⟩, ⟨_, _, rfl, by decide⟩, ⟨_, _, rfl, by decide⟩,
    ⟨gang_of (by decide), _, serve_of (by decide), ?_⟩, ⟨gang_of (by decide), _, serve_of (by decide), ?_⟩⟩ <;>
  exact fun l hl m hm h0 => absurd ((by decide : ∀ l ∈ all4, (sFlow all4 []).boundSet l = 0) l hl) h0

theorem witness_GatheringAndMasks :
    (∀ i ∈ [Instr.nop, .pad 5, .join 0, .join 7, .jmaskZ 0, .jmaskG 7, .jmaskR ⟨16, 0⟩, .jmaskGet ⟨16, 7⟩, .yield],
      Gang s0 i 0 0 all4 ∧ i.wf = true) ∧ Shut (shuttle false) .nop 0 ∧
    (let s := s0.modThread 0 1 fun t => { t with stat := .atJoin 2 12 }
     (1 ∈ (s.team 0).liveThreads ∧ 1 / 64 = 0 ∧ (s.thread 0 1).stat = .atJoin 2 12) ∧
      ∀ i ∈ (s.team 0).liveThreads, i / 64 = 0 → ((s.team 0).j 2).getLsbD (i % 64) = true → i = 1) ∧
    (let s := (s0.modThread 0 1 fun t => { t with stat := .atJoin 2 12 }).modTeam 0 fun t => { t with jmask := [(2, 6)] }
     (1 ∈ (s.team 0).liveThreads ∧ (s.thread 0 1).stat = .atJoin 2 12) ∧ ∃ i ∈ (s.team 0).liveThreads, i / 64 = 0 ∧
       ((s.team 0).j 2).getLsbD (i % 64) = true ∧ (s.thread 0 i).stat ≠ .atJoin 2 12) ∧
    ∀ i ∈ (s0.team 0).liveThreads, (s0.thread 0 i).stat ≠ .atJoin 2 12 :=
  ⟨gangs (by decide), shut_of (by decide), by decide, by decide⟩

theorem witness_ExitEndsThreads :
    (Gang s0 .exit 0 0 all4 ∧ (∀ l ∈ all4, s0.boundSet l = 0) ∧ ∀ i ∈ (s0.team 0).liveThreads, ∃ l ∈ all4, i = 64 * 0 + l) ∧
    (Gang (lanesOf [0, 1] fun _ t => t) .exit 0 0 [0, 1] ∧ (∀ l ∈ [0, 1], s0.boundSet l = 0) ∧
      3 ∈ ((lanesOf [0, 1] fun _ t => t).team 0).liveThreads) :=
  ⟨⟨gang_of (by decide), by decide, by decide⟩, gang_of (by decide), by decide, by decide⟩

/-- A word has arrived for r16 of thread 1. -/
def sFill : State := { s0 with fills := [⟨5, 0, 1, [16], .words [9]⟩] }

theorem witness_DecisionPopsAndFills :
    (∀ i ∈ [Instr.dqpop ⟨16, false⟩, .dqpop ⟨78, true⟩], Gang s0 i 0 0 all4 ∧ i.wf = true) ∧
    (sFill.fills.filter fun g => g.id == 5) = [⟨5, 0, 1, [16], .words [9]⟩] ∧ [16] = (List.range [(9 : Word)].length).map (16 + ·) ∧
    (sFill.thread 0 1).isLive = true := ⟨gangs (by decide), by decide, by decide, by decide⟩

/-! Memory. -/

/-- Threads whose register 32 holds 2, on the mapped page. -/
def sTwo : State := coded (lanesOf all4 fun _ t => t.setG 32 2)

theorem witness_LoadsAndStores :
    (Gang (sFlow all4 []) (.ld ⟨16, 32, false, 4, 0, 0⟩) 0 0 all4 ∧
      ∃ t, Serve (fun u l => match u.loadAt l 0 (((u.rd64 l 32).toNat + 0 * ldBytes 4) % 2 ^ 64) (ldBytes 4) with
        | .ok (v, bs) => .ok (v.fillLater 0 (64 * 0 + l) 16 (ldWords 4 bs))
        | .error f => .error (.flt f)) (sFlow all4 []) all4 t) ∧
    (Gang (sFlow all4 []) (.st ⟨16, 32, false, 4, 1, 63⟩) 0 0 all4 ∧
      ∃ t, Serve (fun u l => match u.storeAt l 1 (((sFlow all4 []).rd l 32 []).toNat + 63 * 2 ^ 4)
          ((List.range (2 ^ 4 / 4)).flatMap fun i => leBytes 4 (u.rg l (16 + i)).toNat) (fun off => all4.any fun m =>
            decide (l < m) && (u.windowWords m 1 (((sFlow all4 []).rd m 32 []).toNat + 63 * 2 ^ 4) (2 ^ 4)).contains off) with
        | .ok v => .ok v
        | .error f => .error (.flt f)) (sFlow all4 []) all4 t) ∧
    (Shut (coded (shuttle false)) (.ld ⟨16, 32, false, 5, 0, 0⟩) 0 ∧
      ∃ t bs, (coded (shuttle false)).loadAt 0 0 (((coded (shuttle false)).rd64 0 32).toNat + 0) (ldBytes 5) = .ok (t, bs)) ∧
    (Shut (coded (shuttle false)) (.st ⟨16, 32, false, 3, 0, 0⟩) 0 ∧
      ∃ t, (coded (shuttle false)).storeAt 0 0 0 (leBytes (2 ^ 3) ((coded (shuttle false)).viewS 0 16).toNat) (fun _ => false) = .ok t) ∧
    (Gang sTwo (.ld ⟨16, 32, false, 4, 1, 0⟩) 0 0 all4 ∧ (∀ l ∈ all4, (sTwo.rd l 32 []).toNat % ldBytes 4 ≠ 0) ∧
      ∀ f ∈ sTwo.fills, f.id < sTwo.fresh) ∧
    (Gang sTwo (.st ⟨16, 32, false, 2, 1, 0⟩) 0 0 all4 ∧ ∀ l ∈ all4, (sTwo.rd l 32 []).toNat % 2 ^ 2 ≠ 0) := by
  exact ⟨⟨gang_of (by decide), _, serve_of (by decide)⟩, ⟨gang_of (by decide), _, serve_of (by decide)⟩,
    ⟨shut_of (by decide), _, _, rfl⟩,
    ⟨shut_of (by decide), _, rfl⟩,
    ⟨gang_of (by decide), by decide, by decide⟩, gang_of (by decide), by decide⟩

theorem witness_NearAccesses : s0.iss.who = .gang 0 0 all4 ∧ (4 : Nat) % 4 = 0 ∧
    s0.place 0 1 0x100000 4 = .ok (.out 1 0x100000 31 (s0.team 0).sa) ∧ [(0 : Byte), 0, 0, 0].length = 4 ∧
    s0.place 0 1 4 4 = .ok (.at_ (.scr 0 4)) ∧
    ((lanesOf all4 fun _ t => t).modTeam 0 fun t => { t with slice := 1 }).place 3 1 0x80000004 4 = .ok (.at_ (.slice 0 3 4)) ∧
    (s0.modTeam 0 fun t => { t with chipBase := 64, chipSize := 128 }).place 0 3 4 4 = .ok (.at_ (.chip 0 68)) ∧
    ((2 ^ 26 - 1 < 2 ^ 26) ∧ 2 ^ 26 - 1 ≤ 2 ^ 26 - 1) ∧ (2 ^ 26 ≤ 2 ^ 26 ∧ 2 ^ 26 < 2 ^ 27) :=
  ⟨by decide, by decide, by rfl, by decide, by rfl, by rfl, by rfl, by decide, by decide⟩

/-- A translation of virtual address 0 by core 0 succeeds, and P holds of what it gives. -/
def translates (s : State) (a : Acc) (P : State → Nat → Nat → Prop) : Prop :=
  ∃ u pa e, s.translate (.core 0) s.issAsid 0 a = .ok (u, pa, e) ∧ P u pa e

/-- The page is uncached (CLASS 0001). -/
def sUncached : State := { sFlow all4 [] with tlb := [⟨.core 0, 0, 0, 65536, 0x171D, 0x420000⟩] }

/-- The page lies in peer 3, and no port is ACTIVE. -/
def sFar : State := { sFlow all4 [] with spaces := [(0, ⟨true, 0x40, [(0, 2 ^ 52)], [], []⟩)], tlb := [⟨.core 0, 0, 0, 65536, 0x980000000071D, 0x420000⟩] }

/-- Virtual page 0 lies in a deterministic region, and team 0 belongs to a deterministic grid. -/
def sDet : State :=
  let s := (sFlow all4 []).modTeam 0 fun t => { t with det := true }
  { s with spaces := [(0, ⟨true, 0x40, [(0, 2199023255552)], [(1, ⟨0, 65536, 1, true⟩)], []⟩)] }

theorem witness_GlobalAccesses :
    (s0.iss.who = .gang 0 0 all4 ∧ 2 ^ 55 ≤ 2 ^ 55) ∧ (0 % 4 = 0 ∧ 0 < 2 ^ 55) ∧
    (∃ f, s0.translate (.core (coreOfTeam 0)) s0.issAsid 0 .read = .error f) ∧
    (∃ f, s0.translate (.core (coreOfTeam 0)) s0.issAsid 0 .write = .error f) ∧
    translates (sFlow all4 []) .read (fun u pa e => u.viewed ((sFlow all4 []).unitOf (.thread 0 0)) 0 0 = false ∧
      e / 2 ^ 12 % 16 ≠ 1 ∧ targetOf pa = .hbm) ∧
    translates sFar .read (fun u pa _ => u.viewed (sFar.unitOf (.thread 0 0)) 0 0 = false ∧ u.reach (coreOfTeam 0) pa = .error (flt .delayed)) ∧
    translates sUncached .read (fun u pa e => u.reach (coreOfTeam 0) pa = .ok () ∧ u.viewed (sUncached.unitOf (.thread 0 0)) 0 0 = false ∧ e / 2 ^ 12 % 16 = 1) ∧
    translates sDet .read (fun u _ _ => u.viewed (sDet.unitOf (.thread 0 0)) 0 0 = true) ∧
    translates sDet .write (fun u _ _ => u.viewed (sDet.unitOf (.thread 0 0)) 0 0 = true) ∧
    translates (sFlow all4 []) .write (fun u pa e => u.viewed ((sFlow all4 []).unitOf (.thread 0 0)) 0 0 = false ∧
      e / 2 ^ 12 % 16 ≠ 1 ∧ targetOf pa = .hbm ∧ 0 < 4 ∧ pa % 32 + 4 ≤ 32) :=
  ⟨by decide, by decide, ⟨_, rfl⟩, ⟨_, rfl⟩, ⟨_, _, _, rfl, by decide⟩, ⟨_, _, _, rfl, by decide, by rfl⟩,
    ⟨_, _, _, rfl, by rfl, by decide⟩, ⟨_, _, _, rfl, by decide⟩,
    ⟨_, _, _, rfl, by decide⟩, ⟨_, _, _, rfl, by decide⟩⟩

/-- One lane's turn at an atomic that returns the old value, as AtomicInstructions states it. -/
def atomTurn (u : State) (l : Nat) (r : AtomOp) (op : Nat → Nat → Nat) : Except Out State :=
  let width (r : AtomOp) : Nat := if r.ty = 2 then 8 else 4
  let x (s : State) (l : Nat) (r : AtomOp) : Nat := if r.ty = 2 then (s.rd64 l r.data).toNat else (s.rd l r.data [r.base]).toNat
  match u.atomicAt l r.space.toNat (u.ea l r.space.toNat r.base (r.off.toNat * width r)) (width r)
      (fun old => op old (x u l r)) none with
  | .ok (v, old) => .ok (if r.ret then v.fillLater 0 (64 * 0 + l) r.d.toNat
      (if r.ty.toNat = 2 then wordsOf 2 (leBytes 8 old) else wordsOf 1 (leBytes 4 old)) else v)
  | .error f => .error (.flt f)

/-- Atomics on a scratchpad word and on a pair at the mapped page. -/
def atomS : AtomOp := ⟨48, 32, false, 1, 1, 0, true, 16⟩
def atomG : AtomOp := ⟨48, 32, false, 0, 1, 2, false, 0⟩

/-- Core 0 holds sector 2 whole and dirty in its L1. -/
def sCached : State := s0.modCore 0 fun c => { c with l1 := [(2, ⟨List.replicate 32 5, BitVec.allOnes 32⟩)] }

theorem witness_AtomicInstructions :
    (∃ p, s0.place 0 1 4 4 = .ok (.at_ p) ∧ (∀ a, p ≠ .glob a) ∧ ∀ a, p ≠ .phys a) ∧
    (s0.place 0 0 8 8 = .ok (.at_ (.glob 8)) ∧ ∃ e, s0.translate (.core s0.issCore) s0.issAsid 8 .atomic = .error e) ∧
    translates (sFlow all4 []) .atomic (fun u pa _ => u.viewed (u.unitOf (u.whoOf 0)) u.issAsid 0 = false ∧ u.reach u.issCore pa = .ok ()) ∧
    translates sFar .atomic (fun u pa _ => u.viewed (u.unitOf (u.whoOf 0)) u.issAsid 0 = false ∧
      u.reach u.issCore pa = .error (flt .delayed)) ∧
    translates sDet .atomic (fun u _ _ => u.viewed (u.unitOf (u.whoOf 0)) u.issAsid 0 = true) ∧
    (let s := (coded (shuttle true))
     s.place 0 0 (2 ^ 63 + 64) 8 = .ok (.at_ (.phys 64)) ∧ s.permitted s.issAsid 64 = true ∧ s.reach s.issCore 64 = .ok ()) ∧
    (targetOf 64 = .hbm ∧ 64 % 8 = 0 ∧ (∀ c x, nfind (sCached.core c).l1 (64 / 32) = some x → x.data.length = 32) ∧
      (∀ d x, nfind (sCached.die d).l2 (64 / 32) = some x → x.data.length = 32) ∧ nfind sCached.llc (64 / 32) = none ∧
      ∃ x, nfind (sCached.core 0).l1 (64 / 32) = some x ∧ ∀ i, i < 32 → x.dirty.getLsbD i = true) ∧
    (∀ i ∈ [Instr.atomAdd atomS, .atomMin atomS, .atomMax atomS, .atomAnd atomS, .atomOr atomS, .atomXor atomS, .atomExch atomS,
        .atomMin atomG, .atomAdd atomG, .atomCas ⟨48, 32, false, 1, 1, 0, true, 16, 60, false⟩],
      Gang (sFlow all4 []) i 0 0 all4 ∧ i.wf = true) ∧
    (∀ i ∈ [Instr.atomAdd atomS, .atomMin atomS, .atomMax atomS, .atomAnd atomS, .atomOr atomS, .atomXor atomS, .atomExch atomS,
        .atomAdd atomG, .atomCas ⟨48, 32, false, 1, 1, 0, true, 16, 60, false⟩], Shut (coded (shuttle false)) i 0 ∧ i.wf = true) ∧
    (∃ t, Serve (fun u l => atomTurn u l atomS (atomAdd 0)) (sFlow all4 []) all4 t) ∧
    (∃ t, Serve (fun u l => atomTurn u l atomG (atomMinMax false 2)) (sFlow all4 []) all4 t) ∧
    (∃ t, Serve (fun u l => atomTurn u l atomG fun old => atomAdd 2 (atomAdd 2 old 0)) (sFlow all4 []) [0] t) ∧
    (∃ t, Serve (fun u l => match u.atomicAt l 1 (u.ea l 1 32 (1 * 4)) 4
        (fun old => if old % 256 ^ 4 = (u.rd l 60 [32, 48]).toNat % 256 ^ 4 then (u.rd l 48 [32]).toNat else old) none with
      | .ok (v, old) => .ok (v.fillLater 0 (64 * 0 + l) 16 (wordsOf 1 (leBytes 4 old)))
      | .error f => .error (.flt f)) (sFlow all4 []) all4 t) ∧
    (∃ t old, (coded (shuttle false)).atomicAt 0 1 4 4 (fun old => atomAdd 0 old 0) none = .ok (t, old)) ∧
    ∃ t old, (coded (shuttle false)).atomicAt 0 0 8 8 (fun old => atomAdd 2 old (mergeAdd 2 [0])) (some (2, mergeAdd 2 [0])) = .ok (t, old) := by
  refine ⟨⟨_, rfl, by simp, by simp⟩, ⟨by rfl, _, rfl⟩, ⟨_, _, _, rfl, by decide, by rfl⟩, ⟨_, _, _, rfl, by decide, by rfl⟩, ⟨_, _, _, rfl, by decide⟩,
    ⟨by rfl, by decide, by rfl⟩, ⟨rfl, rfl, ?_, ?_, rfl, ?_⟩, gangs (by decide), shuts (by decide),
    ⟨_, serve_of (by decide)⟩, ⟨_, serve_of (by decide)⟩, ⟨_, serve_of (by decide)⟩, ⟨_, serve_of (by decide)⟩, ⟨_, _, rfl⟩, ⟨_, _, rfl⟩⟩
  · intro c x h
    by_cases hc : c = 0
    · subst hc; cases h; rfl
    · rw [show sCached.core c = s0.core c from State.modCore_core_ne s0 0 c _ hc] at h; cases h
  · intro _ _ h; cases h
  · exact ⟨⟨List.replicate 32 5, BitVec.allOnes 32⟩, rfl, by decide⟩

/-- Threads whose register r holds v, on the mapped page. -/
def sReg (r : Nat) (v : Word) : State := coded (lanesOf all4 fun _ t => t.setG r v)

theorem witness_BlockLoadsAndUnpacking :
    (Gang (sFlow all4 []) (.ldt ⟨16, 32, 48, false, false, true, 2, false⟩) 0 0 all4 ∧
      ((sFlow all4 []).rd ((sFlow all4 []).parts_.headD 0) 32 []).toNat % 4 = 0 ∧
      ((sFlow all4 []).rd ((sFlow all4 []).parts_.headD 0) 48 [32]).toNat % 4 = 0 ∧
      ∃ t, Serve (fun u l => match u.ldtElems l 1 ((sFlow all4 []).rd 0 32 []).toNat ((sFlow all4 []).rd 0 48 [32]).toNat 4 (2 ^ 2) 0 with
        | .ok (v, ws) => .ok (v.fillLater 0 (64 * 0 + l) 16 ws)
        | .error f => .error (.flt f)) (sFlow all4 []) all4 t) ∧
    (Gang sTwo (.ldt ⟨16, 32, 48, false, false, true, 0, true⟩) 0 0 all4 ∧ (sTwo.rd (sTwo.parts_.headD 0) 32 []).toNat % 4 ≠ 0) ∧
    (Gang (sReg 48 1) (.ldt ⟨16, 32, 48, false, false, false, 0, false⟩) 0 0 all4 ∧
      ((sReg 48 1).rd ((sReg 48 1).parts_.headD 0) 48 [32]).toNat % 2 ≠ 0) ∧
    (∀ i ∈ [Instr.unpk ⟨16, 32, false, 6, 3, 0, true⟩, .unpk ⟨16, 32, false, 0, 0, 62, false⟩], Gang s0 i 0 0 all4 ∧ i.wf = true) ∧
    0 + (6 + 2) * 2 ^ 3 ≤ 64 :=
  ⟨⟨gang_of (by decide), by decide, by decide, _, serve_of (by decide)⟩, ⟨gang_of (by decide), by decide⟩,
    ⟨gang_of (by decide), by decide⟩, gangs (by decide), by decide⟩

/-- One lane's turn at maintenance, as MaintenanceAndPins states it. -/
def cmoTurn (f : State → Nat → State) (u : State) (l : Nat) : Except Out State :=
  match u.cmoPages (u.rd64 l 32).toNat (u.rd l 48 []).toNat f (pagesOf (u.rd64 l 32).toNat (u.rd l 48 []).toNat) with
  | (v, none) => .ok v
  | (_, some e) => .error (.flt e)

/-- The four threads name the mapped range of 64 bytes at 0; core 0 holds its sector 0 dirty. -/
def sRange : State := { (sReg 48 64).modCore 0 fun c => { c with l1 := [(0, ⟨List.replicate 32 5, BitVec.allOnes 32⟩)] } with iss := issueOf all4 }

/-- The same on the Shuttle. -/
def shutRange : State := { coded (shuttle false) with iss := { Issue.none with who := .shuttle 0, npc := 1 } }

/-- Die 0 holds one pinned line, of sectors 0 to 3. -/
def sPinned : State := sRange.modDie 0 fun d => { d with pins := [⟨0, 0, 0, 128, [(0, 0)], [(0, 65536)]⟩] }

/-- Sector 0, whole and dirty, in the L2 of die d, and in the LLC. -/
def aDirty : NMap Sector := [(0, ⟨List.replicate 32 5, BitVec.allOnes 32⟩)]
def sDie (d : Nat) : State := module.modDie d fun x => { x with l2 := aDirty }
def sLlc : State := { module with llc := aDirty }

/-- Every copy of a sector has its 32 bytes. -/
def wholeAt (s : State) (q : Nat) : Prop := (∀ c x, nfind (s.core c).l1 q = some x → x.data.length = 32) ∧
  (∀ d x, nfind (s.die d).l2 q = some x → x.data.length = 32) ∧ ∀ x, nfind s.llc q = some x → x.data.length = 32

/-- A load of thread 0 is not done: its value waits for a decision. -/
def sLoads : State := { s0 with fills := [⟨5, 0, 0, [16], .words [1]⟩, ⟨6, 0, 1, [16], .words [1]⟩, ⟨7, 0, 2, [16], .words [1]⟩, ⟨8, 0, 3, [16], .words [1]⟩] }

theorem witness_MaintenanceAndPins :
    (∀ i ∈ [Instr.cmoClean ⟨32, 48, false, false, 3⟩, .cmoInv ⟨32, 48, false, false, 0⟩, .cmoCinv ⟨32, 48, false, false, 2⟩,
      .l2pin ⟨32, 48, false, false, 1⟩, .l2unpin ⟨32, 48, false, false⟩, .fence 0, .fence 4], Gang sRange i 0 0 all4 ∧ i.wf = true) ∧
    (∀ i ∈ [Instr.cmoClean ⟨32, 48, false, false, 3⟩, .cmoInv ⟨32, 48, false, false, 0⟩, .cmoCinv ⟨32, 48, false, false, 2⟩,
      .fence 0], Shut shutRange i 0 ∧ i.wf = true) ∧
    (∃ t, Serve (cmoTurn fun s q => s.cleanTo 0 q 3) sRange all4 t) ∧ (∃ t, Serve (cmoTurn fun s q => s.dropTo 0 q 0) sRange all4 t) ∧
    (∃ t, Serve (cmoTurn fun s q => (s.cleanTo 0 q 2).dropTo 0 q 2) sRange all4 t) ∧
    (∃ t, shutRange.cmoPages 0 0 (fun s q => s.cleanTo 0 q 3) (pagesOf 0 0) = (t, none)) ∧
    (∃ u lf, ({ sRange with tlb := [⟨.core 0, 0, 0, 65536, 0x611, 0x420000⟩] }).lookup (.core (coreOfTeam 0)) 0 0 = .ok (u, lf) ∧
      lf.e / 4 % 4 = 0) ∧
    ((∃ x, nfind (sRange.core 0).l1 0 = some x ∧ x.dirty.getLsbD 31 = true) ∧ wholeAt sRange 0) ∧
    (∀ d, (∃ x, nfind ((sDie d).die d).l2 0 = some x ∧ x.dirty.getLsbD 31 = true) ∧ wholeAt (sDie d) 0) ∧ (0 = homeDie (32 * 0)) ∧
    (1 ≠ homeDie (32 * 0)) ∧ ((∃ x, nfind sLlc.llc 0 = some x ∧ x.dirty.getLsbD 31 = true) ∧ wholeAt sLlc 0) ∧
    ((∃ p ∈ (sPinned.die 0).pins, ∃ l ∈ p.lines, l.2 = 3 / 4) ∧ ∀ p ∈ (sPinned.die 0).pins, ∀ l ∈ p.lines, l.2 ≠ 4 / 4) ∧
    (∃ t, Serve (fun u l =>
      let len (a n : Nat) : Nat := if n = 0 then 0 else (a + n + 127) / 128 * 128 - a / 128 * 128
      let a := (u.rd64 l 32).toNat
      let n := (u.rd l 48 []).toNat
      match u.pinLines ((List.range (len a n / 128)).map fun i => i + a / 128) with
      | .error f => .error (.flt f)
      | .ok (v, lines) =>
        if (v.die 0).pins.length < 256 ∧ ((v.die 0).pins.map fun p => 128 * p.lines.length).sum + len a n ≤ 32 * 2 ^ 20 then
          .ok (((lines.foldl (fun w q => w.pinFetch 0 v q.1.1 q.1.2) v).modDie 0 fun x =>
            { x with pins := x.pins ++ [⟨0, v.issAsid, a / 128 * 128, len a n, lines.map (·.1), lines.foldl (fun m q =>
              if m.contains q.2 then m else m ++ [q.2]) []⟩] }).modThread 0 (64 * 0 + l)
              fun x => x.setP 1 true)
        else .ok (v.modThread 0 (64 * 0 + l) fun x => x.setP 1 false)) sRange all4 t) ∧
    (∃ t, Serve (fun u l => .ok (u.modDie 0 fun x => { x with
      pins := x.pins.eraseP fun p => decide (p.team = 0 ∧ p.va = (u.rd64 l 32).toNat / 128 * 128 ∧ p.len = 128) })) sPinned all4 t) ∧
    s0.fills = [] ∧ s0.outbox = [] ∧ (Gang sLoads (.fence 0) 0 0 all4 ∧
      ∀ l ∈ all4, ∃ f ∈ sLoads.fills, f.team = 0 ∧ f.t = 64 * 0 + l ∧ f.val = .words [1]) ∧
    (let s : State := { sRange with outbox := all4.map fun l => (.thread 0 l, 2 ^ 51, [1]) }
     Gang s (.fence 5) 0 0 all4 ∧ ∀ l ∈ all4, ∃ x ∈ s.outbox, x.1 = .thread 0 l ∧ isPeer x.2.1 = true) ∧
    (let s : State := { shutRange with outbox := [(.shuttle 0, 2 ^ 50, [1])] }
     Shut s (.fence 6) 0 ∧ Shut s (.fence 5) 0 ∧ ∃ x ∈ s.outbox, x.1 = .shuttle 0 ∧ isPeer x.2.1 = false) := by
  refine ⟨gangs (by decide), shuts (by decide), ⟨_, serve_of (by decide)⟩, ⟨_, serve_of (by decide)⟩, ⟨_, serve_of (by decide)⟩, ⟨_, rfl⟩,
    ⟨_, _, rfl, by decide⟩, ⟨⟨_, rfl, by decide⟩, ?_, ?_, ?_⟩, fun d => ⟨⟨⟨List.replicate 32 5, BitVec.allOnes 32⟩, ?_, by decide⟩, ?_, ?_, ?_⟩,
    by decide, by decide, ⟨⟨_, rfl, by decide⟩, ?_, ?_, ?_⟩, by decide, ⟨_, serve_of (by decide)⟩, ⟨_, serve_of (by decide)⟩, rfl, rfl,
    ⟨gang_of (by decide), ?_⟩, ⟨gang_of (by decide), by decide⟩, shut_of (by decide), shut_of (by decide), by decide⟩
  · intro c x h
    by_cases hc : c = 0
    · subst hc; cases h; rfl
    · rw [show sRange.core c = (sReg 48 64).core c from
        State.modCore_core_ne (sReg 48 64) 0 c (fun x => { x with l1 := aDirty }) hc] at h
      rw [show (sReg 48 64).core c = (lanesOf all4 fun _ t => t.setG 48 64).core c from
        State.modCore_core_ne (lanesOf all4 fun _ t => t.setG 48 64) 0 c (fun x => { x with
          slots := [(0, ⟨0, 0, 0, 16⟩), (1, ⟨0, 5, 0, 16⟩)], imem := [(24, 5), (26, 1), (27, 0x0C)] }) hc] at h
      cases h
  · intro _ _ h; cases h
  · intro _ h; cases h
  · rw [show (sDie d).die d = { module.die d with l2 := aDirty } from State.modDie_die_same module d _]; rfl
  · intro _ _ h; cases h
  · intro e x h
    by_cases he : e = d
    · subst he
      rw [show (sDie e).die e = { module.die e with l2 := aDirty } from State.modDie_die_same module e _] at h
      cases h; rfl
    · rw [show (sDie d).die e = module.die e from State.modDie_die_ne module d e _ he] at h; cases h
  · intro _ h; cases h
  · intro _ _ h; cases h
  · intro _ _ h; cases h
  · intro _ h; cases h; rfl
  · intro l hl
    refine ⟨⟨5 + l, 0, l, [16], .words [1]⟩, ?_, rfl, by simp, rfl⟩
    exact (by decide : ∀ l ∈ all4, (⟨5 + l, 0, l, [16], .words [1]⟩ : Fill) ∈ sLoads.fills) l hl

/-! Synchronisation. -/

/-- All of team 0 waits at its first barrier, which carries a request for one granule and 8 KiB of slices. -/
def sBar (scrg slice : Nat) : State := s0.modTeam 0 fun t => { t with
  threads := t.threads.map fun (x : Nat × Thread) => (x.1, { x.2 with barK := 1, stat := .atBar 1 })
  barArr := [(1, 0)], carveReq := [(1, scrg, slice)] }

/-- TeamBarriers' terms for phase 1 of team 0: every quad has arrived and none is in the waits; a request fits. -/
def barReadyP (s : State) (q : Nat) : Prop := (s.team 0).live = true ∧ (1, q) ∈ (s.team 0).barArr ∧ (s.team 0).barDone + 1 = 1 ∧
  ∀ i ∈ (s.team 0).liveThreads, (1, i / 4) ∈ (s.team 0).barArr ∧
    ((s.thread 0 i).inBar = some 1 → s.settling 4 (.thread 0 i) = none)
def barFits (s : State) (scrg slice : Nat) : Prop := 4096 * slice ≤ 16384 * scrg ∧
  ((s.teamsOfCore (0 / 8)).map fun j => (s.team j).heldg + if j = 0 then scrg else (s.team j).scrg).sum + 4 ≤ 48

theorem witness_TeamBarriers :
    (∀ i ∈ [Instr.bar, .barCarve ⟨0, 0⟩, .barCarve ⟨47, 63⟩], Gang s0 i 0 0 all4 ∧ i.wf = true) ∧
    (∀ l ∈ all4, s0.settling 4 (.thread 0 (64 * 0 + l)) = none) ∧
    (let s := { (s0.modTeam 0 fun t => { t with barDone := 1 }) with fills := sLoads.fills }
     Gang s .bar 0 0 all4 ∧ ∀ l ∈ all4, (s.thread 0 (64 * 0 + l)).barK + 1 ≤ (s.team 0).barDone) ∧
    (Gang sLoads (.barCarve ⟨0, 0⟩) 0 0 all4 ∧ sLoads.iss.multi = false ∧
      ∀ l ∈ all4, ¬ (sLoads.thread 0 (64 * 0 + l)).barK + 1 ≤ (sLoads.team 0).barDone ∧ sLoads.settling 4 (.thread 0 (64 * 0 + l)) = some .retry) ∧
    (s0.team 0).barArr = [] ∧
    (barReadyP (sBar 1 2) 0 ∧ (sBar 1 2).scratchBusy 0 = false ∧ barFits (sBar 1 2) 1 2 ∧ (∀ j, j < 0 → False) ∧
      ((sBar 1 2).team 0).carveReq.find? (fun c => c.1 == 1) = some (1, 1, 2)) ∧
    (barReadyP (sBar 0 1) 0 ∧ ¬ barFits (sBar 0 1) 0 1 ∧ ((sBar 0 1).team 0).carveReq.find? (fun c => c.1 == 1) = some (1, 0, 1)) ∧
    (∀ c ∈ ((s0.modTeam 0 fun t => { t with barArr := [(1, 0)] }).team 0).carveReq, c.1 ≠ 1) ∧
    barReadyP (s0.modTeam 0 fun t => { t with barArr := [(1, 0)] }) 0 :=
  ⟨gangs (by decide), by decide, ⟨gang_of (by decide), by decide⟩, ⟨gang_of (by decide), by decide, by decide⟩, by decide,
    ⟨⟨by decide, by decide, by decide, by decide⟩, by decide, ⟨by decide, by decide⟩, fun _ h => absurd h (Nat.not_lt_zero _), by decide⟩,
    ⟨⟨by decide, by decide, by decide, by decide⟩, fun h => absurd h.1 (by decide), by decide⟩, by decide,
    ⟨by decide, by decide, by decide, by decide⟩⟩

/-- Team 0 is group 7 of its partition. -/
def sGroup (arrived : Bool) : State :=
  (s0.modPart 0 fun p => { p with groups := [(7, [((s0.team 0).grid, (s0.team 0).teamix)])] }).modTeam 0 fun t =>
    { t with bargArr := if arrived then [(7, 1, 0)] else [] }

/-- The team was run again after phase 1 of the group, and its quads have arrived at that phase once more. -/
def sBehind : State :=
  { (sGroup true).modTeam 0 fun t => { t with det := true } with
    det := [⟨.team ((sGroup true).team 0).grid ((sGroup true).team 0).teamix, 0, 0, 0, 0, 0, [], [], [], [], [(7, 1)], [(7, 1)], []⟩] }

theorem witness_GroupBarriers :
    (Gang (sGroup false) (.barg ⟨4, 7⟩) 0 0 all4 ∧ (sGroup false).isMember 0 7 = true ∧
      ∀ l ∈ all4, (sGroup false).settling 4 (.thread 0 (64 * 0 + l)) = none) ∧
    (let s := (sGroup false).modTeam 0 fun t => { t with bargDone := [(7, 1)] }
     Gang s (.barg ⟨5, 7⟩) 0 0 all4 ∧ s.isMember 0 7 = true ∧
      ∀ l ∈ all4, nget (s.thread 0 (64 * 0 + l)).bargK 7 0 + 1 ≤ nget (s.team 0).bargDone 7 0) ∧
    (Gang s0 (.barg ⟨4, 7⟩) 0 0 all4 ∧ s0.isMember 0 7 = false) ∧
    (let s := { sGroup false with fills := sLoads.fills }
     Gang s (.barg ⟨4, 7⟩) 0 0 all4 ∧ s.isMember 0 7 = true ∧ ∀ l ∈ all4, s.settling 4 (.thread 0 (64 * 0 + l)) = some .retry) ∧
    ((∃ k ∈ (sGroup false).groupTeams 0 7, (sGroup false).bargReady 7 k = false) ∧
      ∀ k ∈ (sGroup false).groupTeams 0 7, (sGroup false).behind 7 k = false) ∧
    (sBehind.groupTeams 0 7 = [] ++ 0 :: [] ∧ sBehind.behind 7 0 = true ∧ sBehind.bargReady 7 0 = true) ∧
    ((∀ k ∈ (sGroup true).groupTeams 0 7, (sGroup true).behind 7 k = false) ∧ (∀ m ∈ (sGroup true).groupOf 0 7, (sGroup true).notStarted m.1 m.2 = false) ∧
      (∀ k ∈ (sGroup true).groupTeams 0 7, (sGroup true).bargReady 7 k = true) ∧
      (∃ k ∈ (sGroup true).groupTeams 0 7, ∃ a ∈ ((sGroup true).team k).bargArr, a.1 = 7) ∧
      (∃ k ∈ (sGroup true).groupTeams 0 7, ((sGroup true).team k).det = false) ∧ ((sGroup true).groupTeams 0 7).Nodup ∧
      ∀ k ∈ (sGroup true).groupTeams 0 7, ((sGroup true).team k).hemrec.getLsbD 0 = false) :=
  ⟨⟨gang_of (by decide), by decide, by decide⟩, ⟨gang_of (by decide), by decide, by decide⟩, ⟨gang_of (by decide), by decide⟩,
    ⟨gang_of (by decide), by decide, by decide⟩, by decide, by decide, by decide, by decide, by decide, by decide, by decide, by decide⟩

/-- ObjectHolds' terms: may a request be granted, the state after it, whether the object is deterministic for the agent, the state
after a release. -/
def holdMay (s : State) (pa : Nat) (x : Bool) : Bool := s.homeNat pa 8 / 65536 % 2 == 0 &&
  (if x then s.homeNat pa 8 % 65536 == 0 && s.objReqs.all fun q => q.obj != pa
   else decide (s.homeNat pa 8 % 65536 < 65535) && s.objReqs.all fun q => q.obj != pa || !q.excl)
def holdGranted (s : State) (c asid va pa : Nat) (x : Bool) : State :=
  let u := (s.homeAtomic c pa 8 fun v => if x then v ||| 65536 else v + 1).1
  (u.regionSectors asid va).foldl (fun u q => (u.dropL1 c q).dropRemote (dieOfCore c) q) u
def holdDet (s : State) (w : Who) (va : Nat) : Bool := s.detObject (s.unitOf w) s.issAsid va
def holdReleased (s : State) (c va pa : Nat) (x : Bool) : State :=
  (((s.regionSectors s.issAsid va).foldl (fun u q => (u.cleanL1 c q).cleanRemote (dieOfCore c) q) s).homeAtomic c pa 8 (relWord x)).1

def acqTurn (x : Bool) (u : State) (l : Nat) : Except Out State :=
  let va := (u.rd64 l 32).toNat
  match u.objAt va with
  | .error f => .error (.flt f)
  | .ok (v, pa) =>
    if holdDet v (.thread 0 (64 * 0 + l)) va then .ok v
    else let v := v.surrender (coreOfTeam 0) pa 8
    if holdMay v pa x then .ok (holdGranted v 0 v.issAsid va pa x)
    else .ok (({ v with objReqs := v.objReqs ++ [⟨pa, .thread 0 (64 * 0 + l), x, va, v.issAsid⟩] } : State).modThread 0 (64 * 0 + l)
      fun t => { t with stat := .atAcq pa va x })
def tryTurn (x : Bool) (p : Nat) (u : State) (l : Nat) : Except Out State :=
  let va := (u.rd64 l 32).toNat
  match u.objAt va with
  | .error f => .error (.flt f)
  | .ok (v, pa) =>
    if holdDet v (.thread 0 (64 * 0 + l)) va then .ok (v.modThread 0 (64 * 0 + l) fun t => t.setP p true)
    else let v := v.surrender (coreOfTeam 0) pa 8
    if holdMay v pa x then .ok ((holdGranted v 0 v.issAsid va pa x).modThread 0 (64 * 0 + l) fun t => t.setP p true)
    else .ok (v.modThread 0 (64 * 0 + l) fun t => t.setP p false)
def relTurn (x : Bool) (u : State) (l : Nat) : Except Out State :=
  let va := (u.rd64 l 32).toNat
  match u.objAt va with
  | .error f => .error (.flt f)
  | .ok (v, pa) =>
    if holdDet v (.thread 0 (64 * 0 + l)) va then .ok v
    else match v.settling 4 (.thread 0 (64 * 0 + l)) with
      | some o => .error o
      | none => .ok (holdReleased v 0 va pa x)

/-- The four threads, and the Shuttle, name the object at 64; `h` shared holds and one exclusive hold are out. -/
def sObj (h : Byte) (x : Bool) : State :=
  { sReg 32 64 with hbm := (if h = 0 then [] else [(64, h)]) ++ if x then [(66, 1)] else [] }
def shutObj (h : Byte) (hold : Hold) : State :=
  { ((coded (shuttle false)).modShuttle 0 fun s => { s with user := [(32, 64)], hold := hold }) with
    hbm := if h = 0 then [] else [(66, h)] }

/-- A copy of channel ch to the scratchpad at 0 that has moved `moved` of its 32 bytes. -/
def aCopy (id ch moved : Nat) (src : Loc) : Copy :=
  ⟨id, 0, ch, 0, .thread 0 0, .plain, 0, .scr 0 0, src, 32, 1, 32, 32, 0, moved, none, false, false, false⟩

/-- The Shuttle's program is in a REL of the object while a copy of its sealed batch is under way. -/
def shutRel (w : Option RelWork) : State :=
  { (shutObj 0 .none).modShuttle 0 fun h => { h with batch := ⟨1, [], [(1, [9])]⟩, rel := w } with copies := [aCopy 9 2 0 (.glob 0)] }

theorem witness_ObjectHolds :
    (∀ i ∈ [Instr.acq ⟨32, false, true⟩, .acq ⟨32, false, false⟩, .tryacq ⟨32, false, true, 1⟩, .tryacq ⟨32, false, false, 1⟩,
      .rel ⟨32, false, true⟩, .rel ⟨32, false, false⟩], Gang (sObj 0 false) i 0 0 all4 ∧ i.wf = true) ∧
    (∃ t, Serve (acqTurn false) (sObj 0 false) all4 t) ∧ (∃ t, Serve (acqTurn true) (sObj 0 false) all4 t) ∧
    (∃ t, Serve (tryTurn false 1) (sObj 0 false) all4 t) ∧ (∃ t, Serve (tryTurn true 1) (sObj 0 true) all4 t) ∧
    (∃ t, Serve (relTurn false) (sObj 4 false) all4 t) ∧ (∃ t, Serve (relTurn true) (sObj 0 true) all4 t) ∧
    ((2 ^ 32 - 1 : Nat) < 2 ^ 32 ∧ (65535 : Nat) < 65536 ∧ (0 : Nat) < 1) ∧
    (∀ i ∈ [Instr.acq ⟨32, false, false⟩, .tryacq ⟨32, false, false, 0⟩, .rel ⟨32, false, false⟩], Shut (shutObj 0 .none) i 0 ∧ i.wf = true) ∧
    (∃ u, (shutObj 0 .none).objAt ((shutObj 0 .none).rd64 0 32).toNat = .ok (u, 64) ∧ holdDet u (.shuttle 0) 64 = false ∧
      ((u.surrender 0 64 8).shuttle 0).curHold = .none ∧ holdMay (u.surrender 0 64 8) 64 true = true ∧
      ((shutObj 0 .none).shuttle 0).rel = none ∧ u.settling 4 (.shuttle 0) = none) ∧
    (∃ u, (shutObj 1 .none).objAt ((shutObj 1 .none).rd64 0 32).toNat = .ok (u, 64) ∧ holdDet u (.shuttle 0) 64 = false ∧
      (shutObj 1 .none).iss.multi = false ∧
      ((u.surrender 0 64 8).shuttle 0).curHold = .none ∧ ((shutObj 1 .none).shuttle 0).curHold = .none ∧
      holdMay (u.surrender 0 64 8) 64 true = false) ∧
    (∃ u, (shutObj 1 (.gotAcq 64 true)).objAt 64 = .ok (u, 64) ∧ ((u.surrender 0 64 8).shuttle 0).curHold = .gotAcq 64 true) ∧
    (Shut (shutRel none) (.rel ⟨32, false, false⟩) 0 ∧ (shutRel none).iss.multi = false ∧ ((shutRel none).shuttle 0).mode = false ∧
      ((shutRel none).shuttle 0).rel = none ∧
      ∃ u, (shutRel none).objAt 64 = .ok (u, 64) ∧ holdDet u (.shuttle 0) 64 = false ∧ u.settling 4 (.shuttle 0) = some .retry) ∧
    (∀ d : Bool, let s := { shutRel (some ⟨64, 64, true, d⟩) with copies := [] }
      Shut s (.rel ⟨32, false, false⟩) 0 ∧ (s.shuttle 0).mode = false ∧ (s.shuttle 0).rel = some ⟨64, 64, true, d⟩ ∧
        s.settling 4 (.shuttle 0) = none) ∧
    (∀ q ∈ (sObj 0 false).objReqs, q.obj ≠ 64) ∧
    (∀ x : Bool, let s : State := { sObj 0 false with objReqs := [⟨8, .thread 0 1, true, 8, 0⟩] ++ ⟨64, .thread 0 2, x, 64, 0⟩ :: [] }
      (∀ o ∈ [(⟨8, .thread 0 1, true, 8, 0⟩ : ObjReq)], o.obj ≠ 64) ∧ s.homeNat 64 8 / 65536 % 2 = 0 ∧
        (if x then s.homeNat 64 8 % 65536 = 0 else s.homeNat 64 8 % 65536 < 65535)) := by
  exact ⟨gangs (by decide), ⟨_, serve_of (by decide)⟩, ⟨_, serve_of (by decide)⟩, ⟨_, serve_of (by decide)⟩, ⟨_, serve_of (by decide)⟩,
    ⟨_, serve_of (by decide)⟩, ⟨_, serve_of (by decide)⟩, by decide, shuts (by decide), ⟨_, rfl, by decide⟩, ⟨_, rfl, by decide⟩,
    ⟨_, rfl, by decide⟩, ⟨shut_of (by decide), by decide, by decide, by decide, _, rfl, by decide, by decide⟩,
    fun d => by cases d <;> exact ⟨shut_of (by decide), by decide, by decide, by decide⟩, by decide, by decide⟩

/-- One lane's turn at REGION, as Regions states it. -/
def regionTurn (det : Bool) (u : State) (l : Nat) : Except Out State :=
  let st := (u.rd64 l 32).toNat
  let n := (u.rd l 48 []).toNat
  let o := (u.rd64 l 62).toNat
  if st % 32 ≠ 0 ∨ n % 32 ≠ 0 ∨ o % 8 ≠ 0 then .error (.flt (flt .align))
  else match u.bindPages (pagesOf st n ++ [o]) with
    | .error f => .error (.flt f)
    | .ok (w, inHbm, d0) => match (if det then d0 else none) with
      | some va => .error (.flt ⟨.perm, va, 0⟩)
      | none =>
        let reason := w.bindReason w.issAsid st n o inHbm
        let rs := (w.space w.issAsid).regions
        let e := ((List.range 512).find? fun e => (nfind rs e).isNone).getD 0
        if reason = 0 then .ok ((w.modSpace w.issAsid fun p => { p with regions := nput rs e ⟨st, n, o, det⟩ }).modThread 0 (64 * 0 + l)
          fun x => (x.setG 16 (BitVec.ofNat 32 e)).setP 1 true)
        else .ok (w.modThread 0 (64 * 0 + l) fun x => (x.setG 16 (BitVec.ofNat 32 (0x80000000 + reason))).setP 1 false)

/-- The threads name a range of 64 bytes at 0 and the object at 256. -/
def sBind : State := coded (lanesOf all4 fun _ t => (t.setG 48 64).setG 62 256)
def shutBind (rs : NMap Region) : State :=
  { ((coded (shuttle false)).modShuttle 0 fun s => { s with user := [(48, 64), (62, 256)] }).modSpace 0 fun p => { p with regions := rs } with
    iss := { Issue.none with who := .shuttle 0, npc := 1 } }

theorem witness_Regions :
    (Gang sBind (.region ⟨16, 32, 48, false, false, 62, false, true, 1⟩) 0 0 all4 ∧ ∃ t, Serve (regionTurn true) sBind all4 t) ∧
    (Gang (sReg 48 1) (.region ⟨16, 32, 48, false, false, 62, false, false, 1⟩) 0 0 all4 ∧
      ∀ l ∈ all4, ((sReg 48 1).rd l 48 []).toNat % 32 ≠ 0) ∧
    (∀ g ∈ ((sBind.space 0).regions.map (·.2)), ¬ (0 < g.start + g.len ∧ g.start < 0 + 64 ∧ (0 : Nat) < 64 ∧ 0 < g.len)) ∧
    ((0 : Nat) < 64 ∧ ∃ g ∈ (((shutBind [(3, ⟨32, 32, 256, false⟩)]).space 0).regions.map (·.2)),
      0 < g.start + g.len ∧ g.start < 0 + 64 ∧ (0 : Nat) < 64 ∧ 0 < g.len) ∧
    (Gang (sReg 32 3) (.regionFree ⟨16, 32, false, 1⟩) 0 0 all4 ∧ ∃ t, Serve (fun u l =>
      let e := (u.rd l 32 []).toNat
      let rs := (u.space u.issAsid).regions
      .ok (match (if 511 < e then none else nfind rs e) with
        | none => u.modThread 0 (64 * 0 + l) fun x => (x.setG 16 0x80000006).setP 1 false
        | some x => if u.objHeld u.issAsid x.obj then u.modThread 0 (64 * 0 + l) fun x => (x.setG 16 0x80000005).setP 1 false
          else (u.modSpace u.issAsid fun p => { p with regions := ndel rs e }).modThread 0 (64 * 0 + l)
            fun x => (x.setG 16 0).setP 1 true)) (sReg 32 3) all4 t) ∧
    (Shut (shutBind []) (.region ⟨16, 32, 48, false, false, 62, false, false, 0⟩) 0 ∧
      pagesOf ((shutBind []).rd64 0 32).toNat ((shutBind []).rd 0 48 []).toNat = [0] ∧ ((shutBind []).rd64 0 62).toNat = 256 ∧
      ∃ w h d0, (shutBind []).bindPages ([0] ++ [256]) = .ok (w, h, d0) ∧ (false = true → d0 = none)) ∧
    (Shut (shutBind [(0, ⟨32, 32, 256, false⟩)]) (.regionFree ⟨16, 32, false, 0⟩) 0 ∧
      nfind ((shutBind [(0, ⟨32, 32, 256, false⟩)]).space (shutBind [(0, ⟨32, 32, 256, false⟩)]).issAsid).regions
        ((shutBind [(0, ⟨32, 32, 256, false⟩)]).rd 0 32 []).toNat = some ⟨32, 32, 256, false⟩) ∧
    (Gang (sReg 48 0) (.waitge ⟨32, 48, false, false⟩) 0 0 all4 ∧ ∀ l ∈ all4, ((sReg 48 0).rd64 l 48).toNat ≤ 0) ∧
    (Gang (sReg 48 1) (.waitge ⟨32, 48, false, false⟩) 0 0 all4 ∧ ∀ l ∈ all4,
      (((sReg 48 1).cluster 0).channel 0).wp < ((sReg 48 1).rd64 l 48).toNat) ∧
    (Shut (coded (shuttle false)) (.waitge ⟨32, 48, false, false⟩) 0 ∧ ((coded (shuttle false)).rd64 0 48).toNat ≤ 0) :=
  ⟨⟨gang_of (by decide), _, serve_of (by decide)⟩, ⟨gang_of (by decide), by decide⟩, by decide,
    by decide, ⟨gang_of (by decide), _, serve_of (by decide)⟩, ⟨shut_of (by decide), by decide, by decide, _, _, _, rfl, by simp⟩, ⟨shut_of (by decide), by decide⟩,
    ⟨gang_of (by decide), by decide⟩, ⟨gang_of (by decide), by decide⟩, shut_of (by decide), by decide⟩

/-! The Shuttle. -/

/-- The Shuttle of core 0 with these s registers. -/
def shutRegs (regs : NMap Dword) : State := (coded (shuttle false)).modShuttle 0 fun h => { h with user := regs }

theorem witness_ShuttleArithmetic :
    (∀ i ∈ [Instr.sadd ⟨16, 32, 48⟩, .ssub ⟨16, 32, 48⟩, .smul ⟨16, 32, 48⟩, .sand ⟨16, 32, 48⟩, .sor ⟨16, 32, 48⟩, .sxor ⟨16, 32, 48⟩,
      .sshl ⟨16, 32, 48⟩, .sshr ⟨16, 32, 48⟩, .ssar ⟨63, 63, 63⟩, .saddi ⟨16, 32, -1⟩, .sldi ⟨0, -1⟩, .sset ⟨16, 32, 48, 0⟩,
      .sset ⟨16, 32, 48, 11⟩, .sbr ⟨32, 48, 0, 3⟩, .sbr ⟨0, 0, 12, 5460⟩, .sbrf ⟨5, 5460⟩, .sbrf ⟨9, 0⟩, .sdone, .dqpush 32],
      Shut (shutRegs []) i 0 ∧ i.wf = true) ∧ (shutRegs []).iss.who = .shuttle 0 ∧
    (shutRegs []).findSlot 0 (shutRegs []).issSup 5 = some 1 ∧ (shutRegs []).findSlot 0 (shutRegs []).issSup 9 = none ∧
    ((shutRegs []).shuttle 0).team = some 0 ∧ ((shutRegs []).team 0).dq.length < 64 ∧
    64 ≤ (((shutRegs []).modTeam 0 fun t => { t with dq := List.replicate 64 0 }).team 0).dq.length :=
  ⟨shuts (by decide), by decide, by decide, by decide, by decide, by decide, by decide⟩

/-- A running stream of queue 0 over one word of the team's scratchpad. -/
def oneWord (base : Loc) : Stream :=
  { base := base, counts := [1, 1, 1, 1], strides := [0, 0, 0, 0], lstride := 0, esize := 4, sext := false, pos := 0, pushed := 0
    running := true, paused := false, frozen := false, sup := false, unit := .plain }
def sStream (base : Loc) : State := s0.modTeam 0 fun t => { t with queues := [(0, ⟨0, [], oneWord base⟩)] }

theorem witness_OperandStreams :
    (Shut (shutRegs [(36, 0x300000000)]) (.stream ⟨32, 0⟩) 0 ∧ ((shutRegs [(36, 0x300000000)]).streamDesc 32).bad = true) ∧
    (Shut (shutRegs [(32, 2)]) (.stream ⟨32, 15⟩) 0 ∧ ((shutRegs [(32, 2)]).streamDesc 32).bad = false ∧
      ¬ (((shutRegs [(32, 2)]).viewS 0 32).toNat % 4 = 0)) ∧
    (Shut (shutRegs [(32, 0x100000), (36, 0x800000000)]) (.stream ⟨32, 0⟩) 0 ∧
      ((shutRegs [(32, 0x100000), (36, 0x800000000)]).streamDesc 32).bad = false ∧
      ∃ p bound, (shutRegs [(32, 0x100000), (36, 0x800000000)]).rangeAt 0 1 0x100000 false = .ok (p, bound) ∧
        walkInside p bound [1, 1, 1, 1] 0 [0, 0, 0, 0] 0 4 = false) ∧
    (Shut (shutRegs [(36, 0x800000000)]) (.stream ⟨32, 0⟩) 0 ∧ ((shutRegs [(36, 0x800000000)]).streamDesc 32).bad = false ∧
      (∃ p bound, (shutRegs [(36, 0x800000000)]).rangeAt 0 1 0 false = .ok (p, bound) ∧
        walkInside p bound [1, 1, 1, 1] 0 [0, 0, 0, 0] 0 4 = true) ∧ ((shutRegs [(36, 0x800000000)]).shuttle 0).team = some 0 ∧
      (((shutRegs [(36, 0x800000000)]).team 0).queue 0).stream.running = false) ∧
    ({ oneWord (.scr 0 0) with counts := [2, 3, 4, 5], pos := 1 + 2 * (2 + 3 * (3 + 4 * 4)) } : Stream).pos = 119 ∧
    (let s := sStream (.scr 0 0)
     (s.team 0).live = true ∧ (s.team 0).liveThreads ≠ [] ∧ (s.part (partOfCore (coreOfTeam 0))).halted = false ∧
      ((s.team 0).queue 0).stream.running = true ∧ ((s.team 0).queue 0).entries.length < 8) ∧
    (∃ u ws, (sStream (.scr 0 0)).streamElems (coreOfTeam 0) ((sStream (.scr 0 0)).team 0).asid (oneWord (.scr 0 0)) (List.range 64) = .ok (u, ws)) ∧
    (∃ f, (sStream (.glob 0)).streamElems (coreOfTeam 0) ((sStream (.glob 0)).team 0).asid (oneWord (.glob 0)) (List.range 64) = .error f ∧
      f.code ≠ .freeze ∧ f.code ≠ .delayed) ∧
    ((s0.team 0).queue 0).stream.running = false ∧
    (Shut (shutRegs []) (.sqstop ⟨16, 0⟩) 0 ∧ (((shutRegs []).team 0).queue 0).stream.running = false) ∧
    (let s := (shutRegs []).modTeam 0 fun t => { t with queues := [(0, ⟨0, [], { oneWord (.scr 0 0) with paused := true }⟩)] }
     Shut s (.sqstop ⟨16, 0⟩) 0 ∧ (s.shuttle 0).team = some 0 ∧ ((s.team 0).queue 0).stream.running = true ∧
      ((s.team 0).queue 0).stream.paused = true) :=
  ⟨⟨shut_of (by decide), by decide⟩, ⟨shut_of (by decide), by decide, by decide⟩, ⟨shut_of (by decide), by decide, _, _, rfl, by decide⟩,
    ⟨shut_of (by decide), by decide, ⟨_, _, rfl, by decide⟩, by decide, by decide⟩, by decide, by decide, ⟨_, _, rfl⟩, ⟨_, rfl, by decide⟩,
    by decide, ⟨shut_of (by decide), by decide⟩, shut_of (by decide), by decide, by decide, by decide⟩

/-- Thread l copies 64 bytes from the mapped page to its own 64 bytes of the scratchpad (two rows of 32 for CPY2D). -/
def sCopy : State := coded (lanesOf all4 fun i t => ((((t.setG 32 (BitVec.ofNat 32 (64 * i))).setG 62 32).setG 63 2).setG 64 32).setG 65 32)
def cpyR : CpyOp := ⟨16, 32, 48, false, false, 62, false, 3, 1, 0, true⟩
def cpyS : CpyOp := ⟨0, 32, 48, false, false, 56, false, 3, 1, 0, false⟩
def shutCopy : State := shutRegs [(56, 32), (57, 2), (58, 32), (59, 32)]

theorem witness_CopyIssue :
    (∀ i ∈ [Instr.cpy cpyR, .cpy2d cpyR], Gang sCopy i 0 0 all4 ∧ i.wf = true) ∧
    (∃ t, Serve (fun u l => u.copyOne l cpyR 32 1 32 32) sCopy all4 t) ∧
    (∃ t, Serve (fun u l => u.copyOne l cpyR (u.rg l (62 + 0)).toNat (u.rg l (62 + 1)).toNat
      (BitVec.ofNat 32 (u.rg l (62 + 2)).toNat).toInt (u.rg l (62 + 3)).toNat) sCopy all4 t) ∧
    (∀ i ∈ [Instr.cpy cpyS, .cpy2d cpyS], Shut shutCopy i 0 ∧ i.wf = true) ∧
    (∃ t, shutCopy.copyOne 0 cpyS 32 1 32 32 = .ok t) ∧ (∃ t, shutCopy.copyOne 0 cpyS 32 2 32 32 = .ok t) ∧
    (sTwo.rd64 0 32).toNat % 4 ≠ 0 ∧ ((1 : Nat) < 2 ∧ (4 : Int) < (8 : Nat)) ∧ (2 ≤ 1 ∨ ((8 : Nat) : Int) ≤ 8) ∧
    (∃ f, sCopy.rangeAt 0 0 (2 ^ 55) true = .error f) ∧
    (∃ x f, sCopy.rangeAt 0 1 0 true = .ok x ∧ sCopy.rangeAt 0 0 (2 ^ 55) true = .error f) ∧
    (∃ dst db src sb, sCopy.rangeAt 0 1 0 true = .ok (dst, db) ∧ sCopy.rangeAt 0 0 0 true = .ok (src, sb) ∧
      sCopy.destOverlap 0 3 sCopy.issAsid dst ⟨dst.off, 32, 1, 32⟩ = false ∧ db = some (0, (sCopy.team 0).sa) ∧ 32 ≤ (sCopy.team 0).sa ∧
      (sCopy.channelCopies 0 3).length < 32) ∧
    (({ sCopy with copies := [aCopy 9 2 0 (.glob 0)] } : State).destOverlap 0 3 0 (.scr 0 0) ⟨0, 32, 1, 32⟩ = true) ∧
    32 ≤ (({ sCopy with copies := (List.range 32).map fun i => aCopy i 3 0 (.glob 0) } : State).channelCopies 0 3).length :=
  ⟨gangs (by decide), ⟨_, serve_of (by decide)⟩, ⟨_, serve_of (by decide)⟩, shuts (by decide), ⟨_, rfl⟩, ⟨_, rfl⟩, by decide, by decide, by decide,
    ⟨_, rfl⟩, ⟨_, _, rfl, rfl⟩, ⟨_, _, _, _, rfl, rfl, by decide, by decide, by decide, by decide⟩, by decide, by decide⟩

def sCopies (moved : Nat) (src : Loc) : State := { sCopy with copies := [aCopy 9 2 moved src] }

/-- Every thread has sealed batch 1, which holds copy 9. -/
def sSealed (cs : List Copy) : State :=
  { coded (lanesOf all4 fun _ t => { t.setG 32 1 with batch := ⟨1, [], [(1, [9])]⟩ }) with copies := cs }

/-- Core 0's Shuttle in slot 0 loads overlay 7 of n packets from 0. -/
def shutOvl (n : Nat) (src : Dword) : State := shutRegs [(32, BitVec.ofNat 64 (7 + 65536 * n)), (48, src)]

theorem witness_CopyChannels :
    (∀ c r, s0.channelCopies 0 2 = c :: r → c.stopped = true) ∧
    ((sCopies 32 (.glob 0)).channelCopies 0 2 = [aCopy 9 2 32 (.glob 0)] ∧ 32 * 1 ≤ (aCopy 9 2 32 (.glob 0)).moved ∧
      ((sCopies 32 (.glob 0)).part (partOfCluster 0)).halted = false) ∧
    ((sCopies 0 (.glob 0)).channelCopies 0 2 = [aCopy 9 2 0 (.glob 0)] ∧ (aCopy 9 2 0 (.glob 0)).moved < 32 * 1 ∧
      ∃ u bs v, (sCopies 0 (.glob 0)).unitRead 0 0 .plain (.glob 0) 32 .read = .ok (u, bs) ∧ u.unitWrite 0 0 .plain (.scr 0 0) bs = .ok v ∧
        v.clusters = (sCopies 0 (.glob 0)).clusters ∧ v.copies = (sCopies 0 (.glob 0)).copies) ∧
    (∃ f, f.code = .delayed ∧ (sCopies 0 (.phys 0x9800000000000)).unitRead 0 0 .plain (.phys 0x9800000000000) 32 .read = .error f) ∧
    (∃ f, f.code ≠ .freeze ∧ f.code ≠ .delayed ∧ (sCopies 0 (.glob 65536)).unitRead 0 0 .plain (.glob 65536) 32 .read = .error f) ∧
    (∀ i ∈ [Instr.seal ⟨16, false, false⟩, .wptr ⟨16, 32, false, false⟩], Gang s0 i 0 0 all4 ∧ i.wf = true) ∧
    (Gang (sSealed []) (.bwait ⟨32, false, false⟩) 0 0 all4 ∧ (∀ c ∈ (sSealed []).copies, c.id ≠ 9) ∧ (sSealed []).held = []) ∧
    (Gang (sSealed [aCopy 9 2 0 (.glob 0)]) (.bwait ⟨32, false, false⟩) 0 0 all4 ∧
      ∀ l ∈ all4, (1, [9]) ∈ ((sSealed [aCopy 9 2 0 (.glob 0)]).thread 0 (64 * 0 + l)).batch.sealed ∧
        ((sSealed [aCopy 9 2 0 (.glob 0)]).rd l 32 [] - 1).toNat < 2 ^ 31) ∧
    (Shut (shutOvl 5461 0) (.ovl ⟨16, 32, 48, false, false, 3, 0⟩) 0 ∧ ((shutOvl 5461 0).shuttle 0).mode = false) ∧
    (Shut (shutOvl 1 2) (.ovl ⟨16, 32, 48, false, false, 2, 0⟩) 0 ∧ ((shutOvl 1 2).viewS 0 48).toNat % 4 ≠ 0) ∧
    (∀ n ∈ [0, 5462], Shut (shutOvl n 0) (.ovl ⟨16, 32, 48, false, false, 2, 0⟩) 0 ∧
      (((shutOvl n 0).viewS 0 32).toNat / 2 ^ 16 % 2 ^ 13 = 0 ∨ 5461 < ((shutOvl n 0).viewS 0 32).toNat / 2 ^ 16 % 2 ^ 13)) ∧
    (∀ n ∈ [1, 5461], Shut (shutOvl n 0) (.ovl ⟨16, 32, 48, false, false, 0, 0⟩) 0 ∧ 0 ≠ 3 ∧ (shutOvl n 0).slotInUse 0 0 = true ∧
      2 ≠ 3 ∧ (shutOvl n 0).slotInUse 0 2 = false ∧ ((shutOvl n 0).channelCopies (clusterOfCore 0) 0).length < 32 ∧
      0 < ((shutOvl n 0).viewS 0 32).toNat / 2 ^ 16 % 2 ^ 13 ∧ ((shutOvl n 0).viewS 0 32).toNat / 2 ^ 16 % 2 ^ 13 ≤ 5461) := by
  refine ⟨(by intro c r h; cases h), by decide, ⟨by decide, by decide, _, _, _, rfl, rfl, rfl, rfl⟩, ⟨flt .delayed, by decide, rfl⟩, ⟨⟨.notMapped, 65536, 2⟩, by decide, by decide, rfl⟩,
    gangs (by decide), ⟨gang_of (by decide), by decide, rfl⟩, ⟨gang_of (by decide), by decide⟩, ⟨shut_of (by decide), by decide⟩,
    ⟨shut_of (by decide), by decide⟩, ?_, ?_⟩
  · intro n hn
    exact ⟨shut_of ((by decide : ∀ n ∈ [0, 5462], shutB (shutOvl n 0) (.ovl ⟨16, 32, 48, false, false, 2, 0⟩) = true) n hn),
      (by decide : ∀ n ∈ [0, 5462], (((shutOvl n 0).viewS 0 32).toNat / 2 ^ 16 % 2 ^ 13 = 0 ∨
        5461 < ((shutOvl n 0).viewS 0 32).toNat / 2 ^ 16 % 2 ^ 13)) n hn⟩
  · intro n hn
    exact ⟨shut_of ((by decide : ∀ n ∈ [1, 5461], shutB (shutOvl n 0) (.ovl ⟨16, 32, 48, false, false, 0, 0⟩) = true) n hn),
      (by decide : ∀ n ∈ [1, 5461], 0 ≠ 3 ∧ (shutOvl n 0).slotInUse 0 0 = true ∧ 2 ≠ 3 ∧ (shutOvl n 0).slotInUse 0 2 = false ∧
        ((shutOvl n 0).channelCopies (clusterOfCore 0) 0).length < 32 ∧ 0 < ((shutOvl n 0).viewS 0 32).toNat / 2 ^ 16 % 2 ^ 13 ∧
        ((shutOvl n 0).viewS 0 32).toNat / 2 ^ 16 % 2 ^ 13 ≤ 5461) n hn⟩

/-- Virtual page 0 of `coded` in stack 0's local pool. -/
def sLocal (s : State) : State := { s with tlb := [⟨.core 0, 0, 0, 65536, 0x1000000071D, 0x420000⟩] }

/-- A draw of the record at virtual address 0. -/
def aDraw (w : Who) (ts : List Nat) (sup : Bool) (u : UnitKey) : Draw := ⟨7, w, ts, 16, 0x10000000000, sup, 0, u⟩

theorem witness_ChunkDraws :
    (1 % 32 ≠ 0) ∧ (s0.iss.who = .gang 0 0 all4 ∧ 0 % 32 = 0 ∧
      ∃ u lf, (sFlow all4 []).lookup (.core (coreOfTeam 0)) (sFlow all4 []).issAsid 0 = .ok (u, lf) ∧ isStackLocal (lf.pa 0) = false) ∧
    (Gang (sLocal (sFlow all4 [])) (.chunk ⟨16, 32, false, false, false⟩) 0 0 all4 ∧
      ∃ t, Serve (fun u l => match u.recordAt (u.rd64 l 32).toNat with
        | .error f => .error (.flt f)
        | .ok (v, pa) => .ok { v.modThread 0 (64 * 0 + l) fun x => ((x.clearFull 16).clearFull (16 + 1)).clearFull (16 + 2) with
            draws := v.draws ++ [⟨v.fresh, .thread 0 (64 * 0 + l), [64 * 0 + l], 16, pa, false,
              (u.rd64 l 32).toNat, v.unitOf (.thread 0 (64 * 0 + l))⟩], fresh := v.fresh + 1 })
        (sLocal (sFlow all4 [])) all4 t) ∧
    (Gang (sLocal (sFlow all4 [])) (.chunk ⟨16, 32, false, false, true⟩) 0 0 (0 :: [1, 2, 3]) ∧
      ∃ u pa, (sLocal (sFlow all4 [])).recordAt ((sLocal (sFlow all4 [])).rd64 0 32).toNat = .ok (u, pa)) ∧
    (Gang sTwo (.chunk ⟨16, 32, false, false, true⟩) 0 0 all4 ∧
      ∃ f, f.code ≠ .delayed ∧ sTwo.recordAt (sTwo.rd64 (sTwo.parts_.headD 0) 32).toNat = .error f) ∧
    (Shut (sLocal (shutRegs [])) (.chunk ⟨16, 32, false, false, false⟩) 0 ∧
      ∃ u pa, (sLocal (shutRegs [])).recordAt ((sLocal (shutRegs [])).rd64 0 32).toNat = .ok (u, pa)) ∧
    s0.draws.length ≤ 0 ∧
    (∀ u ∈ [UnitKey.plain, .team 0 0], let d := aDraw (.thread 0 1) [1] false u
      sDet.redrawn d = none ∧ sDet.viewed u 0 d.va = (u != .plain)) ∧
    (let s : State := { s0 with grids := [⟨0, 0, none, 0, 1, true, [], [], 1, [], [], [], [], [], [⟨8, 4, 0x10000000000, 3⟩]⟩] }
     s.redrawn (aDraw (.thread 0 1) [1] false (.team 0 0)) = some ⟨8, 4, 0x10000000000, 3⟩) ∧
    (∀ det : Bool, let s : State := { s0.modTeam 0 fun t => { t with det := det } with
        draws := [aDraw (.thread 0 1) [1, 3] false .plain] }
     s.draws[0]? = some (aDraw (.thread 0 1) [1, 3] false .plain) ∧ s.draws.take 0 = [] ∧ (s.thread 0 1).isLive = true ∧
      (s.team 0).det = det) ∧
    (∀ sup : Bool, let s : State := { (shuttle sup).modShuttle 0 fun h => { h with hold := .draw 7, supHold := .draw 7 } with
        draws := [aDraw (.shuttle 0) [] sup .plain] }
     s.draws[0]? = some (aDraw (.shuttle 0) [] sup .plain) ∧ s.draws.take 0 = [] ∧
      (if sup then (s.shuttle 0).supHold else (s.shuttle 0).hold) = .draw 7) :=
  ⟨by decide, ⟨by decide, by decide, _, _, rfl, by decide⟩, ⟨gang_of (by decide), _, serve_of (by decide)⟩, ⟨gang_of (by decide), ok2_of (by decide)⟩,
    ⟨gang_of (by decide), flt .align, by decide, rfl⟩, ⟨shut_of (by decide), ok2_of (by decide)⟩, by decide, by decide, by decide, by decide, by decide⟩

/-! Tile records. A block of zeros asks for one cell of handle 0; scratchpad operands lie at 0. -/

/-- Pattern memory of die 0 holds BAND(0, 1); identifiers 0 (sparse, over it) and 1 (dense, at an unmapped address) are valid; rule
slot 0 holds a linear rule with all three moves; the team holds handles 0 and 1. -/
def tiled (s : State) : State :=
  let s := (s.modDie 0 fun d => { d with pattern := [(0, 0x10000000), (1, 0), (2, 1), (3, 0xF0000000)] }).modTeam 0 fun t =>
    { t with handles := [0, 1] }
  let s := s.modCluster 0 fun c => { c with rules := [(0, 0 :: 0x70 :: List.replicate 1054 0)] }
  let entry (flags base : Byte) : List Byte := [0, flags] ++ List.replicate 7 0 ++ [0, base] ++ List.replicate 13 0 ++ [4, 0, 0, 0, 4, 0, 0, 0] ++
    List.replicate 8 0 ++ [4] ++ List.replicate 23 0
  s.modSpace 0 fun p => { p with tids := [(0, entry 0x89 0), (1, entry 0x81 1)] }

/-- Register blocks of the threads: zeros at r0; a product at r16; QCVT at r48; a sparse product at r64. -/
def sTile : State := tiled (coded (lanesOf all4 fun _ t => ((((t.setG 24 0x42).setG 28 0x42).setG 56 2).setG 72 3).setG 76 0x42))
/-- The same in pairs in s registers: zeros at s0, a product at s8, QCVT at s16, a sparse product at s24. -/
def shutTile : State := { tiled (shutRegs [(12, 0x42), (14, 0x42), (20, 2), (28, 3), (30, 0x42)]) with
  iss := { Issue.none with who := .shuttle 0, npc := 1 } }

/-- What a thread of team 0 issues: the record of a block of registers. -/
def recG (kind a : Nat) : Rec × RecEnv :=
  let blk := (List.range 16).flatMap fun j => leBytes 4 (sTile.rg 0 (a + j)).toNat
  let e : RecEnv := ⟨some 0, 0, sTile.issAsid, (sTile.team 0).handles, (sTile.team 0).rslots, some (sTile.team 0).allotment⟩
  (newRec kind blk e (.thread 0 0) (sTile.unitOf (.thread 0 0)) false (sTile.tid sTile.issAsid), e)
/-- What the Shuttle of core 0 issues. -/
def recS (kind a : Nat) : Rec × RecEnv :=
  let blk := (List.range 16).flatMap fun j =>
    leBytes 4 (BitVec.ofNat 32 ((shutTile.viewS 0 (a + j / 2)).toNat / 2 ^ (32 * (j % 2)))).toNat
  let e : RecEnv := ⟨some 0, 0, shutTile.issAsid, (shutTile.team 0).handles, (shutTile.team 0).rslots, none⟩
  (newRec kind blk e (.shuttle 0) (shutTile.unitOf (.shuttle 0)) (shutTile.shuttle 0).mode (shutTile.tid shutTile.issAsid), e)

def okProduct (s : State) (x : Rec × RecEnv) : Bool := (s.checkProduct x.1 x.2).toOption.isSome
def okRecur (s : State) (x : Rec × RecEnv) : Bool := (s.checkRecur x.1 x.2).toOption.isSome

theorem witness_TileRecordIssue :
    (∀ i ∈ [Instr.qmma ⟨80, 16, false⟩, .qspmm ⟨80, 64, false⟩, .qacc ⟨80, 0, false⟩, .qcvt ⟨80, 48, false⟩, .qrec ⟨80, 0, false⟩,
      .qrecb ⟨80, 0, false⟩, .qtrace ⟨80, 0, false⟩], Gang sTile i 0 0 all4 ∧ i.wf = true) ∧ all4 ≠ [] ∧
    (∀ x ∈ [recG 1 16, recG 2 64, recG 3 0, recG 4 48], okProduct sTile x = true) ∧
    (∀ x ∈ [recG 0x10 0, recG 0x11 0, recG 0x12 0], okRecur sTile x = true) ∧
    (∀ l ∈ all4, sTile.regEmpties (recG 1 16).1 l = [] ∧ sTile.boundSet l = 0) ∧ sTile.hasPlace 0 (clusterOfCore (coreOfTeam 0)) = true ∧
    (∃ f, f.code ≠ .delayed ∧ sTile.checkProduct (recG 1 0).1 (recG 1 0).2 = .error f) ∧
    (({ sTile with records := List.replicate 64 (recG 3 0).1 } : State).hasPlace 0 0 = false) ∧
    (∀ i ∈ [Instr.qmma ⟨60, 8, false⟩, .qspmm ⟨60, 24, false⟩, .qacc ⟨60, 0, false⟩, .qcvt ⟨60, 16, false⟩, .qrec ⟨60, 0, false⟩,
      .qrecb ⟨60, 0, false⟩, .qtrace ⟨60, 0, false⟩], Shut shutTile i 0 ∧ i.wf = true) ∧ (shutTile.shuttle 0).team = some 0 ∧
    (∀ x ∈ [recS 1 8, recS 2 24, recS 3 0, recS 4 16], okProduct shutTile x = true) ∧
    (∀ x ∈ [recS 0x10 0, recS 0x11 0, recS 0x12 0], okRecur shutTile x = true) ∧ shutTile.hasPlace 0 0 = true ∧
    (recIll (recG 1 0).1 (recG 1 0).2 = true) ∧
    (let r := (recG 1 16).1
     let e := (recG 1 16).2
     let at_ (o : Nat) (v : Byte) : Rec := { r with bytes := r.bytes.set o v }
     (recIll (at_ 0x18 4) e = false ∧ (at_ 0x18 4).n 0x18 8 % 8 ≠ 0) ∧
      (recIll (at_ 1 5) e = false ∧ recAlign (at_ 1 5) = false ∧ (at_ 1 5).n 1 1 % 8 ∉ e.handles) ∧
      ((at_ 9 1).kind = 1 ∧ recIll (at_ 9 1) e = false ∧ recAlign (at_ 9 1) = false ∧ (at_ 9 1).n 1 1 % 8 ∈ e.handles ∧
        (at_ 9 1).opA.code ≠ (at_ 9 1).opB.code) ∧
      ((at_ 0x27 1).kind = 1 ∧ recIll (at_ 0x27 1) e = false ∧ recAlign (at_ 0x27 1) = false ∧ (at_ 0x27 1).n 1 1 % 8 ∈ e.handles ∧
        recShapeBad (at_ 0x27 1) = false ∧ (sTile.recExtent (at_ 0x27 1) e).isSome = true)) ∧
    (let r := (recG 0x10 0).1
     recurIll r = false ∧ recurAlign r (nget ((sFlow all4 []).cluster 0).rules (r.n 2 1 % 16) []) = false ∧ r.kind = 0x10 ∧
      r.n 1 1 % 8 ∈ (recG 0x10 0).2.handles ∧ r.n 2 1 ∈ (recG 0x10 0).2.slots ∧
      ruleMoves (nget ((sFlow all4 []).cluster 0).rules (r.n 2 1 % 16) []) = 0) :=
  ⟨gangs (by decide), by decide, by decide, by decide, by decide, by decide, ⟨flt .illInst, by decide, rfl⟩, by decide, shuts (by decide), by decide, by decide,
    by decide, by decide, by decide, by decide, by decide⟩

/-- The record of a block, in the queue with id 5 and token 1. -/
def aRec (kind a : Nat) : Rec := { (recG kind a).1 with id := 5, tok := 1 }
/-- The same with one byte of its block changed. -/
def aRecWith (kind a o : Nat) (v : Byte) : Rec := { aRec kind a with bytes := (aRec kind a).bytes.set o v }
/-- The same with two. -/
def aRecTwo (kind a o : Nat) (v : Byte) (o' : Nat) (v' : Byte) : Rec :=
  { aRec kind a with bytes := ((aRec kind a).bytes.set o v).set o' v' }
/-- A QACC record of an operation with a register operand, for thread 0. -/
def accRec (op : Byte) (d : Byte) : Rec :=
  { aRec 3 0 with bytes := ((aRec 3 0).bytes.set 2 op).set 0x20 d, regThr := if d = 0x51 then [0] else [] }
/-- The tiled state with this record in the queue. -/
def sRec (r : Rec) : State := { sTile with records := [r] }
def running (r : Rec) : Rec := { r with started := true }
def done (r : Rec) : Rec := { r with started := true, finished := true }

/-- A record runs, and what P says of the state and the record holds. -/
def runs (s : State) (sel : Rec → Bool) (P : State → Rec → Bool) : Bool :=
  match s.runnable 0 0 sel with | some (u, r) => P u r | none => false

theorem runs_of {s : State} {sel : Rec → Bool} {P : State → Rec → Bool} (h : runs s sel P = true) :
    ∃ u r, s.runnable 0 0 sel = some (u, r) ∧ P u r = true := by
  unfold runs at h
  split at h
  · rename_i u r hr; exact ⟨u, r, hr, h⟩
  · cases h

/-- The tiled threads wait for the record of token 1, number 5, that was issued before; these faults are kept for them. -/
def sWait (h : List HeldFault) : State := { sRec (aRec 1 16) with fresh := 9, held := h }

theorem witness_TileRecordLife :
    (((sRec (running (aRec 1 16))).queueOf 0)[0]? = some (running (aRec 1 16)) ∧ (sRec (running (aRec 1 16))).recRuns (running (aRec 1 16)) = true) ∧
    (let s := (sRec (aRec 1 16)).modCluster 0 fun c => c.modEngine 0 fun e => { e with busy := some 4 }
     (s.queueOf 0)[0]? = some (aRec 1 16) ∧ s.recRuns (aRec 1 16) = true ∧ s.canStart (aRec 1 16) = false) ∧
    (((sRec (aRec 1 16)).queueOf 0)[0]? = some (aRec 1 16) ∧ (sRec (aRec 1 16)).recRuns (aRec 1 16) = true ∧
      (sRec (aRec 1 16)).canStart (aRec 1 16) = true ∧ ∀ j, j < 0 → False) ∧
    ((aRecWith 1 16 3 3).n 3 1 % 2 = 1 ∧ (aRecWith 1 16 3 3).n 3 1 / 2 % 2 = 1) ∧
    (∀ r, (s0.queueOf 0)[0]? = some r → r.finished = false) ∧
    (let r := done (aRec 1 16)
     ((sRec r).queueOf 0)[0]? = some r ∧ r.finished = true ∧ r.parked = false ∧ r.frozen = false ∧ (sRec r).recRuns r = true ∧
      r.team = some 0 ∧ r.started = true ∧ r.n 0x18 8 = 0) ∧
    (let r := done (aRecWith 1 16 0x18 64)
     let u := ((sRec r).modTeam 0 fun t => { t with fstat := t.fstat ||| r.flags }).modRec r.id fun x => { x with flags := 0 }
     ((sRec r).queueOf 0)[0]? = some r ∧ r.n 0x18 8 ≠ 0 ∧ (sRec r).recRuns r = true ∧
      (u.unitWrite r.core r.asid r.unit (.glob (r.n 0x18 8)) (leBytes 8 r.tok.toNat)).toOption.isSome = true) ∧
    (let r := done (aRecWith 1 16 0x1A 1)
     let u := ((sRec r).modTeam 0 fun t => { t with fstat := t.fstat ||| r.flags }).modRec r.id fun x => { x with flags := 0 }
     ((sRec r).queueOf 0)[0]? = some r ∧ r.n 0x18 8 ≠ 0 ∧ (sRec r).recRuns r = true ∧
      (u.unitWrite r.core r.asid r.unit (.glob (r.n 0x18 8)) (leBytes 8 r.tok.toNat)).toOption.isNone = true) ∧
    ((sRec (done (aRec 1 16))).removeRec (done (aRec 1 16))).tileNodes 0 = [] ∧
    ((aRec 1 16).team = some 0 ∧ (aRec 1 16).sup = false) ∧ (flt .delayed).code = .delayed ∧
    (Gang sTile (.qwait ⟨24, false⟩) 0 0 all4 ∧ sTile.records = [] ∧ sTile.held = []) ∧
    (Gang (sWait []) (.qwait ⟨24, false⟩) 0 0 all4 ∧
      ∀ l ∈ all4, ∃ x ∈ (sWait []).records, x.team = some 0 ∧ x.id < ((sWait []).laneThread l).since.getD (sWait []).fresh ∧
        ((sWait []).rd l 24 [] - x.tok).toNat < 2 ^ 31) ∧
    (let s := { sWait [⟨.thread 0 2, 3, some 1, flt .perm⟩] with records := [], iss := issueOf [0] }
     Gang s (.qwait ⟨24, false⟩) 0 0 [0] ∧ s.records = [] ∧ (s.held.find? fun h => (match h.who, h.tok with
       | .thread j _, some t => j == 0 && decide (h.work < (s.laneThread 0).since.getD s.fresh) && decide ((s.rd 0 24 [] - t).toNat < 2 ^ 31)
       | _, _ => false)) = some ⟨.thread 0 2, 3, some 1, flt .perm⟩) ∧
    (Gang sTile (.qpoll ⟨16⟩) 0 0 all4 ∧ ∃ b ls, sTile.iss.who = .gang 0 b ls) ∧
    (Shut shutTile (.qpoll ⟨16⟩) 0 ∧ (shutTile.shuttle 0).team = some 0) :=
  ⟨by decide, by decide, ⟨by decide, by decide, by decide, fun _ h => absurd h (Nat.not_lt_zero _)⟩, by decide, (by intro r h; cases h),
    by decide, by decide, by decide, by decide, by decide, rfl,
    ⟨gang_of (by decide), rfl, rfl⟩, ⟨gang_of (by decide), by decide⟩, ⟨gang_of (by decide), by decide, by decide⟩,
    ⟨gang_of (by decide), 0, all4, rfl⟩, shut_of (by decide), by decide⟩

def cleared (s : State) (r : Rec) : State := s.setBank r.cluster r.ah fun m => putCells m ((cellsOf r.m r.cols).map fun c => (c.1, c.2, 0))
/-- The state of a product before its term at the record's progress. -/
def atTerm (s : State) (r : Rec) : State := if r.n 1 1 / 8 % 2 = 1 ∧ r.progress = 0 then cleared s r else s
def passes {α : Type} (x : Except Flt α) : Bool := x.toOption.isSome
def fails {α : Type} (x : Except Flt α) : Bool := x.toOption.isNone
def sparse (o : Nat) (v : Byte) (p : Nat) : Rec :=
  { aRecWith 2 64 o v with pat := [0x10000000, 0, 1, 0xF0000000], tidB := sTile.tid 0 1, progress := p }
/-- The row of a QACC store or load, and what it does. -/
def rowStores (u : State) (r : Rec) : Except Flt State := r.writeEach u ((List.range r.cols).map fun j =>
  (r.cellLoc r.opA r.progress j, leBytes 4 (cellOf (u.bank 0 r.ah) r.progress j).toNat))
def rowLoads (u : State) (r : Rec) : Except Flt (State × List (List Byte)) :=
  readEach (fun s j => r.read s (r.cellLoc r.opA r.progress j) 4) u (List.range r.cols)

/-- A product of one BFP block per row, both operands in the scratchpad. -/
def bfpRec : Rec := running (aRecTwo 1 16 8 5 9 5)

theorem witness_ProductRuns :
    (∀ v ∈ [(0 : Byte), 8], runs (sRec (aRecWith 1 16 1 v)) (fun r => r.kind == 1) (fun u r => decide (r.progress < r.terms) &&
      passes ((atTerm u r).qmmaTerm r r.progress)) = true) ∧
    runs (sRec { running (aRec 1 16) with progress := 1 }) (fun r => r.kind == 1) (fun _ r => decide (r.terms ≤ r.progress)) = true ∧
    runs (sRec { aRecWith 1 16 0x30 7 with tidB := sTile.tid 0 1 }) (fun r => r.kind == 1) (fun u r => decide (r.progress < r.terms) &&
      fails ((atTerm u r).qmmaTerm r r.progress)) = true ∧
    (let r := running (aRec 1 16)
     let s := sRec r
     r.opA.isBfp = false ∧ r.cols ≤ 64 ∧
      (readEach (fun s i => readEach (r.elem r.opA) s ((termKs r.opA.code r.k 0).map fun k => (i, k))) s (List.range r.m)).toOption.isSome = true ∧
      (readEach (fun s j => readEach (r.elem r.opB) s ((termKs r.opA.code r.k 0).map fun k => (j, k))) s (List.range r.cols)).toOption.isSome = true) ∧
    (let r := bfpRec
     let s := sRec r
     r.opA.isBfp = true ∧ r.cols ≤ 64 ∧ r.opA.src = 2 ∧ passes (readEach (r.block r.opA) s ((List.range r.m).map fun i => (i, 0))) = true ∧
      passes (readEach (r.block r.opB) s ((List.range r.cols).map fun j => (j, 0))) = true ∧
      passes (readEach (fun s (i : Nat) => r.read s (r.rowByte r.opA 0 0 (r.opA.rowBytes r.opA.pwb) i) 1) s (List.range (4 * r.opA.mw))) = true ∧
      passes (r.read s (r.rowByte r.opA 0 0 (r.opA.rowBytes r.opA.pwb) (r.opA.pwb * 4 * r.opA.mw)) 1) = true) ∧
    (let r := bfpRec
     let s := sRec r
     let o : Opnd := ⟨3, 5, [], sTile.tid 0 0⟩
     o.src = 3 ∧ passes (readEach (fun s (i : Nat) => r.read s (.glob (tidBase o.tid + 4 * i)) 4) s (List.range o.mw)) = true ∧
      passes (r.scaleByte s (tidSbase o.tid)) = true) ∧
    (⟨1, 0, [[3]], []⟩ : Opnd).src = 1 ∧
    runs (sRec (sparse 9 0 0)) (fun r => r.kind == 2) (fun u r => match r.sparseTerms.drop r.progress with
      | x :: _ => passes ((atTerm u r).qspmmTerm r x) && decide (r.cols ≤ 64) && passes (readEach r.sparseVal u (x.2.map (·.2))) &&
        passes (readEach (fun s j => readEach (r.elem r.opB) s (x.2.map fun g => (j, g.1))) u (List.range r.cols))
      | [] => false) = true ∧
    runs (sRec (sparse 9 0 9)) (fun r => r.kind == 2) (fun _ r => (r.sparseTerms.drop r.progress).isEmpty) = true ∧
    runs (sRec (sparse 0x30 7 0)) (fun r => r.kind == 2) (fun u r => match r.sparseTerms.drop r.progress with
      | x :: _ => fails ((atTerm u r).qspmmTerm r x)
      | [] => false) = true ∧
    runs (sRec (accRec 0 0)) (Rec.isAcc 0) (fun _ r => decide (r.cols ≤ 64) && decide (r.cluster = 0)) = true ∧
    runs (sRec (accRec 1 0x51)) (Rec.isAcc 1) (fun u r => decide (r.team = some 0) && decide r.regThr.Nodup &&
      r.regThr.all fun i => (u.thread 0 i).isLive) = true ∧
    runs (sRec (accRec 2 0x51)) (Rec.isAcc 2) (fun _ r => decide (r.opA.c0 + r.opA.w ≤ 64) && decide (r.cluster = 0)) = true ∧
    runs (sRec (accRec 3 2)) (Rec.isAcc 3) (fun u r => decide (r.progress < r.m) && passes (rowStores u r)) = true ∧
    runs (sRec { accRec 3 7 with tidA := sTile.tid 0 1 }) (Rec.isAcc 3) (fun u r => decide (r.progress < r.m) && fails (rowStores u r)) = true ∧
    runs (sRec (accRec 4 2)) (Rec.isAcc 4) (fun u r => decide (r.progress < r.m) && passes (rowLoads u r)) = true ∧
    runs (sRec { accRec 4 7 with tidA := sTile.tid 0 1 }) (Rec.isAcc 4) (fun u r => decide (r.progress < r.m) && fails (rowLoads u r)) = true ∧
    runs (sRec (aRec 4 48)) (fun r => r.kind == 4) (fun u r => decide (r.progress < r.m) && decide (r.opA.code = 0) && !r.opA.isBfp &&
      passes (r.writeEach u (r.cvtRow (u.bank 0 r.ah) r.progress).1)) = true ∧
    runs (sRec { aRecWith 4 48 0x20 7 with tidA := sTile.tid 0 1 }) (fun r => r.kind == 4) (fun u r => decide (r.progress < r.m) &&
      fails (r.writeEach u (r.cvtRow (u.bank 0 r.ah) r.progress).1)) = true := by
  and_intros <;> decide

theorem witness_RecurrenceRuns :
    (0 < (aRec 0x10 0).m ∧ 0 < (aRec 0x10 0).cols) ∧ (ruleOpc (leBytes 8 0x7600) = 3 → ruleF32 (leBytes 8 0x7600) = false) ∧
    ((1 : Word) ≠ 0x80000000) ∧ [(0, 5), (1, 5)] ≠ ([] : List (Nat × Nat)) ∧
    ((0, 0) ∈ (aRec 0x10 0).frontsAt 0 ∧ (aRec 0x10 0).nextFront 0 = some 0 ∧ (aRec 0x10 0).nextFront 1 = none) ∧
    runs (sRec (aRec 0x10 0)) (fun r => r.kind == 0x10) (fun _ r => decide (r.nextFront r.progress = some 0)) = true ∧
    runs (sRec { running (aRec 0x10 0) with progress := 1 }) (fun r => r.kind == 0x10) (fun _ r => decide (r.nextFront r.progress = none)) = true ∧
    (let r := { aRecTwo 0x10 0 4 1 5 1 with rule := [] }
     r.m = 2 ∧ r.cols = 2 ∧ (1 < r.m + r.cols - 1 ∧ 1 + 2 ≠ r.m + r.cols) ∧ (2 < r.m + r.cols - 1 ∧ 2 + 2 = r.m + r.cols)) ∧
    (ruleTrc (0 :: 0x78 :: List.replicate 1054 0) = true ∧ (aRecWith 0x10 0 1 8).keep = true) ∧
    (let r := aRec 0x10 0
     r.spc = 0 ∧ r.team = some 0 ∧ 0 < r.m ∧ r.m ≤ 64 ∧ 0 < r.cols ∧ r.cols ≤ 64 ∧ r.n 0x2C 4 + 0 * r.pitch + 0x204 < 2 ^ 32 ∧
      r.n 0x2C 4 + 0 * r.pitch + 0x204 ≤ (sTile.team 0).sa) ∧
    runs (sRec (aRec 0x11 0)) (fun r => r.kind == 0x11) (fun _ r => decide (r.progress < r.m + r.cols - 1) && decide (r.ah < 8)) = true ∧
    runs (sRec { running (aRec 0x11 0) with progress := 1 }) (fun r => r.kind == 0x11) (fun _ r => decide (r.m + r.cols - 1 ≤ r.progress)) = true ∧
    (let r := aRecTwo 0x11 0 4 1 5 1
     (0 + 1 < r.m ∧ 0 + 1 < r.cols) ∧ (1 + 1 = r.m ∧ 0 + 1 < r.cols) ∧ (0 + 1 < r.m ∧ 1 + 1 = r.cols) ∧ (1 + 1 = r.m ∧ 1 + 1 = r.cols)) ∧
    runs (sRec (aRec 0x12 0)) (fun r => r.kind == 0x12) (fun u r =>
      let i := nget r.wave 0 (r.n 4 1)
      let j := nget r.wave 1 (r.n 5 1)
      decide (traceMove (nget (u.engineOf r).trace (traceKey r.ah r.tb i j) 0).toNat i j = .inr (-1, -1, 2))) = true ∧
    runs (sRec { running (aRec 0x12 0) with wave := [(0, 3), (1, 5)] }) (fun r => r.kind == 0x12) (fun u r =>
      let i := nget r.wave 0 (r.n 4 1)
      let j := nget r.wave 1 (r.n 5 1)
      decide (traceMove (nget (u.engineOf r).trace (traceKey r.ah r.tb i j) 0).toNat i j = .inl (2, 4))) = true ∧
    (let s := { sTile.modTeam 0 fun t => { t with scratch := [(1, 0x70)] } with records := [aRec 0x10 0], fresh := 9 }
     gangB s all4 (.qrule ⟨0, false, 0, 1⟩) = true ∧ (0 : BitVec 4).toNat ∈ (s.team 0).rslots ∧ s.iss.multi = false ∧ s.ruleWaits = [] ∧
      (match s.rangeOf 0 1 0 1056 true with
       | .ok p => (match s.loadRange 0 p 1056 true with | .ok _ => true | .error _ => false)
       | .error _ => false) = true ∧
      ∃ x ∈ s.records, x.team = some 0 ∧ (x.kind = 0x10 ∨ x.kind = 0x11) ∧ x.n 2 1 = (0 : BitVec 4).toNat ∧ x.started = false ∧ x.id < s.fresh) ∧
    (Gang sTile (.qrule ⟨24, false, 0, 1⟩) 0 0 all4 ∧ (sTile.rd 0 24 []).toNat % 32 ≠ 0) ∧
    (Gang sTile (.qrule ⟨0, false, 15, 1⟩) 0 0 all4 ∧ (sTile.rd 0 0 []).toNat % 32 = 0 ∧ (15 : BitVec 4).toNat ∉ (sTile.team 0).rslots) ∧
    (let s := sTile.modTeam 0 fun t => { t with scratch := [(1, 0x70)] }
     gangB s all4 (.qrule ⟨0, false, 0, 1⟩) = true ∧ (0 : BitVec 4).toNat ∈ (s.team 0).rslots ∧
      (match s.rangeOf 0 1 0 1056 true with
       | .ok p => (match s.loadRange 0 p 1056 true with
         | .ok (u, img) => !ruleBad img && u.ruleWaits.isEmpty
         | .error _ => false)
       | .error _ => false) = true ∧ s.ruleWaits = [] ∧ s.records = []) ∧
    (match sTile.rangeOf 0 1 0 1056 true with
      | .ok p => (match sTile.loadRange 0 p 1056 true with | .ok (_, img) => ruleBad img | .error _ => false)
      | .error _ => false) = true ∧
    (let s := shutTile.modTeam 0 fun t => { t with scratch := [(1, 0x70)] }
     shutB s (.qrule ⟨0, false, 0, 1⟩) = true ∧ (s.shuttle 0).team = some 0 ∧ (s.viewS 0 0).toNat % 2 ^ 32 % 32 = 0 ∧
      (match s.rangeOf 0 1 0 1056 true with
       | .ok p => (match s.loadRange 0 p 1056 true with
         | .ok (u, img) => !ruleBad img && u.ruleWaits.isEmpty
         | .error _ => false)
       | .error _ => false) = true ∧ s.ruleWaits = [] ∧ s.records = []) ∧
    bnat (leBytes 8 0x7000) 0 8 = 0x7000 := by
  and_intros <;> first | exact gang_of (by decide) | decide

/-! Patterns. -/

theorem witness_PatternSets : ((-1 : Int) < 0) ∧ ((3 : Nat) < 4 ∧ (3 : Nat) < 4) ∧ (0 < (1 : Nat)) ∧ (4 ≤ 4 ∧ 15 < 2 ^ 4) ∧
    hashCol true 7 (2 ^ 4) 3 0 = hashCol true 7 (2 ^ 4) 3 16 ∧ ((3 : Nat) < 4 ∧ 4 ≤ 4) := by decide +kernel

/-- The context of the program at index 0 over a 4 by 4 grid, whole. -/
def ctx44 (tdecl : Bool) : PatCtx := ⟨0, tdecl, 4, 4, 0, 4, 0, 4, 0, 0, 0, 0, 0, 0, [0x10000000, 0, 1, 0xF0000000]⟩

/-- The threads' registers r16 and on hold these words, over the tiled state; scratchpad bytes and context as given. -/
def sPat (ws : List Word) (scr : Mem) (x : Option PatCtx) : State :=
  (tiled (coded (lanesOf all4 fun _ t => (indexed ws).foldl (fun t w => t.setG (16 + w.1) w.2) t))).modTeam 0 fun t =>
    { t with scratch := scr, pat := x }

/-- BAND(0, 1) as PATLD reads it from the scratchpad. -/
def bandBytes : Mem := [(3, 0x10), (8, 1), (15, 0xF0)]

/-- PATLD reads these bytes at the scratchpad's start, and P holds of the words read and the state after it. -/
def reads (s : State) (P : State → List Word → Bool) : Bool :=
  match s.readProg 0 1 0 64 0 with | .ok (u, ws) => P u ws | .error _ => false

theorem witness_PatternInstructions :
    (s0.iss.who = .gang 0 0 all4 ∧ 0 % 4 = 0 ∧ 0 + 256 ≤ (s0.team 0).sa ∧ 0 + 256 ≤ 2 ^ 31) ∧
    (gangB (sPat [1] [] none) all4 (.patld ⟨80, 16, 48, false, false, 1⟩) = true ∧ ((sPat [1] [] none).rd 0 16 []).toNat % 4 ≠ 0) ∧
    (gangB (sPat [0x80001000] [] none) all4 (.patld ⟨80, 16, 48, false, false, 0⟩) = true ∧
      errs ((sPat [0x80001000, 0x8000000] [] none).readProg 0 0 0x800000080001000 64 0) = true) ∧
    reads (sPat [] [] none) (fun _ ws => (patSet ws).isNone) = true ∧
    (gangB (sPat [0, 2048] bandBytes none) all4 (.patld ⟨80, 16, 17, false, false, 1⟩) = true ∧
      reads (sPat [0, 2048] bandBytes none) (fun _ ws => (patSet ws).isSome && decide (¬ 2048 + ws.length ≤ 2048)) = true) ∧
    reads (sPat [0, 2044] bandBytes none) (fun _ ws => (patSet ws).isSome && decide (2044 + ws.length ≤ 2048)) = true ∧
    (∀ ws ∈ [[0x2000, 4, 4, 0, 4, 0, 4, 0], [0x800, 4, 4, 0, 4, 0, 4, 0], [0x10, 4, 4, 0, 4, 0, 4, 0], [0, 4, 4, 0, 5, 0, 4, 0], [0, 4, 4, 0, 4, 0, 4, 0],
      [0x1000, 4, 4, 0, 4, 0, 4, 0]], gangB (sPat ws [] none) all4 (.patbind ⟨16, false⟩) = true) ∧
    (patBindOk ((sPat [] [] none).patProg 0 0) 4 4 = true ∧ patBindOk ((sPat [] [] none).patProg 0 0x10) 4 4 = false ∧
      (patSet ((sPat [] [] none).patProg 0 0)).any PatSet.invertible = true ∧
      (patSet [0x50000000, 5, 0xF0000000]).any PatSet.invertible = false) ∧
    (∀ i ∈ [Instr.patnext ⟨80, false, false, 1⟩, .patnext ⟨80, true, true, 7⟩], gangB (sPat [] [] (some (ctx44 true))) all4 i = true) ∧
    ((ctx44 true).set.invertible = true ∧ ({ ctx44 true with prog := [0x50000000, 5, 0xF0000000] } : PatCtx).set.invertible = false) ∧
    ((sPat [] [] none).team 0).pat = none ∧ (ctx44 false).exact = true ∧
    (gangB (sPat [32] [] (some (ctx44 false))) all4 (.patsave ⟨16, false, 1⟩) = true ∧
      (match (sPat [32] [] (some (ctx44 false))).rangeOf 0 1 32 256 true with
       | .ok p => ((sPat [32] [] (some (ctx44 false))).storeRange 0 p (patImage 0 none)).toOption.isSome
       | .error _ => false) = true) ∧
    ((sPat [16] [] none).rd 0 16 []).toNat % 32 ≠ 0 ∧ errs ((sPat [0x100000] [] none).rangeOf 0 1 0x100000 256 true) = true ∧
    (∀ x ∈ [none, some (ctx44 true)],
      let s := sPat [0] (mwrite [] 0 ((patImage 0 x).take 64)) none
      gangB s all4 (.patrestore ⟨16, false, 1⟩) = true ∧
      (match s.rangeOf 0 1 0 256 true with
       | .ok p => (match s.loadRange 0 p 256 false with
         | .ok (_, bs) => decide (bs.take 64 = (patImage 0 x).take 64) && decide (bnat bs 2 1 % 2 = if x.isSome then 1 else 0)
         | .error _ => false)
       | .error _ => false) = true) ∧
    (let s := sPat [] [] none
     (ctx44 true).pref < 4096 ∧ (ctx44 true).prog = s.patProg (dieOfCore (coreOfTeam 0)) 0 ∧ s.bindFault 0 4 4 true 0 4 0 4 = none ∧
      s.bindFault 0 4 4 true 0 5 0 4 = some .qShape) := by decide +kernel

/-- PatternMerge's merge, for scratchpad operands: the state, the count written and the index of a SORTVIOL, or the fault. -/
def mergeOf (dir mode : Bool) (u : State) (l : Nat) : Except Flt (State × Nat × Option Nat) :=
  let w (i : Nat) : Nat := (u.rg l (16 + i)).toNat
  match (u.team 0).pat with
  | none => .error (flt .pattern)
  | some x =>
    let lines := if dir then (x.colLo, x.colHi) else (x.rowLo, x.rowHi)
    let win := if dir then (x.rowLo, x.rowHi) else (x.colLo, x.colHi)
    let span := win.2 - win.1
    if dir = true ∧ x.set.invertible = false then .error (flt .nonInv)
    else if ¬ (lines.1 ≤ w 0 ∧ w 0 < lines.2) ∨ 16384 < w 2 ∨ 16384 < span then .error (flt .qShape)
    else if w 1 % 4 ≠ 0 ∨ w 3 % 16 ≠ 0 then .error (flt .align)
    else match u.rangeOf l 1 (w 1) (4 * w 2) true, u.rangeOf l 1 (w 3) (16 * (if mode then w 2 + span else min (w 2) span)) true with
      | .error f, _ => .error f
      | _, .error f => .error f
      | .ok a, .ok o =>
        let ps := x.set.line x.nrow x.ncol dir (w 0) win.1 win.2
        let gs := ps.map fun p => (p, if dir then x.rankOf u.fresh p (w 0) else x.rankOf u.fresh (w 0) p)
        .ok ((u.countMerge x dir (w 0) ps).mergeLoop mode a o (w 2) (w 2 + span + 1) 0 0
          (if w 2 = 0 then none else some (leNat (u.nearRead a 4))) gs)

/-- One lane's turn at PATMERGE. -/
def mergeTurn (dir mode : Bool) (u : State) (l : Nat) : Except Out State :=
  match mergeOf dir mode u l with
  | .error f => .error (.flt f)
  | .ok (v, n, none) => .ok (v.put32 l 80 (BitVec.ofNat 32 n))
  | .ok (_, _, some i) => .error (.flt ⟨.sortViol, 0, i⟩)

/-- Thread 0 alone merges a list of two. -/
def sMerge (x y : Byte) (c : Option PatCtx) : State := { sPat [1, 0, 2, 64] [(0, x), (4, y)] c with iss := issueOf [0] }

theorem witness_PatternMerge :
    (∀ dir ∈ [false, true], ∀ mode ∈ [false, true],
      gangB (sPat [1, 0, 2, 64] [(0, 1), (4, 3)] (some (ctx44 true))) all4 (.patmerge ⟨80, 16, false, dir, mode, 1, 1⟩) = true ∧
      (served (mergeTurn dir mode) (sPat [1, 0, 2, 64] [(0, 1), (4, 3)] (some (ctx44 true))) all4).isSome = true) ∧
    (gangB (sMerge 1 3 none) [0] (.patmerge ⟨80, 16, false, false, true, 1, 1⟩) = true ∧
      (match mergeOf false true (sMerge 1 3 none) 0 with | .error _ => true | .ok _ => false) = true) ∧
    (gangB (sMerge 3 1 (some (ctx44 true))) [0] (.patmerge ⟨80, 16, false, false, true, 1, 1⟩) = true ∧
      (match mergeOf false true (sMerge 3 1 (some (ctx44 true))) 0 with
        | .ok (v, _, some _) => decide (v.iss = (sMerge 3 1 (some (ctx44 true))).iss)
        | _ => false) = true) ∧
    ((ctx44 true).exact = true ∧ (∀ p ∈ [1, 2], p ≤ (ctx44 true).nrow) ∧ 1 ≤ (ctx44 true).nrow) ∧
    (let s := sPat [] [(0, 1), (4, 3)] none
     [1, 3].Pairwise (· < ·) ∧ (∀ v ∈ [1, 3], v < 2 ^ 32) ∧ ([(1, (1 : Dword)), (2, 2)].map (·.1)).Pairwise (· < ·) ∧
      (∀ i ∈ [0, 1], ∀ v ∈ [1, 3], [1, 3][i]? = some v → leNat (mread (s.team 0).scratch (0 + 4 * i) 4) = v) ∧
      (0 + 4 * [1, 3].length ≤ 64 ∨ 64 + 16 * ([1, 3].length + 2) ≤ 0) ∧ [1, 2, 3].Pairwise (· < ·) ∧
      (∀ p ∈ [1, 2, 3], p ∈ [1, 3] ∨ p ∈ [1, 2]) ∧ leNat (mread (s.team 0).scratch (0 + 4 * 2) 4) ≤ [1, 3].getLastD 0) := by decide +kernel

/-! Graph instructions and the system. -/

/-- Queue 3 takes device packets of space 0 at virtual address `ring`. -/
def devQueue (ring : Nat) (wr : Dword) : Queue := { Queue.none with en := true, devq := true, ring := ring, wridx := wr }
def sSpawn (q : Queue) : State := { sReg 48 3 with queues := [(3, q)] }
def shutSpawn (q : Queue) : State := { shutRegs [(48, 3)] with queues := [(3, q)] }

/-- The write of a spawned packet translates. -/
def spawns (s : State) (q : Queue) (P : State → Bool) : Bool :=
  match (({ s with claims := s.claims ++ [⟨[], false, 3, q.wridx.toNat, false⟩] } : State).modQueue 3 fun x => { x with wridx := x.wridx + 1 }).translate
    (.core 0) 0 (q.ring + 64 * (q.wridx.toNat % 2 ^ q.log2n)) .write with
  | .ok (u, _, _) => P u
  | .error _ => false

theorem witness_GraphInstructions :
    (∀ q ∈ [Queue.none, devQueue 0 16, devQueue 0 15, devQueue 65536 0], gangB (sSpawn q) all4 (.gspawn r3) = true ∧ (sSpawn q).claims = [] ∧
      shutB (shutSpawn q) (.gspawn r3) = true ∧ (shutSpawn q).claims = []) ∧
    ((sSpawn .none).queue 3).en = false ∧ 2 ^ (devQueue 0 16).log2n ≤ ((devQueue 0 16).wridx - (devQueue 0 16).rdidx).toNat ∧
    ((devQueue 0 15).wridx - (devQueue 0 15).rdidx).toNat < 2 ^ (devQueue 0 15).log2n ∧
    spawns (sSpawn (devQueue 0 15)) (devQueue 0 15) (fun u => decide (u.iss = (sSpawn (devQueue 0 15)).iss)) = true ∧
    spawns (shutSpawn (devQueue 0 15)) (devQueue 0 15) (fun u => decide (u.iss = (shutSpawn (devQueue 0 15)).iss)) = true ∧
    spawns (sSpawn (devQueue 65536 0)) (devQueue 65536 0) (fun _ => true) = false ∧
    (let s : State := { sSpawn (devQueue 0 1) with claims := [⟨[.thread 0 0, .thread 0 1, .thread 0 2, .thread 0 3], false, 3, 0, false⟩] }
     gangB s all4 (.gspawn r3) = true ∧ (s.translate (.core 0) 0 0 .write).toOption.any (fun x => decide (x.1.claims = s.claims)) = true) ∧
    (∀ n ∈ [0, 4], gangB (sReg 32 (BitVec.ofNat 32 n)) all4 (.gdone ⟨32, 48, false, false⟩) = true ∧ (sReg 32 (BitVec.ofNat 32 n)).gdones = []) ∧ 4 % 8 ≠ 0 ∧
    (sReg 32 0).iss.multi = false ∧ all4 ≠ [] ∧
    ((sReg 32 0).translate (.core 0) 0 0 .atomic).toOption.any (fun x => decide (x.1.iss = (sReg 32 0).iss) &&
      !x.1.viewed ((sReg 32 0).unitOf (.thread 0 0)) 0 0 && (x.1.reach 0 x.2.1).toOption.isSome &&
      all4.all fun l => (x.1.settling 4 (.thread 0 (64 * 0 + l))).isNone) = true ∧
    (let s : State := { sDet with iss := issueOf all4 }
     gangB s all4 (.gdone ⟨32, 48, false, false⟩) = true ∧ s.gdones = [] ∧ (s.translate (.core 0) 0 0 .atomic).toOption.any (fun x =>
      x.1.viewed (s.unitOf (.thread 0 0)) 0 0 && all4.all fun l => (x.1.settling 4 (.thread 0 (64 * 0 + l))).isNone) = true) ∧
    (gangB sFar all4 (.gdone ⟨32, 48, false, false⟩) = true ∧ sFar.gdones = [] ∧ (sFar.translate (.core 0) 0 0 .atomic).toOption.any (fun x =>
      !x.1.viewed (sFar.unitOf (.thread 0 0)) 0 0 && (x.1.reach 0 x.2.1).toOption.isNone) = true) ∧
    (s0.translate (.core 0) 0 0 .atomic).toOption.isNone = true ∧
    (let s : State := { sReg 32 0 with fills := [⟨5, 0, 1, [16], .words [1]⟩] }
     gangB s all4 (.gdone ⟨32, 48, false, false⟩) = true ∧
      (s.translate (.core 0) 0 0 .atomic).toOption.any (fun x => (x.1.settling 4 (.thread 0 1)).isSome) = true) ∧
    (let s : State := { sReg 32 0 with gdones := [⟨9, [.thread 0 0, .thread 0 1, .thread 0 2, .thread 0 3], false, 0, 0, .plain, 0, 0, 0, true⟩] }
     gangB s all4 (.gdone ⟨32, 48, false, false⟩) = true) ∧
    (shutB (shutRegs []) (.gdone ⟨32, 48, false, false⟩) = true ∧ (shutRegs []).gdones = [] ∧
      ((shutRegs []).translate (.core 0) 0 0 .atomic).toOption.any (fun x => (x.1.settling 4 (.shuttle 0)).isNone &&
        (x.1.reach 0 x.2.1).toOption.isSome && !x.1.viewed ((shutRegs []).unitOf (.shuttle 0)) 0 0) = true) ∧
    (∀ n ∈ [1023, 1024], gangB (sReg 48 (BitVec.ofNat 32 n)) all4 (.tidset ⟨32, 48, false, false⟩) = true ∧
      gangB (sReg 48 (BitVec.ofNat 32 n)) all4 (.tidget ⟨80, 48, false⟩) = true) ∧
    (gangB (sReg 32 0x80) all4 (.tidset ⟨32, 48, false, false⟩) = true ∧ tidReservedOk (leBytes 4 0x80 ++ List.replicate 60 0) = false) ∧
    (gangB (sReg 32 0x800) all4 (.tidset ⟨32, 48, false, false⟩) = true ∧ tidSparse (leBytes 4 0x800 ++ List.replicate 60 0) = true) ∧
    (∀ i ∈ [Instr.tidset ⟨32, 48, false, false⟩, .tidget ⟨16, 48, false⟩], shutB (shutRegs [(48, 1023)]) i = true) ∧
    nfind (s0.space 0).tids 5 = none := by decide +kernel

theorem witness_SpecialRegisters :
    (∀ n ∈ [0, 1, 2, 3, 4, 8, 9, 10, 11, 12, 16, 17, 18, 0x20], gangB s0 all4 (.mfs ⟨16, BitVec.ofNat 10 n⟩) = true) ∧
    (∀ i ∈ [Instr.mtsFstat ⟨32, false⟩, .mtsFctl ⟨32, false⟩, .mtsCarve ⟨32, false⟩, .mts ⟨32, false, 10⟩, .mts ⟨32, false, 16⟩],
      gangB s0 all4 i = true ∧ gangB (sReg 32 5) all4 i = true) ∧ all4 ≠ [] ∧ (sReg 32 5).rd 3 32 [] = 5 ∧ s0.rd 3 32 [] = 0 ∧
    s0.iss.mts = [] ∧ (∀ n ∈ [8, 9, 10], let s : State := { s0 with iss := { s0.iss with mts := [(n, 2), (n, 63)] } }
      gangB s all4 (.mts ⟨32, false, 10⟩) = true ∧ (all4.filter fun l => s.iss.mts.all fun m => m.1 != n || decide (m.2 ≤ l)) = []) ∧
    (let s : State := { s0 with iss := { s0.iss with mts := [(8, 2)] } }
     gangB s all4 (.mtsFstat ⟨32, false⟩) = true ∧ (all4.filter fun l => s.iss.mts.all fun m => m.1 != 8 || decide (m.2 ≤ l)) = [2, 3]) ∧
    (∀ n ∈ [1, 3, 8, 9, 10, 16, 17, 18, 0x20], shutB (shuttle false) (.mfs ⟨16, BitVec.ofNat 10 n⟩) = true) ∧
    (∀ n ∈ [0x100, 0x13F, 0x140, 0x141], shutB (shuttle true) (.mfs ⟨16, BitVec.ofNat 10 n⟩) = true) ∧
    (nget ((shuttle true).core 0).events 63 0).toNat / 2 ^ 63 = 0 ∧ ((shuttle false).shuttle 0).team = some 0 ∧
    (∀ n ∈ [1, 3, 10, 16, 17], shutB (shuttle false) (.mts ⟨32, false, BitVec.ofNat 10 n⟩) = true) ∧
    (∀ n ∈ [16, 17, 0x100, 0x13F], shutB (shuttle true) (.mts ⟨32, false, BitVec.ofNat 10 n⟩) = true) ∧
    (∀ i ∈ [Instr.mtsFstat ⟨32, false⟩, .mtsFctl ⟨32, false⟩, .mtsCarve ⟨32, false⟩], shutB (shuttle false) i = true ∧ shutB (shuttle true) i = true) ∧
    (shuttle false).regTeam = some 0 ∧ (shuttle true).regTeam = some 0 := by decide +kernel

/-- n trap records of core 0 wait in its queue, another at its source, and the lanes of team 0 are parked. -/
def trapped (n : Nat) (w : List (List Byte)) (src slot who : Nat) (sup : Bool) : State :=
  let rec_ := trapBytes 0x20 0 src slot 0 who 0 0 0 0
  let s := (shuttle sup).modCore 0 fun c => { c with trapCount := n, trapWait := w }
  let s := s.modTeam 0 fun t => { t with threads := t.threads.map fun (x : Nat × Thread) => (x.1, { x.2 with stat := .parked }) }
  s.modDie 0 fun d => { d with chip := mwrite d.chip (trapAddr 0 0) rec_ }

theorem witness_TrapsAndRecords :
    (∀ i ∈ [Instr.trap 0x80, .trap 0xFE, .bkpt 0, .bkpt 0xFFFF], gangB s0 all4 i = true) ∧
    (all4 ≠ [] ∧ all4.Nodup ∧ (flt (.trap 0x80)).code.num ≠ 0x3F ∧ (s0.core 0).trapCount < 64) ∧
    64 ≤ ((trapped 64 [] 0 0 15 false).core 0).trapCount ∧
    ((255 : Nat) < 256 ∧ (2 ^ 32 - 1 : Nat) < 2 ^ 32 ∧ (2 ^ 64 - 1 : Nat) < 2 ^ 64 ∧ (65535 : Nat) < 65536) ∧
    (((trapped 64 [List.replicate 64 1] 0 0 15 false).core 0).trapCount = 64 ∧
      ((trapped 64 [List.replicate 64 1] 0 0 15 false).core 0).trapWait = List.replicate 64 1 :: [] ∧ (List.replicate 64 (1 : Byte)).length = 64) ∧
    ((trapped 1 [] 0 0 15 false).core 0).trapWait = [] ∧
    (((shuttle false).shuttle 0).mode = false ∧ (flt .align).code ≠ .freeze ∧ ((shuttle false).core 0).trapCount < 64) ∧
    ((shuttle true).shuttle 0).mode = true ∧ (s0.team 0).frozen = [] ∧
    (0 ∈ (sBound.team 0).recordLanes 0 [2] ∧ 0 ∉ [2]) ∧ 3 ∈ sBound.lateParks 0 0 [2] := by decide +kernel

theorem witness_HandlerAndReturn :
    (s0.core 0).trapCount = 0 ∧
    (0 < ((trapped 64 [] 0 0 15 false).core 0).trapCount ∧ ((trapped 64 [] 0 0 15 false).shuttle 0).mode = false ∧
      (trapped 64 [] 0 0 15 false).shuttleRuns 0 = true) ∧
    (let s := (trapped 1 [] 0 0 15 false).modShuttle 0 fun h => { h with hold := .waitAcq 64 true, waiting := true }
     0 < (s.core 0).trapCount ∧ (s.shuttle 0).hold = .waitAcq 64 true ∧ s.shuttleRuns 0 = true) ∧
    (∀ i ∈ [Instr.eret, .eretTerm], shutB (shuttle true) i = true ∧ ((shuttle true).core 0).trapCount = 0 ∧
      ∀ n ∈ [1, 2], shutB (trapped n [] 0 0 15 true) i = true ∧ 0 < ((trapped n [] 0 0 15 true).core 0).trapCount) ∧
    (trapped 1 [] 0 0 15 true).fills = [] ∧
    (∀ src ∈ [0, 1, 2, 3, 4, 5], bnat ((trapped 1 [] src 0 15 true).headRecord 0) 2 1 = src) ∧
    (let s : State := { trapped 1 [] 3 0 2 true with copies := [{ aCopy 9 2 0 (.glob 0) with stopped := true }] }
     (s.channelCopies (clusterOfCore 0) 2).find? (·.stopped) = some { aCopy 9 2 0 (.glob 0) with stopped := true } ∧
      s.whoLives (.thread 0 0) = true) ∧
    (let r : Rec := { aRec 1 16 with parked := true }
     ([r].find? fun x => x.parked && x.core == 0 && x.tok.toNat == 1 && (x.team.isNone || x.team == some 0)) = some r ∧ r.node = none) ∧
    1 ∈ [0, 1] := by decide +kernel

/-! Translation, shared pages and contexts. -/

/-- Space 0 with the tables of spec/19_system.md's shape: the entries that the walks of virtual addresses 0 and 65536 read. -/
def sWalk (e2 e1 e0 f0 : Nat) : State :=
  { shuttle true with
    spaces := [(0, ⟨true, 0x40, [(0, 2199023255552)], [], []⟩)]
    hbm := mwrite (mwrite (mwrite [] 0x400000 (leBytes 8 e2)) 0x410000 (leBytes 8 e1)) 0x420000 (leBytes 8 e0 ++ leBytes 8 f0) }

/-- A walk of address 0 through these entries, of a kind: whether each is a table or a leaf. -/
def isTable (e : Nat) : Bool := decide (e % 4 = 3 ∧ e / 4 % 2 ^ 14 = 0 ∧ e / 2 ^ 52 = 0)
def isLeafE (e : Nat) : Bool := decide (e % 4 = 1 ∧ e / 2 ^ 11 % 2 = 0 ∧ e / 2 ^ 60 = 0 ∧ e / 2 ^ 12 % 16 ≤ 1)
def entries (s : State) : Nat × Nat × Nat := (s.homeNat 0x400000 8, s.homeNat 0x410000 8, s.homeNat 0x420000 8)

theorem witness_Translations :
    ((2 ^ 55 - 1 < 2 ^ 55 ∧ ((sWalk 0 0 0 0).space 0).valid = true) ∧ isTable (entries (sWalk 0 0 0 0)).1 = false) ∧
    (isTable (entries (sWalk 0x410003 0x421 0 0)).1 = true ∧ isTable (entries (sWalk 0x410003 0 0 0)).2.1 = false ∧
      isLeafE (entries (sWalk 0x410003 0 0 0)).2.1 = false) ∧
    (isTable (entries (sWalk 0x410003 0x2000061D 0 0)).1 = true ∧ isLeafE (entries (sWalk 0x410003 0x2000061D 0 0)).2.1 = true ∧
      (entries (sWalk 0x410003 0x2000061D 0 0)).2.1 / 2 ^ 16 % 2 ^ 13 = 0) ∧
    (isTable (entries (sWalk 0x410003 0x420003 3 0)).2.1 = true ∧ isLeafE (entries (sWalk 0x410003 0x420003 3 0)).2.2 = false) ∧
    (isTable (entries (sWalk 0x410003 0x420003 0x50061D 0)).2.1 = true ∧ isLeafE (entries (sWalk 0x410003 0x420003 0x50061D 0)).2.2 = true) ∧
    (s0.space 9).valid = false ∧
    ((sWalk 0 0 0 0).windowOf ((⟨0x61D, 0, 0, 65536⟩ : Leaf).pa 0) = none ∧ 0x619 / 2 ^ 2 % 2 ≠ 1 ∧ 0x63D / 2 ^ 5 % 2 = 1 ∧
      0x65D / 2 ^ 6 % 2 = 1 ∧ 0x61D / 2 ^ 3 % 2 = 1) ∧
    ((sWalk 0 0 0 0).walks = [] ∧ (sWalk 0 0 0 0).tlbFind (.core 0) 0 0 = none ∧ tlbSecond (.core 0) = some (.shared 0) ∧
      (sWalk 0 0 0 0).tlbFind (.shared 0) 0 0 = none ∧ ((sWalk 0 0 0 0).walkMiss 0 0).toOption.isNone = true) ∧
    (let s : State := { sWalk 0 0 0 0 with tlb := [⟨.core 0, 0, 0, 65536, 0x21D, 0⟩] }
     s.tlbFind (.core 0) 0 65535 = some ⟨.core 0, 0, 0, 65536, 0x21D, 0⟩ ∧ s.checkLeaf ⟨0x21D, 0, 0, 65536⟩ 65535 .write = none ∧
      s.permitted 0 ((⟨0x21D, 0, 0, 65536⟩ : Leaf).pa 65535) = true ∧ Acc.write.w = true ∧ 0x21D / 2 ^ 10 % 2 = 0) ∧
    (let s : State := { sWalk 0 0 0 0 with tlb := [⟨.core 0, 0, 0, 65536, 0x61D, 0⟩] }
     s.tlbFind (.core 0) 0 65535 = some ⟨.core 0, 0, 0, 65536, 0x61D, 0⟩ ∧ s.checkLeaf ⟨0x61D, 0, 0, 65536⟩ 65535 .read = none ∧
      s.checkLeaf ⟨0x61D, 0, 0, 65536⟩ 65535 ⟨false, true, false⟩ = none ∧ s.permitted 0 ((⟨0x61D, 0, 0, 65536⟩ : Leaf).pa 65535) = true ∧
      s.permitted 0 ((⟨0x800000000061D, 0, 0, 65536⟩ : Leaf).pa 65535) = false ∧ 0x61D / 2 ^ 10 % 2 = 1) ∧
    (∀ e ∈ [0x50061D, 0x50041D], let s := sWalk 0x410003 0x420003 e 0
     s.tlbFind (.core 0) 0 0 = none ∧ s.tlbFind (.shared 0) 0 0 = none ∧
      (s.walkMiss 0 0).toOption.any (fun l => decide (l.base ≤ 0) && decide (0 < l.base + l.size) &&
        decide (l.e < 2 ^ 64) && decide (l.e = e) && (evPageWalk (.core 0) 0 0 false s).any fun t =>
          (t.checkLeaf l 0 .read).isNone && (t.checkLeaf l 0 .write).isNone && t.permitted 0 (l.pa 0)) = true) ∧
    ((0x50061D : Nat) / 2 ^ 9 % 2 = 1 ∧ (0x50041D : Nat) / 2 ^ 9 % 2 = 0) ∧
    ((sWalk 0x410003 0x420003 0x500615 0).walkMiss 0 0).toOption.any (fun l => ((sWalk 0x410003 0x420003 0x500615 0).checkLeaf l 0 .write).isSome) = true ∧
    (∀ i ∈ [Instr.tlbinvPage ⟨32, 48, false, false⟩, .tlbinvAsid ⟨48, false, false⟩, .tlbinvAll ⟨false, false⟩],
      shutB (shuttle true) i = true) ∧ (shuttle true).draws = [] ∧
    (∀ p ∈ [64, 65], let s : State := { sWalk 0x410003 0x420003 0x50061D 0 with copies := [aCopy 9 2 0 (.glob (65536 * p))] }
      s.tileUses 0 0 ≠ [] ∧ s.walksAhead 0 0 65535 = decide (p = 64) ∧
        (p = 65 → ∀ u ∈ s.tileUses 0 0, u / 65536 + 64 < 65535 / 65536 ∨ 65535 / 65536 + 64 < u / 65536)) := by decide +kernel

theorem witness_Translations_pins : ∀ d ∈ (shuttle true).dies, d.2.pins = [] := by
  intro d h; cases h

/-- A leaf whose SHARE is n, its W bit set. -/
def shareLeaf (n : Nat) : Nat := 0x50061D + n * 2 ^ 52

theorem witness_SharedPages :
    (∀ i ∈ [Instr.pgshare ⟨16, 32, 48, false, false⟩, .pgrel ⟨16, 32, 48, false, false⟩], shutB (shuttle true) i = true) ∧
    (let at_ (e f : Nat) := sWalk 0x410003 0x420003 e f
     (sWalk 0 0 0 0).entry0 0 0 = none ∧ (at_ (shareLeaf 1) 0).entry0 0 (2 ^ 55) = none ∧
     (∀ n ∈ [0, 1, 254, 255], (at_ (shareLeaf n) 0).entry0 0 0 = some (0x420000, shareLeaf n) ∧ isLeafE (shareLeaf n) = true ∧
       shareLeaf n / 2 ^ 52 = n) ∧
     (at_ 3 0).entry0 0 0 = some (0x420000, 3) ∧ isLeafE 3 = false ∧
     (∀ f ∈ [0, 1, 2 ^ 52], (at_ (shareLeaf 1) f).entry0 0 65536 = some (0x420008, f)) ∧
     (∀ n ∈ [0, 1, 2], (at_ 0x50061D (shareLeaf n)).entry0 0 65536 = some (0x420008, shareLeaf n) ∧
       (at_ 0x50061D (shareLeaf n)).entry0 0 0 = some (0x420000, 0x50061D) ∧ 0x50061D / 2 % 2 = 0 ∧ 0x50061D / 2 ^ 7 % 2 = 0 ∧
       0x50061D % 2 = 1 ∧ shareLeaf n / 2 ^ 52 % 256 = n ∧ 0x50061D / 2 ^ 16 % 2 ^ 36 = shareLeaf n / 2 ^ 16 % 2 ^ 36) ∧
     (sWalk 0 0 0 0).draws = [] ∧ (at_ 0 (shareLeaf 1)).entry0 0 0 = some (0x420000, 0) ∧ 0 / 65536 = 65535 / 65536 ∧ 0 / 65536 ≠ 65536 / 65536) := by
  decide +kernel

/-- Partition 0 halted or running, with images in its halves. -/
def sHalt (halted : Bool) (h0 h1 : Option CtxImage) (s : State) : State :=
  { s.modPart 0 fun p => { p with halted := halted, half0 := h0, half1 := h1 } with
    spaces := [(0, ⟨true, 0x40, [(0, 2199023255552)], [], []⟩)] }

theorem witness_HaltsAndContexts_midPacket :
    let s := (sHalt false none none (shuttle true)).modTeam 0 fun t => { t with threads := [(0, { ready with pc := 1 })] }
    shutB s .haltStop = true ∧ s.iss.multi = false ∧ ((s.halt 0 (some 0)).part 0).runner = some 0 ∧ (s.halt 0 (some 0)).midPacket 0 = true ∧
      (let u := sHalt false none none (shuttle true)
       shutB u .haltStop = true ∧ ((u.halt 0 (some 0)).part 0).runner = some 0 ∧ (u.halt 0 (some 0)).midPacket 0 = false) := by decide +kernel

theorem witness_HaltsAndContexts :
    (∀ i ∈ [Instr.haltStop, .haltRun, .ctxsave ⟨16, false⟩, .ctxload ⟨16, true⟩, .ctxsaveMem ⟨16, 32, false⟩, .ctxloadMem ⟨16, 32, true⟩],
      shutB (sHalt true none none (shuttle true)) i = true ∧ shutB (sHalt false none none (shuttle true)) i = true) ∧
    (((sHalt true none none (shuttle true)).part 0).halted = true ∧ ((sHalt false none none (shuttle true)).part 0).halted = false) ∧
    ((s0.part 7).opened = false ∧ (s0.part 0).opened = true ∧ (s0.part 0).halted = false) ∧ (s0.draws = [] ∧ s0.fills = []) ∧
    (let i : CtxImage := ⟨0, 1, 64, 0⟩
     let s := sHalt true (some i) none (shuttle true)
     (s.ctxSaveMem 0 false 0).toOption.isSome = true ∧ (s.ctxLoadMem 0 true 0).toOption.isSome = true ∧
     (s.ctxLoadMem 0 true 0x1000000000000).toOption.isNone = true ∧ ((s.part 0).half false).isSome = true ∧ (s.part 0).half true = none ∧
     s.ctxEmpty 0 = false ∧ 1 % 65536 ≠ 0 ∧ s.rangePermitted s.issAsid 0 64 = true ∧ bnat (s.homeRead 0 64) 0 4 ≠ 0x58544343) ∧
    (let s := sHalt true (some ⟨9, 1, 64, 0⟩) none module
     s.ctxEmpty 0 = true ∧ (s.space 9).valid = false) ∧
    ((4095 : Nat) < 4096 ∧ (1 : Nat) < 2 ∧ (2 ^ 64 - 1 : Nat) < 2 ^ 64) ∧
    (let s := sHalt true none none (shuttle true)
     (s.part 0).half true = none ∧ s.ctxEmpty 0 = false ∧ (s.space (s.part 0).asid).valid = true ∧ (s.teams.map (·.1)).Pairwise (· < ·) ∧
      (s.clusters.map (·.1)).Pairwise (· < ·) ∧ (s.bobbins.map (·.1)).Pairwise (· < ·)) := by decide +kernel

theorem witness_HaltsAndContexts_mem : ∃ f, (sHalt true (some ⟨0, 1, 64, 0⟩) none (shuttle true)).ctxSaveMem 0 false 0x1000000000000 = .error f :=
  err_of (by decide +kernel)

/-! Bobbin engines. -/

/-- Engine 0 of stack 0 issues: registers, local store and program counter as given; its program has 4 words; virtual page 0 lies at
the start of the stack's local pool. -/
def sBob (x : NMap Dword) (loc : Mem) (pc : BitVec 12) : State :=
  let s := module.modBobbin 0 fun e => { e with x := x, loc := loc, pc := pc, store := [0, 0, 0, 0], stat := .ready }
  { s with
    spaces := [(0, ⟨true, 0x40, [(0, 2199023255552)], [], []⟩)]
    tlb := [⟨.bobbin 0, 0, 0, 65536, 0x1000000071D, 0x420000⟩]
    hbm := [(0x10000000008, 64)]
    iss := { Issue.none with who := .bobbin 0 } }

theorem witness_BobbinRegisters :
    ((sBob [] [] 3).iss.who = .bobbin 0 ∧ ∀ n : BitVec 5, (nget ((sBob [] [] 3).bobbin 0).v n.toNat (List.replicate 16 (0 : Word))).length = 16) ∧
    (let e := (sBob [] [] 3).bobbin 0
     (0 ≤ (e.pc.toNat : Int) + (-3 : BitVec 13).toInt ∧ (e.pc.toNat : Int) + (-3 : BitVec 13).toInt < e.store.length) ∧
      (e.pc.toNat : Int) + (-4 : BitVec 13).toInt < 0 ∧ (e.store.length : Int) ≤ e.pc.toNat + (1 : BitVec 13).toInt) ∧
    (5 : BitVec 3).toNat ≤ 5 ∧
    (let at_ (v : Dword) : Nat := ((nget ((sBob [(1, v)] [] 0).bobbin 0).x 1 0).toNat + 0 * 8) % 2 ^ 64
     at_ 4 % 8 ≠ 0 ∧ (at_ 524288 % 8 = 0 ∧ 524288 < at_ 524288 + 8) ∧ (at_ 524280 % 8 = 0 ∧ at_ 524280 + 8 ≤ 524288) ∧
      at_ 32 % 64 ≠ 0 ∧ (at_ 524224 % 64 = 0 ∧ at_ 524224 + 64 ≤ 524288) ∧ 524288 < at_ 524288 + 64) := by
  refine ⟨⟨rfl, fun n => rfl⟩, by decide, by decide, by decide⟩

/-- A pointer to the word at 8 stands at local store 0. -/
def sChase : State := sBob [(1, 0), (2, 64), (3, 1), (4, 0)] [(0, 8)] 0

theorem witness_BobbinMemory_chase :
    (sChase.iss.who = .bobbin 0 ∧ 0 % 8 = 0 ∧ (1 : BitVec 6).toNat ≠ 0 ∧ 0 + 8 * 1 ≤ 524288 ∧ 64 + 8 * 1 ≤ 524288 ∧ 0 + 8 * 1 ≤ 64) ∧
    1 ≤ ((sChase.modBobbin 0 fun e => { e with wm := 1 }).bobbin 0).wm ∧ (sChase.bobbin 0).wm < 1 ∧
    (let M : Nat → Nat := fun q => if q = 8 then 64 else 0
     let hop (p : Nat) : Nat := if p = 0 then 0 else M ((p + 0) % 2 ^ 64)
     let p0 : Nat := leNat (mread (sChase.bobbin 0).loc (0 + 8 * (sChase.bobbin 0).wm) 8)
     (∀ q, M q < 2 ^ 64) ∧ ∀ j, j < 1 → Nat.repeat hop j p0 ≠ 0 → (Nat.repeat hop j p0 + 0) % 2 ^ 64 % 8 = 0 ∧
      sChase.bobLoad 0 ((Nat.repeat hop j p0 + 0) % 2 ^ 64) 8 = .ok (sChase, leBytes 8 (M ((Nat.repeat hop j p0 + 0) % 2 ^ 64)))) ∧
    (let s := sBob [] [(2, 1)] 0
     (s.bobbin 0).wm < 1 ∧ ∃ f, s.hops 0 0 1 (leNat (mread (s.bobbin 0).loc (0 + 8 * (s.bobbin 0).wm) 8)) = .error f) := by
  refine ⟨by decide, by decide, by decide, ⟨?_, ?_⟩, by decide, err_of (by decide +kernel)⟩
  · intro q
    show (if q = 8 then 64 else 0) < 2 ^ 64
    split <;> decide
  · intro j hj _
    obtain rfl : j = 0 := by omega
    decide +kernel

/-- Engine 0 runs a node of a deterministic graph whose region covers the first 64 bytes of page 0. -/
def sBobDet : State := { ((sBob [] [] 0).modBobbin 0 fun e => { e with node := .node 4 }).modSpace 0 fun p =>
    { p with regions := [(0, ⟨0, 64, 256, true⟩)] } with
  iss := { Issue.none with who := .bobbin 0 }
  nodes := [⟨4, 1, 0, [], [], 0, .running, 0, 0, none, 0, false, false⟩]
  packets := [⟨1, 0, 0, 0 :: 8 :: List.replicate 62 0, none, [], [], false, 1⟩] }

theorem witness_BobbinMemory :
    (flt .align).code ≠ .freeze ∧
    (let s := sBob [] [] 0
     ((s.lookup (.bobbin 0) 0 65536).toOption.isNone = true ∧ (s.bobTranslate 0 65536 .read).toOption.isNone = true) ∧
     (s.tlbFind (.bobbin 0) 0 0 = some ⟨.bobbin 0, 0, 0, 65536, 0x1000000071D, 0x420000⟩ ∧
      isStackLocal ((⟨0x1000000071D, 0x420000, 0, 65536⟩ : Leaf).pa 0) = true ∧ stackOf ((⟨0x1000000071D, 0x420000, 0, 65536⟩ : Leaf).pa 0) = 0 / 8 ∧
      s.checkLeaf ⟨0x1000000071D, 0x420000, 0, 65536⟩ 0 .read = none ∧ s.permitted 0 ((⟨0x1000000071D, 0x420000, 0, 65536⟩ : Leaf).pa 0) = true ∧
      s.checkLeaf ⟨0x10000000711, 0x420000, 0, 65536⟩ 0 .read = some ⟨.perm, 0, 0⟩ ∧
      s.checkLeaf ⟨0x1000000075D, 0x420000, 0, 65536⟩ 0 .write = some ⟨.cow, 0, 0⟩ ∧
      isStackLocal ((⟨0x71D, 0x420000, 0, 65536⟩ : Leaf).pa 0) = false) ∧
     (∀ a ∈ [Acc.read, .write, .atomic], (s.bobTranslate 0 0 a).toOption.any (fun x =>
       [0, 32, 64, 96, 128, 160].all (fun va => !(x.1.viewed (x.1.unitOf (x.1.bobbin 0).node) (x.1.bobbin 0).asid va)) &&
         decide (x.1.bobbin 0 = s.bobbin 0)) = true) ∧
     (sBobDet.iss.who = .bobbin 0 ∧ (sBobDet.bobTranslate 0 0 .atomic).toOption.any (fun x =>
       x.1.viewed (x.1.unitOf (x.1.bobbin 0).node) (x.1.bobbin 0).asid 0) = true ∧
       (sBobDet.bobTranslate 0 65536 .atomic).toOption.isNone = true) ∧
     (s.bobLoad 0 0 4).toOption.any (fun x => decide (leNat x.2 = 0)) = true ∧
     (s.bobLoad 0 8 4).toOption.any (fun x => decide (leNat x.2 = 64) && (x.1.bobLoad 0 (8 + 8 + 8 * 0) 8).toOption.isSome) = true ∧
     (s.nodes = [] ∧ s.bobWord 0 8 8 < 1)) ∧
    ([(0 : Byte)] ≠ [] ∧ 31 % 32 + [(0 : Byte)].length ≤ 32) ∧ (4 % 8 ≠ 0 ∧ 4 % 64 ≠ 0 ∧ 4 % 32 ≠ 0 ∧ 0 % 64 = 0) ∧
    ((0 : BitVec 5) = 0 ∨ (0 : BitVec 5) = 31) ∧ ((30 : BitVec 5) ≠ 0 ∧ (30 : BitVec 5) ≠ 31) ∧ (0 + 32 ≤ 524288 ∧ 524288 < 524288 + 32) ∧
    (0 % 65536 + 192 ≤ 65536) ∧
    (let s := (sBob [] [] 0).modBobbin 0 fun e => { e with stat := .waitn 8 8 0 }
     (s.bobbin 0).stat = .waitn 8 8 0 ∧ (s.bobbin 0).frozen = false ∧ (s.part (partOfBobbin 0)).halted = false ∧ (0 : Dword).toNat ≤ s.bobWord 0 8 8 ∧
      (s.bobbins.map (·.1)).Nodup ∧ ∀ v ∈ [64, 65], (s.bobTranslate 0 8 .atomic).toOption.any (fun x =>
        decide (v ≤ x.1.bobWord 0 8 x.2) == decide (v = 64)) = true) ∧
    (let s := (sBob [] [] 0).modBobbin 0 fun e => { e with stat := .waitn 65536 8 0 }
     (s.bobbin 0).frozen = false ∧ (s.part (partOfBobbin 0)).halted = false ∧ (s.bobTranslate 0 65536 .atomic).toOption.isNone = true) ∧
    (let s := (sBob [] [] 0).modBobbin 0 fun e => { e with stat := .waitn 8 8 0, frozen := true }
     (s.bobbin 0).stat = .waitn 8 8 0 ∧ (s.bobbin 0).frozen = true) := by decide +kernel

/-- Engine 0 waits for the doubleword at 8, which holds 64. -/
def sPoll : State := (sBob [] [] 0).modBobbin 0 fun e => { e with stat := .waitn 8 0x10000000008 64 }

theorem witness_BobbinMemory_poll : ((sPoll.bobbins.map (·.1)).Nodup ∧ (sPoll.bobbin 0).stat = .waitn 8 0x10000000008 64 ∧
      (sPoll.bobbin 0).frozen = false ∧ (sPoll.part (partOfBobbin 0)).halted = false ∧ (64 : Dword).toNat ≤ sPoll.bobWord 0 8 0x10000000008) ∧
    ∀ c x w, (sPoll.bobbin c).stat = .waitn x 0x10000000008 w → sPoll.bobTranslate c x .atomic = .ok (sPoll, 0x10000000008) := by
  refine ⟨by decide +kernel, fun c x w h => ?_⟩
  by_cases hc : c = 0
  · subst hc
    rw [show (sPoll.bobbin 0).stat = .waitn 8 0x10000000008 64 from rfl] at h
    cases h
    rfl
  · rw [show sPoll.bobbin c = (sBob [] [] 0).bobbin c from State.modBobbin_bobbin_ne _ 0 c (fun e => { e with stat := .waitn 8 0x10000000008 64 }) hc,
      show (sBob [] [] 0).bobbin c = module.bobbin c from State.modBobbin_bobbin_ne module 0 c (fun e => { e with
        x := [], loc := [], pc := 0, store := [0, 0, 0, 0], stat := .ready }) hc] at h
    cases h

/-! Packets, grids and nodes. -/

/-- n bytes with these fields: offset, width, value. -/
def fields (n : Nat) (fs : List (Nat × Nat × Nat)) : List Byte :=
  fs.foldl (fun bs f => bs.take f.1 ++ leBytes f.2.1 f.2.2 ++ bs.drop (f.1 + f.2.1)) (List.replicate n 0)

/-- An image of one band without overlays; its Shuttle program starts at packet 0 of overlay 1, where it has one. Its section 5
holds one Bobbin program of one word. -/
def anImage (sh : Bool) : Image :=
  ⟨0, fields 0xC0 [(0x60, 8, 0xB0), (0x68, 8, 8), (0x94, 2, 1), (0x96, 2, if sh then 0 else 0xFFFF), (0x98, 1, 0), (0x99, 1, 1),
    (0x9A, 1, 2), (0xB0, 2, 1), (0xB4, 4, 0x48000000)], [], [], false⟩

/-- Virtual page 0 of space 0 is physical page 0; queue 3 has its ring at 0, these bytes there. -/
def sQueue (q : Queue → Queue) (b : List Byte) : State :=
  let s := sWalk 0x410003 0x420003 0x71D 0
  { s with
    hbm := mwrite s.hbm 0 b, images := [(0, anImage true)]
    queues := [(3, q { Queue.none with en := true, pmask := 1, log2n := 4, weight := 1, wridx := 1 })] }

/-- A packet in the ring, and under way. -/
def sRing (fs : List (Nat × Nat × Nat)) (mem : List (Nat × Nat × Nat) := []) : State := sQueue id (fields 64 fs ++ fields 160 mem)
def aPacket (fs : List (Nat × Nat × Nat)) : Packet := ⟨9, 3, 0, fields 64 fs, none, [], [], false, 1⟩

/-- The queue whose head packet is next, with its level, and whether the packet's payload is well formed and starts. -/
def head3 (fs mem : List (Nat × Nat × Nat)) : Bool × Nat × Bool × Bool :=
  let s := sRing fs mem
  match s.nextQueue with
  | some (3, b, 0) =>
    let t := bnat b 0 4 % 16
    (b == fields 64 fs, t, reservedBad t b, (((s.serveTurn 3 0).launch (aPacket fs)).toOption).isSome)
  | _ => (false, 16, true, false)

/-- A graph packet of two copy nodes, the second after the first, and their records at 64 and 128; and packets of the other types. -/
def graphP : List (Nat × Nat × Nat) := [(8, 4, 2), (16, 8, 64)]
def graphM : List (Nat × Nat × Nat) :=
  [(0, 1, 4), (8, 4, 1), (0x10, 8, 192), (64, 1, 4), (68, 4, 1), (128, 4, 1)]
def gridP : List (Nat × Nat × Nat) := [(0, 4, 1), (6, 1, 1), (7, 1, 1), (8, 4, 2), (12, 4, 1), (0x10, 1, 2), (0x11, 1, 1), (0x18, 8, 64)]
def copyP : List (Nat × Nat × Nat) := [(0, 4, 2), (8, 8, 64), (16, 8, 128), (24, 4, 32)]
def bobP : List (Nat × Nat × Nat) := [(0, 4, 3), (4, 8, 64), (0x12, 1, 0), (0x13, 1, 1)]
def barP : List (Nat × Nat × Nat) := [(0, 4, 4), (4, 1, 3), (8, 8, 64), (16, 8, 5), (24, 8, 72), (32, 8, 0), (40, 8, 80), (48, 8, 0)]
def sigP : List (Nat × Nat × Nat) := [(0, 4, 5), (8, 8, 64), (16, 8, 1), (0x18, 2, 0xFFFF)]

theorem witness_PacketsAndQueues_heads :
    head3 graphP graphM = (true, 0, false, true) ∧ head3 gridP [] = (true, 1, false, true) ∧ head3 copyP [] = (true, 2, false, true) ∧
    head3 bobP [] = (true, 3, false, true) ∧ head3 barP [] = (true, 4, false, true) ∧ head3 sigP [] = (true, 5, false, true) ∧
    (head3 [(0, 4, 15)] []).2.1 = 15 ∧ head3 [(0, 4, 1), (0x2F, 1, 1)] [] = (true, 1, false, false) ∧
    (head3 [(0, 4, 2), (0x1C, 1, 1)] []).2.2.1 = true := by decide +kernel

/-- The ring's head packet taken: the state it starts from and the packet, where its queue has had no turn. -/
def takenOf (fs mem : List (Nat × Nat × Nat)) : State × Packet :=
  let u := (sRing fs mem).serveTurn 3 0
  let b := fields 64 fs
  let p : Packet := ⟨u.fresh, 3, (u.queue 3).started.toNat, b,
    if bnat b 0x38 8 == 0 || !u.addable (u.queue 3).asid (bnat b 0x38 8) then none else some (bnat b 0x38 8), [], [], false, 0⟩
  ({ u with fresh := u.fresh + 1, packets := u.packets ++ [p] }.modQueue 3 fun x => { x with started := x.started + 1 }, p)

/-- The head is a packet of this type, well formed, and its completion word is good or absent. -/
def headIs (fs mem : List (Nat × Nat × Nat)) (ty : Nat) : Bool :=
  let s := sRing fs mem
  let b := fields 64 fs
  s.nextQueue == some (3, b, 0) && nfind s.turns 0 == none && bnat b 0 4 % 16 == ty && !reservedBad ty b &&
    (bnat b 0x38 8 == 0 || (s.serveTurn 3 0).addable ((s.serveTurn 3 0).queue 3).asid (bnat b 0x38 8))

theorem witness_PacketsAndQueues_starts :
    (headIs graphP graphM 0 = true ∧ (let x := takenOf graphP graphM
      nfind x.1.images (65536 * x.1.pkAsid x.2 + bnat x.2.bytes 4 2) = some (anImage true) ∧ x.1.pkMask x.2 ≠ 0 ∧
      (x.1.readNodes (x.1.pkAsid x.2) 64 2 (x.1.pkMask x.2) (anImage true).bobbinProgs.length).any (fun y => countsOk y.2 &&
        y.2.all fun z => bnat z.1 0 1 == 4) = true ∧ bnat x.2.bytes 0 4 / 16 % 4 = 0)) ∧
    (headIs gridP [] 1 = true ∧ (let x := takenOf gridP []
      (x.1.startGrid x.2 none x.2.bytes).toOption.isSome = true)) ∧
    (headIs copyP [] 2 = true ∧ (let x := takenOf copyP []
      bnat x.2.bytes 8 8 % 4 = 0 ∧ bnat x.2.bytes 16 8 % 4 = 0 ∧ bnat x.2.bytes 24 4 % 4 = 0 ∧ x.1.pkMask x.2 ≠ 0)) := by decide +kernel

theorem witness_PacketsAndQueues_starts' :
    (headIs bobP [] 3 = true ∧ (let x := takenOf bobP []
      let r := [0x03, 0, 0, 0] ++ List.replicate 36 0 ++ bslice x.2.bytes 4 18 ++ List.replicate 6 0
      nfind x.1.images (65536 * x.1.pkAsid x.2 + bnat x.2.bytes 0x16 2) = some (anImage true) ∧ x.1.pkMask x.2 ≠ 0 ∧
      recordOk (x.1.pkMask x.2) (anImage true).bobbinProgs.length r = true ∧ bobbinFits (x.1.pkMask x.2) r = true)) ∧
    (headIs barP [] 4 = true ∧ bnat (fields 64 barP) 4 1 = 3) ∧
    (headIs sigP [] 5 = true ∧ (let x := takenOf sigP []
      bnat x.2.bytes 8 8 % 8 = 0 ∧ x.1.addable (x.1.pkAsid x.2) 64 = true ∧ bnat x.2.bytes 0x18 2 = 0xFFFF ∧
      (x.1.procAt (x.1.pkAsid x.2) 64 .atomic).isSome = true)) ∧
    (let x := takenOf [] []
     (x.1.launch x.2).toOption.isNone = true ∧ headIs [] [] 0 = true) ∧
    (let bad : List (Nat × Nat × Nat) := [(0x38, 8, 4)]
     let x := takenOf bad []
     (x.1.launch x.2).toOption.isNone = true ∧ headIs bad [] 0 = false ∧ (x.1.addable (x.1.pkAsid x.2) 4) = false) ∧
    (let bad := copyP ++ [(0x38, 8, 4)]
     let x := takenOf bad []
     (x.1.launch x.2).toOption.isSome = true ∧ (x.1.addable (x.1.pkAsid x.2) 4) = false) ∧
    (let p : Packet := { aPacket [(0, 4, 0x801)] with left := 0 }
     let s : State := { sRing [] with packets := [p] }
     s.packets[0]? = some p ∧ p.left = 0 ∧ p.ty = 1 ∧ p.det = true) := by decide +kernel

/-- Two nodes that stand in the table: the first runs, the second waits for it. -/
def aNode (id n count : Nat) (kind : Nat) (succ : List Nat) (stat : NodeStat) : Node :=
  ⟨id, 9, n, fields 64 [(0, 1, kind), (4, 4, count), (8, 4, succ.length)], succ, count, stat, 0, 0, none, 0, false, false⟩

theorem witness_PacketsAndQueues :
    (nfind (sRing []).queues 3).any (fun x => decide (x.func = 0 ∧ x.devq = false ∧ x.en = true ∧ ((1 : Dword) - x.rdidx).toNat ≤ 2 ^ x.log2n ∧
      x.wridx.toNat ≤ (1 : Dword).toNat ∧ 2 ^ x.log2n < ((17 : Dword) - x.rdidx).toNat)) = true ∧
    (let s := sRing []
     let p : State := { s with idePolicy := true }
     let g := p.modFunc 0 fun f => { f with ide := true }
     s.boot = .running ∧ (s.func 0).frozen = false ∧ s.idePolicy = false ∧ (p.func 0).ide = false ∧ p.idePolicy = true ∧
       (g.func 0).frozen = false ∧ (g.func 0).ide = true ∧ s.doorbell 0 4 = none ∧ s.doorbell 0 3 = some 3 ∧ (s.queue 3).devq = false ∧
       (s.queue 3).en = true ∧ ((2 : Dword) - (s.queue 3).rdidx).toNat ≤ 2 ^ (s.queue 3).log2n ∧ (s.queue 3).wridx.toNat ≤ (2 : Dword).toNat ∧
       (0 : Dword).toNat < (s.queue 3).wridx.toNat) ∧
    (sRing []).nextQueue.isSome = true ∧ ((sRing []).modQueue 3 (fun q => { q with en := false })).nextQueue = none ∧
    ((sRing sigP).addable 0 8 = true ∧ (sRing sigP).addable 0 4 = false ∧ (sRing sigP).addable 0 65536 = false) ∧
    (let s := sRing graphP graphM
     let ns := (s.readNodes 0 64 2 1 1).map (·.2)
     nfind s.images 0 = some (anImage true) ∧ (anImage true).bobbinProgs.length = 1 ∧
     ns.map countsOk = some true ∧ ns.map (fun ns => ns.all fun x => bnat x.1 0 1 == 4) = some true ∧ s.pkMask (aPacket graphP) = 1 ∧
     bobbinFits 1 (fields 64 [(0, 1, 3), (0x37, 1, 1)]) = true) ∧
    (((sRing gridP).startGrid (aPacket gridP) none (aPacket gridP).bytes).toOption.isSome = true ∧
     ((sRing []).startGrid (aPacket []) none (aPacket []).bytes).toOption.isNone = true) ∧
    (bnat (fields 64 copyP) 8 8 % 4 = 0 ∧ bnat (fields 64 [(8, 8, 2)]) 8 8 % 4 ≠ 0 ∧
     ((sRing copyP).modQueue 3 fun q => { q with pmask := 0 }).pkMask (aPacket copyP) = 0) ∧
    (nfind { sRing bobP with images := [] }.images (65536 * 0 + 0) = none) ∧
    (∀ j, j < bnat (fields 64 barP) 4 1 → bnat (fields 64 barP) (8 + 16 * j) 8 % 8 = 0) ∧
    ((sRing sigP).procAt 0 64 .atomic).isSome = true ∧ (∀ x ∈ [aNode 4 0 0 4 [1] .waiting], x.id < 5) ∧
    (let p : Packet := { aPacket barP with words := [(64, 5)] }
     let at_ (v : Nat) : State := { sRing barP [(0, 8, v)] with packets := [p] }
     (at_ 5).packets[0]? = some p ∧ p.ty = 4 ∧ 0 < p.left ∧ (at_ 5).procWord 0 64 = some 5 ∧ (at_ 4).procWord 0 64 = some 4) ∧
    (let p : Packet := { aPacket [(0, 4, 2 * 64)] with left := 0, sig := some 64 }
     let s : State := { sRing [] with packets := [p] }
     s.packets[0]? = some p ∧ p.left = 0 ∧ p.ty ≠ 1 ∧ (s.packets[1]? = none) ∧
     s.releaseWaits (bnat p.bytes 0 4 / 64 % 4) (s.pkMask p) = false ∧
     (let t : State := { s with outbox := [(.thread 0 0, 2 ^ 51, [1])] }
      t.releaseWaits (bnat p.bytes 0 4 / 64 % 4) (t.pkMask p) = true ∧ t.releaseWaits 1 (t.pkMask p) = false) ∧
     ((s.releaseScope (bnat p.bytes 0 4 / 64 % 4) (s.pkMask p)).procAt 0 64 .atomic).isSome = true ∧
     ((s.queue p.queue).done ++ [p.idx]).length < 2 ^ 64) := by decide +kernel

/-- A grid of two teams in one block, of an image with or without a Shuttle program. -/
def aGrid (fs : List (Nat × Nat × Nat)) (redo : List (Nat × Nat)) : Grid :=
  ⟨7, 9, none, 0, 1, false, fields 64 fs, [(0, 0)], 0, redo, [], [], [(7, 0, 2)], [], []⟩

def sGrid (sh : Bool) (redo : List (Nat × Nat)) : State :=
  { (sQueue id []).modShuttle 0 (fun h => { h with mode := false, team := none }) with
    images := [(0, anImage sh)], grids := [aGrid gridP redo], fresh := 20, teams := [] }

theorem witness_TeamsOfGrids_turns :
    (let s := sGrid true []
     s.outranked 0 (aGrid gridP []) 0 = false ∧ ({ s with grids := s.grids ++ s.grids } : State).outranked 1 (aGrid gridP []) 0 = true) ∧
    ((aGrid gridP []).grouped = [] ∧ (aGrid gridP []).groups = [(7, 0, 2)] ∧ (sGrid true []).takesWork 0 (aGrid gridP []).asid = true) := by
  decide +kernel

theorem witness_TeamsOfGrids :
    ((0 : Nat) < 2 ^ 24 ∧ curvePos 4 3 3 2 < 12 ∧ curvePos 1 1 0 0 = 0) ∧ (([3, 5] : List Nat) ≠ [] ∧ 4 < 5 ∧ (dealBlocks [3, 5] 5)[4]? = some (5, 4)) ∧
    ((sRing gridP).gridCode 0 (fields 64 gridP) = 0 ∧ (sRing []).gridCode 0 (fields 64 []) = 4 ∧ (sRing []).gridCode 0 (fields 64 [(6, 1, 0x20)]) = 2 ∧
      { sRing [] with images := [] }.gridCode 0 (fields 64 gridP) = 3) ∧
    (let s := sRing gridP
     let d := fields 64 gridP
     s.pkMask (aPacket gridP) = 1 ∧ nfind s.images (65536 * s.pkAsid (aPacket gridP) + bnat d 4 2) = some (anImage true) ∧ partsOf 1 = [0] ∧
       (∀ b ∈ dealBlocks [0] (descBlocks d), s.blockFits b.1 (anImage true) d = true) ∧
       (s.procRead (s.pkAsid (aPacket gridP)) (bnat d 0x20 8) (8 * bnat d 0x12 2)).any
         (fun x => (groupItems (bnat d 8 4 * bnat d 12 4) x.2).isSome) = true) ∧
    ((sRing gridP).startGrid (aPacket gridP) none (aPacket gridP).bytes).toOption.isSome = true ∧
    (∀ sh ∈ [true, false], ((sGrid sh []).startTeam (aGrid gridP []) (anImage sh) 0 1).isSome = true ∧ (anImage sh).hasShuttle = sh) ∧
    ((sGrid true []).shuttle 0).mode = false ∧
    (let s := sGrid true []
     s.grids[1]? = none ∧ s.grids[0]? = some (aGrid gridP []) ∧ nfind s.images (aGrid gridP []).imageKey = some (anImage true) ∧
     s.takesWork (0 / 8) 0 = true ∧ s.takesWork (8 / 8) 0 = false ∧ (aGrid gridP []).redo.find? (fun b => b.1 == 0) = none ∧
     (aGrid gridP []).todo.find? (fun b => b.1 == 0) = some (0, 0) ∧ (aGrid gridP []).todo.find? (fun b => b.1 == 1) = none ∧
     (s.startTeams (aGrid gridP []) (anImage true) 0 [0, 1]).isSome = true ∧
     (s.startTeams (aGrid gridP []) (anImage true) 0 [0, 1, 2, 3, 4]) = none ∧
     (aGrid gridP [(0, 1)]).redo.find? (fun b => b.1 == 0) = some (0, 1) ∧ (s.startTeams (aGrid gridP [(0, 1)]) (anImage true) 0 [1]).isSome = true) ∧
    (let s : State := { (module.modTeam 0 fun _ => { quad with threads := [], grid := 7 }) with grids := [aGrid gridP []] }
     (s.team 0).live = true ∧ (s.team 0).liveThreads = [] ∧ s.teamWork 0 = false ∧ (s.team 1).live = false ∧ (s.shuttle 0).team ≠ some 0 ∧
     (s.grids.find? fun g => g.id == (s.team 0).grid).isSome = true) ∧
    ((shuttle false).shuttle 0).team = some 0 := by decide +kernel

/-- A node in the pool, at its unit, with its packet under way. -/
def sNode (fs : List (Nat × Nat × Nat)) (mem : List Byte) (stat : NodeStat) (fin : Bool) : State :=
  { sQueue (fun q => q) mem with
    packets := [aPacket graphP]
    nodes := [{ aNode 4 0 0 0 [1] stat with bytes := fields 64 fs, fin := fin }, aNode 5 1 1 4 [] .waiting] }

/-- Node 0 of the pool has this unit free, and is the one to go there. -/
def goes (s : State) (u : Nat) : Bool :=
  match s.pool[0]? with
  | some n => decide (s.freeUnit n = some u) && (s.packet n.pkt).isSome &&
      (s.pool.all fun m => !(m.kind == n.kind && s.nodeBefore m n) || (s.freeUnit m).isNone)
  | none => false

/-- The state the unit's work is started from. -/
def atStart (s : State) : State := (s.modNodeStat 4 .running).acquire 1

def gridN : List (Nat × Nat × Nat) := [(0, 1, 1), (0x28, 8, 0)]
def copyN (n : Nat) : List (Nat × Nat × Nat) := [(0, 1, 4), (0x28, 8, 64), (0x30, 8, 128), (0x38, 4, n)]

theorem witness_NodesOfGraphs :
    (bnat (fields 64 []) 0x18 8 = 0 ∧ bnat (fields 64 [(0x18, 8, 64)]) 0x18 8 ≠ 0 ∧ (sNode gridN [] .waiting false).procWord 0 64 = some 0) ∧
    (let s := sNode gridN [] .waiting false
     s.nodes.find? (fun m => m.id == 4) = s.nodes[0]? ∧ (s.nodes[0]?).any (fun n => n.count == 0 && n.stat == .waiting && s.gateOpen n) = true ∧
     (s.nodes[1]?).any (fun n => n.count == 0) = false) ∧
    ((sNode gridN [] (.pooled 3) false).pool[0]?).isSome = true ∧ (sNode gridN [] (.pooled 3) false).pool[1]? = none ∧
    goes (sNode gridN (fields 64 gridP) (.pooled 3) false) 0 = true ∧ goes (sNode [(0, 1, 2)] [] (.pooled 3) false) 0 = true ∧
    goes (sNode [(0, 1, 3), (0x37, 1, 1)] [] (.pooled 3) false) 0 = true ∧ goes (sNode (copyN 32) [] (.pooled 3) false) 0 = true ∧
    goes (sNode (copyN 32) [] (.pooled 3) false) 1 = false ∧
    (let ok (d : List (Nat × Nat × Nat)) : Option Bool :=
       let v := atStart (sNode gridN (fields 64 d) (.pooled 3) false)
       (v.procRead 0 0 0x38).map fun x => (x.1.startGrid (aPacket graphP) (some 4) x.2).toOption.isSome
     ok gridP = some true ∧ ok [] = some false) ∧
    bnat (fields 64 [(0, 1, 2)]) 0x30 8 = 0 ∧
    (let v := atStart (sNode [(0, 1, 3), (0x37, 1, 1)] [] (.pooled 3) false)
     v.nodeImage (aPacket graphP) = some (anImage true) ∧ (v.procRead 0 0 64).isSome = true) ∧
    (let v := atStart (sNode (copyN 32) [] (.pooled 3) false)
     v.destOverlap 0 0 0 (.glob 64) ⟨64, 32, 1, 32⟩ = false ∧ bnat (fields 64 (copyN 32)) 0x38 4 % 4 = 0 ∧ bnat (fields 64 (copyN 2)) 0x38 4 % 4 ≠ 0) ∧
    (let s := sNode gridN [] .running false
     s.running[1]? = none ∧ (s.running[0]?).any (fun n => !s.nodeDone n) = true) ∧
    (∀ k, k ∈ [1, 2, 3, 4] → let s := sNode [(0, 1, k)] [] .running true
     (s.running[0]?).any (fun n => s.nodeDone n && (s.packet n.pkt).isSome && decide (n.succ = [1]) && decide (n.n = 0)) = true ∧
     (s.nodes.map (·.id)).Nodup ∧ ([1] : List Nat).Nodup ∧ (0 : Nat) ∉ [1]) ∧
    (let s : State := { sNode [(0, 1, 4)] [] .running true with packets := [aPacket ((0, 4, 0x800) :: graphP)] }
     (s.running[0]?).any (fun n => s.nodeDone n && (s.packet n.pkt).any (·.det)) = true) := by decide +kernel

/-! The issue gate, and what stands outside the module. -/

/-- One lane's thread is changed; the issue has this prefix. -/
def sGate (f : Thread → Thread) (p : Option Pfx) : State :=
  let s := lanesOf all4 fun i t => if i = 1 then f t else t
  { s with iss := { s.iss with pfx := p } }
def addShape (a b : BitVec 7) (ea : Bool) (p : Option Pfx) : Shape := shapeOf (.add ⟨16, a, b, ea, false⟩) p
def hollowIn (r : Nat) : Thread → Thread := fun t => { t with empty := [r] }
def guardOff (policy : BitVec 2) : Option Pfx := some { Pfx.null with maskp := 7, maskn := true, policy := policy }

def addI (a b : BitVec 7) (ea : Bool) : Instr := .add ⟨16, a, b, ea, false⟩
def doLane (s : State) (a b : BitVec 7) (ea : Bool) (p : Option Pfx) (l : Nat) : LaneDo := s.laneDo 0 0 (addI a b ea) (addShape a b ea p) l
def notPure (a b : BitVec 7) : Shape := { addShape a b false none with pure := false }
def owned (v : Bool) : Shape := { addShape 32 48 false none with own := some (0, v) }

theorem witness_GateOutcomes_lane :
    (sGate id none).iss.who = .gang 0 0 all4 ∧
    doLane (sGate (hollowIn 32) none) 32 48 true none 1 = .out (.flt (flt .emptyReg)) ∧
    doLane (sGate (hollowIn 32) none) 32 48 false none 1 = .out (.held [32] []) ∧
    doLane (sGate (hollowIn 16) none) 32 48 false none 1 = .out (.held [16] []) ∧
    doLane (sGate id none) 112 48 false none 1 = .late ∧ (addShape 112 48 false none).pure = true ∧
    (sGate (fun t => { t with bset := 1 }) none).laneDo 0 0 (addI 112 112 false) (notPure 112 112) 1 = .out (.held [] [(0, 0), (0, 1)]) ∧
    (sGate id none).laneDo 0 0 (addI 32 48 false) (owned true) 1 = .run ∧ (quad.thread 1).p 0 = false ∧
    (∀ p, p ∈ [(0 : BitVec 2), 1, 2] → doLane (sGate id (guardOff p)) 32 48 false (guardOff p) 1 = .off) ∧
    doLane (sGate (hollowIn 16) (guardOff 2)) 32 48 false (guardOff 2) 1 = .out (.zeros [16] [] false) ∧
    doLane (sGate (fun t => { hollowIn 16 t with popped := true }) (guardOff 2)) 32 48 false (guardOff 2) 1 = .out (.held [16] []) := by
  decide +kernel

theorem witness_GateOutcomes :
    (∀ s, s ∈ [sGate id none, sGate id (guardOff 2), sGate (hollowIn 16) none, sGate (hollowIn 16) (guardOff 2)] → all4.Pairwise (· < ·) ∧
      s.iss.outs = [] ∧ s.iss.xfer = [] ∧ s.decodeFault (.add r3) = none ∧ ∀ l ∈ all4, s.boundSet l = 0) ∧
    (∀ l ∈ all4, doLane (sGate id none) 112 48 false none l = .late ∧ doLane (sGate id none) 32 48 false none l = .run) ∧
    (∃ i x, decodeCore 0x10000000 none = .ok i x ∧ i = .add ⟨0, 0, 0, false, false⟩) ∧
    (s0.decodeFault .eret = some .priv ∧ s0.decodeFault (.add ⟨112, 32, 48, false, false⟩) = some .illInst) ∧
    ((shuttle false).iss.who = .shuttle 0 ∧ (shuttle false).iss.outs = [] ∧ (shuttle false).decodeFault .eret = some .priv ∧
      (shuttle true).decodeFault .eret = none) := by
  refine ⟨?_, ?_, ⟨_, _, by rfl, rfl⟩, ?_⟩ <;> decide +kernel

/-- Port 0 in a state, with flits 5 and 7 held and 4 expected next. -/
def sPort (st : PortState) (retries : Nat) : State :=
  { module.modPort 0 fun p => { p with st := st, retries := retries, held := [(5, true), (7, false)], expect := 4 } with exBase := 4096, exSize := 64 }

/-- Queue 3 of function 1 serves partition 0 in space 0, whose pages are below 2^20; BAR2 is 64 bytes. -/
def sFunc (frozen ide policy : Bool) (base : Nat) : State :=
  { (module.modFunc 1 fun f => { f with frozen := frozen, ide := ide, bar2 := 64, bar2Base := base }) with
    idePolicy := policy, spaces := [(0, ⟨true, 0x40, [(0, 1048576)], [], []⟩)]
    queues := [(3, { Queue.none with en := true, pmask := 1, func := 1 })] }

/-- A partner's answer whose own check passed; what it proves of the chain, the identity and the signature is opaque. -/
def anAuth : PeerAuth := ⟨[], List.replicate 32 0, [], true, []⟩

theorem witness_PortsAndFunctions_ports :
    ((sPort .active 0).port 0).st = .active ∧ ((sPort .equalise 0).port 0).st ≠ .active ∧ ((sPort .active 7).port 0).retries + 1 = 8 ∧
    ((sPort .active 6).port 0).retries + 1 ≠ 8 ∧ ((sPort .active 0).port 0).expect = 4 ∧
    ((sPort .active 0).port 0).held.Pairwise (fun a b => a.1 < b.1) ∧ (∀ q ∈ ((sPort .active 0).port 0).held, 4 ≤ q.1) ∧
    (sPort .active 0).boot = .running ∧ State.reset.boot ≠ .running ∧ anAuth.nonce.length = 32 ∧ anAuth.passed = true ∧
    ((sPort .active 0).port 0).frozen = false ∧ (sPort .active 0).exSize = 56 + 8 ∧ (sPort .active 0).exSize < 57 + 8 ∧
    (((sPort .active 0).modPort 0 fun p => { p with frozen := true }).port 0).frozen = true ∧
    (7 < 8 ∧ 2 < 5 ∧ (8 : Nat) = (if (2 : Nat) = 2 then 8 else 4) ∧ 56 % 8 = 0 ∧ 2 ^ 64 - 1 < 2 ^ (8 * 8)) ∧
    ((4 : Nat) = (if (3 : Nat) = 2 then 8 else 4) ∧ 60 % 4 = 0 ∧ 60 + 4 ≤ (sPort .active 0).exSize ∧ 64 + 4 > (sPort .active 0).exSize) := by
  decide +kernel

/-- The port trains in every state whose domain names the partner, where its chain and signature are good. -/
theorem witness_PortsAndFunctions_auth
    (hc : Config.validChain anAuth.chain = true) (ho : Config.validChain Config.ownChain = true)
    (hs : Config.validSig anAuth.chain (Config.shake256 (Config.freeNonce 0 ++ anAuth.nonce ++ Config.ownChain ++ anAuth.chain)) anAuth.sig = true)
    (hn : ∀ d, Config.validSig Config.ownChain d (Config.sign d) = true) :
    ∃ s : State, s.boot = .running ∧ s.fresh = 0 ∧ anAuth.nonce.length = 32 ∧ Config.validChain anAuth.chain = true ∧
      Config.identity anAuth.chain ∈ s.domain ∧
      (let digest := Config.shake256 (Config.freeNonce s.fresh ++ anAuth.nonce ++ Config.ownChain ++ anAuth.chain)
       Config.validSig anAuth.chain digest anAuth.sig = true ∧ Config.validSig Config.ownChain digest (Config.sign digest) = true) ∧
      Config.validChain Config.ownChain = true ∧ anAuth.passed = true :=
  ⟨{ module with domain := [Config.identity anAuth.chain], fresh := 0 }, rfl, rfl, rfl, hc, List.mem_singleton.mpr rfl, ⟨hs, hn _⟩, ho, rfl⟩

/-- And one with a short nonce, or whose own check failed, fails. -/
theorem witness_PortsAndFunctions_noauth : ({ anAuth with nonce := [] } : PeerAuth).nonce.length ≠ 32 ∧
    ({ anAuth with passed := false } : PeerAuth).passed ≠ true := by decide

theorem witness_PortsAndFunctions :
    ((sFunc false true true 0).answers 1 = true ∧ (sFunc false true true 0).accepts 1 (some 1) = true ∧
      (sFunc false true true 0).accepts 1 none = false ∧ (sFunc false false true 0).accepts 1 (some 1) = false ∧
      (sFunc false false false 0).accepts 1 none = true ∧ (sFunc true true false 0).answers 1 = false ∧
      ((sFunc false true true 0).func 1).bar2 = 56 + 8 ∧ ((sFunc false true true 0).func 1).bar2 < 57 + 8) ∧
    (targetOf (0 + 56) = .hbm ∧ 0 ∈ (sFunc false true true 0).funcSpaces 1 ∧
      (∀ q ∈ pagesOf (0 + 56) 8, (sFunc false true true 0).permitted 0 q = true) ∧
      ¬ (∀ q ∈ pagesOf (1048575 + 56) 8, (sFunc false true true 1048575).permitted 0 q = true)) ∧
    (sFunc false true true 0).boot = .running ∧ ((sFunc false true true 0).func 1).ide = true ∧ ((sFunc false false true 0).func 1).ide = false ∧
    (((1 : Nat) < 32 ∧ (63 : Nat) ≠ 0xFFFF ∧ (63 : Nat) < 64) ∧ ¬ ((64 : Nat) < 64)) := by
  decide +kernel

/-- A window of n ranks at 65536, with contributions and sums of the round so far. -/
def aWin (n fmt : Nat) : WindowDesc := ⟨65536, 65536, fmt, n, 0, 0x8000, 0x18000, List.range n⟩
def sWin (n fmt : Nat) (round : List (Nat × Nat × Word)) (sums : List Nat) : State := { module with windows := [⟨aWin n fmt, round, sums, 0⟩] }
def winOk (s : State) (w : WindowDesc) : Bool := decide (
  w.wbase % 65536 = 0 ∧ w.wlen % 65536 = 0 ∧ 0 < w.wlen ∧ w.fmt ≤ 1 ∧ 1 ≤ w.nrank ∧ w.nrank ≤ 256 ∧ w.myrank < w.nrank ∧
  w.members.length = w.nrank ∧ w.dest % 4 = 0 ∧ w.done % 8 = 0 ∧ targetOf w.dest = .hbm ∧ s.exists_ w.dest = true ∧
  s.exists_ (w.dest + w.wlen - 1) = true ∧ targetOf w.done = .hbm ∧ s.exists_ w.done = true ∧
  ∀ x ∈ s.windows, x.desc.wbase + x.desc.wlen ≤ w.wbase ∨ w.wbase + w.wlen ≤ x.desc.wbase)
/-- The bytes of such a descriptor; its members' numbers stand at 0x20000. -/
def winBytes (w : WindowDesc) : List Byte :=
  fields 48 [(0, 8, w.wbase), (8, 8, w.wlen), (0x10, 1, w.fmt), (0x12, 2, w.nrank), (0x14, 2, w.myrank), (0x18, 8, w.dest), (0x20, 8, w.done),
    (0x28, 8, 0x20000)]
def membersAt (s : State) (n : Nat) : List Nat := (List.range n).map fun i => s.homeNat (0x20000 + 2 * i) 2
def heldIn (c : List (Nat × Nat × Word)) (off r : Nat) : Option (Nat × Nat × Word) := c.find? fun c => c.1 == off && c.2.1 == r

theorem witness_WindowsAndClones :
    (targetOf (aWin 1 0).dest = .hbm ∧ winOk module (aWin 1 0) = true ∧ winOk module (aWin 256 1) = true ∧ winOk (sWin 1 0 [] []) (aWin 1 0) = false) ∧
    ((winBytes (aWin 1 0)).length = 48 ∧ bnat (winBytes (aWin 1 0)) 0x11 1 = 0 ∧ bnat (winBytes (aWin 1 0)) 0x16 2 = 0 ∧
      bnat (winBytes (aWin 1 0)) 0 8 = 65536 ∧ bnat (winBytes (aWin 1 0)) 0x12 2 = 1 ∧ membersAt module 1 = [0]) ∧
    ((sPort .active 0).port 0).st = .active ∧ ((sPort .down 0).port 0).st ≠ .active ∧ ((sPort .down 0).port 0).frozen = false ∧
    nfind ({ sPort .active 0 with routes := [(255, 0)] } : State).routes 255 = some 0 ∧ nfind module.routes 255 = none ∧
    (let s := sWin 2 1 [(65568, 0, 0x3F803F80)] (List.range 7 |>.map (4 * ·))
     s.windows[0]? = some ⟨aWin 2 1, [(65568, 0, 0x3F803F80)], List.range 7 |>.map (4 * ·), 0⟩ ∧ s.windows[1]? = none ∧
     (⟨aWin 2 1, [], [], 0⟩ : Window).covers 65536 = true ∧ (⟨aWin 2 1, [], [], 0⟩ : Window).covers 131068 = true ∧
     (⟨aWin 2 1, [], [], 0⟩ : Window).covers 65535 = false ∧ 65568 % 4 = 0 ∧
     heldIn [(65568, 0, 0x3F803F80)] 65568 0 = some (65568, 0, 0x3F803F80) ∧ heldIn [(65568, 0, 0x3F803F80)] 65568 1 = none) ∧
    (∀ r : Nat, r < 2 → r ≠ 1 → heldIn [(65568, 0, 0x3F803F80)] 65568 r = some (65568, r, 0x3F803F80)) ∧
    (module.boot = .running ∧ 0 % 32 = 0 ∧ 2 ^ 43 - 32 + 32 ≤ 2 ^ 43 ∧ 255 < 256 ∧ targetOf 64 = .hbm ∧ module.exists_ 64 = true ∧
      module.exists_ (64 + 32 - 1) = true) := by
  decide +kernel

theorem witness_WindowsAndClones_copy : ∃ f : Nat → State, f 0 = module.takeNode (3 % 256) ∧
    ∀ i, i < 64 / 32 → f (i + 1) = (f i).homeWriteHbm (0 + 32 * i) ((f i).homeRead (2 ^ 51 + 1 * 2 ^ 43 + (64 + 32 * i) % 2 ^ 43) 32) :=
  ⟨fun n => n.rec (module.takeNode (3 % 256)) fun i s => s.homeWriteHbm (0 + 32 * i) (s.homeRead (2 ^ 51 + 1 * 2 ^ 43 + (64 + 32 * i) % 2 ^ 43) 32),
    rfl, fun _ _ => rfl⟩

theorem witness_MonitorActs :
    State.reset.boot ≠ .running ∧ module.boot = .running ∧ ({ module with boot := .recovery } : State).boot = .recovery ∧
    State.reset.boot ≠ .recovery ∧ ((State.reset.core 0).enabled = true ∨ (module.core 255).enabled = true) ∧
    ((module.part 0).opened = true ∧ (module.part 0).halted = false ∧ (module.part 0).runner = none ∧ (module.part 1).opened = false) ∧
    (let s := module.modPart 0 fun p => { p with halted := true }
     (s.part 0).opened = true ∧ (s.part 0).halted = true ∧ (s.part 0).runner = none) ∧
    (List.replicate 32 (0 : Byte)).length = 32 ∧ ((module.core 255).enabled = true ∧ ((module.modCore 7 fun c => { c with enabled := false }).core 7).enabled = false) ∧
    ((11, HbmPart.row 9) ∉ module.sparesUsed) ∧ ((11, HbmPart.row 9) ∈ ({ module with sparesUsed := [(11, .row 9)] } : State).sparesUsed) ∧
    (let s := module.modTeam 0 fun _ => { quad with frozen := [0] }
     0 ∈ (s.team 0).frozen ∧ 1 ∉ (s.team 0).frozen) ∧
    (((shuttle false).modShuttle 0 fun h => { h with frozen := true }).shuttle 0).frozen = true ∧ ((shuttle false).shuttle 0).frozen = false ∧
    (((module.modCluster 0 fun c => c.modEngine 3 fun e => { e with frozen := true }).cluster 0).engine 3).frozen = true ∧
    ((module.cluster 0).engine 3).frozen = false ∧
    (let s : State := { module with copies := [{ aCopy 9 2 0 (.glob 0) with frozen := true }] }
     ((s.channelCopies 0 2).find? (·.frozen)).isSome = true ∧ (s.channelCopies 0 3).find? (·.frozen) = none) ∧
    ((((sStream (.glob 0)).modTeam 0 fun t => { t with queues := [(0, ⟨0, [], { oneWord (.glob 0) with frozen := true }⟩)] }).team 0).queue 0).stream.frozen = true ∧
    (((sStream (.glob 0)).team 0).queue 0).stream.frozen = false ∧
    ((module.modBobbin 3 fun b => { b with frozen := true }).bobbin 3).frozen = true ∧ (module.bobbin 3).frozen = false := by decide +kernel

/-- A node and a team that can be run again, and those that can not. -/
theorem witness_MonitorActs_again :
    (∀ k, k ∈ [1, 2, 3, 4] → let s := sNode [(0, 1, k), (1, 1, 1)] [] .running false
      (List.find? (fun n => n.id == 4) s.nodes).any (fun n => n.kind == k && n.stat == .running && !n.fin && bits (bnat n.bytes 1 1) 0 1 == 1) = true) ∧
    (let s : State := { sNode [(0, 1, 2)] [] .running false with packets := [aPacket ((0, 4, 0x800) :: graphP)] }
     (List.find? (fun n => n.id == 4) s.nodes).any (fun n => n.stat == .running && !n.fin && (s.packet n.pkt).any (·.det)) = true) ∧
    (List.find? (fun n => n.id == 4) (sNode [(0, 1, 2)] [] .running false).nodes).any (fun n => bits (bnat n.bytes 1 1) 0 1 == 0 &&
      ((sNode [(0, 1, 2)] [] .running false).packet n.pkt).any (fun p => !p.det)) = true ∧
    List.find? (fun n => n.id == 4) module.nodes = none ∧
    (let s := module.modTeam 0 fun _ => { quad with det := true }
     (s.team 0).live = true ∧ (s.team 0).det = true ∧ (s.team 1).live = false) := by decide +kernel

/-! Steps, words and the invariant. -/

/-- A context of a band issues as StepRunsDecodedInstruction says: what it leaves, where the words decode to an instruction (0), to
illegal fields (1) or to a fault by name (2). -/
def issuesCtx (v : State) (k band : Nat) (cx : Ctx) : Option (Nat × State) :=
  let q := cx.quads.headD 0
  match (v.team k).selectPc band q with
  | none => none
  | some p =>
    let pc : Pc := BitVec.ofNat 17 p
    let ws := v.packetWords (coreOfTeam k) (pcSlot pc) (pcPkt pc)
    let j := pc.toNat % 4
    let w := ws.getD j 0
    let run (n : Nat) : State := v.gangIssue k band ((v.team k).issueLanes band q p) pc (wordPc (pcSlot pc) (pcPkt pc) (j + n))
    let chained (x : Bool) : Bool := bit (ws.getD (j + x.toNat) 0) 31
    if decide (pcPkt pc ≤ 5460 ∧ j < 3 ∧ pcSlot pc ≠ 3) && !isPfx w then
      match decodeCore w (if j < 2 then ws[j + 1]? else none) with
      | .ok i x =>
        if isXBase w == x && !chained x then
          match exec i ((run (x.toNat + 1)).enter ⟨pc, none, some i, some i⟩) with
          | .next u => some (0, State.finishGang k band q p u)
          | _ => none
        else none
      | .illInst => if !isExt w && !isXBase w && !chained false then some (1, State.finishGang k band q p ((run 1).faultAll .illInst pc)) else none
      | .bad i x => if isXBase w == x && !chained x then
          some (2, State.finishGang k band q p ((run (x.toNat + 1)).faultAll (if rangeFault i pc then .illPacket else .illInst) pc)) else none
      | _ => none
    else none

/-- What the first part asks of a state whose schedule names a core: its first ready band's first context issues, with whether it
took a turn; and where the band has another, how that issues, whether it took one, and whether the cycle's last context does then. -/
def issuesCore (s : State) : Option (Nat × Bool × Option (Nat × Bool × Bool)) :=
  match s.sched with
  | .issue (.core c) :: r =>
    let u := ({ s with sched := r } : State)
    let v := (u.teamsOfCore c).foldl (State.wakeTeam exec) u
    (match s.power && decide (s.iss = .none), v.grantOrder c |>.find? (fun e => (v.nextCtx e.1 e.2 []).isSome) with
     | true, some (k, band) =>
       (match v.nextCtx k band [] with
        | some cx => (issuesCtx v k band cx).map fun (n, t) =>
            (n, t.issued, match v.nextCtx k band cx.quads with
              | some cy => (issuesCtx v k band cy).map fun (m, w) => (m, w.issued,
                  if !w.issued then (issuesCtx { w with iss := .none } k band cx).isSome && (({ w with iss := .none } : State).nextCtx k band cx.quads).isNone
                  else if cy.low < cx.low then (issuesCtx w k band cx).isSome else (issuesCtx t k band cy).isSome)
              | none => none)
        | none => none)
     | _, _ => none)
  | _ => none

/-- A second quad of the placed thread's band, with a thread at packet 0, in a context of its own, ready since `n`. -/
def twoCtx (n : Nat) (f : Thread → Thread) (s : State) : State :=
  s.modTeam 0 fun t => { (t.modThread 4 fun _ => f (t.thread 0)) with ctxs := [⟨0, [0], 5⟩, ⟨0, [1], n⟩] }

def issuesShuttle (s : State) : Bool :=
  match s.sched with
  | .issue (.shuttle c) :: r =>
    let u := ({ s with sched := r } : State)
    let pc := (u.shuttle c).pc
    let ws := u.packetWords c (pcSlot pc) (pcPkt pc)
    let j := pc.toNat % 4
    let x := isXBase (ws.getD j 0)
    s.power && u.shuttleIssues c && decide (pcPkt pc ≤ 5460 ∧ j < 3 ∧ (pcSlot pc ≠ 3 ∨ (u.shuttle c).mode = true)) && !isPfx (ws.getD j 0) &&
      !bit (ws.getD (j + x.toNat) 0) 31 &&
      (match decodeCore (ws.getD j 0) (if j < 2 then ws[j + 1]? else none) with | .ok _ y => x == y | _ => false)
  | _ => false

def issuesBobbin (s : State) : Bool :=
  match s.sched with
  | .issue (.bobbin b) :: r =>
    let u := ({ s with sched := r } : State)
    s.power && u.bobRuns b && (u.bobbin b).stat == .ready && !(u.bobbin b).past &&
      (match (u.bobbin b).store[(u.bobbin b).pc.toNat]? with
       | some w => (match decodeBobbin w with | .ok _ _ => true | _ => false)
       | none => false)
  | _ => false

theorem witness_StepRunsDecodedInstruction :
    issuesCore (State.reset.withFetchWord 32 0x10000000) = some (0, true, none) ∧
    issuesCore (State.reset.withFetchWord 64 0x7D4000009C4005FF) = some (0, true, none) ∧
    issuesCore (State.reset.placeThread [0x7C000000]) = none ∧
    issuesCore (State.reset.placeThread [0x00000006]) = some (1, true, none) ∧
    issuesCore (State.reset.placeThread [0x58820003]) = some (2, true, none) ∧
    issuesCore (twoCtx 6 id (State.reset.withFetchWord 32 0x10000000)) = some (0, true, some (0, true, true)) ∧
    issuesCore (twoCtx 4 id (State.reset.withFetchWord 32 0x10000000)) = some (0, true, some (0, true, true)) ∧
    issuesCore (twoCtx 6 (fun x => { x with empty := [0] }) (State.reset.withFetchWord 32 0x10000000)) = some (0, true, some (0, false, true)) ∧
    issuesCore ((State.reset.withFetchWord 32 0x10000000).modTeam 0 fun t => t.modThread 0 fun x => { x with empty := [0] }) =
      some (0, false, none) ∧
    issuesCore ({ State.reset with sched := [.issue (.core 0)] } : State) = none := by
  and_intros <;> decide +kernel

/-- A held thread whose wait is over, and one that waits in an instruction it has begun. -/
theorem witness_StepRunsDecodedInstruction_wake :
    (let s := lanesOf [] fun i t => if i = 1 then { t with stat := .held [16] [] } else t
     (s.thread 0 1).isLive = true ∧ (s.team 0).heldDone 1 = true) ∧
    (let s := lanesOf [] fun i t => if i = 1 then { t with stat := .held [16] [], empty := [16] } else t
     (s.thread 0 1).isLive = true ∧ (s.team 0).heldDone 1 = false) := by decide +kernel

theorem witness_StepRunsDecodedInstruction' :
    issuesShuttle (State.reset.withFetchWord 64 0x7D000004E060000B) = true ∧ issuesShuttle (State.reset.withFetchWord 32 0x78080002) = true ∧
    issuesBobbin (State.reset.placeBobbin [0x48000000]) = true ∧
    ({ State.reset with sched := [.event .dieHot] } : State).power = true ∧
    (∀ a ∈ [Act.event .dieHot, .issue (.shuttle 0)], a.isPowerOn = false) ∧
    ({ State.reset with power := false, sched := [.event .dieHot] } : State).power = false ∧
    (State.reset.power = true ∧ State.reset.sched = []) := by decide +kernel

theorem witness_StepRunsDecodedInstruction_idle : State.reset.moves exec = [] := by decide +kernel

theorem witness_StepRunsDecodedInstruction_moves : (State.reset.withFetchWord 32 0x10000000).moves exec ≠ [] := by decide +kernel

theorem witness_EncodingRoundTrip :
    ((Instr.add r3).wf = true ∧ ∃ w r, encode true (.add r3) = w :: r) ∧ (Instr.bDone.wf = true ∧ ∃ w r, encode false .bDone = w :: r) ∧
    (∃ i x, decodeCore 0x87800007 (some 0x7D005000) = .ok i x ∧ (shapeOf i none).alone = false) ∧
    (∃ i x, decodeCore 0x78080002 none = .ok i x ∧ x = false) ∧ (∃ i x, decodeBobbin 0x48000000 = .ok i x) ∧
    (Pfx.null.policy ≠ 3 ∧ Pfx.null.round.toNat ≤ 5 ∧ isPfx (encodePfx Pfx.null) = true ∧ bit (encodePfx Pfx.null) 31 = false ∧
      decodePfx (encodePfx Pfx.null) = some Pfx.null) ∧ encode false .dieHot = [] := by
  refine ⟨⟨by decide, _, _, rfl⟩, ⟨by decide, _, _, rfl⟩, ⟨_, _, by rfl, by decide⟩, ⟨_, _, by rfl, rfl⟩, ⟨_, _, by rfl⟩, ?_, rfl⟩
  decide

theorem witness_StepKeepsInvariant :
    State.reset.memOk = true ∧ (State.reset.withFetchWord 32 0x10000000).memOk = true ∧
    (match step (State.reset.withFetchWord 32 0x10000000) with | .next _ => true | _ => false) = true ∧
    (match step ({ State.reset with power := false } : State) with | .fault .poweredOff => true | _ => false) = true := by decide +kernel

/-! Words written out bit by bit from the manual's encodings, each of another family (spec/02_words.md R33 to R39). -/

theorem test_decode_control : decodeCore 0x010FFFFD none = .ok (.br ⟨2, false, 0x7FFFD⟩) false ∧
    decodeCore 0x87800007 (some 0x7D005000) = .ok (.call ⟨7, false, 7, 20⟩) true := by decide
theorem test_decode_integer : decodeCore 0x9C4005FF (some 0x7D400000) = .ok (.movi ⟨8, 0x1FF, 0x400000⟩) true ∧
    decodeCore 0x1C805603 none = .ok (.cmpi ⟨1, 0, 5, false, 3⟩) false := by decide
theorem test_decode_limbs : decodeCore 0xA0508120 (some 0x7D700000) = .ok (.ladd ⟨10, 8, 9, false, false, 3, 4⟩) true ∧
    decodeCore 0xA4000003 (some 0x7D000000) = .ok (.bind 0) true := by decide
theorem test_decode_float : decodeCore 0x282050C0 none = .ok (.fadd ⟨4, 5, 6, false, false⟩) false ∧
    decodeCore 0xBC509000 (some 0x7D200000) = .ok (.cvt ⟨10, 9, 0, false, false, 2, 0, 0, false⟩) true := by decide
theorem test_decode_lanes : decodeCore 0xC0508000 (some 0x7DD00208) = .ok (.shfl ⟨10, 8, 0, false, false, 3, 2, 0, false, false, true, 1⟩) true ∧
    decodeCore 0x44380003 none = .ok (.rand ⟨7⟩) false ∧ decodeCore 0x44380004 none = .ok (.randf ⟨7⟩) false := by decide
theorem test_decode_memory : decodeCore 0x48402404 none = .ok (.ld ⟨8, 2, false, 4, 0, 4⟩) false ∧
    decodeCore 0xD0484000 (some 0x7D800000) = .ok (.atomAdd ⟨9, 4, false, 0, 0, 4, false, 0⟩) true := by decide
theorem test_decode_ordering : decodeCore 0x58020003 none = .ok (.fence 3) false ∧ decodeCore 0x58008C40 none = .ok (.barCarve ⟨6, 8⟩) false ∧
    decodeCore 0xDC506103 (some 0x7D188800) = .ok (.region ⟨10, 6, 8, false, false, 12, false, true, 1⟩) true := by decide
theorem test_decode_shuttle : decodeCore 0xE060000B (some 0x7D000004) = .ok (.sldi ⟨12, 4⟩) true ∧
    decodeCore 0x6000001A none = .ok .sdone false := by decide
theorem test_decode_tiles : decodeCore 0x68F20000 none = .ok (.qmma ⟨30, 32, false⟩) false ∧
    decodeCore 0xEC006003 (some 0x7D300000) = .ok (.qrule ⟨6, false, 3, 0⟩) true := by decide
theorem test_decode_patterns : decodeCore 0xF0486100 (some 0x7D000000) = .ok (.patld ⟨9, 6, 8, false, false, 0⟩) true ∧
    decodeCore 0xF0A00002 (some 0x7D080000) = .ok (.patnext ⟨20, false, false, 1⟩) true ∧
    decodeCore 0xF0C00002 (some 0x7D900000) = .ok (.patnext ⟨24, true, false, 2⟩) true := by decide
theorem test_decode_graph : decodeCore 0x74F203A0 none = .ok (.gspawn ⟨30, 32, 29, false, false⟩) false ∧
    decodeCore 0x75000123 none = .ok (.tidget ⟨32, 9, false⟩) false := by decide
theorem test_decode_system : decodeCore 0xF8400000 (some 0x7D000020) = .ok (.mfs ⟨8, 0x20⟩) true ∧
    decodeCore 0x78000007 none = .ok .haltStop false ∧ decodeCore 0x78080007 none = .ok .haltRun false := by decide
theorem test_decode_bobbin : decodeBobbin 0x18208000 = .ok (.stl ⟨1, 0, true, 0⟩) false ∧ decodeBobbin 0x1CE68001 = .ok (.ldh ⟨7, 6, true, 1⟩) false ∧
    decodeBobbin 0x30052002 = .ok (.chase ⟨0, 5, 4, 0, 2⟩) false ∧ decodeBobbin 0x21028000 = .ok (.sth ⟨8, 2, true, 0⟩) false := by decide

/-! One ill-formed term for each static check, which the check refuses. -/

def refusesAll (L : List Instr) : Bool := L.all fun i => !i.wf

theorem test_wf_control : refusesAll [.brf ⟨7, false, 5461, 0⟩, .callf ⟨7, false, 5461, 0, 20⟩, .trap 0x7F, .trap 0xFF] = true := by decide
theorem test_wf_integer : refusesAll [.cmp ⟨1, 2, false, false, 1, 12, 0, 0, false⟩, .cmp ⟨1, 2, false, false, 1, 0, 3, 0, false⟩,
    .cmp ⟨1, 2, false, false, 1, 0, 0, 1, false⟩, .bfx ⟨1, 2, false, false, 0, 0⟩, .bfx ⟨1, 2, false, false, 31, 2⟩, .bfi ⟨1, 2, false, 0, 0⟩,
    .bfi ⟨1, 2, false, 1, 32⟩] = true := by decide
theorem test_wf_limbs : refusesAll [.ladd ⟨1, 2, 3, false, false, 4, 4⟩, .ladc ⟨1, 2, 3, false, false, 4, 4, 0⟩, .lsub ⟨1, 2, 3, false, false, 4, 4⟩,
    .lsbc ⟨1, 2, 3, false, false, 4, 4, 0⟩, .lneg ⟨1, 2, false, 0, 0⟩, .lcmp ⟨1, 2, false, false, 3, 3, 7⟩, .lcmp ⟨1, 2, false, false, 3, 7, 3⟩,
    .lcmp ⟨1, 2, false, false, 7, 3, 3⟩, .lmulw ⟨1, 2, 3, false, false, 1⟩] = true := by decide
theorem test_wf_float : refusesAll [.fcmp ⟨1, 2, false, false, 1, 0, 3, 0, false⟩, .fcmp ⟨1, 2, false, false, 1, 0, 0, 1, false⟩,
    .fsgn ⟨1, 2, 3, false, false, 3⟩, .fsgn ⟨1, 2, 0, false, true, 3⟩, .cvt ⟨1, 2, 0, false, false, 10, 0, 0, false⟩, .cvt ⟨1, 2, 0, false, false, 0, 10, 0, false⟩,
    .cvt ⟨1, 2, 0, false, false, 1, 2, 0, false⟩, .cvt ⟨1, 2, 0, false, false, 0, 0, 0, false⟩, .cvt ⟨1, 2, 3, false, false, 5, 0, 7, false⟩,
    .cvt ⟨1, 2, 0, false, false, 1, 0, 1, false⟩, .cvt ⟨1, 2, 3, false, false, 1, 0, 0, false⟩, .cvt ⟨1, 2, 0, false, false, 3, 0, 0, true⟩,
    .cvtp ⟨1, 2, 3, false, false, 0⟩] = true := by decide
theorem test_wf_lanes : refusesAll [.shfl ⟨1, 2, 3, false, false, 0, 7, 0, false, false, true, 0⟩, .shfl ⟨1, 2, 0, false, false, 0, 7, 5, false, false, true, 0⟩,
    .vote ⟨0, 5, 1, false, 7, false, 0⟩, .vote ⟨8, 4, 1, false, 1, false, 0⟩, .vote ⟨8, 4, 1, false, 7, true, 8⟩, .vote ⟨8, 4, 1, false, 7, true, 9⟩,
    .vote ⟨8, 0, 1, false, 1, false, 0⟩, .vote ⟨0, 0, 1, false, 1, false, 5⟩, .greduce ⟨1, 2, false, 11, 0⟩, .greduce ⟨1, 2, false, 0, 5⟩,
    .gscan ⟨1, 2, false, 11, 0, true⟩, .gscan ⟨1, 2, false, 0, 5, true⟩, .regput ⟨1, 2, false, false, 0, 7⟩] = true := by decide
theorem test_wf_memory : refusesAll [.ld ⟨1, 2, false, 7, 0, 0⟩, .st ⟨1, 2, false, 5, 0, 0⟩, .atomAdd ⟨1, 2, false, 0, 0, 5, true, 3⟩,
    .atomMin ⟨1, 2, false, 0, 0, 0, false, 3⟩, .atomMax ⟨1, 2, false, 0, 0, 5, true, 3⟩, .atomAnd ⟨1, 2, false, 0, 0, 3, true, 3⟩,
    .atomOr ⟨1, 2, false, 0, 0, 4, true, 3⟩, .atomXor ⟨1, 2, false, 0, 0, 3, true, 3⟩, .atomExch ⟨1, 2, false, 0, 0, 4, true, 3⟩,
    .atomCas ⟨1, 2, false, 0, 0, 4, true, 3, 4, false⟩, .atomCas ⟨1, 2, false, 0, 0, 0, false, 3, 4, false⟩, .ldt ⟨1, 2, 3, false, false, false, 3, false⟩,
    .unpk ⟨1, 2, false, 7, 0, 0, false⟩, .unpk ⟨1, 2, false, 6, 3, 1, false⟩, .l2pin ⟨1, 2, false, false, 7⟩] = true := by decide
theorem test_wf_ordering : refusesAll [.fence 7, .barCarve ⟨48, 0⟩, .barg ⟨3, 0⟩, .barg ⟨7, 0⟩, .tryacq ⟨1, false, false, 7⟩,
    .region ⟨1, 2, 3, false, false, 4, false, false, 7⟩, .regionFree ⟨1, 2, false, 7⟩] = true := by decide
theorem test_wf_shuttle : refusesAll [.sset ⟨1, 2, 3, 12⟩, .sbr ⟨1, 2, 13, 0⟩, .sbr ⟨1, 0, 12, 0⟩, .sbr ⟨0, 1, 12, 0⟩, .sbrf ⟨0, 5461⟩] = true := by decide
theorem test_wf_pattern : refusesAll [.patmerge ⟨1, 2, false, false, false, 0, 1⟩, .patmerge ⟨1, 2, false, false, false, 1, 0⟩] = true := by decide
theorem test_wf_system : refusesAll [.mts ⟨1, false, 8⟩, .mts ⟨1, false, 9⟩, .mts ⟨1, false, 0x12⟩] = true := by decide
theorem test_wf_bobbin : refusesAll [.bCc ⟨1, 2, 6, 0⟩, .ldv ⟨16, 0, false, 0⟩, .stv ⟨16, 0, false, 0⟩, .vadd ⟨16, 0, 0⟩, .vsub ⟨0, 16, 0⟩, .vmul ⟨0, 0, 16⟩,
    .vfma ⟨0, 0, 0, 16⟩, .vbc ⟨16, 0⟩] = true := by decide

/-! Single instructions against the manual's figures. -/

/-- A register of a lane after an instruction. -/
def after (i : Instr) (s : State) (l n : Nat) : Word := match exec i s with | .next t => (t.thread 0 l).g n | _ => 0xDEAD
/-- The four lanes with the same two operands. -/
def two (a b : Word) : State := lanesOf all4 fun _ t => (t.setG 32 a).setG 48 b

/-- spec/04_integer_limbs.md R103 and its example. -/
theorem test_div : after (.divI32 r3) (two 0xFFFFFFF9 2) 0 16 = 0xFFFFFFFD ∧ after (.divN32 r3) (two 0xFFFFFFF9 2) 3 16 = 0x7FFFFFFC ∧
    after (.divI32 r3) (two 0x80000000 0xFFFFFFFF) 0 16 = 0x80000000 ∧ after (.divN32 r3) (two 5 0) 0 16 = 0xFFFFFFFF := by decide +kernel
theorem test_rem : after (.remI32 r3) (two 0xFFFFFFF9 2) 0 16 = 0xFFFFFFFF ∧ after (.remI32 r3) (two 0x80000000 0xFFFFFFFF) 0 16 = 0 ∧
    after (.remN32 r3) (two 5 0) 0 16 = 5 := by decide +kernel

/-- spec/04_integer_limbs.md, the 128-bit add that overflows. -/
def limbsOf (f : Nat → Word) (g : Nat → Word) : State := lanesOf all4 fun i t => { (t.setG 32 (f i)).setG 48 (g i) with limbL := 4, bset := 1 }
theorem test_ladd : let s := limbsOf (fun i => if i = 3 then 0x7FFFFFFF else 0xFFFFFFFF) fun i => if i = 0 then 1 else 0
    all4.map (after (.ladd ⟨16, 32, 48, false, false, 3, 4⟩) s · 16) = [0, 0, 0, 0x80000000] ∧
    (match exec (.ladd ⟨16, 32, 48, false, false, 3, 4⟩) s with | .next t => (t.thread 0 2).preds | _ => 0) = 0x10 := by decide +kernel
theorem test_ladd_wraps : let s := limbsOf (fun i => if i = 3 then 0x80000000 else 0) fun i => if i = 3 then 0x80000000 else 0
    all4.map (after (.ladd ⟨16, 32, 48, false, false, 3, 4⟩) s · 16) = [0, 0, 0, 0] ∧
    (match exec (.ladd ⟨16, 32, 48, false, false, 3, 4⟩) s with | .next t => (t.thread 0 0).preds | _ => 0) = 0x18 := by decide +kernel

/-- spec/06_lanes.md, the scan of four lanes, and the reduction of the same values. -/
def scanned : State := lanesOf all4 fun i t => t.setG 32 (([0x4B800000, 0x3F800000, 0x3F800000, 0xCB800000] : List Word).getD i 0)
theorem test_gscan : all4.map (after (.gscan ⟨16, 32, false, 8, 0, true⟩) scanned · 16) = [0x4B800000, 0x4B800000, 0x4B800000, 0x3F800000] := by
  decide +kernel
theorem test_greduce : all4.map (after (.greduce ⟨16, 32, false, 8, 0⟩) scanned · 16) = List.replicate 4 0x3F800000 := by decide +kernel

/-- spec/06_lanes.md R167. -/
theorem test_rand : after (.rand ⟨7⟩) s0 0 7 = 0x1A61B53B := by decide +kernel
theorem test_randf : after (.randf ⟨7⟩) s0 0 7 = 0x3DD30DA8 := by decide +kernel

/-- 1 + 2^-24 is a tie that goes to even; 2^24 + 3 is a tie that goes up to an even last bit. -/
theorem test_fadd : after (.fadd r3) (two 0x3F800000 0x33800000) 0 16 = 0x3F800000 ∧ after (.fadd r3) (two 0x4B800000 0x40400000) 0 16 = 0x4B800002 := by
  decide +kernel
theorem test_addi : after (.addi ⟨16, 32, false, 0x1FD⟩) (two 2 0) 0 16 = 0xFFFFFFFF := by decide +kernel
theorem test_mulw : after (.mulwI32 r3) (two 0xFFFFFFFF 2) 0 16 = 0xFFFFFFFE ∧ after (.mulwI32 r3) (two 0xFFFFFFFF 2) 0 17 = 0xFFFFFFFF ∧
    after (.mulwN32 r3) (two 0xFFFFFFFF 2) 0 17 = 1 := by decide +kernel

/-- spec/14_pattern.md, the pattern walked both ways: lanes 16 and 29, and lane 30 past the end. -/
def walked : State :=
  let s := s64.modTeam 0 fun t => { t with pat := some ⟨64, true, 8, 8, 0, 8, 0, 8, 0, 0, 0, 0, 0, 0,
    [0x10000000, 0xFFFFFFFF, 1, 0x20000000, 4, 0, 0x80000000, 0xF0000000]⟩ }
  s
theorem test_patnext_row : [16, 29, 30].map (fun l => [20, 21, 22].map (after (.patnext ⟨20, false, false, 1⟩) walked l)) =
    [[4, 3, 16], [7, 7, 29], [0xFFFFFFFF, 0xFFFFFFFF, 0xFFFFFFFF]] := by decide +kernel
theorem test_patnext_col : [2, 16, 29].map (fun l => [24, 25, 26, 27].map (after (.patnext ⟨24, true, false, 2⟩) walked l)) =
    [[4, 0, 15, 0], [3, 4, 13, 0], [7, 7, 29, 0]] := by decide +kernel

/-- spec/19_system.md, the walk of 0x12_3456_789A. -/
def walkTables : State :=
  { module with spaces := [(5, ⟨true, 0x40, [(0, 2199023255552)], [], []⟩)]
                hbm := mwrite (mwrite (mwrite [] 0x400000 (leBytes 8 0x410003)) 0x410488 (leBytes 8 0x420003)) 0x42A2B0 (leBytes 8 0x001000001234060D) }
theorem test_walk : (walkTables.walk 5 0x123456789A).toOption.map (fun l => (l.pa 0x123456789A, l.at_)) = some (0x1234789A, 0x42A2B0) := by
  decide +kernel
theorem test_stack : stackOf 0x1234789A = 11 := by decide

/-- spec/19_system.md, the same example's PGSHARE: page Q's level-0 entry is 0. -/
theorem test_pgshare :
    let s := (shuttle true).modShuttle 0 fun h => { h with sup := [(6, 0x1234560000), (7, 0x1234570000), (8, 5)] }
    let s : State := { s with spaces := walkTables.spaces, hbm := walkTables.hbm }
    let s := s.modPart 0 fun p => { p with asid := 5 }
    (match exec (.pgshare ⟨4, 6, 7, false, false⟩) s with
     | .next t => (nget (t.shuttle 0).sup 4 9, t.homeNat 0x42A2B0 8, t.homeNat 0x42A2B8 8)
     | _ => (9, 9, 9)) = (0, 0x002000001234064D, 0x000000001234004D) := by decide +kernel

/-- spec/16_bobbin.md, the sample: entry 1 of a list of ten, by the draw of R167. -/
def sampled : State :=
  { sBob [(7, 0), (3, 0)] [] 0 with hbm := mwrite (mwrite [] 0x10000000000 (leBytes 8 10)) 0x10000000010 (leBytes 8 101) }
theorem test_sample : (match exec (.sample ⟨8, 7, 3⟩) sampled with
    | .next t => ((t.bobbin 0).rx 8, (t.bobbin 0).rx 3) | _ => (0, 0)) = (101, 0x100000000) := by decide +kernel

/-- The first step after reset runs the word placed: `movi g8, #0x7FFF_FFFF` of spec/04_integer_limbs.md. -/
theorem test_step_movi : (match step (State.reset.withFetchWord 64 0x7D4000009C4005FF) with
    | .next t => (t.thread 0 0).g 8 | _ => 0) = 0x7FFFFFFF := by decide +kernel

/-- A word that no row of the table has parks its thread on a trap record. -/
theorem test_step_illegal : (match step (State.reset.placeThread [0x00000006]) with
    | .next t => (t.core 0).trapCount | _ => 0) = 1 := by decide +kernel

end Sys2Proof.Tests
end

section
/-! PROOFS (O59). Decoding and encoding agree. The words of an instruction are cut into fields (the formats of R37, the
extension payloads of R39, the Bobbin formats of R340); each direction of the round trip is then a fact about the fields. -/

namespace Sys2Proof.Encoding
open Sys2Proof

/-! ### Fields of a word -/

/-- Bits [lo + len − 1 : lo] of a word, as a number: what `fld`, `bit`, `fixedBits` and the kinds of words read. -/
def bitsAt (w : Word) (lo len : Nat) : Nat := w.toNat / 2 ^ lo % 2 ^ len

theorem bitsAt_lt (w : Word) (lo len : Nat) : bitsAt w lo len < 2 ^ len := Nat.mod_lt _ (Nat.two_pow_pos _)

theorem toNat_fld (w : Word) (lo len : Nat) : (fld w lo len).toNat = bitsAt w lo len := by
  simp [fld, bitsAt]

theorem fld_eq_ofNat (w : Word) (lo len : Nat) : fld w lo len = BitVec.ofNat len (bitsAt w lo len) := by
  rw [← toNat_fld, BitVec.ofNat_toNat, BitVec.setWidth_eq]

theorem bit_eq_beq (w : Word) (lo : Nat) : bit w lo = (bitsAt w lo 1 == 1) := rfl

theorem toNat_bit (w : Word) (lo : Nat) : (bit w lo).toNat = bitsAt w lo 1 := by
  have h := bitsAt_lt w lo 1
  rw [bit_eq_beq]
  generalize bitsAt w lo 1 = b at h ⊢
  interval_cases b <;> rfl

theorem isExt_eq_beq (w : Word) : isExt w = (bitsAt w 24 7 == 125) := rfl

theorem isPfx_eq_beq (w : Word) : isPfx w = (bitsAt w 24 7 == 124) := rfl

@[simp] theorem fixedBits_nil (w : Word) : fixedBits w [] = true := rfl

@[simp] theorem fixedBits_cons (w : Word) (lo len v : Nat) (fs : List (Nat × Nat × Nat)) :
    fixedBits w ((lo, len, v) :: fs) = ((bitsAt w lo len == v) && fixedBits w fs) := rfl

/-! ### Words as fields one after another -/

/-- A field: its width and its value. -/
abbrev Field := Σ k : Nat, BitVec k

/-- A field that holds an operand. -/
@[simp] def bits {k : Nat} (v : BitVec k) : Field := ⟨k, v⟩

/-- A field of one bit. -/
@[simp] def flag (b : Bool) : Field := ⟨1, BitVec.ofBool b⟩

/-- A field whose value the entry fixes. -/
@[simp] def fix (k v : Nat) : Field := ⟨k, BitVec.ofNat k v⟩

/-- How many bits the fields take. -/
@[simp] def width : List Field → Nat
  | [] => 0
  | p :: r => p.1 + width r

/-- The number the fields make, the first field lowest. -/
def pack : List Field → Nat
  | [] => 0
  | p :: r => p.2.toNat + 2 ^ p.1 * pack r

/-- From bit `lo` on, the word holds these fields one after another. -/
@[simp] def HasFields (w : Word) : Nat → List Field → Prop
  | _, [] => True
  | lo, p :: r => bitsAt w lo p.1 = p.2.toNat ∧ HasFields w (lo + p.1) r

theorem pack_lt (ps : List Field) : pack ps < 2 ^ width ps := by
  induction ps with
  | nil => exact Nat.one_pos
  | cons p r ih =>
    calc pack (p :: r) < 2 ^ p.1 + 2 ^ p.1 * pack r := Nat.add_lt_add_right p.2.isLt _
      _ = 2 ^ p.1 * (pack r + 1) := by ring
      _ ≤ 2 ^ p.1 * 2 ^ width r := Nat.mul_le_mul_left _ ih
      _ = 2 ^ width (p :: r) := (Nat.pow_add ..).symm

/-- The digits of a number in base `b` are unique. -/
theorem add_mul_eq_iff {b x y u v : Nat} (hx : x < b) (hy : y < b) : x + b * u = y + b * v ↔ x = y ∧ u = v := by
  have hb : 0 < b := Nat.zero_lt_of_lt hx
  refine ⟨fun h => ?_, fun ⟨hx, hu⟩ => by rw [hx, hu]⟩
  have hmod := congrArg (· % b) h
  have hdiv := congrArg (· / b) h
  simp only [Nat.add_mul_mod_self_left, Nat.mod_eq_of_lt, Nat.add_mul_div_left _ _ hb, Nat.div_eq_of_lt, Nat.zero_add,
    hx, hy] at hmod hdiv
  exact ⟨hmod, hdiv⟩

theorem hasFields_iff (w : Word) (lo : Nat) (ps : List Field) :
    HasFields w lo ps ↔ bitsAt w lo (width ps) = pack ps := by
  unfold bitsAt
  induction ps generalizing lo with
  | nil => simp [pack, Nat.mod_one]
  | cons p r ih =>
    rw [HasFields, ih, pack, width, Nat.pow_add 2 p.1, Nat.mod_mul,
      add_mul_eq_iff (Nat.mod_lt _ (Nat.two_pow_pos _)) p.2.isLt, Nat.div_div_eq_div_mul, ← Nat.pow_add, bitsAt]

/-- Bits [lo + len − 1 : lo] of the number that fields make, found field by field. -/
def readFields : List Field → Nat → Nat → Nat
  | [], _, _ => 0
  | p :: r, lo, len =>
    if p.1 ≤ lo then readFields r (lo - p.1) len
    else if lo + len ≤ p.1 then p.2.toNat / 2 ^ lo % 2 ^ len
    else p.2.toNat / 2 ^ lo + 2 ^ (p.1 - lo) * readFields r 0 (len - (p.1 - lo))

/-- Above the first field the number is that of the other fields. -/
theorem pack_cons_div (p : Field) (r : List Field) {lo : Nat} (h : p.1 ≤ lo) :
    pack (p :: r) / 2 ^ lo = pack r / 2 ^ (lo - p.1) := by
  rw [pack, ← Nat.add_sub_cancel' h, Nat.pow_add, ← Nat.div_div_eq_div_mul, Nat.add_mul_div_left _ _ (Nat.two_pow_pos _),
    Nat.div_eq_of_lt p.2.isLt, Nat.zero_add, Nat.add_sub_cancel_left]

/-- Inside the first field, the number is the rest of that field and the other fields behind it. -/
theorem pack_cons_div_within (p : Field) (r : List Field) {lo : Nat} (h : lo ≤ p.1) :
    pack (p :: r) / 2 ^ lo = p.2.toNat / 2 ^ lo + 2 ^ (p.1 - lo) * pack r := by
  have hp : 2 ^ p.1 = 2 ^ lo * 2 ^ (p.1 - lo) := by rw [← Nat.pow_add, Nat.add_sub_cancel' h]
  rw [pack, hp, Nat.mul_assoc, Nat.add_mul_div_left _ _ (Nat.two_pow_pos lo)]

theorem pack_div_mod (ps : List Field) (lo len : Nat) : pack ps / 2 ^ lo % 2 ^ len = readFields ps lo len := by
  induction ps generalizing lo len with
  | nil => simp [pack, readFields]
  | cons p r ih =>
    rw [readFields]
    split_ifs with hk hin
    · rw [pack_cons_div p r hk, ih]
    · rw [pack_cons_div_within p r (by omega), show p.1 - lo = len + (p.1 - lo - len) by omega, Nat.pow_add, Nat.mul_assoc,
        Nat.add_mul_mod_self_left]
    · have hv : p.2.toNat / 2 ^ lo < 2 ^ (p.1 - lo) := by
        rw [Nat.div_lt_iff_lt_mul (Nat.two_pow_pos lo), ← Nat.pow_add, Nat.sub_add_cancel (by omega)]
        exact p.2.isLt
      rw [pack_cons_div_within p r (by omega), ← ih, pow_zero, Nat.div_one, show len = (p.1 - lo) + (len - (p.1 - lo)) by omega,
        Nat.pow_add, Nat.mod_mul, Nat.add_mul_mod_self_left, Nat.mod_eq_of_lt hv, Nat.add_mul_div_left _ _ (Nat.two_pow_pos _),
        Nat.div_eq_of_lt hv, Nat.zero_add, Nat.add_sub_cancel_left]

/-- Any stretch of a word's bits, from the word's fields. -/
theorem HasFields.bitsAt_eq {w : Word} {ps : List Field} (h : HasFields w 0 ps) {lo len : Nat} (hk : lo + len ≤ width ps) :
    bitsAt w lo len = readFields ps lo len := by
  obtain ⟨m, hm⟩ := Nat.exists_eq_add_of_le hk
  rw [hasFields_iff, hm, bitsAt, pow_zero, Nat.div_one] at h
  rw [← pack_div_mod, ← h, bitsAt, Nat.add_assoc, Nat.pow_add, Nat.mod_mul_right_div_self, Nat.pow_add, Nat.mod_mul_right_mod]

/-! ### Layouts: the words of an instruction -/

/-- The R format of R37, bits 0 to 30. -/
@[simp] def rFmt (major : Nat) (d a b : BitVec 7) (ea eb : Bool) (minor : Nat) : List Field :=
  [fix 3 minor, flag eb, flag ea, bits b, bits a, bits d, fix 5 major]

/-- The R format of major 0x18, bits 0 to 30: bits [4:3] extend the minor code (R233). -/
@[simp] def sFmt (d a b : BitVec 7) (minor : Nat) : List Field := [fix 5 minor, bits b, bits a, bits d, fix 5 24]

/-- The M format of R37, bits 0 to 30; `mid` is the size or the minor code. -/
@[simp] def mFmt (major : Nat) (d base : BitVec 7) (eb : Bool) (mid : Field) (space : BitVec 2) (off : BitVec 6) : List Field :=
  [bits off, bits space, mid, flag eb, bits base, bits d, fix 5 major]

/-- The fields of a core instruction: bits 0 to 30 of its first word, and the payload of its extension word where it has one. -/
inductive Layout where
  /-- an instruction that stands alone (R86, R206): its word has chain bit 0 -/
  | lone (b : List Field)
  /-- an instruction of one word with a free chain bit -/
  | one (b : List Field)
  /-- an X instruction (R39) -/
  | two (b e : List Field)

@[simp] def Layout.base : Layout → List Field
  | .lone b | .one b | .two b _ => b

@[simp] def Layout.payload : Layout → List Field
  | .lone _ | .one _ => []
  | .two _ e => e

@[simp] def Layout.alone : Layout → Bool
  | .lone _ => true
  | .one _ | .two _ _ => false

/-- Bit 31 of the first word: an X instruction's is 1 (R39). -/
@[simp] def Layout.top (c : Bool) : Layout → Nat
  | .lone _ => 0
  | .one _ => c.toNat
  | .two _ _ => 1

@[simp] def Layout.extWords (c : Bool) : Layout → List Word
  | .lone _ | .one _ => []
  | .two _ e => [wordOf (c.toNat * 0x80000000 + 0x7D000000 + pack e)]

def Layout.words (c : Bool) (l : Layout) : List Word := wordOf (l.top c * 0x80000000 + pack l.base) :: l.extWords c

/-- The fields fill their words. -/
def Layout.Sized : Layout → Prop
  | .lone b | .one b => width b = 31
  | .two b e => width b = 31 ∧ width e = 24

/-- The word after an instruction's first, where the packet holds one. -/
def after (n : Option Word) : Word := n.getD 0

/-- The fields stand in the word and, where `x`, in the extension word after it. -/
@[simp] def Layout.Fits : Layout → Word → Option Word → Bool → Prop
  | .lone b, w, _, x | .one b, w, _, x => x = false ∧ HasFields w 0 b
  | .two b e, w, n, x => x = true ∧ HasFields w 0 b ∧ bit w 31 = true ∧ n.isSome = true ∧ isExt (after n) = true ∧
      HasFields (after n) 0 e

theorem Layout.Fits.base {l : Layout} {w : Word} {n : Option Word} {x : Bool} (h : l.Fits w n x) : HasFields w 0 l.base := by
  cases l with
  | lone b => exact h.2
  | one b => exact h.2
  | two b e => exact h.2.1

theorem Layout.Fits.payload {l : Layout} {w : Word} {n : Option Word} {x : Bool} (h : l.Fits w n x) :
    HasFields (after n) 0 l.payload := by
  cases l with
  | lone b => trivial
  | one b => trivial
  | two b e => exact h.2.2.2.2.2

theorem cons_eq_words {c : Bool} {l : Layout} {k : Nat} {ws : List Word} (hk : k = l.top c * 0x80000000 + pack l.base)
    (hs : ws = l.extWords c) : wordOf k :: ws = l.words c := by
  rw [Layout.words, hk, hs]

/-- Layouts of majors 0x00 to 0x11: control flow, integers, limbs, floating point, lanes. -/
def computeLayout : Instr → Option Layout
  | .br r => some (.one [bits r.off, fix 3 1, flag r.n, bits r.g, fix 5 0])
  | .call r => some (.two [bits r.off, fix 3 0, flag r.n, bits r.g, fix 5 1] [fix 10 0, bits r.link, fix 7 0])
  | .brf r => some (.two [bits r.tpkt, fix 6 0, fix 3 1, flag r.n, bits r.g, fix 5 1] [bits r.ovl, fix 14 0])
  | .callf r => some (.two [bits r.tpkt, fix 6 0, fix 3 2, flag r.n, bits r.g, fix 5 1] [bits r.ovl, bits r.link, fix 7 0])
  | .jt r => some (.two (rFmt 2 0 r.a r.b r.ea r.eb 0) [bits r.label, bits r.bound])
  | .jtc r => some (.two (rFmt 2 r.d r.a r.b r.ea r.eb 1) [bits r.label, bits r.bound])
  | .ret r => some (.one (rFmt 2 0 r.a 0 r.ea false 2))
  | .nop => some (.one [fix 5 0, fix 11 0, fix 3 0, fix 7 0, fix 5 3])
  | .pad label => some (.one [bits label, fix 3 1, fix 7 0, fix 5 3])
  | .join j => some (.lone [fix 5 0, fix 11 0, fix 3 2, bits j, fix 4 0, fix 5 3])
  | .jmaskZ j => some (.one [bits j, fix 2 0, fix 11 0, fix 3 3, fix 7 0, fix 5 3])
  | .jmaskG j => some (.one [bits j, fix 2 1, fix 11 0, fix 3 3, fix 7 0, fix 5 3])
  | .jmaskR r => some (.one [bits r.j, fix 2 2, fix 11 0, fix 3 3, bits r.d, fix 5 3])
  | .jmaskGet r => some (.one [bits r.j, fix 2 3, fix 11 0, fix 3 3, bits r.d, fix 5 3])
  | .exit => some (.lone [fix 5 0, fix 11 0, fix 3 4, fix 7 0, fix 5 3])
  | .yield => some (.lone [fix 5 0, fix 11 0, fix 3 5, fix 7 0, fix 5 3])
  | .dqpop r => some (.one [flag r.w, fix 4 0, fix 11 0, fix 3 6, bits r.d, fix 5 3])
  | .trap code => some (.lone [bits code, fix 8 0, fix 3 7, fix 7 0, fix 5 3])
  | .bkpt tag => some (.lone [bits tag, fix 8 1, fix 3 7, fix 7 0, fix 5 3])
  | .add r => some (.one (rFmt 4 r.d r.a r.b r.ea r.eb 0))
  | .sub r => some (.one (rFmt 4 r.d r.a r.b r.ea r.eb 1))
  | .and r => some (.one (rFmt 4 r.d r.a r.b r.ea r.eb 2))
  | .or r => some (.one (rFmt 4 r.d r.a r.b r.ea r.eb 3))
  | .xor r => some (.one (rFmt 4 r.d r.a r.b r.ea r.eb 4))
  | .shl r => some (.one (rFmt 4 r.d r.a r.b r.ea r.eb 5))
  | .shr r => some (.one (rFmt 4 r.d r.a r.b r.ea r.eb 6))
  | .sar r => some (.one (rFmt 4 r.d r.a r.b r.ea r.eb 7))
  | .mul r => some (.one (rFmt 5 r.d r.a r.b r.ea r.eb 0))
  | .mulhI32 r => some (.one (rFmt 5 r.d r.a r.b r.ea r.eb 1))
  | .mulhN32 r => some (.one (rFmt 5 r.d r.a r.b r.ea r.eb 2))
  | .mac r => some (.one (rFmt 5 r.d r.a r.b r.ea r.eb 3))
  | .divI32 r => some (.one (rFmt 5 r.d r.a r.b r.ea r.eb 4))
  | .divN32 r => some (.one (rFmt 5 r.d r.a r.b r.ea r.eb 5))
  | .remI32 r => some (.one (rFmt 5 r.d r.a r.b r.ea r.eb 6))
  | .remN32 r => some (.one (rFmt 5 r.d r.a r.b r.ea r.eb 7))
  | .addB64 r => some (.one (rFmt 6 r.d r.a r.b r.ea r.eb 0))
  | .subB64 r => some (.one (rFmt 6 r.d r.a r.b r.ea r.eb 1))
  | .mulwI32 r => some (.one (rFmt 6 r.d r.a r.b r.ea r.eb 2))
  | .mulwN32 r => some (.one (rFmt 6 r.d r.a r.b r.ea r.eb 3))
  | .cmp r => some (.two (rFmt 6 0 r.a r.b r.ea r.eb 4) [fix 11 0, flag r.w, bits r.cp, bits r.comb, bits r.cond, bits r.pd])
  | .bfx r => some (.two (rFmt 6 r.d r.a 0 r.ea false 5) [fix 12 0, bits r.len, bits r.pos, flag r.s])
  | .bfi r => some (.two (rFmt 6 r.d r.a 0 r.ea false 6) [fix 12 0, bits r.len, bits r.pos, fix 1 0])
  | .lea r => some (.two (rFmt 6 r.d r.a r.b r.ea r.eb 7) [bits r.disp, bits r.sh, flag r.s])
  | .addi r => some (.one [bits r.imm, fix 2 0, flag r.ea, bits r.a, bits r.d, fix 5 7])
  | .shi r => some (.one [bits r.amt, fix 2 0, bits r.kind, fix 2 1, flag r.ea, bits r.a, bits r.d, fix 5 7])
  | .movi r => some (.two [bits r.imm, fix 2 2, fix 8 0, bits r.d, fix 5 7] [bits r.hi, fix 1 0])
  | .cmpi r => some (.one [bits r.imm, fix 2 3, flag r.ea, bits r.a, fix 1 0, bits r.cond, bits r.pd, fix 5 7])
  | .bind wcode => some (.two (rFmt 9 0 0 0 false false 3) [fix 21 0, bits wcode])
  | .unbind => some (.one (rFmt 9 0 0 0 false false 4))
  | .ladd r => some (.two (rFmt 8 r.d r.a r.b r.ea r.eb 0) [fix 18 0, bits r.pv, bits r.pc])
  | .ladc r => some (.two (rFmt 8 r.d r.a r.b r.ea r.eb 1) [fix 15 0, bits r.pin, bits r.pv, bits r.pc])
  | .lsub r => some (.two (rFmt 8 r.d r.a r.b r.ea r.eb 2) [fix 18 0, bits r.pv, bits r.pc])
  | .lsbc r => some (.two (rFmt 8 r.d r.a r.b r.ea r.eb 3) [fix 15 0, bits r.pin, bits r.pv, bits r.pc])
  | .lneg r => some (.two (rFmt 8 r.d r.a 0 r.ea false 4) [fix 18 0, bits r.pv, bits r.pc])
  | .lcmp r => some (.two (rFmt 8 0 r.a r.b r.ea r.eb 5) [fix 15 0, bits r.plt, bits r.pltu, bits r.pe])
  | .lmulw r => some (.two (rFmt 8 r.d r.a r.b r.ea r.eb 6) [fix 17 0, bits r.h])
  | .lshl r => some (.one (rFmt 9 r.d r.a r.b r.ea r.eb 0))
  | .lshr r => some (.one (rFmt 9 r.d r.a r.b r.ea r.eb 1))
  | .lshrI r => some (.one (rFmt 9 r.d r.a r.b r.ea r.eb 2))
  | .fadd r => some (.one (rFmt 10 r.d r.a r.b r.ea r.eb 0))
  | .fsub r => some (.one (rFmt 10 r.d r.a r.b r.ea r.eb 1))
  | .fmul r => some (.one (rFmt 10 r.d r.a r.b r.ea r.eb 2))
  | .fma r => some (.one (rFmt 10 r.d r.a r.b r.ea r.eb 3))
  | .fmin r => some (.one (rFmt 10 r.d r.a r.b r.ea r.eb 4))
  | .fmax r => some (.one (rFmt 10 r.d r.a r.b r.ea r.eb 5))
  | .fminp r => some (.one (rFmt 10 r.d r.a r.b r.ea r.eb 6))
  | .fmaxp r => some (.one (rFmt 10 r.d r.a r.b r.ea r.eb 7))
  | .fdiv r => some (.one (rFmt 11 r.d r.a r.b r.ea r.eb 0))
  | .fsqrt r => some (.one (rFmt 11 r.d r.a 0 r.ea false 1))
  | .frcp r => some (.one (rFmt 11 r.d r.a 0 r.ea false 2))
  | .frsq r => some (.one (rFmt 11 r.d r.a 0 r.ea false 3))
  | .fexp2 r => some (.one (rFmt 11 r.d r.a 0 r.ea false 4))
  | .flog2 r => some (.one (rFmt 11 r.d r.a 0 r.ea false 5))
  | .fclass r => some (.one (rFmt 11 r.d r.a 0 r.ea false 6))
  | .fcmp r => some (.two (rFmt 12 0 r.a r.b r.ea r.eb 0) [fix 12 0, flag r.sig, bits r.cp, bits r.comb, bits r.cond, bits r.pd])
  | .fsgn r => some (.two (rFmt 12 r.d r.a r.b r.ea r.eb 1) [fix 22 0, bits r.mode])
  | .faddBf16x2 r => some (.one (rFmt 13 r.d r.a r.b r.ea r.eb 0))
  | .fsubBf16x2 r => some (.one (rFmt 13 r.d r.a r.b r.ea r.eb 1))
  | .fmulBf16x2 r => some (.one (rFmt 13 r.d r.a r.b r.ea r.eb 2))
  | .fmaBf16x2 r => some (.one (rFmt 13 r.d r.a r.b r.ea r.eb 3))
  | .fminBf16x2 r => some (.one (rFmt 13 r.d r.a r.b r.ea r.eb 4))
  | .fmaxBf16x2 r => some (.one (rFmt 13 r.d r.a r.b r.ea r.eb 5))
  | .fdotBf16x2 r => some (.one (rFmt 13 r.d r.a r.b r.ea r.eb 6))
  | .faddF16x2 r => some (.one (rFmt 14 r.d r.a r.b r.ea r.eb 0))
  | .fsubF16x2 r => some (.one (rFmt 14 r.d r.a r.b r.ea r.eb 1))
  | .fmulF16x2 r => some (.one (rFmt 14 r.d r.a r.b r.ea r.eb 2))
  | .fmaF16x2 r => some (.one (rFmt 14 r.d r.a r.b r.ea r.eb 3))
  | .fminF16x2 r => some (.one (rFmt 14 r.d r.a r.b r.ea r.eb 4))
  | .fmaxF16x2 r => some (.one (rFmt 14 r.d r.a r.b r.ea r.eb 5))
  | .fdotF16x2 r => some (.one (rFmt 14 r.d r.a r.b r.ea r.eb 6))
  | .cvt r => some (.two (rFmt 15 r.d r.a r.b r.ea r.eb 0) [fix 12 0, flag r.hi, bits r.mw, bits r.src, bits r.dst])
  | .cvtp r => some (.two (rFmt 15 r.d r.a r.b r.ea r.eb 1) [fix 20 0, bits r.dst])
  | .shfl r => some (.two (rFmt 16 r.d r.a r.b r.ea r.eb 0) [fix 3 0, bits r.imm, flag r.useimm, flag r.fbr, flag r.efb, bits r.fb, bits r.pf, bits r.mode])
  | .bcast r => some (.one (rFmt 16 r.d r.a 0 r.ea false 1))
  | .vote r => some (.two (rFmt 16 r.d 0 0 false false 2) [fix 6 0, bits r.cn, flag r.cw, bits r.pd, flag r.psn, bits r.ps, bits r.mode])
  | .match_ r => some (.two (rFmt 16 r.d r.a 0 r.ea false 3) [fix 20 0, bits r.pd, flag r.w])
  | .compact r => some (.two (rFmt 16 r.d r.a 0 r.ea false 4) [fix 17 0, bits r.pd, flag r.psn, bits r.ps])
  | .greduce r => some (.two (rFmt 16 r.d r.a 0 r.ea false 5) [fix 17 0, bits r.seg, bits r.op])
  | .gscan r => some (.two (rFmt 16 r.d r.a 0 r.ea false 6) [fix 16 0, flag r.incl, bits r.seg, bits r.op])
  | .regput r => some (.two (rFmt 17 0 r.a r.b r.ea r.eb 0) [fix 18 0, bits r.pd, bits r.wn])
  | .regtake r => some (.two (rFmt 17 r.d r.a 0 r.ea false 1) [fix 21 0, bits r.wn])
  | .regflush r => some (.one (rFmt 17 0 r.a 0 r.ea false 2))
  | .rand r => some (.one (rFmt 17 r.d 0 0 false false 3))
  | .randf r => some (.one (rFmt 17 r.d 0 0 false false 4))
  | _ => none

/-- Layouts of majors 0x12 to 0x1E: memory, synchronisation, Shuttle, Quilt, patterns, graph, system. -/
def serviceLayout : Instr → Option Layout
  | .ld r => some (.one (mFmt 18 r.d r.base r.eb (bits r.size) r.space r.off))
  | .st r => some (.one (mFmt 19 r.d r.base r.eb (bits r.size) r.space r.off))
  | .atomAdd r => some (.two (mFmt 20 r.data r.base r.eb (fix 3 0) r.space r.off) [fix 13 0, bits r.d, flag r.ret, bits r.ty])
  | .atomMin r => some (.two (mFmt 20 r.data r.base r.eb (fix 3 1) r.space r.off) [fix 13 0, bits r.d, flag r.ret, bits r.ty])
  | .atomMax r => some (.two (mFmt 20 r.data r.base r.eb (fix 3 2) r.space r.off) [fix 13 0, bits r.d, flag r.ret, bits r.ty])
  | .atomAnd r => some (.two (mFmt 20 r.data r.base r.eb (fix 3 3) r.space r.off) [fix 13 0, bits r.d, flag r.ret, bits r.ty])
  | .atomOr r => some (.two (mFmt 20 r.data r.base r.eb (fix 3 4) r.space r.off) [fix 13 0, bits r.d, flag r.ret, bits r.ty])
  | .atomXor r => some (.two (mFmt 20 r.data r.base r.eb (fix 3 5) r.space r.off) [fix 13 0, bits r.d, flag r.ret, bits r.ty])
  | .atomExch r => some (.two (mFmt 20 r.data r.base r.eb (fix 3 6) r.space r.off) [fix 13 0, bits r.d, flag r.ret, bits r.ty])
  | .atomCas r => some (.two (mFmt 20 r.data r.base r.eb (fix 3 7) r.space r.off) [fix 5 0, flag r.ecv, bits r.cv, bits r.d, flag r.ret, bits r.ty])
  | .ldt r => some (.two (rFmt 21 r.d r.a r.b r.ea r.eb 0) [fix 20 0, flag r.sp, bits r.nc, flag r.sz])
  | .unpk r => some (.two (rFmt 21 r.d r.a 0 r.ea false 1) [fix 12 0, flag r.s, bits r.pos, bits r.kc, bits r.mw])
  | .cmoClean r => some (.two (rFmt 21 0 r.a r.b r.ea r.eb 2) [fix 20 0, bits r.level, fix 2 0])
  | .cmoInv r => some (.two (rFmt 21 0 r.a r.b r.ea r.eb 2) [fix 20 0, bits r.level, fix 2 1])
  | .cmoCinv r => some (.two (rFmt 21 0 r.a r.b r.ea r.eb 2) [fix 20 0, bits r.level, fix 2 2])
  | .l2pin r => some (.two (rFmt 21 0 r.a r.b r.ea r.eb 3) [fix 21 0, bits r.pd])
  | .l2unpin r => some (.one (rFmt 21 0 r.a r.b r.ea r.eb 4))
  | .fence scope => some (.one [bits scope, fix 13 0, fix 3 2, fix 7 0, fix 5 22])
  | .bar => some (.lone [fix 16 0, fix 3 0, fix 7 0, fix 5 22])
  | .barCarve r => some (.lone [fix 3 0, bits r.slice, bits r.scrg, fix 1 1, fix 3 0, fix 7 0, fix 5 22])
  | .barg r => some (.lone [bits r.group, bits r.scope, fix 5 0, fix 3 1, fix 7 0, fix 5 22])
  | .acq r => some (.two (rFmt 23 0 r.a 0 r.ea false 0) [fix 23 0, flag r.mode])
  | .tryacq r => some (.two (rFmt 23 0 r.a 0 r.ea false 1) [fix 20 0, bits r.pd, flag r.mode])
  | .rel r => some (.two (rFmt 23 0 r.a 0 r.ea false 2) [fix 23 0, flag r.mode])
  | .region r => some (.two (rFmt 23 r.d r.a r.b r.ea r.eb 3) [fix 11 0, bits r.pd, fix 1 0, flag r.det, flag r.eobj, bits r.obj])
  | .regionFree r => some (.two (rFmt 23 r.d r.a 0 r.ea false 3) [fix 11 0, bits r.pd, fix 10 1])
  | .waitge r => some (.one (rFmt 23 0 r.a r.b r.ea r.eb 4))
  | .sadd r => some (.one (sFmt r.d r.a r.b 0))
  | .ssub r => some (.one (sFmt r.d r.a r.b 8))
  | .smul r => some (.one (sFmt r.d r.a r.b 16))
  | .sand r => some (.one (sFmt r.d r.a r.b 1))
  | .sor r => some (.one (sFmt r.d r.a r.b 9))
  | .sxor r => some (.one (sFmt r.d r.a r.b 17))
  | .sshl r => some (.one (sFmt r.d r.a r.b 2))
  | .sshr r => some (.one (sFmt r.d r.a r.b 10))
  | .ssar r => some (.one (sFmt r.d r.a r.b 18))
  | .sdone => some (.one (sFmt 0 0 0 26))
  | .saddi r => some (.two (sFmt r.d r.a 0 3) [bits r.imm])
  | .sldi r => some (.two (sFmt r.d 0 0 11) [bits r.imm])
  | .sset r => some (.two (sFmt r.d r.a r.b 4) [fix 20 0, bits r.cond])
  | .sbr r => some (.two (sFmt 0 r.a r.b 12) [bits r.off, fix 1 0, bits r.cond])
  | .sbrf r => some (.two (sFmt 0 0 0 20) [bits r.tpkt, bits r.ovl, fix 1 0])
  | .dqpush a => some (.one (sFmt 0 a 0 5))
  | .stream r => some (.two (sFmt 0 r.a 0 6) [fix 20 0, bits r.q])
  | .sqstop r => some (.two (sFmt r.d 0 0 7) [fix 20 0, bits r.q])
  | .cpy r => some (.two (rFmt 25 r.d r.a r.b r.ea r.eb 0) [fix 7 0, flag r.ret, bits r.ssp, bits r.dsp, bits r.ch, flag r.el, bits r.len])
  | .cpy2d r => some (.two (rFmt 25 r.d r.a r.b r.ea r.eb 1) [fix 7 0, flag r.ret, bits r.ssp, bits r.dsp, bits r.ch, flag r.el, bits r.len])
  | .seal r => some (.one (rFmt 25 r.d 0 0 r.ea r.eb 2))
  | .bwait r => some (.one (rFmt 25 0 r.a 0 r.ea r.eb 3))
  | .wptr r => some (.one (rFmt 25 r.d r.a 0 r.ea r.eb 4))
  | .chunk r => some (.two (rFmt 25 r.d r.a 0 r.ea r.eb 5) [fix 23 0, flag r.gang])
  | .ovl r => some (.two (rFmt 25 r.d r.a r.b r.ea r.eb 6) [fix 18 0, bits r.ch, bits r.slot])
  | .qmma r => some (.one (rFmt 26 r.d r.a 0 r.ea false 0))
  | .qspmm r => some (.one (rFmt 26 r.d r.a 0 r.ea false 1))
  | .qacc r => some (.one (rFmt 26 r.d r.a 0 r.ea false 2))
  | .qcvt r => some (.one (rFmt 26 r.d r.a 0 r.ea false 3))
  | .qwait r => some (.one (rFmt 26 0 r.a 0 r.ea false 4))
  | .qpoll r => some (.one (rFmt 26 r.d 0 0 false false 5))
  | .qrec r => some (.one (rFmt 27 r.d r.a 0 r.ea false 0))
  | .qrecb r => some (.one (rFmt 27 r.d r.a 0 r.ea false 1))
  | .qtrace r => some (.one (rFmt 27 r.d r.a 0 r.ea false 2))
  | .qrule r => some (.two (rFmt 27 0 r.a 0 r.ea false 3) [fix 18 0, bits r.space, bits r.slot])
  | .patld r => some (.two (rFmt 28 r.d r.a r.b r.ea r.eb 0) [fix 22 0, bits r.space])
  | .patbind r => some (.one (rFmt 28 0 r.a 0 r.ea false 1))
  | .patnext r => some (.two (rFmt 28 r.d 0 0 false false 2) [fix 19 0, bits r.pd, flag r.line, flag r.dir])
  | .patmerge r => some (.two (rFmt 28 r.d r.a 0 r.ea false 3) [fix 18 0, bits r.osp, bits r.ssp, flag r.mode, flag r.dir])
  | .patsave r => some (.two (rFmt 28 0 r.a 0 r.ea false 4) [fix 22 0, bits r.space])
  | .patrestore r => some (.two (rFmt 28 0 r.a 0 r.ea false 5) [fix 22 0, bits r.space])
  | .gspawn r => some (.one (rFmt 29 r.d r.a r.b r.ea r.eb 0))
  | .gdone r => some (.one (rFmt 29 0 r.a r.b r.ea r.eb 1))
  | .tidset r => some (.one (rFmt 29 0 r.a r.b r.ea r.eb 2))
  | .tidget r => some (.one (rFmt 29 r.d 0 r.b false r.eb 3))
  | .mfs r => some (.two (rFmt 30 r.d 0 0 false false 0) [bits r.num, fix 14 0])
  | .mts r => some (.two (rFmt 30 0 r.a 0 r.ea false 1) [bits r.num, fix 14 0])
  | .mtsFstat r => some (.two (rFmt 30 0 r.a 0 r.ea false 1) [fix 24 8])
  | .mtsFctl r => some (.two (rFmt 30 0 r.a 0 r.ea false 1) [fix 24 9])
  | .mtsCarve r => some (.two (rFmt 30 0 r.a 0 r.ea false 1) [fix 24 18])
  | .eret => some (.one (rFmt 30 0 0 0 false false 2))
  | .eretTerm => some (.one (rFmt 30 1 0 0 false false 2))
  | .tlbinvPage r => some (.one (rFmt 30 0 r.a r.b r.ea r.eb 3))
  | .tlbinvAsid r => some (.one (rFmt 30 1 0 r.b r.ea r.eb 3))
  | .tlbinvAll r => some (.one (rFmt 30 2 0 0 r.ea r.eb 3))
  | .pgshare r => some (.one (rFmt 30 r.d r.a r.b r.ea r.eb 4))
  | .pgrel r => some (.one (rFmt 30 r.d r.a r.b r.ea r.eb 5))
  | .ctxsave r => some (.two (rFmt 30 r.d 0 0 false false 6) [fix 21 0, flag r.h, fix 2 0])
  | .ctxload r => some (.two (rFmt 30 r.d 0 0 false false 6) [fix 21 0, flag r.h, fix 2 2])
  | .ctxsaveMem r => some (.two (rFmt 30 r.d r.a 0 false false 6) [fix 21 0, flag r.h, fix 2 1])
  | .ctxloadMem r => some (.two (rFmt 30 r.d r.a 0 false false 6) [fix 21 0, flag r.h, fix 2 3])
  | .haltStop => some (.one (rFmt 30 0 0 0 false false 7))
  | .haltRun => some (.one (rFmt 30 1 0 0 false false 7))
  | _ => none

/-- The BR format of R340 with a function code and no c. -/
@[simp] def brFmt (op : Nat) (d a b : BitVec 5) (func : Nat) : List Field :=
  [fix 4 func, fix 7 0, bits b, bits a, bits d, fix 6 op]

/-- The BM and BV formats of R340. -/
@[simp] def bmFmt (op : Nat) (d base : BitVec 5) (w : Bool) (off : BitVec 15) : List Field :=
  [bits off, flag w, bits base, bits d, fix 6 op]

/-- The fields of a Bobbin word (R340, R341), all 32 bits. -/
def bobbinLayout : Instr → Option (List Field)
  | .bAdd r => some (brFmt 1 r.d r.a r.b 0)
  | .bSub r => some (brFmt 1 r.d r.a r.b 1)
  | .bMul r => some (brFmt 1 r.d r.a r.b 2)
  | .bAnd r => some (brFmt 1 r.d r.a r.b 3)
  | .bOr r => some (brFmt 1 r.d r.a r.b 4)
  | .bXor r => some (brFmt 1 r.d r.a r.b 5)
  | .bShl r => some (brFmt 1 r.d r.a r.b 6)
  | .bShr r => some (brFmt 1 r.d r.a r.b 7)
  | .bSar r => some (brFmt 1 r.d r.a r.b 8)
  | .slt r => some (brFmt 1 r.d r.a r.b 9)
  | .sltu r => some (brFmt 1 r.d r.a r.b 10)
  | .bAddi r => some [bits r.imm, bits r.a, bits r.d, fix 6 2]
  | .ldi r => some [bits r.imm, bits r.h, fix 3 0, bits r.d, fix 6 3]
  | .bCc r => some [bits r.off, bits r.cond, bits r.b, bits r.a, fix 6 4]
  | .bAl off => some [bits off, fix 3 6, fix 10 0, fix 6 4]
  | .ldl r => some (bmFmt 5 r.d r.base r.w r.off)
  | .stl r => some (bmFmt 6 r.d r.base r.w r.off)
  | .ldh r => some (bmFmt 7 r.d r.base r.w r.off)
  | .sth r => some (bmFmt 8 r.d r.base r.w r.off)
  | .ldv r => some (bmFmt 9 r.v r.base r.sp r.off)
  | .stv r => some (bmFmt 10 r.v r.base r.sp r.off)
  | .vadd r => some [fix 4 0, fix 2 0, fix 5 0, bits r.b, bits r.a, bits r.d, fix 6 11]
  | .vsub r => some [fix 4 1, fix 2 0, fix 5 0, bits r.b, bits r.a, bits r.d, fix 6 11]
  | .vmul r => some [fix 4 2, fix 2 0, fix 5 0, bits r.b, bits r.a, bits r.d, fix 6 11]
  | .vfma r => some [fix 4 3, fix 2 0, bits r.c, bits r.b, bits r.a, bits r.d, fix 6 11]
  | .vbc r => some [fix 4 4, fix 2 0, fix 5 0, fix 5 0, bits r.a, bits r.d, fix 6 11]
  | .chase r => some [bits r.k, bits r.c, bits r.b, bits r.a, bits r.d, fix 6 12]
  | .sample r => some [fix 11 0, bits r.b, bits r.a, bits r.d, fix 6 13]
  | .adamw r => some [fix 6 0, bits r.c, bits r.b, bits r.a, fix 5 0, fix 6 14]
  | .faddc r => some [fix 16 0, bits r.a, bits r.d, fix 6 15]
  | .signal r => some [fix 11 0, bits r.b, bits r.a, fix 5 0, fix 6 16]
  | .waitn r => some [fix 11 0, bits r.b, bits r.a, fix 5 0, fix 6 17]
  | .bDone => some [fix 26 0, fix 6 18]
  | _ => none

/-! ### What the decoders' rows answer -/

theorem single_eq_ok {i j : Instr} {w : Word} {x : Bool} {fs : List (Nat × Nat × Nat)} :
    single j w fs = .ok i x ↔ x = false ∧ fixedBits w fs = true ∧ j.wf = true ∧ j = i := by
  rw [single]
  split_ifs with h <;> rw [Bool.and_eq_true] at h
  · rw [Dec.ok.injEq]; tauto
  · exact iff_of_false nofun fun ⟨_, hf, hwf, _⟩ => h ⟨hf, hwf⟩

theorem double_eq_ok {f : Word → Instr} {i : Instr} {w : Word} {n : Option Word} {x : Bool} {fs xs : List (Nat × Nat × Nat)} :
    double f w n fs xs = .ok i x ↔ x = true ∧ n.isSome = true ∧ bit w 31 = true ∧ isExt (after n) = true ∧
      fixedBits w fs = true ∧ fixedBits (after n) xs = true ∧ (f (after n)).wf = true ∧ f (after n) = i := by
  cases n with
  | none => simp [double]
  | some y =>
    simp only [double, after, Option.isSome_some, Option.getD_some, true_and]
    split_ifs with h31 hf
    · simp only [Bool.and_eq_true] at h31 hf
      rw [Dec.ok.injEq]; tauto
    · simp only [Bool.and_eq_true] at h31 hf
      exact iff_of_false nofun (by tauto)
    · rw [Bool.and_eq_true] at h31
      exact iff_of_false nofun (by tauto)

/-- The answers at which `orElse` reads the word a second time. -/
def passes : Dec → Bool
  | .illInst | .bad _ _ => true
  | .ok _ _ | .illPacket => false

theorem orElse_eq_ok {a b : Dec} {i : Instr} {x : Bool} :
    orElse a b = .ok i x ↔ a = .ok i x ∨ passes a = true ∧ b = .ok i x := by
  cases a <;> simp [orElse, passes]

theorem passes_single (j : Instr) (w : Word) (fs : List (Nat × Nat × Nat)) :
    passes (single j w fs) = !(fixedBits w fs && j.wf) := by
  rw [single]
  split_ifs with h <;> simp [passes, h]

theorem passes_double (f : Word → Instr) (w : Word) (n : Option Word) (fs xs : List (Nat × Nat × Nat)) :
    passes (double f w n fs xs) = (n.isSome && bit w 31 && isExt (after n) &&
      !(fixedBits w fs && fixedBits (after n) xs && (f (after n)).wf)) := by
  cases n with
  | none => rfl
  | some y =>
    simp only [double, after, Option.isSome_some, Option.getD_some, Bool.true_and]
    split_ifs with h31 hf
    · simp only [passes, h31, hf]; rfl
    · simp only [passes, h31, hf]; rfl
    · simp only [passes, h31]; rfl

/-- Whatever instruction the answer holds has the property. -/
def Gives (d : Dec) (P : Instr → Bool → Prop) : Prop := ∀ i x, d = .ok i x → P i x

theorem gives_illInst (P : Instr → Bool → Prop) : Gives .illInst P := nofun

theorem gives_single {P : Instr → Bool → Prop} {j : Instr} {w : Word} {fs : List (Nat × Nat × Nat)} :
    Gives (single j w fs) P ↔ (fixedBits w fs = true → j.wf = true → P j false) := by
  simp only [Gives, single_eq_ok]
  constructor
  · exact fun h hf hwf => h _ _ ⟨rfl, hf, hwf, rfl⟩
  · rintro h _ _ ⟨rfl, hf, hwf, rfl⟩
    exact h hf hwf

theorem gives_double {P : Instr → Bool → Prop} {f : Word → Instr} {w : Word} {n : Option Word} {fs xs : List (Nat × Nat × Nat)} :
    Gives (double f w n fs xs) P ↔ (n.isSome = true → bit w 31 = true → isExt (after n) = true → fixedBits w fs = true →
      fixedBits (after n) xs = true → (f (after n)).wf = true → P (f (after n)) true) := by
  simp only [Gives, double_eq_ok]
  constructor
  · exact fun h hn h31 hy hf hx hwf => h _ _ ⟨rfl, hn, h31, hy, hf, hx, hwf, rfl⟩
  · rintro h _ _ ⟨rfl, hn, h31, hy, hf, hx, hwf, rfl⟩
    exact h hn h31 hy hf hx hwf

theorem gives_orElse {P : Instr → Bool → Prop} {a b : Dec} (ha : Gives a P) (hb : Gives b P) : Gives (orElse a b) P := by
  intro i x h
  obtain h | ⟨_, h⟩ := orElse_eq_ok.mp h
  · exact ha i x h
  · exact hb i x h

/-! ### The core decoder -/

/-- The instruction is well formed, and its layout in the table `L` fits the words. -/
def StandsIn (L : Instr → Option Layout) (w : Word) (n : Option Word) (i : Instr) (x : Bool) : Prop :=
  i.wf = true ∧ ∃ l, L i = some l ∧ l.Fits w n x

theorem decodeCore_compute (w : Word) (n : Option Word) :
    (bitsAt w 26 5 = 0 → decodeCore w n = decodeMajor0 w n) ∧ (bitsAt w 26 5 = 1 → decodeCore w n = decodeMajor1 w n) ∧
    (bitsAt w 26 5 = 2 → decodeCore w n = decodeMajor2 w n) ∧ (bitsAt w 26 5 = 3 → decodeCore w n = decodeMajor3 w n) ∧
    (bitsAt w 26 5 = 4 → decodeCore w n = decodeMajor4 w n) ∧ (bitsAt w 26 5 = 5 → decodeCore w n = decodeMajor5 w n) ∧
    (bitsAt w 26 5 = 6 → decodeCore w n = decodeMajor6 w n) ∧ (bitsAt w 26 5 = 7 → decodeCore w n = decodeMajor7 w n) ∧
    (bitsAt w 26 5 = 8 → decodeCore w n = decodeMajor8 w n) ∧ (bitsAt w 26 5 = 9 → decodeCore w n = decodeMajor9 w n) ∧
    (bitsAt w 26 5 = 10 → decodeCore w n = decodeMajor10 w n) ∧ (bitsAt w 26 5 = 11 → decodeCore w n = decodeMajor11 w n) ∧
    (bitsAt w 26 5 = 12 → decodeCore w n = decodeMajor12 w n) ∧ (bitsAt w 26 5 = 13 → decodeCore w n = decodeMajor13 w n) ∧
    (bitsAt w 26 5 = 14 → decodeCore w n = decodeMajor14 w n) ∧ (bitsAt w 26 5 = 15 → decodeCore w n = decodeMajor15 w n) ∧
    (bitsAt w 26 5 = 16 → decodeCore w n = decodeMajor16 w n) ∧ (bitsAt w 26 5 = 17 → decodeCore w n = decodeMajor17 w n) := by
  and_intros <;> intro h <;> rw [decodeCore, toNat_fld, h] <;> rfl

theorem decodeCore_service (w : Word) (n : Option Word) :
    (bitsAt w 26 5 = 18 → decodeCore w n = decodeMajor18 w n) ∧ (bitsAt w 26 5 = 19 → decodeCore w n = decodeMajor19 w n) ∧
    (bitsAt w 26 5 = 20 → decodeCore w n = decodeMajor20 w n) ∧ (bitsAt w 26 5 = 21 → decodeCore w n = decodeMajor21 w n) ∧
    (bitsAt w 26 5 = 22 → decodeCore w n = decodeMajor22 w n) ∧ (bitsAt w 26 5 = 23 → decodeCore w n = decodeMajor23 w n) ∧
    (bitsAt w 26 5 = 24 → decodeCore w n = decodeMajor24 w n) ∧ (bitsAt w 26 5 = 25 → decodeCore w n = decodeMajor25 w n) ∧
    (bitsAt w 26 5 = 26 → decodeCore w n = decodeMajor26 w n) ∧ (bitsAt w 26 5 = 27 → decodeCore w n = decodeMajor27 w n) ∧
    (bitsAt w 26 5 = 28 → decodeCore w n = decodeMajor28 w n) ∧ (bitsAt w 26 5 = 29 → decodeCore w n = decodeMajor29 w n) ∧
    (bitsAt w 26 5 = 30 → decodeCore w n = decodeMajor30 w n) ∧ (bitsAt w 26 5 = 31 → decodeCore w n = .illInst) := by
  and_intros <;> intro h <;> rw [decodeCore, toNat_fld, h] <;> rfl

theorem decodeCore_of_computeLayout {i : Instr} {l : Layout} (h : computeLayout i = some l) (hwf : i.wf = true)
    {w : Word} {n : Option Word} {x : Bool} (hw : l.Fits w n x) : decodeCore w n = .ok i x := by
  have hd := decodeCore_compute w n
  cases i <;> cases h
  all_goals
    have hb := hw.base
    simp [isExt_eq_beq] at hw
    simp [hd, hw, hwf, decodeMajor0, decodeMajor1, decodeMajor2, decodeMajor3, decodeMajor4, decodeMajor5, decodeMajor6,
      decodeMajor7, decodeMajor8, decodeMajor9, decodeMajor10, decodeMajor11, decodeMajor12, decodeMajor13, decodeMajor14,
      decodeMajor15, decodeMajor16, decodeMajor17, single_eq_ok, double_eq_ok, orElse_eq_ok, passes_single, fld_eq_ofNat,
      bit_eq_beq, isExt_eq_beq]
  -- What is left are fixed bits that reach over several fields.
  all_goals simp [hb.bitsAt_eq, readFields]

theorem mts_wf (r : MtsOp) : (Instr.mts r).wf = (r.num.toNat != 8 && r.num.toNat != 9 && r.num.toNat != 0x12) := rfl

theorem decodeCore_of_serviceLayout {i : Instr} {l : Layout} (h : serviceLayout i = some l) (hwf : i.wf = true)
    {w : Word} {n : Option Word} {x : Bool} (hw : l.Fits w n x) : decodeCore w n = .ok i x := by
  have hd := decodeCore_service w n
  cases i <;> cases h
  all_goals
    have hb := hw.base
    have he := hw.payload
    simp [isExt_eq_beq] at hw
    simp [hd, hw, hwf, decodeMajor18, decodeMajor19, decodeMajor20, decodeMajor21, decodeMajor22, decodeMajor23, decodeMajor24,
      decodeMajor25, decodeMajor26, decodeMajor27, decodeMajor28, decodeMajor29, decodeMajor30, single_eq_ok, double_eq_ok,
      orElse_eq_ok, passes_single, passes_double, fld_eq_ofNat, bit_eq_beq, isExt_eq_beq]
  -- What is left are fixed bits that reach over several fields; MTS has besides to miss the numbers that have rows of their own.
  all_goals simp [hb.bitsAt_eq, he.bitsAt_eq, readFields]
  case mts r =>
    simp only [mts_wf, Bool.and_eq_true, bne_iff_ne] at hwf
    simp [hwf]

theorem gives_computeLayout (w : Word) (n : Option Word) (hm : bitsAt w 26 5 < 18) :
    Gives (decodeCore w n) (StandsIn computeLayout w n) := by
  have hd := decodeCore_compute w n
  generalize hk : bitsAt w 26 5 = k at hm
  interval_cases k <;>
    simp only [hd, hk, decodeMajor0, decodeMajor1, decodeMajor2, decodeMajor3, decodeMajor4, decodeMajor5, decodeMajor6,
      decodeMajor7, decodeMajor8, decodeMajor9, decodeMajor10, decodeMajor11, decodeMajor12, decodeMajor13, decodeMajor14,
      decodeMajor15, decodeMajor16, decodeMajor17, toNat_fld] <;>
    repeat' split
  all_goals repeat' apply gives_orElse
  any_goals exact gives_illInst _
  all_goals
    simp only [gives_single, gives_double, fixedBits_cons, fixedBits_nil, Bool.and_true, Bool.and_eq_true, beq_iff_eq]
    intros
    refine ⟨‹_›, _, rfl, ?_⟩
    simp [toNat_fld, toNat_bit, *]
  -- What is left are fixed fields inside a longer stretch of fixed bits.
  all_goals
    simp only [bitsAt] at *
    omega

theorem gives_serviceLayout (w : Word) (n : Option Word) (hm : 18 ≤ bitsAt w 26 5) :
    Gives (decodeCore w n) (StandsIn serviceLayout w n) := by
  have hd := decodeCore_service w n
  have hu : bitsAt w 26 5 < 32 := bitsAt_lt w 26 5
  generalize hk : bitsAt w 26 5 = k at hm hu
  interval_cases k <;>
    simp only [hd, hk, decodeMajor18, decodeMajor19, decodeMajor20, decodeMajor21, decodeMajor22, decodeMajor23, decodeMajor24,
      decodeMajor25, decodeMajor26, decodeMajor27, decodeMajor28, decodeMajor29, decodeMajor30, toNat_fld] <;>
    repeat' split
  all_goals repeat' apply gives_orElse
  any_goals exact gives_illInst _
  all_goals
    simp only [gives_single, gives_double, fixedBits_cons, fixedBits_nil, Bool.and_true, Bool.and_eq_true, beq_iff_eq]
    intros
    refine ⟨‹_›, _, rfl, ?_⟩
    simp [toNat_fld, toNat_bit, *]
  -- What is left are fixed fields inside a longer stretch of fixed bits.
  all_goals
    simp only [bitsAt] at *
    omega

theorem computeLayout_spec {i : Instr} {l : Layout} (h : computeLayout i = some l) :
    l.Sized ∧ (Machine.shapeOf i none).alone = l.alone ∧ bobbinLayout i = none := by
  cases i <;> cases h <;> refine ⟨?_, rfl, rfl⟩ <;> simp [Layout.Sized]

theorem serviceLayout_spec {i : Instr} {l : Layout} (h : serviceLayout i = some l) :
    l.Sized ∧ (Machine.shapeOf i none).alone = l.alone ∧ bobbinLayout i = none := by
  cases i <;> cases h <;> refine ⟨?_, rfl, rfl⟩ <;> simp [Layout.Sized]

theorem encode_of_computeLayout (c : Bool) {i : Instr} {l : Layout} (h : computeLayout i = some l) :
    encode c i = l.words c := by
  cases i <;> cases h <;> refine cons_eq_words ?_ ?_ <;>
    simp only [Layout.top, Layout.base, Layout.extWords, pack, rFmt, fix, bits, flag, BitVec.toNat_ofBool, BitVec.toNat_ofNat,
      BitVec.ofNat_eq_ofNat, Bool.toNat_false] <;>
    ring_nf

theorem encode_of_serviceLayout (c : Bool) {i : Instr} {l : Layout} (h : serviceLayout i = some l) :
    encode c i = l.words c := by
  cases i <;> cases h <;> refine cons_eq_words ?_ ?_ <;>
    simp only [Layout.top, Layout.base, Layout.extWords, pack, rFmt, sFmt, mFmt, fix, bits, flag, BitVec.toNat_ofBool,
      BitVec.toNat_ofNat, BitVec.ofNat_eq_ofNat, Bool.toNat_false] <;>
    ring_nf

/-! ### The Bobbin decoder -/

/-- The instruction is well formed, and its fields stand in the Bobbin word, which no other word extends. -/
def StandsInBobbin (w : Word) (i : Instr) (x : Bool) : Prop :=
  i.wf = true ∧ x = false ∧ ∃ b, bobbinLayout i = some b ∧ HasFields w 0 b

theorem bCc_cond_ne (r : BccOp) (hwf : (Instr.bCc r).wf = true) : r.cond ≠ 6#3 := by
  have hlt : r.cond.toNat < 6 := of_decide_eq_true hwf
  intro h
  rw [h] at hlt
  exact absurd hlt (by decide)

theorem decodeBobbin_of_bobbinLayout {i : Instr} {b : List Field} (h : bobbinLayout i = some b) (hwf : i.wf = true)
    {w : Word} (hb : HasFields w 0 b) : decodeBobbin w = .ok i false := by
  cases i <;> cases h <;> have hw := hb <;> simp at hw
  case bCc r =>
    simp [hw, hwf, decodeBobbin, single_eq_ok, fld_eq_ofNat, bCc_cond_ne r hwf]
  all_goals simp [hw, hwf, decodeBobbin, single_eq_ok, fld_eq_ofNat, bit_eq_beq]
  all_goals simp [hb.bitsAt_eq, readFields]

theorem gives_bobbinLayout (w : Word) : Gives (decodeBobbin w) (StandsInBobbin w) := by
  rw [decodeBobbin, toNat_fld]
  repeat' split
  any_goals exact gives_illInst _
  all_goals
    simp only [gives_single, fixedBits_cons, fixedBits_nil, Bool.and_true, Bool.and_eq_true, beq_iff_eq]
    intros
    refine ⟨‹_›, rfl, _, rfl, ?_⟩
    simp [toNat_fld, toNat_bit, *]
  all_goals
    simp only [bitsAt] at *
    omega

theorem bobbinLayout_spec {i : Instr} {b : List Field} (h : bobbinLayout i = some b) : width b = 32 := by
  cases i <;> cases h <;> rfl

theorem encode_of_bobbinLayout (c : Bool) {i : Instr} {b : List Field} (h : bobbinLayout i = some b) :
    encode c i = [wordOf (pack b)] := by
  cases i <;> cases h <;> refine congrArg (fun k => [wordOf k]) ?_ <;>
    simp only [pack, brFmt, bmFmt, fix, bits, flag, BitVec.toNat_ofBool, BitVec.toNat_ofNat] <;> ring

/-! ### Both sets -/

/-- The layout of a core instruction, from either table. -/
def HasLayout (i : Instr) (l : Layout) : Prop := computeLayout i = some l ∨ serviceLayout i = some l

/-- The core decoder answers an instruction exactly where it is well formed and its fields stand in the words. -/
theorem decodeCore_eq_ok_iff {w : Word} {n : Option Word} {i : Instr} {x : Bool} :
    decodeCore w n = .ok i x ↔ i.wf = true ∧ ∃ l, HasLayout i l ∧ l.Fits w n x := by
  constructor
  · intro h
    obtain hm | hm := Nat.lt_or_ge (bitsAt w 26 5) 18
    · obtain ⟨hwf, l, hl, hw⟩ := gives_computeLayout w n hm i x h
      exact ⟨hwf, l, .inl hl, hw⟩
    · obtain ⟨hwf, l, hl, hw⟩ := gives_serviceLayout w n hm i x h
      exact ⟨hwf, l, .inr hl, hw⟩
  · rintro ⟨hwf, l, hl | hl, hw⟩
    · exact decodeCore_of_computeLayout hl hwf hw
    · exact decodeCore_of_serviceLayout hl hwf hw

/-- The Bobbin decoder answers an instruction exactly where it is well formed and its fields stand in the word. -/
theorem decodeBobbin_eq_ok_iff {w : Word} {i : Instr} {x : Bool} : decodeBobbin w = .ok i x ↔ StandsInBobbin w i x := by
  constructor
  · exact fun h => gives_bobbinLayout w i x h
  · rintro ⟨hwf, rfl, b, hb, hw⟩
    exact decodeBobbin_of_bobbinLayout hb hwf hw

theorem HasLayout.spec {i : Instr} {l : Layout} (h : HasLayout i l) :
    l.Sized ∧ (Machine.shapeOf i none).alone = l.alone ∧ bobbinLayout i = none :=
  h.elim computeLayout_spec serviceLayout_spec

theorem HasLayout.encode {i : Instr} {l : Layout} (h : HasLayout i l) (c : Bool) : encode c i = l.words c :=
  h.elim (encode_of_computeLayout c) (encode_of_serviceLayout c)

/-- What has words has a layout in one of the three tables. -/
theorem layout_or_encode_isEmpty (i : Instr) (c : Bool) :
    ((computeLayout i).isSome || (serviceLayout i).isSome || (bobbinLayout i).isSome || (encode c i).isEmpty) = true := by
  cases i <;> rfl

theorem exists_hasLayout {i : Instr} {c : Bool} (hc : encode c i ≠ []) (hb : (bobbinLayout i).isSome = false) :
    ∃ l, HasLayout i l := by
  have h := layout_or_encode_isEmpty i c
  rw [hb, List.isEmpty_eq_false_iff.mpr hc, Bool.or_false, Bool.or_false, Bool.or_eq_true, Option.isSome_iff_exists,
    Option.isSome_iff_exists] at h
  exact exists_or.mpr h

/-! ### Words and fields -/

theorem toNat_wordOf {k : Nat} (h : k < 4294967296) : (wordOf k).toNat = k := Nat.mod_eq_of_lt h

theorem hasFields_wordOf {ps : List Field} {t : Nat} (hk : width ps = 31) (ht : t ≤ 1) :
    HasFields (wordOf (t * 0x80000000 + pack ps)) 0 ps := by
  have hp := pack_lt ps
  rw [hk] at hp
  rw [hasFields_iff, hk, bitsAt, toNat_wordOf (by omega)]
  omega

theorem bit_wordOf {ps : List Field} (hk : width ps = 31) : bit (wordOf (1 * 0x80000000 + pack ps)) 31 = true := by
  have hp := pack_lt ps
  rw [hk] at hp
  rw [bit_eq_beq, bitsAt, toNat_wordOf (by omega), beq_iff_eq]
  omega

theorem hasFields_extWord {ps : List Field} (c : Bool) (hk : width ps = 24) :
    HasFields (wordOf (c.toNat * 0x80000000 + 0x7D000000 + pack ps)) 0 ps ∧
      isExt (wordOf (c.toNat * 0x80000000 + 0x7D000000 + pack ps)) = true := by
  have hp := pack_lt ps
  have hc := c.toNat_lt
  rw [hk] at hp
  rw [hasFields_iff, hk, isExt_eq_beq, beq_iff_eq, bitsAt, bitsAt, toNat_wordOf (by omega)]
  omega

/-- The words of a layout fit it. -/
theorem Layout.fits_words {l : Layout} (hl : l.Sized) {c : Bool} {w : Word} {r : List Word} (h : l.words c = w :: r) :
    (r = [] ∧ ∀ n, l.Fits w n false) ∨ ∃ y, r = [y] ∧ l.Fits w (some y) true := by
  have hc := c.toNat_lt
  obtain ⟨rfl, rfl⟩ := List.cons.inj h
  cases l with
  | lone b => exact .inl ⟨rfl, fun _ => ⟨rfl, hasFields_wordOf hl (Nat.zero_le _)⟩⟩
  | one b => exact .inl ⟨rfl, fun _ => ⟨rfl, hasFields_wordOf hl (Nat.le_of_lt_succ hc)⟩⟩
  | two b e =>
    obtain ⟨hb, he⟩ := hl
    obtain ⟨hy, hx⟩ := hasFields_extWord c he
    exact .inr ⟨_, rfl, rfl, hasFields_wordOf hb le_rfl, bit_wordOf hb, rfl, hx, hy⟩

theorem wordOf_top_add_pack {w : Word} {ps : List Field} (hk : width ps = 31) (h : HasFields w 0 ps) :
    wordOf ((bit w 31).toNat * 0x80000000 + pack ps) = w := by
  have hw := w.isLt
  rw [toNat_bit, ← (hasFields_iff w 0 ps).mp h, hk, bitsAt, bitsAt]
  apply BitVec.eq_of_toNat_eq
  rw [toNat_wordOf (by omega)]
  omega

theorem wordOf_pack_eq_and {w : Word} {ps : List Field} (hk : width ps = 31) (h : HasFields w 0 ps) :
    wordOf (0 * 0x80000000 + pack ps) = w &&& 0x7FFFFFFF := by
  have hw := w.isLt
  apply BitVec.eq_of_toNat_eq
  rw [← (hasFields_iff w 0 ps).mp h, hk, bitsAt, toNat_wordOf (by omega), BitVec.toNat_and,
    show (0x7FFFFFFF : Word).toNat = 2 ^ 31 - 1 from rfl, Nat.and_two_pow_sub_one_eq_mod]
  omega

theorem wordOf_extWord {y : Word} {ps : List Field} (hk : width ps = 24) (h : HasFields y 0 ps) (hx : isExt y = true) :
    wordOf ((bit y 31).toNat * 0x80000000 + 0x7D000000 + pack ps) = y := by
  have hy := y.isLt
  rw [isExt_eq_beq, beq_iff_eq, bitsAt] at hx
  rw [toNat_bit, ← (hasFields_iff y 0 ps).mp h, hk, bitsAt, bitsAt]
  apply BitVec.eq_of_toNat_eq
  rw [toNat_wordOf (by omega)]
  omega

/-- Words that fit a layout are its words, with their chain bit. -/
theorem Layout.words_of_fits {l : Layout} (hl : l.Sized) {w : Word} {n : Option Word} {x : Bool} (h : l.Fits w n x)
    (ha : l.alone = false) : ∃ c, l.words c = w :: (if x then n.toList else []) := by
  cases l with
  | lone b => cases ha
  | one b =>
    obtain ⟨rfl, hb⟩ := h
    exact ⟨bit w 31, congrArg (fun v => [v]) (wordOf_top_add_pack hl hb)⟩
  | two b e =>
    obtain ⟨rfl, hb, h31, hn, hx, he⟩ := h
    obtain ⟨y, rfl⟩ := Option.isSome_iff_exists.mp hn
    have hw := wordOf_top_add_pack hl.1 hb
    rw [h31] at hw
    exact ⟨bit y 31, congrArg₂ (fun u v => [u, v]) hw (wordOf_extWord hl.2 he hx)⟩

/-- A word that fits the layout of an instruction that stands alone is that layout's word but for the chain bit. -/
theorem Layout.words_of_fits_alone {l : Layout} (hl : l.Sized) {w : Word} {n : Option Word} {x : Bool} (h : l.Fits w n x)
    (ha : l.alone = true) : x = false ∧ l.words false = [w &&& 0x7FFFFFFF] := by
  cases l with
  | lone b => exact ⟨h.1, congrArg (fun v => [v]) (wordOf_pack_eq_and hl h.2)⟩
  | one b => cases ha
  | two b e => cases ha

theorem hasFields_iff_wordOf {w : Word} {ps : List Field} (hk : width ps = 32) : HasFields w 0 ps ↔ wordOf (pack ps) = w := by
  have hp := pack_lt ps
  have hw := w.isLt
  rw [hk] at hp
  rw [hasFields_iff, hk, bitsAt, ← BitVec.toNat_inj, toNat_wordOf hp]
  omega

/-! ### The words of R40 -/

/-- The fields of a word of R40. -/
def pfxFields (p : Pfx) : List Field :=
  [fix 7 0, flag p.ec, bits p.c4, bits p.round, bits p.policy, flag p.maskn, bits p.maskp, fix 7 124, fix 1 0]

theorem encodePfx_eq (p : Pfx) : encodePfx p = wordOf (pack (pfxFields p)) := by
  refine congrArg wordOf ?_
  simp only [pfxFields, pack, fix, bits, flag, BitVec.toNat_ofBool, BitVec.toNat_ofNat]
  ring

theorem encodePfx_eq_iff {p : Pfx} {w : Word} : encodePfx p = w ↔ HasFields w 0 (pfxFields p) := by
  rw [encodePfx_eq, hasFields_iff_wordOf rfl]

theorem decodePfx_eq_some {w : Word} {p : Pfx} : decodePfx w = some p ↔
    (p.policy ≠ 3 ∧ p.round.toNat ≤ 5 ∧ bitsAt w 0 7 = 0) ∧
      p = ⟨fld w 21 3, bit w 20, fld w 18 2, fld w 15 3, fld w 8 7, bit w 7⟩ := by
  have hround (v : BitVec 3) : v.toNat ≤ 5 ↔ v ≠ 6 ∧ v ≠ 7 := by decide +revert
  rw [decodePfx]
  split_ifs with h
  · refine iff_of_false nofun ?_
    rintro ⟨⟨hpol, hr, h0⟩, rfl⟩
    rw [hround] at hr
    simp_all [bitsAt]
  · simp only [Bool.or_eq_true, beq_iff_eq, bne_iff_ne, not_or, not_not] at h
    rw [Option.some.injEq, eq_comm]
    refine ⟨?_, And.right⟩
    rintro rfl
    rw [hround]
    simp_all [bitsAt]

theorem bitsAt_eq_toNat_iff {w : Word} {lo len : Nat} {v : BitVec len} : bitsAt w lo len = v.toNat ↔ v = fld w lo len := by
  rw [← toNat_fld, BitVec.toNat_inj, eq_comm]

theorem bitsAt_eq_bool_iff {w : Word} {lo : Nat} {b : Bool} : bitsAt w lo 1 = b.toNat ↔ b = bit w lo := by
  rw [← toNat_bit]
  cases b <;> cases bit w lo <;> decide

theorem hasFields_pfx {w : Word} {p : Pfx} : HasFields w 0 (pfxFields p) ↔
    (bitsAt w 0 7 = 0 ∧ isPfx w = true ∧ bit w 31 = false) ∧
      p = ⟨fld w 21 3, bit w 20, fld w 18 2, fld w 15 3, fld w 8 7, bit w 7⟩ := by
  have h31 : bit w 31 = false ↔ bitsAt w 31 1 = 0 := by rw [← toNat_bit, Bool.toNat_eq_zero]
  rw [isPfx_eq_beq, h31]
  obtain ⟨maskp, maskn, policy, round, c4, ec⟩ := p
  simp [pfxFields, bitsAt_eq_toNat_iff, bitsAt_eq_bool_iff]
  tauto

/-! ### The obligation -/

theorem decodeBobbin_encode {i : Instr} {c : Bool} {w : Word} {r : List Word} (hwf : i.wf = true) (h : encode c i = w :: r)
    (hb : (bobbinLayout i).isSome = true) : r = [] ∧ decodeBobbin w = .ok i false := by
  obtain ⟨b, hb⟩ := Option.isSome_iff_exists.mp hb
  rw [encode_of_bobbinLayout c hb] at h
  obtain ⟨rfl, rfl⟩ := List.cons.inj h
  exact ⟨rfl, decodeBobbin_of_bobbinLayout hb hwf ((hasFields_iff_wordOf (bobbinLayout_spec hb)).mpr rfl)⟩

theorem decodeCore_encode {i : Instr} {c : Bool} {w : Word} {r : List Word} (hwf : i.wf = true) (h : encode c i = w :: r)
    (hb : (bobbinLayout i).isSome = false) :
    (r = [] ∧ ∀ n, decodeCore w n = .ok i false) ∨ ∃ y, r = [y] ∧ decodeCore w (some y) = .ok i true := by
  obtain ⟨l, hl⟩ := exists_hasLayout (h ▸ List.cons_ne_nil w r) hb
  rw [hl.encode c] at h
  obtain ⟨hr, hw⟩ | ⟨y, hr, hw⟩ := l.fits_words hl.spec.1 h
  · exact .inl ⟨hr, fun n => decodeCore_eq_ok_iff.mpr ⟨hwf, l, hl, hw n⟩⟩
  · exact .inr ⟨y, hr, decodeCore_eq_ok_iff.mpr ⟨hwf, l, hl, hw⟩⟩

theorem encode_decodeCore {w : Word} {n : Option Word} {i : Instr} {x : Bool} (h : decodeCore w n = .ok i x) :
    i.wf = true ∧ (bobbinLayout i).isSome = false ∧
      ((Machine.shapeOf i none).alone = false → ∃ c, encode c i = w :: (if x then n.toList else [])) ∧
      ((Machine.shapeOf i none).alone = true → x = false ∧ encode false i = [w &&& 0x7FFFFFFF]) := by
  obtain ⟨hwf, l, hl, hw⟩ := decodeCore_eq_ok_iff.mp h
  obtain ⟨hsize, halone, hbob⟩ := hl.spec
  rw [halone, hbob]
  simp only [hl.encode]
  exact ⟨hwf, rfl, l.words_of_fits hsize hw, l.words_of_fits_alone hsize hw⟩

theorem encode_decodeBobbin {w : Word} {i : Instr} {x : Bool} (h : decodeBobbin w = .ok i x) :
    i.wf = true ∧ (bobbinLayout i).isSome = true ∧ ∀ c, encode c i = [w] := by
  obtain ⟨hwf, -, b, hb, hw⟩ := decodeBobbin_eq_ok_iff.mp h
  refine ⟨hwf, by rw [hb]; rfl, fun c => ?_⟩
  rw [encode_of_bobbinLayout c hb, (hasFields_iff_wordOf (bobbinLayout_spec hb)).mp hw]

theorem encode_ne_nil_of_decode {w : Word} {n : Option Word} {i : Instr} {x : Bool}
    (h : decodeCore w n = .ok i x ∨ decodeBobbin w = .ok i x) : encode false i ≠ [] := by
  obtain h | h := h
  · obtain ⟨-, l, hl, -⟩ := decodeCore_eq_ok_iff.mp h
    rw [hl.encode]
    exact List.cons_ne_nil _ _
  · rw [(encode_decodeBobbin h).2.2]
    exact List.cons_ne_nil _ _

/-- Settles O59: both decoders answer exactly the instructions whose fields stand in the words, and the encoder writes
those fields. -/
theorem encodingRoundTrip : Obligations.EncodingRoundTrip := by
  unfold Obligations.EncodingRoundTrip
  intro bob
  have hbob (i) : bob i = (bobbinLayout i).isSome := by cases i <;> rfl
  simp only [hbob]
  refine ⟨fun i c hwf w r h => ⟨decodeBobbin_encode hwf h, decodeCore_encode hwf h⟩, fun w n i x => encode_decodeCore,
    fun w i x => encode_decodeBobbin, fun p hpol hround => ?_, fun w p hpfx h31 hp => ?_, fun i hi w n x => ?_⟩
  · obtain ⟨⟨h0, hpfx, -⟩, hp⟩ := hasFields_pfx.mp (encodePfx_eq_iff.mp (rfl : encodePfx p = _))
    exact ⟨decodePfx_eq_some.mpr ⟨⟨hpol, hround, h0⟩, hp⟩, hpfx⟩
  · obtain ⟨⟨-, -, h0⟩, hp⟩ := decodePfx_eq_some.mp hp
    exact encodePfx_eq_iff.mpr (hasFields_pfx.mpr ⟨⟨h0, hpfx, h31⟩, hp⟩)
  · exact ⟨fun h => encode_ne_nil_of_decode (.inl h) hi, fun h => encode_ne_nil_of_decode (n := n) (.inr h) hi⟩

end Sys2Proof.Encoding
end

section
/-!
PROOFS (O55). The monitor and what the module reports: power-on and its bring-up (R429, R430), the protections and the restart of
a halted partition (R432), attestation (R431), cores that are retired (R29), uncorrectable errors and what is run again (R184,
R375, R376), failed rows (R28) and the releases of frozen masters (R390, R404). Each event's model is a fold over partitions,
cores, teams or ports: the lemmas say what one step of it keeps and what it establishes, and a fold keeps the first
(`foldl_keeps`) and establishes the second (`foldl_establishes`).
-/

namespace Sys2Proof.Monitor
open Sys2Proof Sys2Proof.Machine

/-! ### Folds, and parts by number -/

/-- What the step at one member establishes and every step keeps holds after the fold. -/
theorem foldl_establishes {α β : Type} {P : β → Prop} {f : β → α → β} {l : List α} {a : α} (ha : a ∈ l)
    (keep : ∀ s b, P s → P (f s b)) (make : ∀ s, P (f s a)) (s : β) : P (l.foldl f s) := by
  induction l generalizing s with
  | nil => cases ha
  | cons b r ih =>
    obtain rfl | ha := List.mem_cons.mp ha
    · exact List.foldlRecOn r f (make s) fun t ht c _ => keep t c ht
    · exact ih ha (f s b)

/-- A part of the value at every key that an update leaves alone. -/
theorem nget_nmod_keeps {α β : Type} (q : α → β) {d : α} {f : α → α} (hf : ∀ x, q (f x) = q x) (m : NMap α)
    (k j : Nat) : q (nget (nmod m k d f) j d) = q (nget m j d) := by
  by_cases h : j = k
  · subst h; rw [nget_nmod_same, hf]
  · rw [nget_nmod_ne m k j d f h]

theorem nget_map {α : Type} (m : NMap α) (g : α → α) (k : Nat) {d : α} (hd : g d = d) :
    nget (m.map fun e => (e.1, g e.2)) k d = g (nget m k d) := by
  induction m with
  | nil => exact hd.symm
  | cons e r ih =>
    simp only [List.map_cons, nget, ih]
    split <;> rfl

theorem nget_filter {α : Type} (m : NMap α) (q : Nat → Bool) (k : Nat) (d : α) :
    nget (m.filter fun e => q e.1) k d = if q k then nget m k d else d := by
  induction m with
  | nil => simp [nget]
  | cons e r ih =>
    obtain ⟨j, v⟩ := e
    by_cases hj : j = k
    · subst hj
      cases hq : q j <;> simp [nget, hq, ih]
    · cases hq : q j <;> simp [nget, hq, ih, hj]

theorem mem_of_nget_ne {α : Type} {m : NMap α} {k : Nat} {d : α} (h : nget m k d ≠ d) : (k, nget m k d) ∈ m := by
  induction m with
  | nil => exact absurd rfl h
  | cons e r ih =>
    obtain ⟨j, v⟩ := e
    by_cases hj : j = k
    · subst hj; simp [nget]
    · simp only [nget, if_neg hj] at h ⊢
      exact List.mem_cons_of_mem _ (ih h)

/-! ### What a drain leaves alone (R404) -/

/-- The user queues and the partitions. -/
def hostSide (s : State) : NMap Queue × NMap Part := (s.queues, s.parts)

theorem hostSide_ite {s t u : State} {c : Prop} [Decidable c] (ht : hostSide t = hostSide s) (hu : hostSide u = hostSide s) :
    hostSide (if c then t else u) = hostSide s := by
  split
  · exact ht
  · exact hu

@[simp] theorem hostSide_fillLlc (s : State) (q : Nat) : hostSide (s.fillLlc q) = hostSide s := by
  unfold State.fillLlc; split <;> rfl

@[simp] theorem hostSide_fillHome (s : State) (q : Nat) : hostSide (s.fillHome q) = hostSide s := by
  unfold State.fillHome
  split
  · rfl
  · exact hostSide_fillLlc s q

@[simp] theorem hostSide_fillDie (s : State) (d q : Nat) : hostSide (s.fillDie d q) = hostSide s := by
  unfold State.fillDie
  split
  · rfl
  · dsimp only
    split <;> exact hostSide_fillHome s q

@[simp] theorem hostSide_cleanLlc (s : State) (q : Nat) : hostSide (s.cleanLlc q) = hostSide s := by
  unfold State.cleanLlc
  split
  · split <;> rfl
  · rfl

@[simp] theorem hostSide_cleanHome (s : State) (q : Nat) : hostSide (s.cleanHome q) = hostSide s := by
  unfold State.cleanHome
  dsimp only
  split
  · split
    · rfl
    · exact hostSide_fillLlc s q
  · rfl

@[simp] theorem hostSide_cleanRemote (s : State) (d q : Nat) : hostSide (s.cleanRemote d q) = hostSide s := by
  unfold State.cleanRemote
  split
  · rfl
  · split
    · split
      · rfl
      · exact hostSide_fillHome s q
    · rfl

@[simp] theorem hostSide_cleanL1 (s : State) (c q : Nat) : hostSide (s.cleanL1 c q) = hostSide s := by
  unfold State.cleanL1
  split
  · split
    · rfl
    · exact hostSide_fillDie s (dieOfCore c) q
  · rfl

@[simp] theorem hostSide_dropL1 (s : State) (c q : Nat) : hostSide (s.dropL1 c q) = hostSide s := rfl

@[simp] theorem hostSide_dropRemote (s : State) (d q : Nat) : hostSide (s.dropRemote d q) = hostSide s := by
  unfold State.dropRemote; split <;> rfl

@[simp] theorem hostSide_surrender (s : State) (c pa n : Nat) : hostSide (s.surrender c pa n) = hostSide s := by
  unfold State.surrender
  split
  · exact foldl_keeps hostSide _ (fun s p => by simp) _ _
  · rfl

@[simp] theorem hostSide_bobbinWrite (s : State) (pa : Nat) (bs : List Byte) : hostSide (s.bobbinWrite pa bs) = hostSide s := by
  unfold State.bobbinWrite
  refine foldl_keeps_fst hostSide _ (fun x p => ?_) _ _
  refine (hostSide_fillHome _ p.1).trans ?_
  exact (hostSide_cleanLlc _ _).trans (hostSide_cleanHome _ _)

theorem hostSide_performDraw (s : State) (c asid : Nat) (d : Draw) : hostSide (s.performDraw c asid d).1 = hostSide s := by
  unfold State.performDraw
  split
  · rfl
  · dsimp only
    split
    · rfl
    · calc hostSide ((s.surrender c d.pa 32).drawStep d.pa).1
          = hostSide (s.surrender c d.pa 32) := hostSide_bobbinWrite _ _ _
        _ = hostSide s := hostSide_surrender s c d.pa 32

theorem hostSide_startUnit (s : State) (u : UnitKey) (a c k l g : Nat) : hostSide (s.startUnit u a c k l g) = hostSide s := by
  unfold State.startUnit
  split
  · rfl
  · split <;> rfl

theorem hostSide_beginChunk (s : State) (c asid : Nat) (w : Who) (x : Chunk) : hostSide (s.beginChunk c asid w x) = hostSide s := by
  unfold State.beginChunk
  extract_lets ch t u k
  have ht : hostSide t = hostSide s := by
    unfold t
    split <;> rfl
  generalize u = v
  split
  · exact (hostSide_startUnit _ _ _ _ _ _ _).trans ht
  · exact ht

theorem hostSide_evChunkDraw (k : Nat) (s : State) : hostSide ((evChunkDraw k s).getD s) = hostSide s := by
  unfold evChunkDraw
  split
  · rfl
  · next d _ =>
    dsimp only
    split
    · rfl
    · rw [Option.getD_some]
      have hd := hostSide_performDraw s (s.coreOfWho d.who) (s.part (partOfCore (s.coreOfWho d.who))).asid d
      split
      · refine (foldl_keeps hostSide _ (fun s i => ?_) _ _).trans hd
        split
        · exact hostSide_beginChunk _ _ _ _ _
        · rfl
      · exact hostSide_ite (hostSide_ite hd ((hostSide_beginChunk _ _ _ _ _).trans hd)) hd
      · exact hd

theorem hostSide_eachLane (s : State) (f : Nat → Thread → Thread) : hostSide (s.eachLane f) = hostSide s := by
  unfold State.eachLane; split <;> rfl

theorem hostSide_fpu (s : State) (d : BitVec 7) (f : Nat → Nat × BitVec 5) : hostSide (s.fpu d f) = hostSide s := by
  unfold State.fpu State.raise
  split <;> exact hostSide_eachLane _ _

theorem hostSide_put64 (s : State) (l d : Nat) (v : Dword) : hostSide (s.put64 l d v) = hostSide s := by
  unfold State.put64
  split
  · unfold State.lane; split <;> rfl
  · rfl
  · rfl

theorem hostSide_runWptr (r : WptrOp) (s : State) : hostSide (runWptr r s) = hostSide s := by
  refine foldl_keeps hostSide _ (fun s l => ?_) _ _
  exact hostSide_put64 _ _ _ _

/-- An instruction whose result arrives late writes lanes' registers and flags, or passes a write pointer on. -/
theorem hostSide_pureRun (i : Instr) (s : State) : hostSide (pureRun i s) = hostSide s := by
  unfold pureRun
  split
  any_goals exact hostSide_eachLane s _
  any_goals exact hostSide_fpu s _ _
  · exact hostSide_runWptr _ s
  · rfl

theorem hostSide_applyFill (s : State) (f : Fill) : hostSide (s.applyFill f) = hostSide s := by
  unfold State.applyFill
  split
  · rfl
  · split
    · rfl
    · rfl
    · exact hostSide_pureRun _ _
    · rfl
    · rfl

theorem hostSide_drain (s : State) (p : Nat) : hostSide (s.drain p) = hostSide s := by
  unfold State.drain
  dsimp only
  refine (foldl_keeps hostSide _ hostSide_applyFill _ _).trans ?_
  refine (foldl_keeps hostSide _ (fun s _ => ?_) _ s : hostSide _ = _)
  split
  · exact hostSide_evChunkDraw _ _
  · rfl

/-! ### Protections (R432) -/

/-- One partition's halt by the monitor: open, it halts with no runner. -/
def haltOpen (s : State) (p : Nat) : State :=
  if (s.part p).opened then (s.halt p none).modPart p fun x => { x with runner := none } else s

theorem haltAll_eq (s : State) (n : Nat) :
    s.haltAll n = ({ (List.range 8).foldl haltOpen s with hotHalt := true } : State).report n := rfl

theorem queues_of_hostSide {s t : State} (h : hostSide t = hostSide s) : t.queues = s.queues := congrArg Prod.fst h

theorem part_of_hostSide {s t : State} (h : hostSide t = hostSide s) (p : Nat) : t.part p = s.part p := by
  have hp : t.parts = s.parts := congrArg Prod.snd h
  rw [State.part, State.part, hp]

theorem halt_of_halted {s : State} {p : Nat} (h : (s.part p).halted = true) : s.halt p none = s := if_pos h

theorem hostSide_halt {s : State} {p : Nat} (h : (s.part p).halted = false) :
    hostSide (s.halt p none) = hostSide (s.modPart p fun x => { x with halted := true, runner := none }) := by
  unfold State.halt
  rw [if_neg (by simp [h])]
  exact congrArg (Prod.map id (nmod · p Part.closed fun x => { x with halted := true, runner := none })) (hostSide_drain s p)

theorem halt_queues (s : State) (p : Nat) : (s.halt p none).queues = s.queues := by
  cases hh : (s.part p).halted
  · rw [queues_of_hostSide (hostSide_halt hh), State.modPart_queues]
  · rw [halt_of_halted hh]

theorem halt_part_ne {s : State} {p q : Nat} (hq : q ≠ p) : (s.halt p none).part q = s.part q := by
  cases hh : (s.part p).halted
  · rw [part_of_hostSide (hostSide_halt hh), State.modPart_part_ne _ _ _ _ hq]
  · rw [halt_of_halted hh]

theorem halt_part_same (s : State) (p : Nat) :
    { (s.halt p none).part p with runner := none } = { s.part p with halted := true, runner := none } := by
  cases hh : (s.part p).halted
  · rw [part_of_hostSide (hostSide_halt hh), State.modPart_part_same]
  · rw [halt_of_halted hh, ← hh]

theorem haltOpen_queues (s : State) (p : Nat) : (haltOpen s p).queues = s.queues := by
  unfold haltOpen
  split
  · exact halt_queues s p
  · rfl

theorem haltOpen_part (s : State) (p q : Nat) : (haltOpen s p).part q =
    if q = p ∧ (s.part p).opened = true then { s.part p with halted := true, runner := none } else s.part q := by
  unfold haltOpen
  by_cases ho : (s.part p).opened = true
  · by_cases hq : q = p
    · subst hq
      rw [if_pos ho, State.modPart_part_same, if_pos ⟨rfl, ho⟩, halt_part_same]
    · rw [if_pos ho, State.modPart_part_ne _ _ _ _ hq, halt_part_ne hq, if_neg (by simp [hq])]
  · rw [if_neg ho, if_neg (by simp [ho])]

theorem haltOpen_opened (s : State) (p q : Nat) : ((haltOpen s p).part q).opened = (s.part q).opened := by
  rw [haltOpen_part]
  split
  · next h => rw [h.1]
  · rfl

/-- Every open partition of the list halts, with no runner; no other one changes. -/
theorem haltOpens_part (s : State) (l : List Nat) (p : Nat) : let t := l.foldl haltOpen s
    (t.part p).opened = (s.part p).opened ∧
    (p ∈ l → (s.part p).opened = true → (t.part p).halted = true ∧ (t.part p).runner = none) ∧
    ((s.part p).opened = false → t.part p = s.part p) := by
  have hopen := foldl_keeps (fun s => (s.part p).opened) haltOpen (haltOpen_opened · · p) l s
  refine ⟨hopen, fun hp ho => ?_, fun hc => ?_⟩
  · refine foldl_establishes (P := fun t => (t.part p).opened = true → (t.part p).halted = true ∧ (t.part p).runner = none)
      hp (fun t q ht => ?_) (fun t => ?_) s (hopen.trans ho)
    · rw [haltOpen_part]
      split
      · exact fun _ => ⟨rfl, rfl⟩
      · exact ht
    · rw [haltOpen_part]
      intro h
      split at h
      · next hc => rw [if_pos hc]; exact ⟨rfl, rfl⟩
      · next hc => exact absurd ⟨rfl, h⟩ hc
  · refine List.foldlRecOn l haltOpen (motive := fun t => t.part p = s.part p) rfl fun t ht q _ => ?_
    rw [haltOpen_part, if_neg, ht]
    rintro ⟨rfl, h⟩
    rw [ht, hc] at h
    cases h

theorem haltAll_acts (s : State) (n : Nat) : let t := s.haltAll n
    t.hotHalt = true ∧ t.reports.getLast? = some n ∧ t.queues = s.queues ∧
    ∀ p, p < 8 → (t.part p).opened = (s.part p).opened ∧ ((s.part p).opened = true → (t.part p).halted = true ∧
      (t.part p).runner = none) ∧ ((s.part p).opened = false → t.part p = s.part p) := by
  have hq := foldl_keeps State.queues haltOpen haltOpen_queues (List.range 8) s
  have hp := haltOpens_part s (List.range 8)
  rw [haltAll_eq]
  generalize (List.range 8).foldl haltOpen s = u at hq hp
  refine ⟨rfl, List.getLast?_concat, hq, fun p h8 => ?_⟩
  obtain ⟨ho, hh, hc⟩ := hp p
  exact ⟨ho, hh (List.mem_range.mpr h8), hc⟩

theorem partitionRestart_acts (s : State) (p : Nat) :
    ((s.part p).opened = false ∨ (s.part p).halted = false ∨ (s.part p).runner ≠ none → evPartitionRestart p s = none) ∧
    ((s.part p).opened = true → (s.part p).halted = true → (s.part p).runner = none → ∃ t, evPartitionRestart p s = some t ∧
      (t.part p).halted = false ∧ (t.part p).opened = true ∧ (∀ q, q ≠ p → t.part q = s.part q) ∧
      (t.hotHalt = true ↔ s.hotHalt = true ∧ ∃ q, q < 8 ∧ q ≠ p ∧ (s.part q).halted = true)) := by
  constructor
  · intro h
    unfold evPartitionRestart
    rw [if_neg]
    rw [Bool.and_eq_true, Bool.and_eq_true, Option.isNone_iff_eq_none]
    rintro ⟨⟨ho, hh⟩, hr⟩
    rw [ho, hh, hr] at h
    simp at h
  · intro ho hh hr
    have hrun : s.runPart p = (s.reAcq p).modPart p fun x => { x with halted := false, runner := none } := if_pos hh
    have hsame : (s.runPart p).part p = { s.part p with halted := false, runner := none } := by
      rw [hrun]; exact State.modPart_part_same _ _ _
    have hne (q : Nat) (hq : q ≠ p) : (s.runPart p).part q = s.part q := by
      rw [hrun]; exact State.modPart_part_ne _ _ _ _ hq
    have hhot : (s.runPart p).hotHalt = s.hotHalt := by rw [hrun]; rfl
    refine ⟨_, if_pos (by rw [ho, hh, hr]; rfl), ?_, ?_, hne, ?_⟩
    · exact congrArg Part.halted hsame
    · exact (congrArg Part.opened hsame).trans ho
    · rw [Bool.and_eq_true, hhot, List.any_eq_true]
      refine and_congr_right fun _ => exists_congr fun q => ?_
      rw [List.mem_range]
      by_cases hq : q = p
      · subst hq; simp [hsame]
      · simp [hne q hq, hq]

/-! ### Attestation (R431) -/

/-- The supervisor image that slot 3 of a listed core holds, where its partition is open. -/
def HoldsImage (s : State) (e : Nat × Core) (b : List Byte) : Prop :=
  ∃ r, nfind e.2.slots 3 = some r ∧ (s.part (partOfCore e.1)).opened = true ∧ b = mread e.2.imem 196608 r.len

/-- A listed core's image joins those of the cores before it, once. -/
def addImage (s : State) (l : List (List Byte)) (e : Nat × Core) : List (List Byte) :=
  match nfind e.2.slots 3 with
  | some r =>
    let b := mread e.2.imem 196608 r.len
    if (s.part (partOfCore e.1)).opened && !l.contains b then l ++ [b] else l
  | none => l

theorem addImage_spec (s : State) (l : List (List Byte)) (e : Nat × Core) :
    (l.Nodup → (addImage s l e).Nodup) ∧ ∀ b, b ∈ addImage s l e ↔ b ∈ l ∨ HoldsImage s e b := by
  unfold addImage HoldsImage
  split
  · next r hr =>
    dsimp only
    split
    · next h =>
      simp only [Bool.and_eq_true, Bool.not_eq_true', List.contains_eq_mem, decide_eq_false_iff_not] at h
      refine ⟨fun hl => ?_, fun b => ?_⟩
      · refine List.nodup_append.mpr ⟨hl, List.nodup_singleton _, ?_⟩
        rintro a ha _ hb rfl
        exact h.2 (List.mem_singleton.mp hb ▸ ha)
      · simp [hr, h.1]
    · next h =>
      refine ⟨id, fun b => ⟨Or.inl, ?_⟩⟩
      rintro (hb | ⟨_, hr', ho, rfl⟩)
      · exact hb
      · cases hr.symm.trans hr'
        simpa [ho] using h
  · next hr => simp [hr]

theorem supImages_spec (s : State) : s.supImages.Nodup ∧ ∀ b, b ∈ s.supImages ↔ ∃ e ∈ s.cores, HoldsImage s e b := by
  have key (es : List (Nat × Core)) (l : List (List Byte)) (hl : l.Nodup) : (es.foldl (addImage s) l).Nodup ∧
      ∀ b, b ∈ es.foldl (addImage s) l ↔ b ∈ l ∨ ∃ e ∈ es, HoldsImage s e b := by
    induction es generalizing l with
    | nil => simpa using hl
    | cons e r ih =>
      obtain ⟨hnodup, hmem⟩ := addImage_spec s l e
      obtain ⟨h1, h2⟩ := ih _ (hnodup hl)
      exact ⟨h1, fun b => by rw [List.foldl_cons, h2, hmem, List.exists_mem_cons_iff, or_assoc]⟩
  obtain ⟨h1, h2⟩ := key s.cores [] List.nodup_nil
  exact ⟨h1, fun b => (h2 b).trans (by simp)⟩

/-- A mask summed bit by bit. -/
theorem foldl_add_eq_sum (c : Nat → Bool) (g : Nat → Nat) (l : List Nat) (n : Nat) :
    l.foldl (fun m p => if c p then m + g p else m) n = n + (l.map fun p => if c p then g p else 0).sum := by
  induction l generalizing n with
  | nil => rfl
  | cons p r ih =>
    rw [List.foldl_cons, ih, List.map_cons, List.sum_cons]
    split <;> omega

theorem reportBody_eq (s : State) (nonce : List Byte) : s.reportBody nonce =
    Config.shake256 s.monitorImg ++ s.supImages.flatMap Config.shake256 ++
      Config.fusedHash ++ [if s.idePolicy then 1 else 0] ++ leBytes 8 s.exSize ++
      [BitVec.ofNat 8 (((List.range 8).map fun p => if (s.part p).opened then 2 ^ p else 0).sum)] ++ nonce := by
  unfold State.reportBody
  rw [foldl_add_eq_sum (fun p => (s.part p).opened), Nat.zero_add]
  rfl

/-! ### Teams that are taken off their core (R29, R375) -/

/-- What ending a team leaves alone: the cycles each core has counted, the quarters of each die whose spare is in use, the nodes,
the grids and the order of the pool. -/
def kept (s : State) : (Nat → Nat) × (Nat → List Nat) × List Node × List Grid × Nat :=
  (fun c => (s.core c).cycles, fun d => (s.die d).spares, s.nodes, s.grids, s.poolSeq)

theorem kept_modCore (s : State) (c : Nat) (f : Core → Core) (hf : ∀ x, (f x).cycles = x.cycles) :
    kept (s.modCore c f) = kept s :=
  Prod.ext (funext fun j => nget_nmod_keeps Core.cycles hf s.cores c j) rfl

theorem kept_modShuttle (s : State) (c : Nat) (f : Shuttle → Shuttle) : kept (s.modShuttle c f) = kept s :=
  kept_modCore s c _ fun _ => rfl

theorem kept_modDie (s : State) (d : Nat) (f : Die → Die) (hf : ∀ x, (f x).spares = x.spares) :
    kept (s.modDie d f) = kept s :=
  Prod.ext rfl (Prod.ext (funext fun j => nget_nmod_keeps Die.spares hf s.dies d j) rfl)

theorem kept_lastExit (s : State) (k : Nat) : kept (s.lastExit k) = kept s := by
  unfold State.lastExit
  extract_lets c mine s1 s2 s3 s4 s5
  have h2 : kept s2 = kept s := kept_modCore s1 c (fun x => { x with
    gusset := x.gusset.filter fun e => e.team != k, greqs := x.greqs.filter fun r => r.team != k }) fun _ => rfl
  have h3 : kept s3 = kept s := Eq.trans (kept_modDie s2 (dieOfCore c)
    (fun d => { d with pins := d.pins.filter fun p => p.team != k }) fun _ => rfl) h2
  split
  · exact (kept_modShuttle s5 c _).trans h3
  · exact h3

theorem lastExit_teams (s : State) (k : Nat) :
    (s.lastExit k).teams = (s.modTeam k fun t => { t with queues := [], dq := [], pat := none }).teams := by
  unfold State.lastExit
  extract_lets c mine s1 s2 s3 s4 s5
  have h4 : s4.teams = s1.teams := rfl
  split
  · exact (State.modCore_teams s5 c _).trans h4
  · exact h4

theorem lastExit_team_ne (s : State) {k j : Nat} (h : j ≠ k) : (s.lastExit k).team j = s.team j := by
  rw [State.team, lastExit_teams]
  exact State.modTeam_team_ne s k j _ h

theorem lastExit_team_same (s : State) (k : Nat) :
    (s.lastExit k).team k = { s.team k with queues := [], dq := [], pat := none } := by
  rw [State.team, lastExit_teams]
  exact State.modTeam_team_same s k _

/-- The engine that ran a record which is taken out of the queue is free. -/
def freeEngine (s : State) (r : Rec) : State :=
  if r.started then s.modCluster r.cluster fun x => x.modEngine r.engine fun e => { e with busy := none, scale := [] } else s

theorem kept_freeEngine (s : State) (r : Rec) : kept (freeEngine s r) = kept s := by
  unfold freeEngine; split <;> rfl

theorem freeEngine_teams (s : State) (r : Rec) : (freeEngine s r).teams = s.teams := by
  unfold freeEngine; split <;> rfl

theorem kept_killTeam (s : State) (k : Nat) : kept (s.killTeam k) = kept s := by
  unfold State.killTeam
  extract_lets c sh mine dead s1 s2 s3 det s4 s5
  have h1 : kept s1 = kept s := foldl_keeps kept freeEngine kept_freeEngine dead s
  have h3 : kept s3 = kept s := (kept_lastExit _ k).trans h1
  split
  · exact (kept_modShuttle s5 c _).trans h3
  · exact h3

theorem killTeam_team_same (s : State) (k : Nat) : (s.killTeam k).team k = Team.free := by
  unfold State.killTeam
  extract_lets c sh mine dead s1 s2 s3 det s4 s5
  have h5 : s5.team k = Team.free := State.modTeam_team_same s4 k _
  split <;> exact h5

theorem killTeam_team_ne (s : State) {k j : Nat} (h : j ≠ k) : (s.killTeam k).team j = s.team j := by
  unfold State.killTeam
  extract_lets c sh mine dead s1 s2 s3 det s4 s5
  have h1 : s1.teams = s.teams := foldl_keeps State.teams freeEngine freeEngine_teams dead s
  have h2 : s2.team j = s.team j := congrArg (nget · j Team.free) h1
  have h3 : s3.team j = s2.team j := (lastExit_team_ne _ h).trans (State.modTeam_team_ne s2 k j _ h)
  have h5 : s5.team j = s.team j := (State.modTeam_team_ne s4 k j _ h).trans (h3.trans h2)
  split <;> exact h5

/-- No team stands in the slot. -/
def Vacant (k : Nat) (s : State) : Prop := (s.team k).live = false

theorem vacant_killTeam (s : State) (k : Nat) : Vacant k (s.killTeam k) := congrArg Team.live (killTeam_team_same s k)

theorem vacant_killTeam_of_vacant {s : State} {j : Nat} (k : Nat) (h : Vacant j s) : Vacant j (s.killTeam k) := by
  by_cases hj : j = k
  · subst hj; exact vacant_killTeam s j
  · exact (congrArg Team.live (killTeam_team_ne s hj)).trans h

theorem kept_killTeams (ks : List Nat) (s : State) : kept (ks.foldl State.killTeam s) = kept s :=
  foldl_keeps kept State.killTeam kept_killTeam ks s

theorem vacant_killTeams {ks : List Nat} {k : Nat} (hk : k ∈ ks) (s : State) : Vacant k (ks.foldl State.killTeam s) :=
  foldl_establishes hk (fun _ j h => vacant_killTeam_of_vacant j h) (fun s => vacant_killTeam s k) s

theorem vacant_killTeams_of_vacant {s : State} {k : Nat} (h : Vacant k s) (ks : List Nat) : Vacant k (ks.foldl State.killTeam s) :=
  List.foldlRecOn ks State.killTeam h fun _ ht j _ => vacant_killTeam_of_vacant j ht

/-! ### Grids, nodes and packets that end or are run again (R375) -/

theorem abortNode_eq (s : State) (id : Nat) : ∃ N Q, s.abortNode id = { s with nodes := N, queues := Q } := by
  unfold State.abortNode
  split
  · unfold State.failNode
    dsimp only
    split <;> exact ⟨_, _, rfl⟩
  · exact ⟨_, _, rfl⟩

theorem abortPacket_eq (s : State) (pkt : Nat) : ∃ P Q, s.abortPacket pkt = { s with packets := P, queues := Q } := by
  unfold State.abortPacket
  split <;> exact ⟨_, _, rfl⟩

theorem abortGrid_eq (s : State) (g : Grid) : ∃ N Q P G, s.abortGrid g =
    { (s.gridTeams g.id).foldl State.killTeam s with nodes := N, queues := Q, packets := P, grids := G } := by
  unfold State.abortGrid
  extract_lets u v
  split
  · next n _ =>
    obtain ⟨N, Q, h⟩ := abortNode_eq v n
    exact ⟨N, Q, _, _, h⟩
  · obtain ⟨P, Q, h⟩ := abortPacket_eq v g.pkt
    rw [h]
    exact ⟨_, Q, _, _, rfl⟩

/-- A grid as it stands once it is run again whole. -/
def Grid.Again (g : Grid) : Prop :=
  g.started = [] ∧ g.ended = [] ∧ g.running = 0 ∧ g.todo = dealBlocks (partsOf g.pmask.toNat) (descBlocks g.desc)

theorem mem_gridTeams {s : State} {k g : Nat} (hl : (s.team k).live = true) (hg : (s.team k).grid = g) : k ∈ s.gridTeams g := by
  have hne : s.team k ≠ Team.free := fun h => by rw [h] at hl; cases hl
  refine List.mem_map.mpr ⟨(k, s.team k), List.mem_filter.mpr ⟨mem_of_nget_ne hne, ?_⟩, rfl⟩
  simp [hl, hg]

/-- A live team that fails is taken off its core, alone or with the other teams of its grid; besides, units are discarded, and
what became of the grid is noted. -/
theorem failTeam_eq {s : State} {k : Nat} (hl : (s.team k).live = true) : ∃ ks : List Nat, k ∈ ks ∧ ∃ D N Q P G, s.failTeam k =
    { ks.foldl State.killTeam s with det := D, nodes := N, queues := Q, packets := P, grids := G } := by
  unfold State.failTeam
  extract_lets t
  rw [if_neg (by simp [t, hl])]
  split
  · exact ⟨[k], List.mem_singleton_self k, _, _, _, _, _, rfl⟩
  · next g hg =>
    have hid : g.id = (s.team k).grid := by simpa using List.find?_some hg
    have hmem : k ∈ s.gridTeams g.id := mem_gridTeams hl hid.symm
    split
    · exact ⟨[k], List.mem_singleton_self k, _, _, _, _, _, rfl⟩
    · refine ⟨s.gridTeams g.id, hmem, ?_⟩
      extract_lets again
      split
      · exact ⟨_, _, _, _, _, rfl⟩
      · obtain ⟨N, Q, P, G, h⟩ := abortGrid_eq s g
        exact ⟨_, N, Q, P, G, h⟩

theorem vacant_failTeam (s : State) (k : Nat) : Vacant k (s.failTeam k) := by
  by_cases hl : (s.team k).live = true
  · obtain ⟨ks, hk, D, N, Q, P, G, h⟩ := failTeam_eq hl
    rw [h]
    exact vacant_killTeams hk s
  · rw [State.failTeam, if_pos (by simp [hl])]
    exact (Bool.not_eq_true _).mp hl

/-- The cycles of the cores and the spares of the dies. -/
def inService (s : State) : (Nat → Nat) × (Nat → List Nat) := (fun c => (s.core c).cycles, fun d => (s.die d).spares)

theorem inService_of_kept {s t : State} (h : kept t = kept s) : inService t = inService s :=
  Prod.ext (congrArg (·.1) h) (congrArg (·.2.1) h)

theorem failTeam_keeps (s : State) (k : Nat) :
    inService (s.failTeam k) = inService s ∧ ∀ j, Vacant j s → Vacant j (s.failTeam k) := by
  by_cases hl : (s.team k).live = true
  · obtain ⟨ks, -, D, N, Q, P, G, h⟩ := failTeam_eq hl
    have hsrv := inService_of_kept (kept_killTeams ks s)
    rw [h]
    exact ⟨hsrv, fun j hj => vacant_killTeams_of_vacant hj ks⟩
  · rw [State.failTeam, if_pos (by simp [hl])]
    exact ⟨rfl, fun _ => id⟩

theorem exists_foldl_freeEngine (rs : List Rec) (s : State) : ∃ C, rs.foldl freeEngine s = { s with clusters := C } := by
  induction rs generalizing s with
  | nil => exact ⟨_, rfl⟩
  | cons r rs ih =>
    obtain ⟨C, hC⟩ := ih (freeEngine s r)
    refine ⟨C, hC.trans ?_⟩
    unfold freeEngine
    split <;> rfl

theorem failTile_eq (s : State) (n : Node) : ∃ C R D N Q p, s.failTile n =
    { s with clusters := C, records := R, det := D, nodes := N, queues := Q, poolSeq := p } := by
  unfold State.failTile
  extract_lets det dead s1 s2 s3 s4
  obtain ⟨C, hC⟩ : ∃ C, s1 = { s with clusters := C } := exists_foldl_freeEngine dead s
  have h2 : s2 = { s with clusters := C, records := s1.records.filter fun r => r.node != some n.id } := by
    unfold s2; rw [hC]
  clear_value s2
  subst h2
  split
  · exact ⟨_, _, _, _, _, _, rfl⟩
  · obtain ⟨N, Q, h⟩ := abortNode_eq { s with clusters := C, records := s1.records.filter fun r => r.node != some n.id } n.id
    exact ⟨_, _, _, N, Q, _, h⟩

/-- The units that ran on a core end: no team stands on it, and its cycles and the spares in use are as they were. -/
theorem failUnits_spec (s : State) (c : Nat) : inService (s.failUnits c) = inService s ∧
    ∀ j, j < 8 → Vacant (8 * c + j) (s.failUnits c) := by
  unfold State.failUnits
  extract_lets cl onEngine ks u ns
  have htile (t : State) (n : Node) : inService (t.failTile n) = inService t ∧ ∀ k, Vacant k t → Vacant k (t.failTile n) := by
    obtain ⟨C, R, D, N, Q, p, h⟩ := failTile_eq t n
    rw [h]
    exact ⟨rfl, fun _ => id⟩
  refine ⟨?_, fun j hj => ?_⟩
  · exact (foldl_keeps inService _ (fun t n => (htile t n).1) ns u).trans
      (foldl_keeps inService _ (fun t k => (failTeam_keeps t k).1) ks s)
  · refine List.foldlRecOn ns _ ?_ fun t ht n _ => (htile t n).2 _ ht
    by_cases hl : (s.team (8 * c + j)).live = true
    · have hne : s.team (8 * c + j) ≠ Team.free := fun h => by rw [h] at hl; cases hl
      have hc : coreOfTeam (8 * c + j) = c := by unfold coreOfTeam; omega
      have hk : 8 * c + j ∈ ks :=
        List.mem_map.mpr ⟨(8 * c + j, s.team (8 * c + j)), List.mem_filter.mpr ⟨mem_of_nget_ne hne, by simp [hl, hc]⟩, rfl⟩
      exact foldl_establishes hk (fun t k => (failTeam_keeps t k).2 _) (vacant_failTeam · _) s
    · exact List.foldlRecOn ks _ ((Bool.not_eq_true _).mp hl : Vacant _ s) fun t ht k _ => (failTeam_keeps t k).2 _ ht

/-! ### A core that is retired (R29) -/

/-- The quarter's spare, where it is free, is taken. -/
def takeSpare (s : State) (d quarter : Nat) : State :=
  if !(s.die d).spares.contains quarter then s.modDie d fun x => { x with spares := x.spares ++ [quarter] } else s

theorem takeSpare_core (s : State) (d q c : Nat) : (takeSpare s d q).core c = s.core c := by
  unfold takeSpare; split <;> rfl

theorem takeSpare_team (s : State) (d q k : Nat) : (takeSpare s d q).team k = s.team k := by
  unfold takeSpare; split <;> rfl

theorem takeSpare_mem (s : State) (d q : Nat) : q ∈ ((takeSpare s d q).die d).spares := by
  unfold takeSpare
  split
  · simp
  · next h => simpa using h

theorem takeSpare_die_ne (s : State) {d e : Nat} (q : Nat) (h : e ≠ d) : (takeSpare s d q).die e = s.die e := by
  unfold takeSpare
  split
  · exact State.modDie_die_ne _ _ _ _ h
  · rfl

/-- A retired core keeps nothing but its count of cycles. -/
def retire (spare : Bool) (k : Core) : Core := { Core.fresh with enabled := false, spareNext := spare, cycles := k.cycles }

theorem coreRetirement_refused {s : State} {c : Nat} (h : 256 ≤ c ∨ (s.core c).enabled = false) :
    evCoreRetirement c s = none := by
  refine if_pos ?_
  rw [Bool.or_eq_true, decide_eq_true_eq]
  exact h.imp id fun h => by rw [h]; rfl

theorem coreRetirement_eq {s : State} {c : Nat} (hc : c < 256) (he : (s.core c).enabled = true) :
    evCoreRetirement c s = some (((takeSpare (s.failUnits c) (dieOfCore c) (c % 64 / 16)).modCore c
      (retire !((s.failUnits c).die (dieOfCore c)).spares.contains (c % 64 / 16))).report (4000000 + c)) :=
  if_neg (by simp [he, Config.cores, hc])

theorem coreRetirement_acts {s : State} {c : Nat} (hc : c < 256) (he : (s.core c).enabled = true) :
    ∃ t, evCoreRetirement c s = some t ∧ t.reports.getLast? = some (4000000 + c) ∧
      (let free := decide (c % 64 / 16 ∉ (s.die (dieOfCore c)).spares)
       t.core c = { Core.fresh with enabled := false, spareNext := free, cycles := (s.core c).cycles } ∧
       (c % 64 / 16) ∈ (t.die (dieOfCore c)).spares ∧ ∀ d, d ≠ dieOfCore c → (t.die d).spares = (s.die d).spares) ∧
      ∀ j, j < 8 → (t.team (8 * c + j)).live = false := by
  obtain ⟨hsrv, hteams⟩ := failUnits_spec s c
  have hcyc : ((s.failUnits c).core c).cycles = (s.core c).cycles := congrFun (congrArg Prod.fst hsrv) c
  have hspr (d : Nat) : ((s.failUnits c).die d).spares = (s.die d).spares := congrFun (congrArg Prod.snd hsrv) d
  have heq := coreRetirement_eq hc he
  generalize s.failUnits c = u at heq hteams hcyc hspr
  refine ⟨_, heq, List.getLast?_concat, ⟨?_, takeSpare_mem u _ _, fun d hd => ?_⟩, fun j hj => ?_⟩
  · refine Eq.trans (State.modCore_core_same (takeSpare u (dieOfCore c) (c % 64 / 16)) c (retire _)) ?_
    rw [retire, takeSpare_core, hcyc, hspr, List.contains_eq_mem, ← decide_not]
  · exact (congrArg Die.spares (takeSpare_die_ne u _ hd)).trans (hspr d)
  · exact (congrArg Team.live (takeSpare_team u _ _ _)).trans (hteams j hj)

/-! ### Uncorrectable errors (R184) -/

theorem reRunTeam_acts {s : State} {k : Nat} (hl : (s.team k).live = true) (hd : (s.team k).det = true) :
    Vacant k (s.failTeam k) ∧ ∀ g ∈ (s.failTeam k).grids, g.id = (s.team k).grid →
      (partOfCore (coreOfTeam k), (s.team k).teamix) ∈ g.redo := by
  refine ⟨vacant_failTeam s k, ?_⟩
  have hgrids : (s.killTeam k).grids = s.grids := congrArg (·.2.2.2.1) (kept_killTeam s k)
  unfold State.failTeam
  extract_lets t
  rw [if_neg (by simp [t, hl])]
  split
  · next hg =>
    intro g hmem hid
    rw [hgrids] at hmem
    exact absurd (beq_iff_eq.mpr hid) (List.find?_eq_none.mp hg g hmem)
  · next g hg =>
    have hgid : g.id = (s.team k).grid := by simpa using List.find?_some hg
    rw [if_pos hd]
    intro x hx hid
    obtain ⟨y, -, rfl⟩ := List.mem_map.mp hx
    by_cases hy : y.id = g.id
    · simp [hy, t]
    · rw [if_neg hy] at hid
      exact absurd (hid.trans hgid.symm) hy

theorem rerunGrid_grids (s : State) (g : Grid) : ∃ R : List Chunk, (s.rerunGrid g).grids = s.grids.map fun h => if h.id = g.id then
    { h with todo := dealBlocks (partsOf h.pmask.toNat) (descBlocks h.desc), redo := [], running := 0, started := [], ended := []
             redraw := R } else h := by
  have h : ((s.gridTeams g.id).foldl State.killTeam s).grids = s.grids := congrArg (·.2.2.2.1) (kept_killTeams _ s)
  exact ⟨_, congrArg (List.map _) h⟩

/-- Every grid of the list is run again whole, and with it every other one of its number; numbers and nodes stay. -/
theorem rerunGrids_spec (gs : List Grid) (s : State) : (gs.foldl State.rerunGrid s).nodes = s.nodes ∧
    ∀ h ∈ (gs.foldl State.rerunGrid s).grids, (∃ h0 ∈ s.grids, h0.id = h.id ∧ h0.node = h.node) ∧
      ((∃ g ∈ gs, g.id = h.id) → Grid.Again h) := by
  have hnodes (t : State) (g : Grid) : (t.rerunGrid g).nodes = t.nodes := congrArg (·.2.2.1) (kept_killTeams _ t)
  refine ⟨foldl_keeps State.nodes State.rerunGrid hnodes gs s, fun h hh => ⟨?_, ?_⟩⟩
  · refine List.foldlRecOn gs State.rerunGrid
      (motive := fun t => ∀ h ∈ t.grids, ∃ h0 ∈ s.grids, h0.id = h.id ∧ h0.node = h.node)
      (fun h hh => ⟨h, hh, rfl, rfl⟩) (fun t ih g _ h hh => ?_) h hh
    obtain ⟨R, hR⟩ := rerunGrid_grids t g
    rw [hR] at hh
    obtain ⟨x, hx, rfl⟩ := List.mem_map.mp hh
    obtain ⟨h0, h0mem, hid, hnode⟩ := ih x hx
    refine ⟨h0, h0mem, ?_⟩
    split <;> exact ⟨hid, hnode⟩
  · rintro ⟨g, hg, hid⟩
    refine foldl_establishes (P := fun t => ∀ h ∈ t.grids, g.id = h.id → Grid.Again h) hg
      (fun t a ih h hh => ?_) (fun t h hh => ?_) s h hh hid
    all_goals
      obtain ⟨R, hR⟩ := rerunGrid_grids t _
      rw [hR] at hh
      obtain ⟨x, hx, rfl⟩ := List.mem_map.mp hh
      split
      · exact fun _ => ⟨rfl, rfl, rfl, rfl⟩
    · exact ih x hx
    · next hne => exact fun h => absurd h.symm hne

/-- Every node with the number waits in the pool, in the place the pool gives next. -/
def Pooled (id seq : Nat) (t : State) : Prop := ∀ m ∈ t.nodes, m.id = id → m.stat = .pooled seq

theorem modNode_pooled {s t : State} {id seq : Nat} {f : Node → Node} (h : t.nodes = (s.modNode id f).nodes)
    (hf : ∀ n, (f n).stat = .pooled seq) : Pooled id seq t := by
  intro m hm he
  rw [h] at hm
  obtain ⟨x, -, rfl⟩ := List.mem_map.mp hm
  by_cases hx : x.id = id
  · rw [if_pos hx]
    exact hf x
  · rw [if_neg hx] at he
    exact absurd he hx

theorem pooled_repool {s : State} {seq : Nat} (h : s.poolSeq = seq) (n : Node) : Pooled n.id seq (s.repool n) := by
  subst h
  exact modNode_pooled rfl fun _ => rfl

theorem pooled_failTile {s : State} {n : Node} (h : n.rerun = true ∨ ∃ p, s.packet n.pkt = some p ∧ p.det = true) :
    Pooled n.id s.poolSeq (s.failTile n) := by
  unfold State.failTile
  extract_lets det dead s1 s2 s3 s4
  have h1 : s1.poolSeq = s.poolSeq := congrArg (·.2.2.2.2) (foldl_keeps kept freeEngine kept_freeEngine dead s)
  have hdet : (det || n.rerun) = true := by
    rw [Bool.or_eq_true]
    obtain hr | ⟨p, hp, hd⟩ := h
    · exact .inr hr
    · exact .inl (by simp only [det, hp, hd])
  rw [if_pos hdet, ← h1]
  exact modNode_pooled rfl fun _ => rfl

theorem finishCopy_poolSeq (s : State) (c : Copy) (done : Bool) : (s.finishCopy c done).poolSeq = s.poolSeq := by
  unfold State.finishCopy
  extract_lets s1 s2 s3
  have h2 : s2.poolSeq = s.poolSeq := by
    unfold s2; split <;> rfl
  split
  · split <;> exact h2
  · exact h2

/-- The grids of a node that is run again are run again whole; a node of another kind waits in the pool. -/
theorem rerunNode_acts {s : State} {n : Node} (hstat : n.stat = .running) (hfin : n.fin = false)
    (hmay : n.rerun = true ∨ ∃ p, s.packet n.pkt = some p ∧ p.det = true) : ∃ t, s.rerunNode n = some t ∧
      (n.kind ≠ 1 → Pooled n.id s.poolSeq t) ∧
      (n.kind = 1 → t.nodes = s.nodes ∧ ∀ g ∈ t.grids, g.node = some n.id → Grid.Again g) := by
  unfold State.rerunNode
  extract_lets det gs u cs v
  have hdet : (det || n.rerun) = true := by
    rw [Bool.or_eq_true]
    obtain hr | ⟨p, hp, hd⟩ := hmay
    · exact .inr hr
    · exact .inl (by simp only [det, hp, hd])
  rw [if_neg (by simp [hstat, hfin, hdet])]
  split
  · next hk =>
    refine ⟨_, rfl, fun h => absurd hk h, fun _ => ?_⟩
    obtain ⟨hnodes, hgrids⟩ := rerunGrids_spec gs s
    refine ⟨hnodes, fun g hg hn => ?_⟩
    obtain ⟨⟨g0, h0, hid, hnode⟩, hagain⟩ := hgrids g hg
    exact hagain ⟨g0, List.mem_filter.mpr ⟨h0, by simp [hnode, hn]⟩, hid⟩
  · next hk =>
    exact ⟨_, rfl, fun _ => pooled_failTile hmay, fun h => absurd (hk.symm.trans h) (by decide)⟩
  · next hk =>
    refine ⟨_, rfl, fun _ => pooled_repool ?_ n, fun h => absurd (hk.symm.trans h) (by decide)⟩
    refine foldl_keeps State.poolSeq _ (fun _ _ => ?_) _ s
    rfl
  · next h1 _ _ =>
    have hv : v.poolSeq = s.poolSeq := foldl_keeps State.poolSeq _ (fun s c => finishCopy_poolSeq s c false) cs s
    refine ⟨_, rfl, fun _ => pooled_repool ?_ n, fun h => absurd h h1⟩
    exact hv

theorem rerunNode_refused {s : State} {n : Node} (h : ¬ (n.stat = .running ∧ n.fin = false ∧
    (n.rerun = true ∨ ∃ p, s.packet n.pkt = some p ∧ p.det = true))) : s.rerunNode n = none := by
  unfold State.rerunNode
  extract_lets det
  have hdet : det = true ↔ ∃ p, s.packet n.pkt = some p ∧ p.det = true := by
    unfold det
    split
    · next p hp => simp [hp]
    · next hp => simp [hp]
  refine if_pos ?_
  by_contra hg
  simp only [Bool.or_eq_true, not_or, bne_iff_ne, ne_eq, not_not, Bool.not_eq_true, Bool.not_eq_true', Bool.not_eq_false] at hg
  obtain ⟨⟨hstat, hfin⟩, hrun⟩ := hg
  exact h ⟨hstat, hfin, by rw [← hdet, or_comm]; exact hrun⟩

/-! ### A band that is released (R390) -/

theorem record_team (s : State) (c : Nat) (bs : List Byte) (k : Nat) : (s.record c bs).team k = s.team k := by
  unfold State.record
  dsimp only
  split <;> rfl

theorem hemHit_team (s : State) (k j : Nat) : (s.hemHit k).team j = s.team j := record_team _ _ _ j

/-- What threads that end leave of their team, but for their own places: its threads and its frozen bands. -/
def bandSide (t : Team) : NMap Thread × List Nat := (t.threads, t.frozen)

theorem bandSide_retireAll (t : Team) : bandSide t.retireAll = bandSide t := by rw [Team.retireAll_eq]; rfl

theorem afterExit_team_ne (s : State) {k j : Nat} (h : j ≠ k) : (s.afterExit k).team j = s.team j := by
  unfold State.afterExit
  extract_lets u v
  have hu : u.team j = s.team j := State.modTeam_team_ne s k j _ h
  have hv : v.team j = u.team j := by
    unfold v
    split
    · exact (State.modTeam_team_ne _ k j _ h).trans (hemHit_team u k j)
    · rfl
  split
  · exact (lastExit_team_ne v h).trans (hv.trans hu)
  · exact hu

theorem bandSide_afterExit (s : State) (k : Nat) : bandSide ((s.afterExit k).team k) = bandSide (s.team k) := by
  unfold State.afterExit
  extract_lets u v
  have hu : bandSide (u.team k) = bandSide (s.team k) :=
    (congrArg bandSide (State.modTeam_team_same s k _)).trans (bandSide_retireAll _)
  have hv : bandSide (v.team k) = bandSide (u.team k) := by
    unfold v
    split
    · rw [State.modTeam_team_same, hemHit_team]; rfl
    · rfl
  split
  · rw [lastExit_team_same]
    exact hv.trans hu
  · exact hu

theorem endThread_team_ne (s : State) {k j : Nat} (i : Tix) (h : j ≠ k) : (s.endThread k i).team j = s.team j :=
  State.modTeam_team_ne _ k j _ h

theorem endThread_team_same (s : State) (k : Nat) (i : Tix) :
    (s.endThread k i).team k = { s.team k with threads := ndel (s.team k).threads i } := State.modTeam_team_same _ k _

/-- The thread has exited. -/
def Ended (k : Nat) (i : Tix) (s : State) : Prop := ((s.team k).thread i).isLive = false

theorem ended_endThread (s : State) (k : Nat) (i : Tix) : Ended k i (s.endThread k i) := by
  rw [Ended, endThread_team_same, Team.thread, nget_ndel, if_pos rfl]
  rfl

theorem ended_endThread_of_ended {s : State} {k : Nat} {i : Tix} (j : Tix) (h : Ended k i s) : Ended k i (s.endThread k j) := by
  rw [Ended, endThread_team_same, Team.thread, nget_ndel]
  split
  · rfl
  · exact h

theorem endThreads_team_ne (s : State) {k j : Nat} (ts : List Tix) (h : j ≠ k) : (s.endThreads k ts).team j = s.team j := by
  unfold State.endThreads
  split
  · rfl
  · rw [State.modTeam_team_ne _ _ _ _ h, afterExit_team_ne _ h]
    exact foldl_keeps (State.team · j) _ (fun s i => endThread_team_ne s i h) ts s

/-- The team's threads and frozen bands after some of its threads have ended. -/
theorem bandSide_endThreads (s : State) (k : Nat) (ts : List Tix) : bandSide ((s.endThreads k ts).team k) =
    bandSide ((ts.foldl (fun s i => s.endThread k i) s).team k) := by
  unfold State.endThreads
  split
  · next h => rw [List.isEmpty_iff.mp h]; rfl
  · rw [State.modTeam_team_same]
    exact bandSide_afterExit _ k

theorem endThreads_frozen (s : State) (k : Nat) (ts : List Tix) : ((s.endThreads k ts).team k).frozen = (s.team k).frozen := by
  refine (congrArg Prod.snd (bandSide_endThreads s k ts)).trans ?_
  exact foldl_keeps (fun s => (s.team k).frozen) _ (fun s i => by rw [endThread_team_same]) ts s

theorem ended_endThreads {s : State} {k : Nat} {ts : List Tix} {i : Tix} (h : i ∈ ts ∨ Ended k i s) :
    Ended k i (s.endThreads k ts) := by
  have hthread : ((s.endThreads k ts).team k).thread i = ((ts.foldl (fun s i => s.endThread k i) s).team k).thread i :=
    congrArg (fun b : NMap Thread × List Nat => nget b.1 i Thread.gone) (bandSide_endThreads s k ts)
  rw [Ended, hthread]
  obtain h | h := h
  · exact foldl_establishes h (fun _ j => ended_endThread_of_ended j) (ended_endThread · k i) s
  · exact List.foldlRecOn ts _ h fun _ ht j _ => ended_endThread_of_ended j ht

theorem mem_liveThreads {t : Team} {i : Tix} (h : (t.thread i).isLive = true) : i ∈ t.liveThreads := by
  have hne : t.thread i ≠ Thread.gone := fun hg => by rw [hg] at h; cases h
  exact List.mem_map.mpr ⟨(i, t.thread i), List.mem_filter.mpr ⟨mem_of_nget_ne hne, h⟩, rfl⟩

theorem bandRelease_acts {s : State} {k b : Nat} (h : b ∈ (s.team k).frozen) : ∃ t, evMonitorRelease (.band k b) s = some t ∧
    (t.team k).frozen = (s.team k).frozen.erase b ∧ (∀ j, j ≠ k → t.team j = s.team j) ∧
    ∀ i, i / 64 = b → (t.thread k i).isLive = false := by
  refine ⟨_, if_pos (List.contains_iff_mem.mpr h), ?_, fun j hj => ?_, fun i hi => ?_⟩
  · rw [endThreads_frozen, State.modTeam_team_same]
  · rw [endThreads_team_ne _ _ hj, State.modTeam_team_ne _ _ _ _ hj]
  · refine ended_endThreads ?_
    by_cases hl : Ended k i (s.modTeam k fun t => { t with frozen := t.frozen.erase b })
    · exact .inr hl
    · refine .inl (List.mem_filter.mpr ⟨mem_liveThreads ?_, by simp [hi]⟩)
      simpa [Ended] using hl

/-! ### Opening a partition (R430) -/

/-- The state without what the opening of a partition writes. -/
def unopened (s : State) : State :=
  { s with
    teams := [], clusters := [], bobbins := [], records := [], copies := [], fills := [], draws := [], held := [], objReqs := []
    ruleWaits := [], claims := [], gdones := [], cores := [], dies := [], parts := [] }

/-- The state without the cores. -/
def coreless (s : State) : State := { s with cores := [] }

theorem coreless_loadSups (cs : List Nat) (s : State) : coreless (cs.foldl State.loadSup s) = coreless s := by
  refine foldl_keeps coreless State.loadSup (fun s c => ?_) cs s
  unfold State.loadSup
  split <;> rfl

theorem unopened_openPart (s : State) (p : Nat) : unopened (s.openPart p) = unopened s :=
  (congrArg unopened (coreless_loadSups _ _)).trans rfl

theorem openPart_teams (s : State) (p : Nat) : (s.openPart p).teams = s.teams.filter fun e => !inPartTeam p e.1 :=
  congrArg State.teams (coreless_loadSups _ _)

theorem openPart_parts (s : State) (p : Nat) : (s.openPart p).parts =
    nmod s.parts p Part.closed fun x => { Part.closed with opened := true, asid := x.asid } :=
  congrArg State.parts (coreless_loadSups _ _)

theorem openPart_dies (s : State) (p : Nat) : (s.openPart p).dies = nmod s.dies (dieOfPart p) Die.fresh fun d => { d with
    pattern := d.pattern.filter fun w => !inHalf p w.1
    chip := moutside d.chip (halfBase p) (halfBase p + 16777216) } :=
  congrArg State.dies (coreless_loadSups _ _)

theorem openPart_part_same (s : State) (p : Nat) :
    (s.openPart p).part p = { Part.closed with opened := true, asid := (s.part p).asid } := by
  rw [State.part, openPart_parts, nget_nmod_same]
  rfl

theorem openPart_part_ne (s : State) {p q : Nat} (h : q ≠ p) : (s.openPart p).part q = s.part q := by
  rw [State.part, openPart_parts, nget_nmod_ne _ _ _ _ _ h]
  rfl

/-- No L2 sector, no pin, and nothing in the chip scratchpad or the pattern memory. -/
def Bare (d : Die) : Prop := d.l2 = [] ∧ d.chip = [] ∧ d.pattern = [] ∧ d.pins = []

theorem openPart_bare {s : State} (h : ∀ d, Bare (s.die d)) (p d : Nat) : Bare ((s.openPart p).die d) := by
  rw [State.die, openPart_dies]
  by_cases hd : d = dieOfPart p
  · subst hd
    obtain ⟨hl2, hchip, hpat, hpins⟩ := h (dieOfPart p)
    rw [nget_nmod_same]
    exact ⟨hl2, congrArg (moutside · _ _) hchip, congrArg (List.filter _) hpat, hpins⟩
  · rw [nget_nmod_ne _ _ _ _ _ hd]
    exact h d

theorem modCore_keeps {β : Type} (q : Core → β) {f : Core → Core} (hf : ∀ x, q (f x) = q x) (s : State) (c j : Nat) :
    q ((s.modCore c f).core j) = q (s.core j) := nget_nmod_keeps q hf s.cores c j

/-- What is asked of a core as its partition opens: whether it is in service or about to be, its L1 and its trap records. -/
def coreSide (k : Core) : Bool × Bool × NMap Sector × Nat := (k.enabled, k.spareNext, k.l1, k.trapCount)

/-- The same once its partition has opened. -/
def openedSide (x : Bool × Bool × NMap Sector × Nat) : Bool × Bool × NMap Sector × Nat := (x.1 || x.2.1, false, [], 0)

theorem coreSide_loadSlot (s : State) (c slot key v src : Nat) (bs : List Byte) (j : Nat) :
    coreSide ((s.loadSlot c slot key v src bs).core j) = coreSide (s.core j) := by
  unfold State.loadSlot
  rw [modCore_keeps coreSide]
  intro k
  rfl

theorem coreSide_loadSup (s : State) (c j : Nat) : coreSide ((s.loadSup c).core j) = coreSide (s.core j) := by
  unfold State.loadSup
  split
  · exact coreSide_loadSlot _ _ _ _ _ _ _ _
  · rfl

/-- Updates that settle a part of the value, over a list of keys. -/
theorem nget_foldl_nmod {α β : Type} {q : α → β} {f : α → α} {g : β → β} {d : α} (hf : ∀ x, q (f x) = g (q x))
    (hg : ∀ b, g (g b) = g b) (l : List Nat) (m : NMap α) (k : Nat) :
    q (nget (l.foldl (fun m j => nmod m j d f) m) k d) = if k ∈ l then g (q (nget m k d)) else q (nget m k d) := by
  induction l generalizing m with
  | nil => rfl
  | cons j r ih =>
    rw [List.foldl_cons, ih]
    by_cases hk : k = j
    · subst hk
      simp [hf, hg]
    · simp [nget_nmod_ne m j k d f hk, hk]

theorem mem_coresOfPart (p c : Nat) : c ∈ rangeFrom (32 * p) 32 ↔ partOfCore c = p := by
  rw [rangeFrom, List.mem_map, partOfCore]
  constructor
  · rintro ⟨i, hi, rfl⟩
    rw [List.mem_range] at hi
    omega
  · exact fun h => ⟨c - 32 * p, List.mem_range.mpr (by omega), by omega⟩

/-- A core of a partition that opens: empty, and in service where it was or where a spare takes its number. -/
def openCore (k : Core) : Core := { Core.fresh with enabled := k.enabled || k.spareNext }

theorem coreSide_openCore (k : Core) : coreSide (openCore k) = openedSide (coreSide k) := rfl

theorem openedSide_openedSide (x : Bool × Bool × NMap Sector × Nat) : openedSide (openedSide x) = openedSide x := by
  simp [openedSide]

theorem openPart_core (s : State) (p c : Nat) : coreSide ((s.openPart p).core c) =
    coreSide (nget ((rangeFrom (32 * p) 32).foldl (fun m j => nmod m j Core.fresh openCore) s.cores) c Core.fresh) := by
  unfold State.openPart
  generalize rangeFrom (32 * p) 32 = cs
  exact foldl_keeps (fun s => coreSide (s.core c)) State.loadSup (fun s j => coreSide_loadSup s j c) cs _

theorem coreSide_openPart (s : State) (p c : Nat) : coreSide ((s.openPart p).core c) =
    if partOfCore c = p then openedSide (coreSide (s.core c)) else coreSide (s.core c) := by
  rw [openPart_core, nget_foldl_nmod coreSide_openCore openedSide_openedSide]
  simp only [mem_coresOfPart]
  rfl

/-! ### A Shuttle that is released (R390) -/

theorem shuttleRelease_acts {s : State} {c : Nat} (h : (s.shuttle c).frozen = true) :
    ∃ t, evMonitorRelease (.shuttle c) s = some t ∧
    (t.part (partOfCore c)).opened = true ∧
    (t.part (partOfCore c)).halted = (s.hotHalt && (s.part (partOfCore c)).halted) ∧
    ∀ k, (t.team k).live = true → partOfCore (coreOfTeam k) ≠ partOfCore c := by
  refine ⟨_, if_pos h, ?_⟩
  generalize s.closePart (partOfCore c) = v
  have hpart := openPart_part_same v (partOfCore c)
  have hteam (k : Nat) (hl : ((v.openPart (partOfCore c)).team k).live = true) : partOfCore (coreOfTeam k) ≠ partOfCore c := by
    intro hk
    rw [State.team, openPart_teams, nget_filter v.teams (fun k => !inPartTeam (partOfCore c) k),
      if_neg (by simp [inPartTeam, hk])] at hl
    cases hl
  split
  · next hh =>
    rw [State.modPart_part_same, hpart, hh]
    exact ⟨rfl, rfl, hteam⟩
  · next hh =>
    rw [hpart, (Bool.not_eq_true _).mp hh]
    exact ⟨rfl, rfl, hteam⟩

/-! ### Ports that train (R421) -/

theorem two_le_of_portWidth {g : Nat} (h : portWidth g ≠ 0) : 2 ≤ g := by
  unfold portWidth at h
  split at h
  · omega
  · split at h
    · omega
    · split at h
      · assumption
      · exact absurd rfl h

theorem train_eq (s : State) (p g : Nat) (a : PeerAuth) :
    ∃ P R n, s.train p g a = { s with ports := P, reports := R, fresh := n } := by
  unfold State.train
  extract_lets x w bad s1 ok sent s2 r
  have h1 : ∃ R, s1 = { s with reports := R } := by
    unfold s1
    split <;> exact ⟨_, rfl⟩
  obtain ⟨R, h1⟩ := h1
  have h2 : ∃ P, s2 = { s with reports := R, ports := P } := by
    unfold s2
    rw [h1]
    exact ⟨_, rfl⟩
  obtain ⟨P, h2⟩ := h2
  rw [h2]
  split
  · exact ⟨_, _, _, rfl⟩
  · split <;> exact ⟨_, _, _, rfl⟩

theorem reportPort_port (s : State) (p v q : Nat) : (s.reportPort p v).port q = s.port q := rfl

theorem train_port_ne (s : State) {p q : Nat} (g : Nat) (a : PeerAuth) (h : q ≠ p) : (s.train p g a).port q = s.port q := by
  unfold State.train
  extract_lets x w bad s1 ok sent s2 r
  have h1 : s1.port q = s.port q := by
    unfold s1
    split <;> rfl
  have h2 : s2.port q = s.port q := (State.modPort_port_ne s1 p q _ h).trans h1
  split
  · rw [reportPort_port, State.modPort_port_ne _ _ _ _ h]
  · split
    · rw [reportPort_port, State.modPort_port_ne _ _ _ _ h, h2]
    · rw [State.modPort_port_ne _ _ _ _ h]
      exact h2

/-- A port that comes out of training is DOWN, or has two good lanes at least and is not frozen. -/
theorem train_port_same (s : State) (p g : Nat) (a : PeerAuth) :
    ((s.train p g a).port p).st = .down ∨ 2 ≤ g ∧ ((s.train p g a).port p).frozen = false := by
  unfold State.train
  extract_lets x w bad s1 ok sent s2 r
  split
  · rw [reportPort_port, State.modPort_port_same]
    exact .inl rfl
  · next hw =>
    split
    · rw [reportPort_port, State.modPort_port_same]
      exact .inl rfl
    · rw [State.modPort_port_same]
      exact .inr ⟨two_le_of_portWidth hw, rfl⟩

theorem train_active {s : State} {p g : Nat} {a : PeerAuth} (h : ((s.train p g a).port p).st = .active) :
    2 ≤ g ∧ ((s.train p g a).port p).frozen = false :=
  (train_port_same s p g a).resolve_left (by rw [h]; decide)

theorem portRetrain_releases {s t : State} {p good : Nat} {auth : PeerAuth} (hp : p < 18) (hb : s.boot = .running)
    (h : (evPortRetrain p good auth s).getD s = t) (hact : (t.port p).st = .active) : (t.port p).frozen = false := by
  rw [evPortRetrain, if_neg (by simp [hp, hb])] at h
  subst h
  exact (train_active hact).2

/-! ### Power-on (R429, R430) -/

/-- What the module shows of itself after power-on, however far bring-up gets. -/
structure Blank (s t : State) : Prop where
  power : t.power = true
  hbm : t.hbm = []
  llc : t.llc = []
  hotHalt : t.hotHalt = false
  iss : t.iss = .none
  teams : t.teams = []
  packets : t.packets = []
  nodes : t.nodes = []
  tlb : t.tlb = []
  hostMem : t.hostMem = s.hostMem
  monitorImg : t.monitorImg = s.monitorImg
  monitorSig : t.monitorSig = s.monitorSig
  plan : t.plan = s.plan
  supOvl : t.supOvl = s.supOvl
  sparesUsed : t.sparesUsed = s.sparesUsed
  cores : ∀ c, (t.core c).l1 = [] ∧ (t.core c).trapCount = 0
  dies : ∀ d, Bare (t.die d)

theorem powered_core (s : State) (c : Nat) : s.powered.core c =
    { Core.fresh with enabled := (s.core c).enabled, spareNext := (s.core c).spareNext } :=
  nget_map s.cores (fun k => { Core.fresh with enabled := k.enabled, spareNext := k.spareNext }) c rfl

theorem blank_powered (s : State) : Blank s s.powered := by
  refine ⟨rfl, rfl, rfl, rfl, rfl, rfl, rfl, rfl, rfl, rfl, rfl, rfl, rfl, rfl, rfl, fun c => ?_, fun d => ?_⟩
  · rw [powered_core]
    exact ⟨rfl, rfl⟩
  · have hd : s.powered.die d = { Die.fresh with spares := (s.die d).spares } :=
      nget_map s.dies (fun x => { Die.fresh with spares := x.spares }) d rfl
    rw [hd]
    exact ⟨rfl, rfl, rfl, rfl⟩

theorem Blank.of_unopened {s t u : State} (h : Blank s t) (hu : unopened u = unopened t) (hteams : u.teams = [])
    (hcores : ∀ c, (u.core c).l1 = [] ∧ (u.core c).trapCount = 0) (hdies : ∀ d, Bare (u.die d)) : Blank s u where
  power := (congrArg State.power hu).trans h.power
  hbm := (congrArg State.hbm hu).trans h.hbm
  llc := (congrArg State.llc hu).trans h.llc
  hotHalt := (congrArg State.hotHalt hu).trans h.hotHalt
  iss := (congrArg State.iss hu).trans h.iss
  teams := hteams
  packets := (congrArg State.packets hu).trans h.packets
  nodes := (congrArg State.nodes hu).trans h.nodes
  tlb := (congrArg State.tlb hu).trans h.tlb
  hostMem := (congrArg State.hostMem hu).trans h.hostMem
  monitorImg := (congrArg State.monitorImg hu).trans h.monitorImg
  monitorSig := (congrArg State.monitorSig hu).trans h.monitorSig
  plan := (congrArg State.plan hu).trans h.plan
  supOvl := (congrArg State.supOvl hu).trans h.supOvl
  sparesUsed := (congrArg State.sparesUsed hu).trans h.sparesUsed
  cores := hcores
  dies := hdies

theorem Blank.openPart {s t : State} (h : Blank s t) (p : Nat) : Blank s (t.openPart p) := by
  refine h.of_unopened (unopened_openPart t p) ?_ (fun c => ?_) (openPart_bare h.dies p)
  · rw [openPart_teams, h.teams, List.filter_nil]
  · have hc := coreSide_openPart t p c
    obtain ⟨hl1, htrap⟩ := h.cores c
    split at hc
    · exact ⟨congrArg (·.2.2.1) hc, congrArg (·.2.2.2) hc⟩
    · exact ⟨(congrArg (·.2.2.1) hc).trans hl1, (congrArg (·.2.2.2) hc).trans htrap⟩

/-- The training of the ports, in their order. -/
def trainAll (s : State) (ports : List (Nat × PeerAuth)) : State :=
  (indexed (ports.take 18)).foldl (fun s x => s.train x.1 x.2.1 x.2.2) s

theorem trainAll_eq (s : State) (ports : List (Nat × PeerAuth)) :
    ∃ P R n, trainAll s ports = { s with ports := P, reports := R, fresh := n } := by
  refine List.foldlRecOn (indexed (ports.take 18)) _
    (motive := fun t : State => ∃ P R n, t = { s with ports := P, reports := R, fresh := n }) ⟨s.ports, s.reports, s.fresh, rfl⟩ ?_
  rintro _ ⟨P, R, n, rfl⟩ x -
  obtain ⟨P', R', n', h⟩ := train_eq { s with ports := P, reports := R, fresh := n } x.1 x.2.1 x.2.2
  exact ⟨P', R', n', h⟩

theorem mem_indexed {α : Type} {l : List α} {x : Nat × α} (h : x ∈ indexed l) : l[x.1]? = some x.2 := by
  obtain ⟨i, hi, rfl⟩ := List.mem_iff_getElem.mp h
  simp [indexed] at hi ⊢

/-- A port that is ACTIVE where none was has trained on two good lanes at least. -/
theorem trainAll_active {s : State} (hs : s.ports = []) (ports : List (Nat × PeerAuth)) (p : Nat)
    (h : ((trainAll s ports).port p).st = .active) : ∃ x, ports[p]? = some x ∧ 2 ≤ x.1 := by
  revert h
  refine List.foldlRecOn (indexed (ports.take 18)) _
    (motive := fun t : State => (t.port p).st = .active → ∃ x, ports[p]? = some x ∧ 2 ≤ x.1) (fun h => ?_) fun t ih x hx h => ?_
  · rw [State.port, hs] at h
    cases h
  · by_cases hp : p = x.1
    · subst hp
      have hmem := mem_indexed hx
      rw [List.getElem?_take] at hmem
      split at hmem
      · exact ⟨x.2, hmem, (train_active h).1⟩
      · cases hmem
    · rw [train_port_ne _ _ _ hp] at h
      exact ih h

/-- No step of bring-up leaves anything behind. -/
theorem Blank.bringUp {s t : State} (h : Blank s t) (k split : Nat) (ports : List (Nat × PeerAuth)) :
    Blank s (t.bringUp k split ports) := by
  unfold State.bringUp
  split
  · exact { h with }
  · exact { h with }
  · refine { h with llc := rfl, dies := fun d => ?_ }
    obtain ⟨hl2, -, hpat, hpins⟩ := h.dies d
    have hd : nget (t.dies.map fun e => (e.1, { e.2 with chip := [] })) d Die.fresh = { t.die d with chip := [] } :=
      nget_map t.dies (fun x => { x with chip := [] }) d rfl
    rw [State.die, hd]
    exact ⟨hl2, rfl, hpat, hpins⟩
  · exact { h with }
  · extract_lets u
    obtain ⟨P, R, n, hu⟩ := trainAll_eq u ports
    change Blank s (trainAll u ports)
    rw [hu]
    exact { h with }
  · exact List.foldlRecOn (List.range 8) _ h fun _ ht p _ => ht.openPart p
  · exact h

/-- The partitions open, and cores enter service, in the last step of bring-up only. -/
theorem bringUp_before_opening (t : State) {k : Nat} (hk : k ≠ 6) (split : Nat) (ports : List (Nat × PeerAuth)) :
    (t.bringUp k split ports).parts = t.parts ∧ (t.bringUp k split ports).cores = t.cores := by
  unfold State.bringUp
  split
  · exact ⟨rfl, rfl⟩
  · exact ⟨rfl, rfl⟩
  · exact ⟨rfl, rfl⟩
  · exact ⟨rfl, rfl⟩
  · extract_lets u
    obtain ⟨P, R, n, hu⟩ := trainAll_eq u ports
    change (trainAll u ports).parts = t.parts ∧ (trainAll u ports).cores = t.cores
    rw [hu]
    exact ⟨rfl, rfl⟩
  · exact absurd rfl hk
  · exact ⟨rfl, rfl⟩

/-- Steps k to k + n − 1 of bring-up. -/
def steps (s : State) (split : Nat) (ports : List (Nat × PeerAuth)) (k n : Nat) : State :=
  (List.range' k n).foldl (fun s j => s.bringUp j split ports) s

theorem steps_succ (s : State) (split : Nat) (ports : List (Nat × PeerAuth)) (k n : Nat) :
    steps s split ports k (n + 1) = steps (s.bringUp k split ports) split ports (k + 1) n := by
  rw [steps, List.range'_succ]
  rfl

theorem bringUpTo_done {failed k n : Nat} (h : failed < k ∨ k + n ≤ failed) (s : State) (split : Nat)
    (ports : List (Nat × PeerAuth)) : s.bringUpTo failed split ports k n = { steps s split ports k n with boot := .running } := by
  induction n generalizing s k with
  | zero => rfl
  | succ n ih => rw [State.bringUpTo, if_neg (by omega), ih (by omega), steps_succ]

theorem bringUpTo_fails {i n : Nat} (h : i < n) (s : State) (split : Nat) (ports : List (Nat × PeerAuth)) (k : Nat) :
    s.bringUpTo (k + i) split ports k n = { steps s split ports k i with
      boot := if k + i = 1 then .recovery else .failed (k + i) }.report (11000000 + (k + i)) := by
  induction n generalizing s k i with
  | zero => omega
  | succ n ih =>
    cases i with
    | zero => rw [State.bringUpTo, if_pos (Nat.add_zero k).symm]; rfl
    | succ i =>
      rw [State.bringUpTo, if_neg (by omega), show k + (i + 1) = k + 1 + i by omega, ih (by omega), steps_succ]

theorem Blank.steps {s t : State} (h : Blank s t) (split : Nat) (ports : List (Nat × PeerAuth)) (k n : Nat) :
    Blank s (steps t split ports k n) :=
  List.foldlRecOn (List.range' k n) _ h fun _ ht j _ => ht.bringUp j split ports

theorem steps_before_opening (t : State) (split : Nat) (ports : List (Nat × PeerAuth)) {k n : Nat} (h : k + n ≤ 6) :
    (steps t split ports k n).parts = t.parts ∧ (steps t split ports k n).cores = t.cores := by
  refine List.foldlRecOn (List.range' k n) _ (motive := fun u : State => u.parts = t.parts ∧ u.cores = t.cores) ⟨rfl, rfl⟩ ?_
  rintro u ⟨hp, hc⟩ j hj
  rw [List.mem_range'_1] at hj
  obtain ⟨hp', hc'⟩ := bringUp_before_opening u (show j ≠ 6 by omega) split ports
  exact ⟨hp'.trans hp, hc'.trans hc⟩

/-- Bring-up that fails at a step stops there and reports it: no partition is open, and no core enters service. -/
theorem powerOn_fails (s : State) (split : Nat) (ports : List (Nat × PeerAuth)) {f : Nat} (h1 : 1 ≤ f) (h6 : f ≤ 6) :
    let t := s.powered.bringUpTo f split ports 1 6
    Blank s t ∧ t.boot = (if f = 1 then .recovery else .failed f) ∧ (11000000 + f) ∈ t.reports ∧
      (∀ p, (t.part p).opened = false) ∧ ∀ c, (t.core c).enabled = (s.core c).enabled := by
  have heq := bringUpTo_fails (show f - 1 < 6 by omega) s.powered split ports 1
  rw [show 1 + (f - 1) = f by omega] at heq
  have hb := (blank_powered s).steps split ports 1 (f - 1)
  obtain ⟨hparts, hcores⟩ := steps_before_opening s.powered split ports (show 1 + (f - 1) ≤ 6 by omega)
  rw [heq]
  refine ⟨{ hb with }, rfl, List.mem_append_right _ (List.mem_singleton_self _), fun p => ?_, fun c => ?_⟩
  · exact congrArg (fun m => (nget m p Part.closed).opened) hparts
  · have hcore : (steps s.powered split ports 1 (f - 1)).core c = s.powered.core c := congrArg (nget · c Core.fresh) hcores
    have hpowered : (s.powered.core c).enabled = (s.core c).enabled := by rw [powered_core]
    exact (congrArg Core.enabled hcore).trans hpowered

theorem openParts_part (s : State) {l : List Nat} {p : Nat} (hp : p ∈ l) : ((l.foldl State.openPart s).part p).opened = true ∧
    ((l.foldl State.openPart s).part p).halted = false := by
  refine foldl_establishes (P := fun t : State => (t.part p).opened = true ∧ (t.part p).halted = false) hp (fun t q h => ?_)
    (fun t => by rw [openPart_part_same]; exact ⟨rfl, rfl⟩) s
  by_cases hq : p = q
  · subst hq; rw [openPart_part_same]; exact ⟨rfl, rfl⟩
  · rw [openPart_part_ne t hq]; exact h

/-- A core of a partition that has opened is in service where it was, or where a spare was to take its number. -/
theorem openParts_enabled (s : State) {l : List Nat} {c : Nat} (hc : partOfCore c ∈ l) :
    ((l.foldl State.openPart s).core c).enabled = ((s.core c).enabled || (s.core c).spareNext) := by
  have hkeep : (((l.foldl State.openPart s).core c).enabled || ((l.foldl State.openPart s).core c).spareNext) =
      ((s.core c).enabled || (s.core c).spareNext) := by
    refine foldl_keeps (fun s => (s.core c).enabled || (s.core c).spareNext) State.openPart (fun s p => ?_) l s
    have h := coreSide_openPart s p c
    split at h
    · rw [show ((s.openPart p).core c).enabled = _ from congrArg (·.1) h,
        show ((s.openPart p).core c).spareNext = _ from congrArg (·.2.1) h]
      exact Bool.or_false _
    · rw [show ((s.openPart p).core c).enabled = _ from congrArg (·.1) h,
        show ((s.openPart p).core c).spareNext = _ from congrArg (·.2.1) h]
      rfl
  have hspare : ((l.foldl State.openPart s).core c).spareNext = false := by
    refine foldl_establishes (P := fun t : State => (t.core c).spareNext = false) hc (fun t p ht => ?_) (fun t => ?_) s
    · have h := congrArg (·.2.1) (coreSide_openPart t p c)
      split at h
      · exact h
      · exact h.trans ht
    · have h := congrArg (·.2.1) (coreSide_openPart t (partOfCore c) c)
      rw [if_pos rfl] at h
      exact h
  rw [hspare, Bool.or_false] at hkeep
  exact hkeep

/-- What bring-up leaves before the ports train: the split, empty memories and the plan of the monitor. -/
def configured (s : State) (split : Nat) : State :=
  { s.powered with
    boot := .rom, interleaved := split, llc := []
    dies := s.powered.dies.map fun (d : Nat × Die) => (d.1, { d.2 with chip := [] })
    idePolicy := s.plan.ide, exBase := s.plan.exBase, exSize := s.plan.exSize, nodeNum := s.plan.node
    routes := s.plan.routes, domain := s.plan.domain }

theorem bringUp_opens (s : State) (split : Nat) (ports : List (Nat × PeerAuth)) :
    s.bringUp 6 split ports = (List.range 8).foldl State.openPart s := rfl

theorem bringUp_trains (s : State) (split : Nat) (ports : List (Nat × PeerAuth)) : s.bringUp 5 split ports =
    trainAll { s with
      exBase := s.plan.exBase, exSize := s.plan.exSize, nodeNum := s.plan.node
      routes := s.plan.routes, domain := s.plan.domain } ports := rfl

theorem steps_all (s : State) (split : Nat) (ports : List (Nat × PeerAuth)) : steps s.powered split ports 1 6 =
    (List.range 8).foldl State.openPart (trainAll (configured s split) ports) := by
  rw [steps_succ, steps_succ, steps_succ, steps_succ, steps_succ, steps_succ, steps, List.range'_zero, List.foldl_nil,
    bringUp_opens, bringUp_trains]
  rfl

/-- Bring-up whose steps all succeed: the module runs with the monitor's plan, its partitions open. -/
theorem powerOn_runs (s : State) (split : Nat) (ports : List (Nat × PeerAuth)) {f : Nat} (hf : f = 0 ∨ 6 < f) :
    let t := s.powered.bringUpTo f split ports 1 6
    Blank s t ∧ t.boot = .running ∧ t.interleaved = split ∧
      t.idePolicy = s.plan.ide ∧ t.exBase = s.plan.exBase ∧ t.exSize = s.plan.exSize ∧ t.nodeNum = s.plan.node ∧
      t.routes = s.plan.routes ∧ t.domain = s.plan.domain ∧
      (∀ p, p < 18 → (t.port p).st = .active → ∃ x, ports[p]? = some x ∧ 2 ≤ x.1) ∧
      (∀ p, p < 8 → (t.part p).opened = true ∧ (t.part p).halted = false) ∧
      ∀ c, c < 256 → (t.core c).enabled = ((s.core c).enabled || (s.core c).spareNext) := by
  have hb := (blank_powered s).steps split ports 1 6
  rw [bringUpTo_done (show f < 1 ∨ 1 + 6 ≤ f by omega)]
  have hsteps := steps_all s split ports
  generalize steps s.powered split ports 1 6 = v at hb hsteps ⊢
  obtain ⟨P, R, n, htrain⟩ := trainAll_eq (configured s split) ports
  have hrest : unopened v = unopened (trainAll (configured s split) ports) := by
    rw [hsteps]
    exact foldl_keeps unopened State.openPart unopened_openPart _ _
  have hset := hrest
  rw [htrain] at hset
  refine ⟨{ hb with }, rfl, congrArg State.interleaved hset, congrArg State.idePolicy hset, congrArg State.exBase hset,
    congrArg State.exSize hset, congrArg State.nodeNum hset, congrArg State.routes hset, congrArg State.domain hset,
    fun p _ h => ?_, fun p h8 => ?_, fun c hc => ?_⟩
  · have hports : (trainAll (configured s split) ports).ports = v.ports :=
      (congrArg State.ports hrest).symm
    refine trainAll_active (s := configured s split) rfl ports p ?_
    rw [State.port, hports]
    exact h
  · have h := openParts_part (trainAll (configured s split) ports) (List.mem_range.mpr h8)
    rw [← hsteps] at h
    exact h
  · have hcore : (trainAll (configured s split) ports).core c = s.powered.core c := by rw [htrain]; rfl
    have h := openParts_enabled (trainAll (configured s split) ports) (c := c) (l := List.range 8)
      (List.mem_range.mpr (by unfold partOfCore; omega))
    rw [← hsteps, hcore, powered_core] at h
    exact h

/-! ### The step at which bring-up stops (R429, R430) -/

theorem failsAt_unverified {s : State} (h : ¬ s.monitorOk = true) (k split : Nat) : s.failsAt k split = 1 := if_pos (by simp [h])

theorem failsAt_verified {s : State} (h : s.monitorOk = true) (k split : Nat) :
    s.failsAt k split = if 48 < split ∧ (k = 0 ∨ 2 < k) then 2 else k := by simp [State.failsAt, h]

theorem powerOn_blank (s : State) (f split : Nat) (ports : List (Nat × PeerAuth)) :
    Blank s (s.powered.bringUpTo f split ports 1 6) := by
  by_cases hf : f = 0 ∨ 6 < f
  · exact (powerOn_runs s split ports hf).1
  · exact (powerOn_fails s split ports (show 1 ≤ f by omega) (by omega)).1

theorem powerOn_stops {s : State} {k split f : Nat} (h : s.failsAt k split = f) (h1 : 1 ≤ f) (h6 : f ≤ 6)
    (ports : List (Nat × PeerAuth)) : let t := s.powered.bringUpTo (s.failsAt k split) split ports 1 6
    t.boot = (if f = 1 then .recovery else .failed f) ∧ (11000000 + f) ∈ t.reports := by
  obtain ⟨-, hboot, hrep, -⟩ := powerOn_fails s split ports h1 h6
  rw [h]
  exact ⟨hboot, hrep⟩

/-- A module that power-on leaves not running has no open partition, and no core of it entered service. -/
theorem powerOn_closed {s : State} {f split : Nat} {ports : List (Nat × PeerAuth)} :
    let t := s.powered.bringUpTo f split ports 1 6
    t.boot ≠ .running → (∀ p, (t.part p).opened = false) ∧ ∀ c, (t.core c).enabled = (s.core c).enabled := by
  intro t h
  by_cases hf : f = 0 ∨ 6 < f
  · obtain ⟨-, hrun, -⟩ := powerOn_runs s split ports hf
    exact absurd hrun h
  · obtain ⟨-, -, -, hclosed⟩ := powerOn_fails s split ports (show 1 ≤ f by omega) (by omega)
    exact hclosed

/-! ### Events: each does something or leaves the module as it is -/

theorem next_of_none {s : State} {o : Option State} (h : o = none) : (.next (o.getD s) : Out1) = .next s := by rw [h]; rfl

theorem next_of_some {s t : State} {o : Option State} (h : o = some t) : (.next (o.getD s) : Out1) = .next t := by rw [h]; rfl

theorem exec_powerOn_running {s : State} (h : s.boot = .running) (k split : Nat) (ports : List (Nat × PeerAuth)) :
    exec (.powerOn k split ports) s = .next s := next_of_none (if_pos (by rw [h]; rfl))

theorem exec_powerOn {s : State} (h : s.boot ≠ .running) (k split : Nat) (ports : List (Nat × PeerAuth)) :
    exec (.powerOn k split ports) s = .next (s.powered.bringUpTo (s.failsAt k split) split ports 1 6) :=
  next_of_some (if_neg (by simpa using h))

/-- A hot die and a supply fault halt every partition alike. -/
theorem exec_hotHalt {i : Instr} {n : Nat} (h : (i, n) ∈ [((.dieHot : Instr), 12000000), (.supplyFault, 13000000)]) (s : State) :
    exec i s = .next (s.haltAll n) := by
  simp only [List.mem_cons, Prod.mk.injEq, List.not_mem_nil, or_false] at h
  obtain ⟨rfl, rfl⟩ | ⟨rfl, rfl⟩ := h
  · rfl
  · rfl

theorem exec_attestation_running {s : State} {nonce : List Byte} (hb : s.boot = .running) (hn : nonce.length = 32) :
    exec (.attestationRequest nonce) s = .next { s with doeOut := s.reportBody nonce ++ Config.sign (s.reportBody nonce) } :=
  next_of_some (if_pos (by simp [hb, hn]))

theorem exec_attestation_recovery {s : State} (hb : s.boot = .recovery) (nonce : List Byte) :
    ∃ d, exec (.attestationRequest nonce) s = .next { s with doeOut := d, fresh := s.fresh + 1 } :=
  ⟨_, next_of_some ((if_neg (by simp [hb])).trans (if_pos (by rw [hb]; rfl)))⟩

theorem exec_attestation_refused {s : State} {nonce : List Byte} (hr : s.boot ≠ .recovery)
    (h : s.boot ≠ .running ∨ nonce.length ≠ 32) : exec (.attestationRequest nonce) s = .next s := by
  refine next_of_none ((if_neg ?_).trans (if_neg (by simpa using hr)))
  rw [Bool.and_eq_true, beq_iff_eq, decide_eq_true_eq, not_and_or]
  exact h

theorem reRun_unknown {s : State} {id : Nat} (h : s.nodes.find? (fun n => n.id == id) = none) :
    evUncorrectableError (.reRun id) s = none := by rw [evUncorrectableError, h]; rfl

theorem reRun_acts {s : State} {id : Nat} {n : Node} (hfind : s.nodes.find? (fun n => n.id == id) = some n) :
    let may : Prop := n.stat = .running ∧ n.fin = false ∧
      (bits (bnat n.bytes 1 1) 0 1 = 1 ∨ ∃ p, s.packet n.pkt = some p ∧ p.det = true)
    (¬ may → evUncorrectableError (.reRun id) s = none) ∧
    (may → ∃ t, evUncorrectableError (.reRun id) s = some t ∧
      (n.kind ≠ 1 → Pooled id s.poolSeq t) ∧
      (n.kind = 1 → t.nodes = s.nodes ∧ ∀ g ∈ t.grids, g.node = some id → Grid.Again g)) := by
  have hid : n.id = id := by simpa using List.find?_some hfind
  have hrerun : n.rerun = true ↔ bits (bnat n.bytes 1 1) 0 1 = 1 := beq_iff_eq
  have hev : evUncorrectableError (.reRun id) s = s.rerunNode n := by rw [evUncorrectableError, hfind]; rfl
  subst hid
  rw [hev, ← hrerun]
  refine ⟨rerunNode_refused, ?_⟩
  rintro ⟨hstat, hfin, hmay⟩
  exact rerunNode_acts hstat hfin hmay

theorem reRunTeam_refused {s : State} {k : Nat} (h : (s.team k).live = false ∨ (s.team k).det = false) :
    evUncorrectableError (.reRunTeam k) s = none := by
  refine if_neg ?_
  rw [← Bool.and_eq_false_iff] at h
  rw [h]
  exact Bool.false_ne_true

theorem rowFailure_acts {s : State} {stack : Nat} {part : HbmPart} (hs : stack < 12) (hp : (stack, part) ∉ s.sparesUsed) :
    evHbmRowFailure stack part s =
      some ({ s with sparesUsed := s.sparesUsed ++ [(stack, part)] }.report (8000000 + stack)) :=
  if_pos (by simp [hs, hp])

theorem rowFailure_refused {s : State} {stack : Nat} {part : HbmPart} (h : 12 ≤ stack ∨ (stack, part) ∈ s.sparesUsed) :
    evHbmRowFailure stack part s = none := by
  refine if_neg ?_
  simp only [Bool.and_eq_true, decide_eq_true_eq, Bool.not_eq_true', List.contains_eq_mem, decide_eq_false_iff_not, not_and_or,
    not_not, Nat.not_lt]
  exact h

theorem bandRelease_refused {s : State} {k b : Nat} (h : b ∉ (s.team k).frozen) : evMonitorRelease (.band k b) s = none :=
  if_neg (by simpa using h)

theorem engineRelease_acts {s : State} {cl e : Nat} (h : ((s.cluster cl).engine e).frozen = true) :
    let u := s.modCluster cl fun x => x.modEngine e fun y => { y with frozen := false }
    evMonitorRelease (.engine cl e) s = some (match s.records.find? fun r => r.frozen && r.cluster == cl && r.ah / 2 == e with
      | some r => u.terminateRec r none
      | none => u) := if_pos h

theorem channelRelease_refused {s : State} {cl ch : Nat} (h : (s.channelCopies cl ch).find? (·.frozen) = none) :
    evMonitorRelease (.channel cl ch) s = none := by rw [evMonitorRelease, h]

theorem channelRelease_acts {s : State} {cl ch : Nat} {c : Copy} (h : (s.channelCopies cl ch).find? (·.frozen) = some c) :
    evMonitorRelease (.channel cl ch) s = some (s.terminateCopy c none) := by rw [evMonitorRelease, h]

theorem flr_releases (s : State) {f : Nat} (h : f < 32) : ∃ t, exec (.flr f) s = .next t ∧ (t.func f).frozen = false :=
  ⟨_, next_of_some (if_pos h), by rw [State.modFunc_func_same]⟩

/-! ### O55 -/

/-- Settles O55: each event acts as the lemmas above say, or is refused and leaves the module as it is. -/
theorem monitorActs : Obligations.MonitorActs := by
  unfold Obligations.MonitorActs
  refine ⟨?powerOn, ?protections, ?overheat, ?restart, ?attestation, ?retirement, ?reRead, ?reRun, ?reRunTeam, ?rowFailure,
    ?band, ?shuttle, ?engine, ?channel, ?stream, ?bobbin, ?function, ?port⟩
  case powerOn =>
    refine fun s k split ports => ⟨fun h => exec_powerOn_running h k split ports, fun h => ⟨_, exec_powerOn h k split ports, ?_⟩⟩
    have hb := powerOn_blank s (s.failsAt k split) split ports
    refine ⟨hb.power, hb.hbm, hb.llc, hb.hotHalt, hb.iss, hb.teams, hb.packets, hb.nodes, hb.tlb, hb.hostMem, hb.monitorImg,
      hb.monitorSig, hb.plan, hb.supOvl, hb.sparesUsed, hb.cores, hb.dies, fun hv hk hs => ?_, fun hk => ?_, fun hv h2 h6 hs => ?_,
      fun hv hs hk => ?_, powerOn_closed⟩
    · have hf : s.failsAt k split = k := by rw [failsAt_verified hv, if_neg (by omega)]
      exact (powerOn_runs s split ports (hf.symm ▸ hk)).2
    · have hf : s.failsAt k split = 1 := by
        by_cases hv : s.monitorOk = true
        · obtain rfl := hk.resolve_left (not_not_intro hv)
          rw [failsAt_verified hv, if_neg (by omega)]
        · exact failsAt_unverified hv k split
      exact powerOn_stops hf (by omega) (by omega) ports
    · have hf : s.failsAt k split = k := by
        rw [failsAt_verified hv]
        split <;> omega
      obtain ⟨hboot, hrep⟩ := powerOn_stops hf (by omega) h6 ports
      rw [if_neg (by omega)] at hboot
      exact ⟨hboot, hrep⟩
    · have hf : s.failsAt k split = 2 := by rw [failsAt_verified hv, if_pos ⟨hs, hk⟩]
      exact powerOn_stops hf (by omega) (by omega) ports
  case protections => exact fun s i n h => ⟨_, exec_hotHalt h s, haltAll_acts s n⟩
  case overheat => exact fun _ => rfl
  case restart =>
    intro s p
    obtain ⟨hrefused, hacts⟩ := partitionRestart_acts s p
    refine ⟨fun h => next_of_none (hrefused h), fun ho hh hr => ?_⟩
    obtain ⟨t, ht, h⟩ := hacts ho hh hr
    exact ⟨t, next_of_some ht, h⟩
  case attestation =>
    intro s nonce
    obtain ⟨hnodup, hmem⟩ := supImages_spec s
    refine ⟨s.supImages, hnodup, hmem, fun hb hn => ?_, fun hb => exec_attestation_recovery hb nonce, exec_attestation_refused⟩
    rw [← reportBody_eq]
    exact exec_attestation_running hb hn
  case retirement =>
    refine fun s c => ⟨fun h => ⟨next_of_none (coreRetirement_refused h), next_of_none (coreRetirement_refused h)⟩, fun hc he => ?_⟩
    obtain ⟨t, ht, h⟩ := coreRetirement_acts hc he
    exact ⟨t, next_of_some ht, next_of_some ht, h⟩
  case reRead => exact fun _ => rfl
  case reRun =>
    refine fun s id => ⟨fun h => next_of_none (reRun_unknown h), fun n hfind => ?_⟩
    obtain ⟨hrefused, hacts⟩ := reRun_acts hfind
    refine ⟨fun h => next_of_none (hrefused h), fun h => ?_⟩
    obtain ⟨t, ht, h⟩ := hacts h
    exact ⟨t, next_of_some ht, h⟩
  case reRunTeam =>
    exact fun s k => ⟨fun h => next_of_none (reRunTeam_refused h), fun hl hd =>
      ⟨_, next_of_some (if_pos (by rw [hl, hd]; rfl)), reRunTeam_acts hl hd⟩⟩
  case rowFailure =>
    exact fun s stack part => ⟨fun hs hp => next_of_some (rowFailure_acts hs hp), fun h => next_of_none (rowFailure_refused h)⟩
  case band =>
    refine fun s k b => ⟨fun h => next_of_none (bandRelease_refused h), fun h => ?_⟩
    obtain ⟨t, ht, h⟩ := bandRelease_acts h
    exact ⟨t, next_of_some ht, h⟩
  case shuttle =>
    refine fun s c => ⟨fun h => next_of_none (if_neg (ne_true_of_eq_false h)), fun h => ?_⟩
    obtain ⟨t, ht, h⟩ := shuttleRelease_acts h
    exact ⟨t, next_of_some ht, h⟩
  case engine =>
    exact fun s cl e => ⟨fun h => next_of_none (if_neg (ne_true_of_eq_false h)), fun h => next_of_some (engineRelease_acts h)⟩
  case channel =>
    exact fun s cl ch => ⟨fun h => next_of_none (channelRelease_refused h), fun c h => next_of_some (channelRelease_acts h)⟩
  case stream =>
    exact fun s k q => ⟨fun h => next_of_none (if_neg (ne_true_of_eq_false h)), fun h => next_of_some (if_pos h)⟩
  case bobbin =>
    exact fun s b => ⟨fun h => next_of_none (if_neg (ne_true_of_eq_false h)), fun h => next_of_some (if_pos h)⟩
  case function => exact fun s f => ⟨rfl, flr_releases s⟩
  case port =>
    exact fun s p => ⟨rfl, fun good auth t hp hb h hact => portRetrain_releases hp hb (Host.Outcome.next.inj h) hact⟩

end Sys2Proof.Monitor
end

section
/-! PROOFS (O58, O15). Words of the manual; gathering, masks and the give-way (R92 to R94, R96): what the bodies write, lane by lane,
and what the completion of a JOIN rebuilds. -/

namespace Sys2Proof.Words
open Sys2Proof Sys2Proof.Machine

/-! ### Lists that the model keeps -/

@[simp] theorem mem_dedup {x : Nat} {l : List Nat} : x ∈ dedup l ↔ x ∈ l := by
  induction l with
  | nil => exact Iff.rfl
  | cons y r ih =>
    by_cases h : x = y
    · simp [dedup, h]
    · simp [dedup, h, ih]

@[simp] theorem mem_insertAsc {x y : Nat} {l : List Nat} : x ∈ insertAsc y l ↔ x = y ∨ x ∈ l := by
  induction l with
  | nil => simp [insertAsc]
  | cons z r ih =>
    rw [insertAsc]
    split
    · simp
    · simp [ih, or_left_comm]

@[simp] theorem mem_sortAsc {x : Nat} {l : List Nat} : x ∈ sortAsc l ↔ x ∈ l := by
  have key : ∀ (r acc : List Nat), x ∈ r.foldl (fun acc x => insertAsc x acc) acc ↔ x ∈ acc ∨ x ∈ r := by
    intro r
    induction r with
    | nil => simp
    | cons y r ih => intro acc; simp [ih, or_left_comm, or_assoc]
  simpa [sortAsc] using key l []

/-- Numbers that all agree are one number. -/
theorem dedup_of_forall_eq {b : Nat} {l : List Nat} (hne : l ≠ []) (h : ∀ x ∈ l, x = b) : dedup l = [b] := by
  induction l with
  | nil => exact absurd rfl hne
  | cons y r ih =>
    obtain rfl : y = b := h y List.mem_cons_self
    have hr : ∀ x ∈ dedup r, x = y := fun x hx => h x (List.mem_cons_of_mem _ (mem_dedup.mp hx))
    have hnil : (dedup r).filter (fun x => decide (x ≠ y)) = [] :=
      List.filter_eq_nil_iff.mpr fun x hx => by simp [hr x hx]
    rw [dedup, hnil]

/-- Bits that a fold ORs in. -/
theorem getLsbD_foldl_or {n : Nat} (g : Nat → BitVec n) (ls : List Nat) (m : BitVec n) (i : Nat) :
    (ls.foldl (fun m l => m ||| g l) m).getLsbD i = (m.getLsbD i || ls.any fun l => (g l).getLsbD i) := by
  induction ls generalizing m with
  | nil => simp
  | cons l r ih => rw [List.foldl_cons, ih, BitVec.getLsbD_or, List.any_cons, Bool.or_assoc]

theorem getLsbD_laneMask (ls : List Nat) (i : Nat) : (laneMask ls).getLsbD i = decide (i < 64 ∧ i ∈ ls) := by
  rw [laneMask, getLsbD_foldl_or, show BitVec.getLsbD (0 : Dword) i = false from BitVec.getLsbD_zero, Bool.false_or, Bool.eq_iff_iff, List.any_eq_true, decide_eq_true_eq]
  simp only [BitVec.getLsbD_ofNat, Nat.testBit_two_pow, Bool.and_eq_true, decide_eq_true_eq]
  exact ⟨fun ⟨l, hl, hi, he⟩ => ⟨hi, he ▸ hl⟩, fun ⟨hi, hl⟩ => ⟨i, hl, hi, rfl⟩⟩

/-! ### Threads of a team -/

theorem modThread_thread (s : State) (k : Nat) (i j : Tix) (f : Thread → Thread) :
    (s.modThread k i f).thread k j = if j = i then f (s.thread k j) else s.thread k j := by
  rw [State.modThread, State.thread, State.modTeam_team_same, Team.modThread_thread]
  split
  · next h => subst h; rfl
  · rfl

theorem live_of_ready {x : Thread} (h : x.isReady = true) : x.isLive = true := by
  unfold Thread.isReady at h
  unfold Thread.isLive
  split at h
  · next hs => rw [hs]
  · cases h

theorem nput_nput {α : Type} (m : NMap α) (k : Nat) (v w : α) : nput (nput m k v) k w = nput m k w := by
  induction m with
  | nil => simp [nput]
  | cons e r ih =>
    obtain ⟨j, u⟩ := e
    simp only [nput]
    split
    · simp [nput]
    · split
      · simp [nput]
      · simp [nput, *]

theorem nmod_nmod {α : Type} (m : NMap α) (k : Nat) (d : α) (f g : α → α) :
    nmod (nmod m k d f) k d g = nmod m k d fun x => g (f x) := by
  rw [nmod, nget_nmod_same, nmod, nput_nput]; rfl

theorem modTeam_modTeam (s : State) (k : Nat) (f g : Team → Team) :
    (s.modTeam k f).modTeam k g = s.modTeam k fun t => g (f t) :=
  congrArg (fun m => { s with teams := m }) (nmod_nmod s.teams k .free f g)

theorem modThread_modThread (s : State) (k : Nat) (i : Tix) (f g : Thread → Thread) :
    (s.modThread k i f).modThread k i g = s.modThread k i fun x => g (f x) := by
  rw [State.modThread, State.modThread, modTeam_modTeam]
  exact congrArg (s.modTeam k) (funext fun t => congrArg (fun m => { t with threads := m }) (nmod_nmod t.threads i .gone f g))

theorem modTeam_congr {s : State} {k : Nat} {f g : Team → Team} (h : f (s.team k) = g (s.team k)) :
    s.modTeam k f = s.modTeam k g :=
  congrArg (fun t => { s with teams := nput s.teams k t }) h

theorem modThread_congr {s : State} {k : Nat} {i : Tix} {f g : Thread → Thread} (h : f (s.thread k i) = g (s.thread k i)) :
    s.modThread k i f = s.modThread k i g :=
  modTeam_congr (congrArg (fun x => { s.team k with threads := nput (s.team k).threads i x }) h)

/-- The issue of an instruction that names no queue is its body. -/
theorem issue_body {s : State} {i : Instr} {k b : Nat} {ls : List Nat} {run : State → State} (h : Gang s i k b ls)
    (hr : (run s).iss = s.iss) (hq : (shapeOf i s.iss.pfx).popsQueue = false) : s.issue i run = run s := by
  rw [issue_gang h (by rw [hr]), popLanes_none ls hq]

/-- Fields that may not name a queue name registers where the instruction decodes (R46, R48). -/
theorem popsQueue_of_decodes {s : State} {i : Instr} {k b : Nat} {ls : List Nat} (hw : s.iss.who = .gang k b ls)
    (h : s.decodeFault i = none) (hq : ∀ x ∈ (shapeOf i s.iss.pfx).srcs, x.q = false) :
    (shapeOf i s.iss.pfx).popsQueue = false := by
  have hall : (shapeOf i s.iss.pfx).srcs.all (·.okThread (s.team k).allotment) = true := by
    by_contra hbad
    rw [State.decodeFault, hw] at h
    simp only [hbad] at h
    split at h
    · cases h
    · simp at h
  refine List.any_eq_false.mpr fun x hx hf => ?_
  have hok := List.all_eq_true.mp hall x hx
  rw [Src.okThread, if_pos (of_decide_eq_true hf), hq x hx] at hok
  cases hok

/-! ### Words of the manual -/

/-- Settles O58: each word is decoded. -/
theorem decodeWords : Obligations.DecodeWords := by
  unfold Obligations.DecodeWords
  exact ⟨fun _ => rfl, rfl, fun _ => rfl, rfl, fun _ => rfl, rfl, fun _ => rfl, rfl, fun _ => rfl, rfl, rfl, rfl, fun _ => rfl,
    fun _ => rfl, rfl, fun _ => rfl, fun _ => rfl, fun _ => rfl, rfl, rfl, rfl, fun _ => rfl, rfl, rfl, fun _ => rfl, rfl,
    fun _ => rfl, fun _ => rfl, fun _ => rfl, rfl, fun _ => rfl, fun _ => rfl, rfl, rfl, rfl, rfl, rfl, rfl, rfl, rfl⟩

/-! ### Masks (R55, R94) -/

theorem exec_modMask {s : State} {i : Instr} {k b : Nat} {ls : List Nat} {j : BitVec 3} {f : Dword → Dword} {run : State → State}
    (h : Gang s i k b ls) (hx : exec i s = .next (s.issue i run)) (hr : run s = s.modMask j f)
    (hq : (shapeOf i s.iss.pfx).popsQueue = false) :
    exec i s = .next (s.modTeam k fun x => x.setJ j.toNat (f ((s.team k).j j.toNat))) := by
  have hm : s.modMask j f = s.modTeam k fun x => x.setJ j.toNat (f ((s.team k).j j.toNat)) := by rw [State.modMask, h.who]; rfl
  rw [hx, issue_body h (by rw [hr, hm]; rfl) hq, hr, hm]

theorem setJ_j (x : Team) (j n : Nat) (v : Dword) : (x.setJ j v).j n = if n = j then v else x.j n := by
  rw [Team.j, Team.setJ, nget_nput]; rfl

theorem jmaskGet_yields (r : JmOp) : Yields (.jmaskGet r) (pair r.d.toNat fun s _ => match s.iss.who with
    | .gang k _ _ => (s.viewTeam k).j r.j.toNat
    | _ => 0) nothing noFlags := by
  refine yieldsIf_body (run := runJmaskGet r) (f := fun s l t => t.setPair r.d.toNat (match s.iss.who with
    | .gang k _ _ => (s.viewTeam k).j r.j.toNat
    | _ => 0)) (fun _ => rfl) (fun s k b ls h _ => ?_) (fun s l => Sets.pair _ (fun s _ => match s.iss.who with
    | .gang k _ _ => (s.viewTeam k).j r.j.toNat
    | _ => 0) s l)
  have hput : ∀ (u : State) (l : Nat) (m : Dword), u.iss.who = s.iss.who →
      u.put64 l r.d.toNat m = u.lane l fun t => t.setPair r.d.toNat m := by
    intro u l m hu
    rw [State.put64, hu, h.who]
    rfl
  have hfold : ∀ (m : Dword) (ms : List Nat) (u : State), u.iss.who = s.iss.who →
      ms.foldl (fun s l => s.put64 l r.d.toNat m) u = ms.foldl (fun s l => s.lane l fun t => t.setPair r.d.toNat m) u := by
    intro m ms
    induction ms with
    | nil => exact fun _ _ => rfl
    | cons l ms ih => intro u hu; rw [List.foldl_cons, List.foldl_cons, hput u l m hu, ih _ (by rw [lane_iss, hu])]
  rw [runJmaskGet, h.who]
  simp only [State.parts_, h.who]
  rw [hfold _ ls s rfl]
  exact body_foldl_lane (fun _ t => t.setPair r.d.toNat ((s.viewTeam k).j r.j.toNat)) h.who h.asc

/-! ### Giving way (R96) -/

/-- The counters that thread i of a team yields to. -/
def yieldsTo (t : Team) (i : Tix) : List Nat :=
  dedup (((t.quadThreads (i / 64) (i % 64 / 4)).filter fun j => (t.thread j).isReady && (t.thread j).pc != (t.thread i).pc).map
    fun j => (t.thread j).pc.toNat)

theorem yieldTo_eq (t : Team) (i : Tix) : t.yieldTo i = t.modThread i fun x => { x with passed := yieldsTo t i } := rfl

/-- What the threads of a team show to one that yields. -/
def stands (t : Team) (i : Tix) : TStat × Pc := ((t.thread i).stat, (t.thread i).pc)

theorem yieldsTo_congr {t u : Team} (h : ∀ i, stands t i = stands u i) (i : Tix) : yieldsTo t i = yieldsTo u i := by
  have hs : ∀ i, (t.thread i).stat = (u.thread i).stat := fun i => congrArg Prod.fst (h i)
  have hp : ∀ i, (t.thread i).pc = (u.thread i).pc := fun i => congrArg Prod.snd (h i)
  simp [yieldsTo, Team.quadThreads, Thread.isLive, Thread.isReady, hs, hp]

theorem stands_yieldTo (t : Team) (i j : Tix) : stands (t.yieldTo i) j = stands t j := by
  rw [yieldTo_eq, stands, Team.modThread_thread]
  split
  · rfl
  · rfl

/-- Threads that yield one after another yield to the counters as they stood before. -/
theorem foldl_yieldTo (b : Nat) (ls : List Nat) (t u : Team) (h : ∀ i, stands u i = stands t i) :
    ls.foldl (fun t l => t.yieldTo (64 * b + l)) u =
      ls.foldl (fun u l => u.modThread (64 * b + l) fun x => { x with passed := yieldsTo t (64 * b + l) }) u := by
  induction ls generalizing u with
  | nil => rfl
  | cons l r ih =>
    rw [List.foldl_cons, List.foldl_cons, ih _ fun i => (stands_yieldTo u _ i).trans (h i), yieldTo_eq, yieldsTo_congr h]

theorem runYield_eq {s : State} {k b : Nat} {ls : List Nat} (h : s.iss.who = .gang k b ls) :
    runYield s = s.eachLane fun l x => { x with passed := yieldsTo (s.team k) (64 * b + l) } := by
  rw [runYield, State.eachLane, h]
  exact modTeam_congr (foldl_yieldTo b ls _ _ fun _ => rfl)

/-- A body that changes its lanes' threads, and the pops after it. -/
theorem changes_body {s : State} {i : Instr} {k b : Nat} {ls : List Nat} {run : State → State} {f : Nat → Thread → Thread}
    (h : Gang s i k b ls) (hx : exec i s = .next (s.issue i run)) (hb : Body s (run s) k b ls f 0)
    (hq : ∀ l x, (f l x).qpos = x.qpos) :
    ∃ t, exec i s = .next t ∧ OnlyTeam s t k ∧ Threads s t k b ls (shapeOf i s.iss.pfx) f := by
  refine ⟨_, hx, ?_⟩
  rw [issue_gang h hb.iss]
  exact threads_body h.who h.asc hb fun l _ => hq l _

/-! ### The completion of a JOIN (R72, R93) -/

theorem mem_joinWaiters {t : Team} {b : Nat} {pc : Pc} {j : BitVec 3} {i : Tix} :
    i ∈ t.joinWaiters b pc j ↔ i ∈ t.liveThreads ∧ i / 64 = b ∧ (t.thread i).stat = .atJoin j pc := by
  rw [Team.joinWaiters, List.mem_filter, Bool.and_eq_true, beq_iff_eq]
  refine and_congr_right fun _ => and_congr_right fun _ => ?_
  cases (t.thread i).stat <;> simp

theorem joinDone_iff {t : Team} {b : Nat} {pc : Pc} {j : BitVec 3} : t.joinDone b pc j = true ↔
    (∃ i, i ∈ t.joinWaiters b pc j) ∧
      ∀ i ∈ t.liveThreads, i / 64 = b → (t.j j.toNat).getLsbD (i % 64) = true → i ∈ t.joinWaiters b pc j := by
  rw [Team.joinDone, Bool.and_eq_true, Bool.not_eq_true', List.isEmpty_eq_false_iff_exists_mem, List.all_eq_true]
  refine and_congr_right fun _ => forall_congr' fun i => forall_congr' fun _ => ?_
  simp only [Bool.or_eq_true, bne_iff_ne, Bool.not_eq_true', List.contains_iff_mem]
  by_cases hb : i / 64 = b
  · cases h : (t.j j.toNat).getLsbD (i % 64) <;> simp [hb]
  · simp [hb]

/-- Threads made ready: each of them stands as it did, but ready; the others do not change. -/
theorem foldl_ready (ts : List Tix) (t : Team) :
    let u := ts.foldl (fun t i => t.modThread i fun x => { x with stat := .ready }) t
    u = { t with threads := u.threads } ∧
      ∀ i, u.thread i = if i ∈ ts then { t.thread i with stat := .ready } else t.thread i := by
  induction ts generalizing t with
  | nil => exact ⟨rfl, fun i => by simp⟩
  | cons a r ih =>
    obtain ⟨hu, hi⟩ := ih (t.modThread a fun x => { x with stat := .ready })
    refine ⟨by rw [List.foldl_cons, hu]; rfl, fun i => ?_⟩
    rw [List.foldl_cons, hi, Team.modThread_thread]
    by_cases ha : i = a
    · subst ha; simp
    · simp [ha]

theorem mem_quadSet {t : Team} {b q : Nat} (h : q < 16) : q ∈ t.quadSet b q := by
  simp [Team.quadSet, h]

/-- Quads at one counter are of one context (R70). -/
theorem mem_group {t : Team} {b n q u p : Nat} {qs : List Nat} (hq : q ∈ qs) (hu : u ∈ qs)
    (hcq : t.classify b q = .uniform p) (hcu : t.classify b u = .uniform p) :
    ∃ c ∈ t.group b n qs, c.band = b ∧ q ∈ c.quads ∧ u ∈ c.quads := by
  have hp : p ∈ t.uniformPcs b qs := by
    rw [Team.uniformPcs, mem_dedup, List.mem_filterMap]
    exact ⟨q, hq, by rw [hcq]⟩
  refine ⟨⟨b, qs.filter fun q => t.classify b q == .uniform p, n⟩, ?_, rfl, ?_, ?_⟩
  · rw [Team.group]
    exact List.mem_append_left _ (List.mem_append_left _ (List.mem_map_of_mem hp))
  · simp [hq, hcq]
  · simp [hu, hcu]

/-- What a release gives threads of one band (R72). -/
theorem release_spec (t : Team) (n : Nat) {b : Nat} {ts : List Nat} (hne : ts ≠ []) (hb : ∀ i ∈ ts, i / 64 = b) :
    let u := t.release n ts
    u = { t with threads := u.threads, ctxs := u.ctxs } ∧
      (∀ i, u.thread i = if i ∈ ts then { t.thread i with stat := .ready } else t.thread i) ∧
      ∀ i ∈ ts, ∀ j ∈ ts, ∀ p, u.classify b (i % 64 / 4) = .uniform p → u.classify b (j % 64 / 4) = .uniform p →
        ∃ c ∈ u.ctxs, c.band = b ∧ i % 64 / 4 ∈ c.quads ∧ j % 64 / 4 ∈ c.quads := by
  have hbands : dedup (ts.map (· / 64)) = [b] :=
    dedup_of_forall_eq (by simpa using hne) fun x hx => by
      obtain ⟨i, hi, rfl⟩ := List.mem_map.mp hx
      exact hb i hi
  obtain ⟨hu, hthread⟩ := foldl_ready ts t
  intro u
  simp only [u, Team.release, hbands, List.foldl_cons, List.foldl_nil]
  generalize ts.foldl (fun t i => t.modThread i fun x => { x with stat := .ready }) t = v at hu hthread ⊢
  have hmem : ∀ i ∈ ts, i % 64 / 4 ∈ sortAsc (dedup (((quadsOf ts).filter fun q => q / 16 == b).flatMap
      fun q => v.quadSet b (q % 16))) := fun i hi => by
    have hq : i / 4 ∈ (quadsOf ts).filter fun q => q / 16 == b := by
      rw [List.mem_filter, quadsOf, mem_dedup]
      exact ⟨List.mem_map_of_mem hi, by have := hb i hi; simp; omega⟩
    rw [mem_sortAsc, mem_dedup, List.mem_flatMap]
    exact ⟨i / 4, hq, by rw [show i / 4 % 16 = i % 64 / 4 by omega]; exact mem_quadSet (by omega)⟩
  refine ⟨by rw [hu], fun i => hthread i, fun i hi j hj p hci hcj => ?_⟩
  obtain ⟨c, hc, h⟩ := mem_group (n := n) (hmem i hi) (hmem j hj) hci hcj
  exact ⟨c, List.mem_append_right _ hc, h⟩

theorem exec_joinCompletion (s : State) (k b : Nat) (pc : Pc) (j : BitVec 3) :
    exec (.joinCompletion k b pc j) s = .next ((evJoinCompletion k b pc j s).getD s) := rfl

/-- Settles O15: each body writes what its rule says; the completion of a JOIN is the release of its waiters. -/
theorem gatheringAndMasks : Obligations.GatheringAndMasks := by
  unfold Obligations.GatheringAndMasks
  refine ⟨fun s k b ls => ⟨fun h => ?nop, fun l h => ?pad⟩, fun s c h => ?nopShuttle, fun s k b ls j h => ?join,
    fun s k b ls j h => ?clear, fun s k b ls j h => ?gather, fun s k b ls r h => ?registers, ?setJ, jmaskGet_yields,
    fun s k b ls h => ?yield, fun s k b pc j => ?completion⟩
  case nop => exact congrArg Host.Outcome.next (issue_body (run := id) h rfl rfl)
  case pad => exact congrArg Host.Outcome.next (issue_body (run := id) h rfl rfl)
  case nopShuttle => exact congrArg Host.Outcome.next (issue_shuttle (run := id) h h.outs)
  case join =>
    have hr : runJoin j s = s.eachLane fun l x =>
        if ((s.viewTeam k).j j.toNat).getLsbD l then { x with stat := .atJoin j s.iss.pc } else x := by rw [runJoin, h.who]
    refine changes_body (run := runJoin j) h rfl (by rw [hr]; exact body_eachLane _ h.who h.asc) fun l x => ?_
    split <;> rfl
  case clear => exact exec_modMask (f := fun _ => 0) h rfl rfl rfl
  case gather =>
    refine ⟨(s.team k).j j.toNat ||| laneMask ls, ?_, fun i => ?_⟩
    · have hr : runJmaskG j s = s.modMask j fun m => m ||| laneMask ls := by rw [runJmaskG, State.lanes, h.who]
      exact exec_modMask h rfl hr rfl
    · rw [BitVec.getLsbD_or, getLsbD_laneMask]
  case registers =>
    have hq : (shapeOf (.jmaskR r) s.iss.pfx).popsQueue = false :=
      popsQueue_of_decodes h.who h.ok fun x hx => by rw [List.mem_singleton.mp hx]; rfl
    refine ⟨ls.foldl (fun m l => m ||| s.rd64 l r.d) ((s.team k).j r.j.toNat), ?_, getLsbD_foldl_or _ ls _⟩
    have hr : runJmaskR r s = s.modMask r.j fun m => ls.foldl (fun m l => m ||| s.rd64 l r.d) m := by
      rw [runJmaskR, State.lanes, h.who]
    exact exec_modMask h rfl hr hq
  case setJ => exact fun x j n v => ⟨setJ_j x j n v, rfl⟩
  case yield =>
    exact changes_body (run := runYield) h rfl (by rw [runYield_eq h.who]; exact body_eachLane _ h.who h.asc) fun _ _ => rfl
  case completion =>
    intro waits
    have hw : ∀ i, waits i ↔ i ∈ (s.team k).joinWaiters b pc j := fun i => mem_joinWaiters.symm
    have hnot : (s.team k).joinDone b pc j = false → exec (.joinCompletion k b pc j) s = .next s := fun h => by
      rw [exec_joinCompletion, evJoinCompletion, h]; rfl
    refine ⟨fun ⟨⟨i, hi⟩, hall⟩ => ?_, fun ⟨i, hl, hb, hj, hn⟩ => hnot ?_, fun hn => hnot ?_⟩
    · have hdone : (s.team k).joinDone b pc j = true :=
        joinDone_iff.mpr ⟨⟨i, (hw i).mp hi⟩, fun i hl hb hj => (hw i).mp (hall i hl hb hj)⟩
      obtain ⟨hteam, hthread, hctx⟩ := release_spec (s.team k) s.fresh (List.ne_nil_of_mem ((hw i).mp hi))
        fun i hi => (mem_joinWaiters.mp hi).2.1
      have hx : exec (.joinCompletion k b pc j) s = .next ((s.modTeam k fun t => t.release s.fresh (t.joinWaiters b pc j)).modCore
          (coreOfTeam k) fun c => c.count 9 1) := by
        rw [exec_joinCompletion, evJoinCompletion, if_pos hdone]; rfl
      have ht : ((s.modTeam k fun t => t.release s.fresh (t.joinWaiters b pc j)).modCore (coreOfTeam k) fun c => c.count 9 1).team k =
          (s.team k).release s.fresh ((s.team k).joinWaiters b pc j) := by rw [State.modCore_team, State.modTeam_team_same]
      refine ⟨_, hx, rfl, fun i hi => by rw [State.modCore_team, State.modTeam_team_ne _ _ _ _ hi], fun c hc => State.modCore_core_ne _ _ _ _ hc,
        State.modCore_core_same _ _ _, ?_, fun i hi => ?_, fun i hi => ?_, ?_⟩
      · rw [ht]; exact hteam
      · rw [State.thread, ht, hthread, if_pos ((hw i).mp hi)]; rfl
      · rw [State.thread, ht, hthread, if_neg (mt (hw i).mpr hi)]; rfl
      · rintro q u p ⟨i, hi, rfl⟩ ⟨l, hl, rfl⟩
        rw [ht]
        exact hctx i ((hw i).mp hi) l ((hw l).mp hl) p
    · exact Bool.eq_false_iff.mpr fun h => hn ((hw i).mpr ((joinDone_iff.mp h).2 i hl hb hj))
    · refine Bool.eq_false_iff.mpr fun h => ?_
      obtain ⟨⟨i, hi⟩, -⟩ := joinDone_iff.mp h
      exact hn i ((hw i).mpr hi)

end Sys2Proof.Words
end

section
/-! PROOFS (O17). DQPOP and the fills that registers wait for (R49, R50, R97). -/

namespace Sys2Proof.Words
open Sys2Proof Sys2Proof.Machine

/-! ### Full bits and registers of a thread -/

theorem clearFull_full (x : Thread) (n m : Nat) : (x.clearFull n).full m = if m = n then false else x.full m := by
  unfold Thread.clearFull Thread.full
  split
  · next h =>
    split
    · next hm => simpa [hm] using h
    · rfl
  · by_cases hm : m = n <;> simp [hm]

/-- Registers marked empty: nothing else of the thread changes (R50). -/
theorem foldl_clearFull (regs : List Nat) (x : Thread) :
    (∃ es, regs.foldl Thread.clearFull x = { x with empty := es }) ∧
      ∀ n, (regs.foldl Thread.clearFull x).full n = if n ∈ regs then false else x.full n := by
  induction regs generalizing x with
  | nil => exact ⟨⟨x.empty, rfl⟩, fun n => by simp⟩
  | cons r rs ih =>
    obtain ⟨⟨es, he⟩, hf⟩ := ih (x.clearFull r)
    have hone : ∃ es, x.clearFull r = { x with empty := es } := by
      unfold Thread.clearFull
      split
      · exact ⟨x.empty, rfl⟩
      · exact ⟨_, rfl⟩
    obtain ⟨es', he'⟩ := hone
    refine ⟨⟨es, by rw [List.foldl_cons, he, he']⟩, fun n => ?_⟩
    rw [List.foldl_cons, hf, clearFull_full]
    by_cases hn : n = r
    · simp [hn]
    · simp [hn]

/-- Consecutive registers are written and become full (R46, R50). -/
theorem setGs_spec (x : Thread) (d : Nat) (ws : List Word) :
    (∃ rs es, x.setGs d ws = { x with regs := rs, empty := es }) ∧
      ∀ n, if h : d ≤ n ∧ n < d + ws.length then (x.setGs d ws).g n = ws[n - d]'(by omega) ∧ (x.setGs d ws).full n = true
        else (x.setGs d ws).g n = x.g n ∧ (x.setGs d ws).full n = x.full n := by
  induction ws generalizing x d with
  | nil => exact ⟨⟨x.regs, x.empty, rfl⟩, fun n => by rw [dif_neg (by simp)]; exact ⟨rfl, rfl⟩⟩
  | cons w ws ih =>
    obtain ⟨⟨rs, es, he⟩, hn⟩ := ih (x.setG d w) (d + 1)
    refine ⟨⟨rs, es, he⟩, fun n => ?_⟩
    specialize hn n
    rw [Thread.setG_g, Thread.setG_full] at hn
    simp only [Thread.setGs, List.length_cons]
    by_cases hd : n = d
    · subst hd
      rw [dif_neg (by omega), if_pos rfl, if_pos rfl] at hn
      rw [dif_pos (by omega)]
      simpa using hn
    · by_cases hin : d + 1 ≤ n ∧ n < d + 1 + ws.length
      · rw [dif_pos hin] at hn
        rw [dif_pos (by omega)]
        simpa [List.getElem_cons, show n - d ≠ 0 by omega, Nat.sub_sub] using hn
      · rw [dif_neg hin, if_neg hd, if_neg hd] at hn
        rw [dif_neg (by omega)]
        exact hn

/-! ### DQPOP (R97) -/

/-- The registers that a DQPOP names. -/
def dqRegs (r : DqOp) : List Nat := r.d.toNat :: if r.w then [r.d.toNat + 1] else []

/-- What is on its way to a thread of a team that pops its next decision: the entry, or the wait for it. -/
def dqVal (r : DqOp) (q : Team) (pos : Nat) : FillVal :=
  match q.dq[pos - q.dqFirst]? with
  | some v => .words (v.setWidth 32 :: if r.w then [(v >>> 32).setWidth 32] else [])
  | none => .decision pos r.w

/-- A thread that pops a decision. -/
def dqThread (r : DqOp) (x : Thread) : Thread := (dqRegs r).foldl Thread.clearFull { x with dqpos := x.dqpos + 1 }

/-- Fills are put on their way (R50). -/
def withFills (s : State) (fs : List Fill) : State := { s with fills := s.fills ++ fs, fresh := s.fresh + fs.length }

theorem withFills_withFills (s : State) (fs gs : List Fill) : withFills (withFills s fs) gs = withFills s (fs ++ gs) := by
  simp [withFills, Nat.add_assoc]

theorem lane_withFills (s : State) (fs : List Fill) (l : Nat) (f : Thread → Thread) :
    (withFills s fs).lane l f = withFills (s.lane l f) fs := by
  unfold State.lane
  rw [show (withFills s fs).iss = s.iss from rfl]
  split <;> rfl

theorem foldl_lane_withFills (ls : List Nat) (f : Thread → Thread) (s : State) (fs : List Fill) :
    ls.foldl (fun s l => s.lane l f) (withFills s fs) = withFills (ls.foldl (fun s l => s.lane l f) s) fs := by
  induction ls generalizing s with
  | nil => rfl
  | cons l r ih => rw [List.foldl_cons, List.foldl_cons, lane_withFills, ih]

theorem lane_fresh (s : State) (l : Nat) (f : Thread → Thread) : (s.lane l f).fresh = s.fresh := by
  unfold State.lane
  split <;> rfl

theorem addFill_lane (s : State) (l : Nat) (f : Thread → Thread) (k : Nat) (i : Tix) (regs : List Nat) (v : FillVal) :
    (s.lane l f).addFill k i regs v = withFills (s.lane l f) [⟨s.fresh, k, i, regs, v⟩] := by
  rw [State.addFill, lane_fresh, withFills, lane_fresh]; rfl

/-- One lane pops (the body of `runDqpop`). -/
def dqLane (r : DqOp) (k b : Nat) (s : State) (l : Nat) : Except Out State :=
  let t := s.team k
  let pos := (t.thread (64 * b + l)).dqpos
  let s := s.lane l fun x => { x with dqpos := pos + 1 }
  match t.dq[pos - t.dqFirst]? with
  | some e =>
    .ok (s.fillLater k (64 * b + l) r.d.toNat
      ([BitVec.ofNat 32 e.toNat] ++ if r.w then [BitVec.ofNat 32 (e.toNat / 4294967296)] else []))
  | none =>
    .ok ((s.lane l fun x => (dqRegs r).foldl Thread.clearFull x).addFill k (64 * b + l) (dqRegs r) (.decision pos r.w))

theorem runDqpop_eq {s : State} {r : DqOp} {k b : Nat} {ls : List Nat} (h : s.iss.who = .gang k b ls) :
    runDqpop r s = (s.forParts (dqLane r k b)).modTeam k Team.retireDq := by
  rw [runDqpop, h]; rfl

theorem dqRegs_eq (r : DqOp) (v w : Word) :
    (List.range ([v] ++ if r.w then [w] else []).length).map (r.d.toNat + ·) = dqRegs r := by
  unfold dqRegs
  cases r.w <;> rfl

theorem dqWords_eq (r : DqOp) (e : Dword) :
    ([BitVec.ofNat 32 e.toNat] ++ if r.w then [BitVec.ofNat 32 (e.toNat / 4294967296)] else []) =
      e.setWidth 32 :: if r.w then [(e >>> 32).setWidth 32] else [] := by
  have hlow : BitVec.ofNat 32 e.toNat = e.setWidth 32 := BitVec.eq_of_toNat_eq (by simp)
  have hhigh : BitVec.ofNat 32 (e.toNat / 4294967296) = (e >>> 32).setWidth 32 :=
    BitVec.eq_of_toNat_eq (by simp [Nat.shiftRight_eq_div_pow])
  rw [hlow, hhigh]; rfl

theorem dqLane_eq {s : State} (r : DqOp) {k b : Nat} {ls : List Nat} (hw : s.iss.who = .gang k b ls) (l : Nat) :
    dqLane r k b s l = .ok (withFills (s.lane l (dqThread r))
      [⟨s.fresh, k, 64 * b + l, dqRegs r, dqVal r (s.team k) (s.thread k (64 * b + l)).dqpos⟩]) := by
  have hpop : ((s.lane l fun x => { x with dqpos := (s.thread k (64 * b + l)).dqpos + 1 }).modThread k (64 * b + l) fun x =>
      (dqRegs r).foldl Thread.clearFull x) = s.lane l (dqThread r) := by
    simp only [State.lane, hw]
    rw [modThread_modThread]
    exact modThread_congr rfl
  have hlane : ∀ f : Thread → Thread, (s.lane l fun x => { x with dqpos := (s.thread k (64 * b + l)).dqpos + 1 }).lane l f =
      (s.lane l fun x => { x with dqpos := (s.thread k (64 * b + l)).dqpos + 1 }).modThread k (64 * b + l) f := fun f => by
    rw [State.lane, lane_iss, hw]
  unfold dqLane dqVal
  dsimp only
  rw [show ((s.team k).thread (64 * b + l)).dqpos = (s.thread k (64 * b + l)).dqpos from rfl]
  split
  · rw [State.fillLater, dqRegs_eq, hpop, dqWords_eq, addFill_lane]
  · rw [hlane, hpop, addFill_lane]

/-- The fills that a DQPOP puts on their way: those of its lanes in order, numbered from n on. -/
def dqFills (r : DqOp) (k b : Nat) (q : Team) (n : Nat) (ls : List Nat) : List Fill :=
  (indexed ls).map fun e => ⟨n + e.1, k, 64 * b + e.2, dqRegs r, dqVal r q (q.thread (64 * b + e.2)).dqpos⟩

theorem indexed_cons {α : Type} (a : α) (l : List α) : indexed (a :: l) = (0, a) :: (indexed l).map fun e => (e.1 + 1, e.2) := by
  rw [indexed, List.length_cons, List.range_succ_eq_map, List.zip_cons_cons, List.zip_map_left]
  rfl

theorem dqFills_cons (r : DqOp) (k b : Nat) (q : Team) (n l : Nat) (ls : List Nat) : dqFills r k b q n (l :: ls) =
    ⟨n, k, 64 * b + l, dqRegs r, dqVal r q (q.thread (64 * b + l)).dqpos⟩ :: dqFills r k b q (n + 1) ls := by
  simp [dqFills, indexed_cons, Nat.add_assoc, Nat.add_comm 1]

theorem dqFills_length (r : DqOp) (k b : Nat) (q : Team) (n : Nat) (ls : List Nat) : (dqFills r k b q n ls).length = ls.length := by
  simp [dqFills, indexed]

/-- Lanes pop one after another, each at the position it stood at before the issue. -/
theorem serve_dqLane {k b : Nat} {ms : List Nat} (r : DqOp) (q : Team) (ls : List Nat) (s : State) (hw : s.iss.who = .gang k b ms)
    (hs : ls.Pairwise (· < ·)) (hq : (s.team k).dq = q.dq ∧ (s.team k).dqFirst = q.dqFirst)
    (hl : ∀ l ∈ ls, s.thread k (64 * b + l) = q.thread (64 * b + l)) :
    Serve (dqLane r k b) s ls (withFills (ls.foldl (fun s l => s.lane l (dqThread r)) s) (dqFills r k b q s.fresh ls)) := by
  induction ls generalizing s with
  | nil => simp [Serve, withFills, dqFills, indexed]
  | cons l ls ih =>
    obtain ⟨hlt, hs⟩ := List.pairwise_cons.mp hs
    let u := withFills (s.lane l (dqThread r)) [⟨s.fresh, k, 64 * b + l, dqRegs r, dqVal r (s.team k) (s.thread k (64 * b + l)).dqpos⟩]
    have hteam : u.team k = (s.team k).modThread (64 * b + l) (dqThread r) := by
      have : u.team k = (s.lane l (dqThread r)).team k := rfl
      rw [this, State.lane, hw]
      exact State.modTeam_team_same _ _ _
    have hthread : ∀ m ∈ ls, u.thread k (64 * b + m) = q.thread (64 * b + m) := fun m hm => by
      have := hlt m hm
      rw [State.thread, hteam, Team.modThread_thread, if_neg (Nat.ne_of_gt (Nat.add_lt_add_left this _))]
      exact hl m (List.mem_cons_of_mem _ hm)
    have hval : dqVal r (s.team k) (s.thread k (64 * b + l)).dqpos = dqVal r q (q.thread (64 * b + l)).dqpos := by
      rw [hl l List.mem_cons_self, dqVal, dqVal, hq.1, hq.2]
    refine ⟨u, dqLane_eq r hw l, ?_⟩
    have h := ih u (by rw [← hw]; exact congrArg Issue.who (lane_iss s l _)) hs (by rw [hteam]; exact hq) hthread
    have hfresh : u.fresh = s.fresh + 1 := congrArg (· + 1) (lane_fresh s l _)
    rw [foldl_lane_withFills, withFills_withFills, hfresh, hval] at h
    rw [List.foldl_cons, dqFills_cons]
    exact h

/-! ### Entries that retire (R49) -/

theorem foldl_min_le (f : Nat → Nat) (ts : List Nat) (m : Nat) : ts.foldl (fun m i => min m (f i)) m ≤ m ∧
    ∀ i ∈ ts, ts.foldl (fun m i => min m (f i)) m ≤ f i := by
  induction ts generalizing m with
  | nil => simp
  | cons a r ih =>
    obtain ⟨h1, h2⟩ := ih (min m (f a))
    rw [List.foldl_cons]
    refine ⟨by omega, fun i hi => ?_⟩
    obtain rfl | hi := List.mem_cons.mp hi
    · omega
    · exact h2 i hi

/-- The decision queue retires from its head, and no entry that a live thread has yet to pop. -/
theorem retireDq_spec (t : Team) : let u := t.retireDq
    u = { t with dq := u.dq, dqFirst := u.dqFirst } ∧ u.dq = t.dq.drop (u.dqFirst - t.dqFirst) ∧
      ∀ i ∈ t.liveThreads, u.dqFirst ≤ max t.dqFirst (t.thread i).dqpos := by
  refine ⟨rfl, ?_, fun i hi => ?_⟩
  · simp only [Team.retireDq]
    congr 1
    omega
  · have hlow : _ ≤ (t.thread i).dqpos := (foldl_min_le (fun i => (t.thread i).dqpos) t.liveThreads (t.dqFirst + t.dq.length)).2 i hi
    exact max_le (hlow.trans (le_max_right _ _)) (le_max_left _ _)

/-- DQPOP is the pops of its lanes, their fills and the entries that retire. -/
theorem dqpop_completes {s : State} {k b : Nat} {ls : List Nat} {r : DqOp} (h : Gang s (.dqpop r) k b ls) :
    ∃ u, u = { s with teams := u.teams } ∧ Body s u k b ls (fun _ => dqThread r) 0 ∧
      exec (.dqpop r) s = .next ((withFills u (dqFills r k b (s.team k) s.fresh ls)).modTeam k Team.retireDq) := by
  have hb := body_foldl_lane (fun _ => dqThread r) h.who h.asc
  have hiss : (ls.foldl (fun s l => s.lane l (dqThread r)) s).iss = s.iss := foldl_lane_iss ls (fun _ => dqThread r) s
  have hserve := serve_dqLane r (s.team k) ls s h.who h.asc ⟨rfl, rfl⟩ fun _ _ => rfl
  generalize ls.foldl (fun s l => s.lane l (dqThread r)) s = u at hb hiss hserve
  have hu : u = { s with teams := u.teams } := by rw [hb.only.1, hiss]
  have hrun : runDqpop r s = (withFills u (dqFills r k b (s.team k) s.fresh ls)).modTeam k Team.retireDq := by
    rw [runDqpop_eq h.who, forParts_gang h.who hserve]
  have hx : exec (.dqpop r) s = .next (s.issue (.dqpop r) (runDqpop r)) := rfl
  refine ⟨u, hu, hb, ?_⟩
  rw [hx, issue_body h (by rw [hrun]; exact hiss) (popsQueue_of_decodes h.who h.ok fun x hx => by cases hx), hrun]

theorem dqThread_spec (r : DqOp) (x : Thread) : ∃ es, dqThread r x = { x with empty := es, dqpos := x.dqpos + 1 } ∧
    ∀ n, (dqThread r x).full n = if n ∈ dqRegs r then false else x.full n := by
  obtain ⟨⟨es, he⟩, hf⟩ := foldl_clearFull (dqRegs r) { x with dqpos := x.dqpos + 1 }
  exact ⟨es, he, hf⟩

/-! ### Fills (R50) -/

theorem fill_arrives {s : State} {f : Fill} {d : Nat} {ws : List Word} (hid : (s.fills.filter fun g => g.id == f.id) = [f])
    (hv : f.val = .words ws) (hr : f.regs = (List.range ws.length).map (d + ·)) (hl : (s.thread f.team f.t).isLive = true) :
    exec (.destinationFill f.id) s = .next (({ s with fills := s.fills.filter fun g => g.id != f.id } : State).modThread f.team f.t
      fun x => x.setGs d ws) := by
  have hgs : ∀ x : Thread, x.setGs (f.regs.headD 0) ws = x.setGs d ws := fun x => by
    cases ws with
    | nil => rfl
    | cons w ws => rw [hr]; simp [List.range_succ_eq_map]
  let u : State := { s with fills := s.fills.filter fun g => g.id != f.id }
  have hlive : ((u.team f.team).thread f.t).isLive = true := hl
  have happly : u.applyFill f = u.modThread f.team f.t fun x => x.setGs d ws := by
    unfold State.applyFill
    rw [hv, if_neg (by rw [hlive]; decide)]
    simp only [hgs]
  have he : evDestinationFill f.id s = some (u.applyFill f) := by
    obtain ⟨id, tm, t, regs, v⟩ := f
    subst hv
    unfold evDestinationFill
    rw [hid]
    rfl
  exact (Monitor.next_of_some he).trans (congrArg _ happly)

/-- Settles O17: the lanes pop one after another, the queue retires, and a fill writes its words. -/
theorem decisionPopsAndFills : Obligations.DecisionPopsAndFills := by
  unfold Obligations.DecisionPopsAndFills
  refine ⟨fun s k b ls r h => ?pop, fun s f d ws hid hv hr hl => ?fill⟩
  case pop =>
    obtain ⟨u, hu, hb, hx⟩ := dqpop_completes h
    obtain ⟨hrest, hdq, hlow⟩ := retireDq_spec (u.team k)
    have ht : ((withFills u (dqFills r k b (s.team k) s.fresh ls)).modTeam k Team.retireDq).team k = (u.team k).retireDq :=
      State.modTeam_team_same _ k _
    have hthread : ∀ i, ((withFills u (dqFills r k b (s.team k) s.fresh ls)).modTeam k Team.retireDq).thread k i = u.thread k i :=
      fun i => by rw [State.thread, ht]; rfl
    have hteam : u.team k = { s.team k with threads := (u.team k).threads } := by rw [hb.team]; simp
    have hq : (u.team k).dq = (s.team k).dq ∧ (u.team k).dqFirst = (s.team k).dqFirst := by rw [hteam]; exact ⟨rfl, rfl⟩
    have hfills : u.fills = s.fills := by rw [hu]
    have hfresh : u.fresh + (dqFills r k b (s.team k) s.fresh ls).length = s.fresh + ls.length := by rw [hu, dqFills_length]
    rw [hq.1, hq.2] at hdq
    rw [hq.2] at hlow
    refine ⟨_, hx, ?_, fun j hj => ?_, ?_, ?_, fun i hi => ?_, ?_, fun i hi => (hthread i).trans (hb.idle i hi), fun l hl => ?_⟩
    · rw [← hfresh, hu]; rfl
    · exact (State.modTeam_team_ne _ _ _ _ hj).trans (hb.only.2 j hj)
    · rw [ht, hrest, hteam]
    · rw [ht]; exact hdq
    · rw [ht] at hi ⊢
      rw [hthread]
      exact hlow i hi
    · rw [← hfills]; rfl
    · obtain ⟨es, he, hf⟩ := dqThread_spec r (s.thread k (64 * b + l))
      rw [hthread, hb.lane l hl]
      exact ⟨es, he, hf⟩
  case fill =>
    obtain ⟨⟨rs, es, he⟩, hn⟩ := setGs_spec (s.thread f.team f.t) d ws
    have hthread : ∀ i, (({ s with fills := s.fills.filter fun g => g.id != f.id } : State).modThread f.team f.t
        fun x => x.setGs d ws).thread f.team i = if i = f.t then (s.thread f.team i).setGs d ws else s.thread f.team i :=
      fun i => modThread_thread _ _ _ _ _
    refine ⟨_, fill_arrives hid hv hr hl, rfl, fun j hj => State.modTeam_team_ne _ _ _ _ hj, ?_, fun i hi => ?_, rs, es, ?_, ?_⟩
    · rw [State.modThread, State.modTeam_team_same]; rfl
    · rw [hthread, if_neg hi]
    · rw [hthread, if_pos rfl, he]
    · rw [hthread, if_pos rfl]; exact hn

end Sys2Proof.Words
end

section
/-! PROOFS (O16). EXIT: its threads end one after another, then what an ended team held open goes (R80, R81, R95). -/

namespace Sys2Proof.Words
open Sys2Proof Sys2Proof.Machine

/-! ### Threads that end (R95) -/

/-- One of the threads ts of team k. -/
def oneOf (k : Nat) (ts : List Nat) (w : Who) : Bool := ts.any fun i => w == .thread k i

theorem oneOf_cons (k i : Nat) (ts : List Nat) (w : Who) : oneOf k (i :: ts) w = (w == .thread k i || oneOf k ts w) := rfl

/-- What ended threads ts of team k leave: nothing on its way to them, no request, no wait, and records that keep their batches. -/
structure Ends (s t : State) (k : Nat) (ts : List Nat) : Prop where
  rest : t = { s with teams := t.teams, fills := t.fills, records := t.records, objReqs := t.objReqs, ruleWaits := t.ruleWaits }
  others : ∀ j, j ≠ k → t.team j = s.team j
  team : t.team k = { s.team k with threads := (s.team k).threads.filter fun e => !ts.contains e.1 }
  fills : t.fills = s.fills.filter fun f => !(f.team == k && ts.any fun i => f.t == i)
  objReqs : t.objReqs = s.objReqs.filter fun q => !oneOf k ts q.who
  ruleWaits : t.ruleWaits = s.ruleWaits.filter fun w => !oneOf k ts w.who
  records : t.records = s.records.map fun (r : Rec) =>
    { r with deps := r.deps ++ if oneOf k ts r.who then s.lastDeps r.who r else [] }

theorem Ends.nil (s : State) (k : Nat) : Ends s s k [] := by
  refine ⟨rfl, fun _ _ => rfl, ?_, ?_, ?_, ?_, ?_⟩ <;> simp [oneOf]

theorem batchesOf_endThread (s : State) {k : Nat} {i : Tix} {w : Who} (h : w ≠ .thread k i) (sup : Bool) :
    (s.endThread k i).batchesOf sup w = s.batchesOf sup w := by
  cases w with
  | thread m j =>
    have hthread : (s.endThread k i).thread m j = s.thread m j := by
      by_cases hm : m = k
      · subst hm
        have hj : j ≠ i := fun hj => h (by rw [hj])
        rw [State.thread, Monitor.endThread_team_same, Team.thread, nget_ndel, if_neg hj]; rfl
      · rw [State.thread, Monitor.endThread_team_ne s i hm]; rfl
    exact congrArg Thread.batch hthread
  | _ => rfl

/-- The batches that a record's issuer keeps for it are its own. -/
theorem lastDeps_endThread (s : State) {k : Nat} {i : Tix} {w : Who} (h : w ≠ .thread k i) (r : Rec) (ds : List Nat) :
    (s.endThread k i).lastDeps w { r with deps := ds } = s.lastDeps w r := by
  simp only [State.lastDeps, State.sealedCopies, batchesOf_endThread s h]

theorem lastDeps_of_ne {s : State} {w : Who} {r : Rec} (h : r.who ≠ w) : s.lastDeps w r = [] := by
  rw [State.lastDeps, decide_eq_false h]; rfl

theorem Ends.cons {s t : State} {k i : Nat} {ts : List Nat} (h : Ends (s.endThread k i) t k ts) (hi : i ∉ ts) :
    Ends s t k (i :: ts) := by
  refine ⟨by rw [h.rest]; rfl, fun j hj => (h.others j hj).trans (Monitor.endThread_team_ne s i hj), ?_, ?_, ?_, ?_, ?_⟩
  · rw [h.team, Monitor.endThread_team_same]
    simp only [ndel, List.filter_filter, List.contains_cons, Bool.not_or]
    congr 2
    funext e
    rw [Bool.and_comm, decide_not]
    by_cases he : e.1 = i <;> simp [he]
  · have h0 : (s.endThread k i).fills = s.fills.filter fun f => !(f.team == k && f.t == i) := rfl
    rw [h.fills, h0, List.filter_filter]
    congr 1
    funext f
    rw [List.any_cons, Bool.and_or_distrib_left, Bool.not_or, Bool.and_comm]
  · have h0 : (s.endThread k i).objReqs = s.objReqs.filter fun q => !(q.who == .thread k i) := rfl
    rw [h.objReqs, h0, List.filter_filter]
    congr 1
    funext q
    rw [oneOf_cons, Bool.not_or, Bool.and_comm]
  · have h0 : (s.endThread k i).ruleWaits = s.ruleWaits.filter fun w => !(w.who == .thread k i) := rfl
    rw [h.ruleWaits, h0, List.filter_filter]
    congr 1
    funext q
    rw [oneOf_cons, Bool.not_or, Bool.and_comm]
  · have h0 : (s.endThread k i).records = s.records.map fun (r : Rec) => { r with deps := r.deps ++ s.lastDeps (.thread k i) r } := rfl
    rw [h.records, h0, List.map_map]
    refine List.map_congr_left fun r _ => congrArg (fun ds => { r with deps := ds }) ?_
    dsimp only [Function.comp]
    rw [List.append_assoc, oneOf_cons]
    congr 1
    by_cases hr : r.who = .thread k i
    · have hnone : oneOf k ts r.who = false := by
        rw [hr]
        exact List.any_eq_false.mpr fun j hj he => hi (by rw [beq_iff_eq] at he; injection he with _ he; exact he ▸ hj)
      rw [hnone, hr]
      simp
    · rw [lastDeps_of_ne hr, beq_false_of_ne hr, Bool.false_or]
      split
      · exact lastDeps_endThread s hr r _
      · rfl

theorem ends_foldl (k : Nat) {ts : List Nat} (hn : ts.Nodup) (s : State) : Ends s (ts.foldl (fun s i => s.endThread k i) s) k ts := by
  induction ts generalizing s with
  | nil => exact Ends.nil s k
  | cons i ts ih =>
    obtain ⟨hi, hn⟩ := List.nodup_cons.mp hn
    exact (ih hn (s.endThread k i)).cons hi

theorem boundSet_endThread {s : State} {l : Nat} (h : s.boundSet l = 0) (k : Nat) (i : Tix) : (s.endThread k i).boundSet l = 0 := by
  have hteam : ∀ m j, ((s.team m).thread j).bset = 0 → (((s.endThread k i).team m).thread j).bset = 0 := fun m j h => by
    by_cases hm : m = k
    · subst hm
      rw [Monitor.endThread_team_same, Team.thread, nget_ndel]
      split
      · rfl
      · exact h
    · rw [Monitor.endThread_team_ne s i hm]; exact h
  have hiss : (s.endThread k i).iss = s.iss := rfl
  unfold State.boundSet State.viewTeam at h ⊢
  rw [hiss]
  cases hw : s.iss.who with
  | gang m b ls =>
    rw [hw] at h
    cases hv : s.iss.view with
    | some t => rw [hv] at h; exact h
    | none => rw [hv] at h; exact hteam _ _ h
  | _ => rfl

/-- The lanes of an EXIT whose threads are in no bound set end one after another. -/
theorem serve_endThread {k b : Nat} (ls : List Nat) (s : State) (hb : ∀ l ∈ ls, s.boundSet l = 0) :
    Serve (fun s l => if s.boundSet l ≠ 0 then .error (.flt (flt .limbShape)) else .ok (s.endThread k (64 * b + l))) s ls
      ((ls.map (64 * b + ·)).foldl (fun s i => s.endThread k i) s) := by
  induction ls generalizing s with
  | nil => rfl
  | cons l ls ih =>
    exact ⟨_, if_neg (not_not.mpr (hb l List.mem_cons_self)), ih _ fun m hm => boundSet_endThread (hb m (List.mem_cons_of_mem _ hm)) k _⟩

/-! ### What an ended team held open (R64, R81, R161, R199, R321) -/

theorem record_eq (s : State) (c : Nat) (bs : List Byte) : ∃ D C, s.record c bs = { s with dies := D, cores := C } := by
  unfold State.record
  dsimp only
  split <;> exact ⟨_, _, rfl⟩

/-- What a core and its die hold of teams: Gusset entries, requests and pins. -/
def openSide (s : State) (c : Nat) : List GussetEntry × List GussetReq × List Pin :=
  ((s.core c).gusset, (s.core c).greqs, (s.die (dieOfCore c)).pins)

theorem openSide_modCore {f : Core → Core} (hf : ∀ x, (f x).gusset = x.gusset ∧ (f x).greqs = x.greqs) (s : State) (c d : Nat) :
    openSide (s.modCore d f) c = openSide s c := by
  by_cases hd : c = d
  · subst hd
    simp [openSide, hf]
  · simp [openSide, State.modCore_core_ne _ _ _ _ hd]

theorem openSide_modDie {f : Die → Die} (hf : ∀ x, (f x).pins = x.pins) (s : State) (c d : Nat) :
    openSide (s.modDie d f) c = openSide s c := by
  by_cases hd : dieOfCore c = d
  · subst hd
    simp [openSide, hf]
  · simp [openSide, State.modDie_die_ne _ _ _ _ hd]

theorem openSide_record (s : State) (d : Nat) (bs : List Byte) (c : Nat) : openSide (s.record d bs) c = openSide s c := by
  unfold State.record
  dsimp only
  split
  · rw [openSide_modCore, openSide_modDie]
    · exact fun _ => rfl
    · exact fun _ => ⟨rfl, rfl⟩
  · rw [openSide_modCore]
    exact fun _ => ⟨rfl, rfl⟩

/-- What does not depend on the team that ends: what is on its way, memories outside the caches, copies and records. -/
def farSide (s : State) : List Fill × Mem × Mem × Mem × List Copy × List Rec :=
  (s.fills, s.hbm, s.hostMem, s.peerMem, s.copies, s.records)

theorem farSide_modCore (s : State) (c : Nat) (f : Core → Core) : farSide (s.modCore c f) = farSide s ∧ (s.modCore c f).iss = s.iss :=
  ⟨rfl, rfl⟩

theorem farSide_lastExit (s : State) (k : Nat) : farSide (s.lastExit k) = farSide s ∧ (s.lastExit k).iss = s.iss := by
  unfold State.lastExit
  extract_lets c mine s1 s2 s3 s4 s5
  have h2 : farSide s2 = farSide s ∧ s2.iss = s.iss := farSide_modCore s1 c fun x => { x with
    gusset := x.gusset.filter fun e => e.team != k, greqs := x.greqs.filter fun r => r.team != k }
  have h4 : farSide s4 = farSide s ∧ s4.iss = s.iss := h2
  split
  · obtain ⟨hf, hi⟩ := farSide_modCore s5 c fun x => { x with shuttle :=
      let h := { x.shuttle with active := false, parked := false, hold := .none, chunk := none, rel := none }
      if h.mode then h else { h with waiting := false } }
    exact ⟨hf.trans h4.1, hi.trans h4.2⟩
  · exact h4

theorem openSide_lastExit (s : State) (k : Nat) : openSide (s.lastExit k) (coreOfTeam k) =
    ((s.core (coreOfTeam k)).gusset.filter (fun e => e.team != k), (s.core (coreOfTeam k)).greqs.filter (fun q => q.team != k),
      (s.die (dieOfCore (coreOfTeam k))).pins.filter fun p => p.team != k) := by
  unfold State.lastExit
  extract_lets c mine s1 s2 s3 s4 s5
  have h3 : openSide s3 c = ((s.core c).gusset.filter (fun e => e.team != k), (s.core c).greqs.filter (fun q => q.team != k),
      (s.die (dieOfCore c)).pins.filter fun p => p.team != k) := by
    simp only [openSide, s3, s2, s1, State.modDie_core, State.modDie_die_same, State.modCore_core_same, State.modCore_die,
      State.modTeam_core, State.modTeam_die]
  have h4 : openSide s4 c = openSide s3 c := rfl
  split
  · have h5 : openSide s5 c = openSide s4 c := rfl
    rw [State.modShuttle, openSide_modCore, h5, h4, h3]
    exact fun _ => ⟨rfl, rfl⟩
  · rw [h4, h3]

/-! ### After the exit (R80, R81, R179) -/

theorem liveThreads_filter (t : Team) (ts : List Nat) :
    ({ t with threads := t.threads.filter fun e => !ts.contains e.1 } : Team).liveThreads = t.liveThreads.filter fun i => !ts.contains i := by
  simp only [Team.liveThreads, List.filter_map, List.filter_filter, Function.comp_def]
  congr 2
  funext e
  exact Bool.and_comm _ _

theorem thread_filter (t : Team) (ts : List Nat) (i : Tix) :
    ({ t with threads := t.threads.filter fun e => !ts.contains e.1 } : Team).thread i =
      if ts.contains i then .gone else t.thread i := by
  rw [Team.thread, Monitor.nget_filter t.threads (fun i => !ts.contains i)]
  cases ts.contains i <;> rfl

/-- While a thread of the team is live, only queue entries retire. -/
theorem afterExit_live {s : State} {k : Nat} (h : (s.team k).liveThreads ≠ []) : s.afterExit k = s.modTeam k Team.retireAll := by
  have hl : ((s.modTeam k Team.retireAll).team k).liveThreads = (s.team k).liveThreads := by
    rw [State.modTeam_team_same, Team.retireAll_eq]; rfl
  unfold State.afterExit
  dsimp only
  rw [if_neg]
  rw [hl]
  simpa using h

/-- With the last thread, what the team holds open goes, and nothing else of what others see. -/
theorem afterExit_last {s : State} {k : Nat} (h : (s.team k).liveThreads = []) :
    let t := s.afterExit k
    farSide t = farSide s ∧ t.iss = s.iss ∧ (t.team k).queues = [] ∧ (t.team k).dq = [] ∧ (t.team k).pat = none ∧
      openSide t (coreOfTeam k) = ((s.core (coreOfTeam k)).gusset.filter (fun e => e.team != k),
        (s.core (coreOfTeam k)).greqs.filter (fun q => q.team != k),
        (s.die (dieOfCore (coreOfTeam k))).pins.filter fun p => p.team != k) := by
  have hl : ((s.modTeam k Team.retireAll).team k).liveThreads.isEmpty = true := by
    have : ((s.modTeam k Team.retireAll).team k).liveThreads = (s.team k).liveThreads := by
      rw [State.modTeam_team_same, Team.retireAll_eq]; rfl
    rw [this, h]; rfl
  unfold State.afterExit
  extract_lets u v t
  have ht : t = v.lastExit k := if_pos hl
  rw [ht]
  have hu : farSide u = farSide s ∧ u.iss = s.iss ∧ openSide u (coreOfTeam k) = openSide s (coreOfTeam k) := ⟨rfl, rfl, rfl⟩
  have hv : farSide v = farSide u ∧ v.iss = u.iss ∧ openSide v (coreOfTeam k) = openSide u (coreOfTeam k) := by
    unfold v
    split
    · obtain ⟨D, C, hr⟩ : ∃ D C, u.hemHit k = { u with dies := D, cores := C } := record_eq _ _ _
      refine ⟨?_, ?_, ?_⟩
      · rw [hr]; rfl
      · rw [hr]; rfl
      · exact openSide_record u _ _ _
    · exact ⟨rfl, rfl, rfl⟩
  obtain ⟨hfar, hiss⟩ := farSide_lastExit v k
  have hopen := openSide_lastExit v k
  have hside := hv.2.2.trans hu.2.2
  simp only [openSide, Prod.mk.injEq] at hside
  obtain ⟨hg, hq, hp⟩ := hside
  rw [hg, hq, hp] at hopen
  exact ⟨hfar.trans (hv.1.trans hu.1), hiss.trans (hv.2.1.trans hu.2.1), by rw [Monitor.lastExit_team_same],
    by rw [Monitor.lastExit_team_same], by rw [Monitor.lastExit_team_same], hopen⟩

theorem farSide_afterExit (s : State) (k : Nat) : farSide (s.afterExit k) = farSide s ∧ (s.afterExit k).iss = s.iss := by
  by_cases h : (s.team k).liveThreads = []
  · obtain ⟨hfar, hiss, -⟩ := afterExit_last h
    exact ⟨hfar, hiss⟩
  · rw [afterExit_live h]; exact ⟨rfl, rfl⟩

/-- EXIT by threads of no bound set: they end, and what goes after them. -/
theorem exit_completes {s : State} {k b : Nat} {ls : List Nat} (h : Gang s .exit k b ls) (hb : ∀ l ∈ ls, s.boundSet l = 0) :
    ∃ u, Ends s u k (ls.map (64 * b + ·)) ∧ exec .exit s = .next (u.afterExit k) := by
  have hn : (ls.map (64 * b + ·)).Nodup :=
    (h.asc.imp Nat.ne_of_lt).map _ fun _ _ hne he => hne (Nat.add_left_cancel he)
  have he := ends_foldl k hn s
  have hserve := serve_endThread (k := k) (b := b) ls s hb
  generalize (ls.map (64 * b + ·)).foldl (fun s i => s.endThread k i) s = u at he hserve
  have hrun : runExit s = u.afterExit k := by
    rw [runExit, h.who]
    dsimp only
    rw [forParts_gang h.who hserve]
  have hiss : (runExit s).iss = s.iss := by
    rw [hrun, (farSide_afterExit u k).2, he.rest]
  refine ⟨u, he, ?_⟩
  rw [← hrun, ← issue_body (run := runExit) h hiss rfl]
  rfl

/-- Settles O16: the threads end, then what an ended team held open goes. -/
theorem exitEndsThreads : Obligations.ExitEndsThreads := by
  unfold Obligations.ExitEndsThreads
  intro s k b ls h hb
  obtain ⟨u, he, hx⟩ := exit_completes h hb
  have hthread : ∀ i, (u.afterExit k).thread k i = if (ls.map (64 * b + ·)).contains i then .gone else s.thread k i := fun i => by
    have := congrArg (fun x : NMap Thread × List Nat => nget x.1 i Thread.gone) (Monitor.bandSide_afterExit u k)
    have hu : (u.team k).thread i = if (ls.map (64 * b + ·)).contains i then .gone else s.thread k i := by
      rw [he.team, thread_filter]; rfl
    exact this.trans hu
  have hmem : ∀ i, (ls.map (64 * b + ·)).contains i = true ↔ ∃ l ∈ ls, i = 64 * b + l := fun i => by
    simp [eq_comm]
  have hlive : (u.team k).liveThreads = (s.team k).liveThreads.filter fun i => !(ls.map (64 * b + ·)).contains i := by
    rw [he.team, liveThreads_filter]
  have hone : ∀ w, oneOf k (ls.map (64 * b + ·)) w = ls.any fun l => w == .thread k (64 * b + l) := fun w => by
    rw [oneOf, List.any_map]; rfl
  obtain ⟨hfar, -⟩ := farSide_afterExit u k
  simp only [farSide, Prod.mk.injEq] at hfar
  obtain ⟨hfills, hhbm, hhost, hpeer, hcopies, hrecords⟩ := hfar
  refine ⟨_, hx, fun l hl => ?_, fun i hi => ?_, fun j hj => ?_, ?_, ?_, ?_, ?_, ?_, ?_, ?_, ?_⟩
  · rw [hthread, if_pos ((hmem _).mpr ⟨l, hl, rfl⟩)]
  · rw [hthread, if_neg fun hc => by obtain ⟨l, hl, he⟩ := (hmem i).mp hc; exact hi l hl he]
  · exact (Monitor.afterExit_team_ne u hj).trans (he.others j hj)
  · rw [hfills, he.fills]
    simp only [List.any_map, Function.comp_def]
  · rw [hhbm, he.rest]
  · rw [hhost, he.rest]
  · rw [hpeer, he.rest]
  · rw [hcopies, he.rest]
  · rw [hrecords, he.records]
    simp only [hone]
  · rintro ⟨i, hi, hne⟩
    have hleft : (u.team k).liveThreads ≠ [] := by
      rw [hlive]
      refine List.ne_nil_of_mem (List.mem_filter.mpr ⟨hi, ?_⟩)
      rw [Bool.not_eq_true', ← Bool.not_eq_true, hmem]
      exact fun ⟨l, hl, he⟩ => hne l hl he
    rw [afterExit_live hleft]
    refine ⟨by rw [he.rest]; rfl, ?_, ?_, ?_⟩
    · exact he.objReqs.trans (by simp only [hone])
    · exact he.ruleWaits.trans (by simp only [hone])
    · rw [State.modTeam_team_same, Team.retireAll_eq, he.team]
  · intro hall
    have hnone : (u.team k).liveThreads = [] := by
      rw [hlive, List.filter_eq_nil_iff]
      intro i hi
      rw [Bool.not_eq_true', Bool.not_eq_false, hmem]
      exact hall i hi
    obtain ⟨-, -, hq, hdq, hpat, hopen⟩ := afterExit_last hnone
    have hcore : u.core (coreOfTeam k) = s.core (coreOfTeam k) := by rw [he.rest]; rfl
    have hdie : u.die (dieOfCore (coreOfTeam k)) = s.die (dieOfCore (coreOfTeam k)) := by rw [he.rest]; rfl
    rw [hcore, hdie] at hopen
    simp only [openSide, Prod.mk.injEq] at hopen
    exact ⟨hq, hdq, hpat, hopen⟩

end Sys2Proof.Words
end

section
/-! PROOFS (O41). A special register that the Shuttle writes while the issue notes a write of the same register from a higher lane. -/

namespace Sys2Proof.Words
open Sys2Proof Sys2Proof.Machine

/-- The Shuttle of core 0, which serves team 0 and holds 1 in s0, issues in user mode; the issue notes that lane 1 of a gang has
written FSTAT (R408). -/
def outrunShuttle : State :=
  { State.reset.modShuttle 0 fun h => { h with team := some 0, user := [(0, 1)] } with
    iss := { Issue.none with who := .shuttle 0, mts := [(8, 1)] } }

theorem shut_outrunShuttle : Shut outrunShuttle (.mtsFstat ⟨0, false⟩) 0 := ⟨rfl, rfl, rfl, by decide⟩

/-- The write is passed over: FSTAT of the team stays 0. -/
theorem exec_outrunShuttle : exec (.mtsFstat ⟨0, false⟩) outrunShuttle = .next outrunShuttle := by
  have hrun : runMtsFstat ⟨0, false⟩ outrunShuttle = outrunShuttle := rfl
  have hx : exec (.mtsFstat ⟨0, false⟩) outrunShuttle =
      .next (outrunShuttle.issue (.mtsFstat ⟨0, false⟩) (runMtsFstat ⟨0, false⟩)) := rfl
  rw [hx, issue_shuttle shut_outrunShuttle (by rw [hrun]; rfl), hrun]

/-- Refutes O41: an MTS of the Shuttle writes nothing where the issue notes a write of its register from a higher lane, which
`Shut` does not exclude (a fetched Shuttle issue has noted none, R408). -/
theorem not_specialRegisters : ¬ Obligations.SpecialRegisters := by
  unfold Obligations.SpecialRegisters
  rintro ⟨-, -, -, h⟩
  obtain ⟨-, hteam⟩ := h outrunShuttle 0 (.mtsFstat ⟨0, false⟩) 8 0 false (.inl ⟨rfl, rfl⟩) shut_outrunShuttle
  obtain ⟨hfstat, -⟩ := hteam 0 (by decide)
  have he := (hfstat rfl).symm.trans exec_outrunShuttle
  have : (outrunShuttle.team 0).fstat = 1 := congrArg (fun o : Out1 => match o with | .next t => (t.team 0).fstat | _ => 1) he.symm
  exact absurd this (by decide)

end Sys2Proof.Words
end

section
/-! PROOFS (O52). An issue whose lanes read the registers of an earlier moment (R34) than the one their pops are counted from (R49). -/

namespace Sys2Proof.Words
open Sys2Proof Sys2Proof.Machine

/-- A ready thread that stands at entry n of operand queue 0; register 16 is empty. -/
def standsAt (n : Nat) : Thread := { Thread.gone with stat := .ready, empty := [16], qpos := [(0, n)] }

/-- A team of that thread, with 112 registers. -/
def teamAt (n : Nat) : Team := { Team.free with live := true, allot := 3, bands := 1, threads := [(0, standsAt n)] }

/-- Lane 0 issues with a guard that is false under the zero policy. Its thread stands at entry 5 of queue 0; the view of the issue,
which the lane reads, has it at entry 0. -/
def viewBehind : State :=
  { State.reset.modTeam 0 fun _ => teamAt 5 with
    iss := { Issue.none with
      who := .gang 0 0 [0], pfx := some { Pfx.null with maskp := 7, maskn := true, policy := 2 }, view := some (teamAt 0) } }

/-- r16 := entry of queue 0 + r48. -/
def addQueue : R3 := ⟨16, 112, 48, false, false⟩

theorem laneDo_viewBehind : viewBehind.laneDo 0 0 (.add addQueue) (shapeOf (.add addQueue) viewBehind.iss.pfx) 0 =
    .out (.zeros [16] [(0, 0)] false) := by decide

/-- Refutes O52: the pops that the lane makes before it waits to write its zeros are those of the view (entry 0 of queue 0), which
no hypothesis ties to the thread of the team (entry 5). -/
theorem not_gateOutcomes : ¬ Obligations.GateOutcomes := by
  unfold Obligations.GateOutcomes
  rintro ⟨-, hadd, -⟩
  have hout : ∀ l ∈ [0], ∀ f, viewBehind.laneDo 0 0 (.add addQueue) (shapeOf (.add addQueue) viewBehind.iss.pfx) l = .out f →
      (∃ es ps, f = .held es ps) ∨ ∃ es ps, f = .zeros es ps false := by
    intro l hl f hf
    rw [List.mem_singleton.mp hl, laneDo_viewBehind] at hf
    exact .inr ⟨_, _, (LaneDo.out.inj hf).symm⟩
  obtain ⟨t, -, -, -, -, -, -, hlane⟩ := hadd viewBehind 0 0 [0] addQueue rfl (List.pairwise_singleton _ _) rfl rfl (by decide)
    (by decide) hout
  obtain ⟨-, -, -, -, hzeros⟩ := hlane 0 (List.mem_singleton.mpr rfl)
  obtain ⟨hpops, -⟩ := hzeros _ _ laneDo_viewBehind
  exact absurd hpops (by decide)

end Sys2Proof.Words
end

section
/-! PROOFS (O57). A step issues the group that stands at the counter of its agent (R31 to R37, R69, R74, R87): where that group is
one word, it is the word's meaning or its decode fault. -/

namespace Sys2Proof.Words
open Sys2Proof Sys2Proof.Machine

/-! ### The group of one word (R34, R35) -/

/-- The word after word j of a packet, which an X instruction takes in. -/
def wordAfter (ws : List Word) (j : Nat) : Option Word := if j < 2 then ws[j + 1]? else none

/-- An extension word decodes to nothing. -/
theorem decodeCore_of_isExt {w : Word} {n : Option Word} (h : isExt w = true) : decodeCore w n = .illInst := by
  have hmajor : (fld w 26 5).toNat = 31 := by
    rw [Encoding.toNat_fld]
    have : w.toNat / 2 ^ 24 % 128 = 125 := by simpa [isExt] using h
    simp only [Encoding.bitsAt]
    omega
  simp only [decodeCore, hmajor]

theorem isExt_of_decodeCore {w : Word} {n : Option Word} (h : decodeCore w n ≠ .illInst) : isExt w = false :=
  Bool.eq_false_iff.mpr fun he => h (decodeCore_of_isExt he)

theorem breaksGroup_alone (i : Instr) : breaksGroup i none false false false [] = false := by
  simp [breaksGroup]

/-- Word j of a packet is a group of its own, of one or two words (`x`): neither `isPfx` nor `isExt`, not chained, and it
is the instruction `i`, or it raises ILLINST as an instruction `row` with illegal fields or as no instruction. -/
structure OneWord (ws : List Word) (j : Nat) (x : Bool) (row i : Option Instr) : Prop where
  pfx : isPfx (ws.getD j 0) = false
  ext : isExt (ws.getD j 0) = false
  base : isXBase (ws.getD j 0) = x
  last : bit (ws.getD (j + x.toNat) 0) 31 = false
  dec : (∃ y b, decodeCore (ws.getD j 0) (wordAfter ws j) = .ok y b ∧ row = some y ∧ i = some y) ∨
    (∃ y b, decodeCore (ws.getD j 0) (wordAfter ws j) = .bad y b ∧ row = some y ∧ i = none) ∨
    decodeCore (ws.getD j 0) (wordAfter ws j) = .illInst ∧ row = none ∧ i = none

section
variable {ws : List Word} {j : Nat} {x b : Bool} {y : Instr}

theorem oneWord_ok (hpfx : isPfx (ws.getD j 0) = false) (hx : isXBase (ws.getD j 0) = x)
    (hend : bit (ws.getD (j + x.toNat) 0) 31 = false)
    (hdec : decodeCore (ws.getD j 0) (wordAfter ws j) = .ok y b) : OneWord ws j x (some y) (some y) :=
  ⟨hpfx, isExt_of_decodeCore (by rw [hdec]; exact Dec.noConfusion), hx, hend, .inl ⟨y, b, hdec, rfl, rfl⟩⟩

theorem oneWord_bad (hpfx : isPfx (ws.getD j 0) = false) (hx : isXBase (ws.getD j 0) = x)
    (hend : bit (ws.getD (j + x.toNat) 0) 31 = false)
    (hdec : decodeCore (ws.getD j 0) (wordAfter ws j) = .bad y b) : OneWord ws j x (some y) none :=
  ⟨hpfx, isExt_of_decodeCore (by rw [hdec]; exact Dec.noConfusion), hx, hend, .inr (.inl ⟨y, b, hdec, rfl, rfl⟩)⟩

end

/-- It is parsed as that group, from which the word after it is the next (R34). -/
theorem OneWord.parse {ws : List Word} {j : Nat} {x : Bool} {row i : Option Instr} (h : OneWord ws j x row i) (slot pkt fuel : Nat)
    (sh : Bool) : parseGroup ws slot pkt sh (fuel + 1) j false [] =
      some ([⟨wordPc slot pkt j, none, row, i⟩], j + x.toNat + 1) := by
  obtain ⟨hpfx, hext, hx, hend, hdec⟩ := h
  have hk : (if x = true then j + 1 else j) = j + x.toNat := by cases x <;> rfl
  have hn : (if j + 1 ≤ 2 then ws[j + 1]? else none) = wordAfter ws j := rfl
  unfold parseGroup
  simp only [hpfx, hext, hx, hk, hn, hend, Bool.false_eq_true, if_false, Bool.false_and, Bool.or_false]
  obtain ⟨y, b, hd, rfl, rfl⟩ | ⟨y, b, hd, rfl, rfl⟩ | ⟨hd, rfl, rfl⟩ := hdec
  · simp only [hd, breaksGroup_alone, Bool.false_eq_true, if_false]
  · simp only [hd, breaksGroup_alone, Bool.false_eq_true, if_false]
  · simp only [hd]

/-- A counter is the counter of its word. -/
theorem wordPc_self {pc : Pc} (h : pc.toNat % 4 < 3) : wordPc (pcSlot pc) (pcPkt pc) (pc.toNat % 4) = pc := by
  have hlt := pc.isLt
  rw [wordPc, if_pos (by omega), pcSlot, pcPkt, bits, bits]
  apply BitVec.eq_of_toNat_eq
  rw [BitVec.toNat_ofNat]
  omega

/-- The fetch of a group of one word (R33). -/
theorem fetch_one {s : State} {c : Nat} {pc : Pc} {sup x : Bool} {row i : Option Instr} (sh : Bool)
    (hpkt : pcPkt pc ≤ 5460) (hj : pc.toNat % 4 < 3) (hslot : pcSlot pc ≠ 3 ∨ sup = true)
    (hword : OneWord (s.packetWords c (pcSlot pc) (pcPkt pc)) (pc.toNat % 4) x row i) :
    s.fetch c pc sh sup = .ok ([⟨pc, none, row, i⟩], wordPc (pcSlot pc) (pcPkt pc) (pc.toNat % 4 + x.toNat + 1)) := by
  have hwd : bits pc.toNat 0 2 = pc.toNat % 4 := by simp [bits]
  have hbad : ¬ (Config.lastPacket < pcPkt pc ∨ pc.toNat % 4 = 3) := by
    simp only [Config.lastPacket]; omega
  have hpriv : ¬ ((pcSlot pc = 3 && !sup) = true) := by
    rcases hslot with h | h <;> simp [h]
  simp only [State.fetch, ← Bool.decide_or, decide_eq_true_eq, hwd, if_neg hbad, if_neg hpriv, hword.parse, wordPc_self hj]

/-- One word whose fields are illegal, or that decodes to nothing, raises its fault in every participant. -/
theorem runGroup_bad (ex : Instr → State → Out1) (s : State) (pc : Pc) (row : Option Instr) (sh : Bool) :
    s.runGroup ex [⟨pc, none, row, none⟩] sh =
      .next (s.faultAll (if row.any fun i => rangeFault i pc then .illPacket else .illInst) pc) := by
  have hclash : clash ([⟨pc, none, row, none⟩].filterMap fun g : GWord => g.row.map fun i =>
      writtenBy i g.pfx sh ++ s.qaccWrites g) = false := by
    cases row <;> rfl
  simp only [State.runGroup, State.groupFault, hclash, Bool.false_eq_true, if_false]
  rfl

/-! ### A core grants a band (R74, R76) -/

/-- The contexts of one grant, in the order in which what they do counts (`State.grantBand`). -/
def byLowest (cs : List Ctx) : List Ctx :=
  match cs with
  | [a, b] => if b.low < a.low then [b, a] else [a, b]
  | cs => cs

section
variable {ex : Instr → State → Out1} {s t u : State} {k band c : Nat} {cx cy : Ctx}

/-- A context whose group is one word runs that word. -/
theorem issueQuad_one {q p : Nat} {x : Bool} {row i : Option Instr} (hp : (s.team k).selectPc band q = some p)
    (hpkt : pcPkt (BitVec.ofNat 17 p) ≤ 5460) (hj : (BitVec.ofNat 17 p).toNat % 4 < 3) (hslot : pcSlot (BitVec.ofNat 17 p) ≠ 3)
    (hword : OneWord (s.packetWords (coreOfTeam k) (pcSlot (BitVec.ofNat 17 p)) (pcPkt (BitVec.ofNat 17 p)))
      ((BitVec.ofNat 17 p).toNat % 4) x row i) :
    s.issueQuad ex k band q = andThen (State.runGroup ex
      (s.gangIssue k band ((s.team k).issueLanes band q p) (BitVec.ofNat 17 p) (wordPc (pcSlot (BitVec.ofNat 17 p))
        (pcPkt (BitVec.ofNat 17 p)) ((BitVec.ofNat 17 p).toNat % 4 + x.toNat + 1)))
      [⟨BitVec.ofNat 17 p, none, row, i⟩] false) (State.finishGang k band q p) := by
  simp only [State.issueQuad, hp, State.runAt, fetch_one (sup := false) false hpkt hj (.inl hslot) hword]

theorem issueCtxs_cons (h : s.issueQuad ex k band (cx.quads.headD 0) = .next t) (r : List Ctx) :
    State.issueCtxs ex k band (cx :: r) s = State.issueCtxs ex k band r t := by
  simp only [State.issueCtxs, h]

theorem pickCtxs_end {cs : List Ctx} (n : Nat) (h : cs.length = 2 ∨ s.nextCtx k band (cs.flatMap (·.quads)) = none) :
    State.pickCtxs ex k band (n + 1) cs s = .next (s, cs) := by
  rw [State.pickCtxs]
  split
  · rfl
  · next hne => rw [h.resolve_left hne]

/-- The next ready context takes its turn, or waits from now on. -/
theorem pickCtxs_next {cs : List Ctx} (n : Nat) (hlen : cs.length ≠ 2)
    (hx : s.nextCtx k band (cs.flatMap (·.quads)) = some cx) (ht : s.issueQuad ex k band (cx.quads.headD 0) = .next t) :
    State.pickCtxs ex k band (n + 1) cs s = if t.issued then State.pickCtxs ex k band n (cs ++ [cx]) s
      else State.pickCtxs ex k band n cs { t with iss := .none } := by
  rw [State.pickCtxs, if_neg hlen]
  simp only [hx, ht]

theorem length_one_ne_two : ([] ++ [cx] : List Ctx).length ≠ 2 := Nat.succ_ne_self 1 |>.symm

/-- What a band's grant is, from the contexts picked and what they leave. -/
theorem grantBand_of_pick {v : State} {cs : List Ctx} (hpick : State.pickCtxs ex k band 67 [] s = .next (v, cs))
    (hrun : State.issueCtxs ex k band (byLowest cs) { v with iss := .none } = .next u) :
    State.grantBand ex k band s = .next (u, cs.length) := by
  simp only [State.grantBand, hpick]
  change (match State.issueCtxs ex k band (byLowest cs) { v with iss := .none } with
    | .next t => Host.Outcome.next (t, cs.length) | .fault x => .fault x | .refused x => .refused x) = _
  rw [hrun]

theorem idle_self (h : s.iss = .none) : ({ s with iss := .none } : State) = s := by rw [← h]

/-- A band without a ready context takes no turn. -/
theorem grantBand_idle (hiss : s.iss = .none) (h : s.nextCtx k band [] = none) :
    State.grantBand ex k band s = .next (s, 0) :=
  grantBand_of_pick (pickCtxs_end 66 (.inr h)) (by rw [idle_self hiss]; rfl)

/-- Its only ready context issues. -/
theorem grantBand_one (hiss : s.iss = .none) (hx : s.nextCtx k band [] = some cx)
    (ht : s.issueQuad ex k band (cx.quads.headD 0) = .next t) (hturn : t.issued = true)
    (hend : s.nextCtx k band cx.quads = none) : State.grantBand ex k band s = .next (t, 1) := by
  have hpick : State.pickCtxs ex k band 67 [] s = .next (s, [cx]) := by
    rw [pickCtxs_next 66 (by decide) hx ht, if_pos hturn]
    exact pickCtxs_end 65 (.inr (by simpa using hend))
  exact grantBand_of_pick hpick (by rw [idle_self hiss]; exact issueCtxs_cons ht [])

/-- Two ready contexts issue, in the order of their lowest quads. -/
theorem grantBand_two {w : State} (hiss : s.iss = .none) (hx : s.nextCtx k band [] = some cx)
    (ht : s.issueQuad ex k band (cx.quads.headD 0) = .next t) (hturn : t.issued = true)
    (hy : s.nextCtx k band cx.quads = some cy)
    (hw : s.issueQuad ex k band (cy.quads.headD 0) = .next w) (hturn' : w.issued = true) :
    (cy.low < cx.low → w.issueQuad ex k band (cx.quads.headD 0) = .next u → State.grantBand ex k band s = .next (u, 2)) ∧
    (cx.low ≤ cy.low → t.issueQuad ex k band (cy.quads.headD 0) = .next u → State.grantBand ex k band s = .next (u, 2)) := by
  have hpick : State.pickCtxs ex k band 67 [] s = .next (s, [cx, cy]) := by
    rw [pickCtxs_next 66 (by decide) hx ht, if_pos hturn, pickCtxs_next 65 length_one_ne_two (by simpa using hy) hw, if_pos hturn']
    exact pickCtxs_end 64 (.inl rfl)
  refine ⟨fun hlow hu => grantBand_of_pick hpick ?_, fun hlow hu => grantBand_of_pick hpick ?_⟩
  · simp only [byLowest, if_pos hlow, idle_self hiss]
    rw [issueCtxs_cons hw, issueCtxs_cons hu]
    rfl
  · simp only [byLowest, if_neg (Nat.not_lt.mpr hlow), idle_self hiss]
    rw [issueCtxs_cons ht, issueCtxs_cons hu]
    rfl

/-- The second context only waits: it waits from now on, and the first issues. -/
theorem grantBand_second_waits {w : State} (hx : s.nextCtx k band [] = some cx)
    (ht : s.issueQuad ex k band (cx.quads.headD 0) = .next t) (hturn : t.issued = true)
    (hy : s.nextCtx k band cx.quads = some cy)
    (hw : s.issueQuad ex k band (cy.quads.headD 0) = .next w) (hturn' : w.issued = false)
    (hend : ({ w with iss := .none } : State).nextCtx k band cx.quads = none)
    (hu : ({ w with iss := .none } : State).issueQuad ex k band (cx.quads.headD 0) = .next u) :
    State.grantBand ex k band s = .next (u, 1) := by
  have hpick : State.pickCtxs ex k band 67 [] s = .next ({ w with iss := .none }, [cx]) := by
    rw [pickCtxs_next 66 (by decide) hx ht, if_pos hturn, pickCtxs_next 65 length_one_ne_two (by simpa using hy) hw,
      if_neg (Bool.eq_false_iff.mp hturn')]
    exact pickCtxs_end 64 (.inr (by simpa using hend))
  exact grantBand_of_pick hpick (issueCtxs_cons hu [])

/-- The only ready context just waits: no turn was taken. -/
theorem grantBand_waits (hx : s.nextCtx k band [] = some cx) (ht : s.issueQuad ex k band (cx.quads.headD 0) = .next t)
    (hturn : t.issued = false) (hend : ({ t with iss := .none } : State).nextCtx k band [] = none) :
    State.grantBand ex k band s = .next ({ t with iss := .none }, 0) := by
  have hpick : State.pickCtxs ex k band 67 [] s = .next ({ t with iss := .none }, []) := by
    rw [pickCtxs_next 66 (by decide) hx ht, if_neg (Bool.eq_false_iff.mp hturn)]
    exact pickCtxs_end 65 (.inr hend)
  exact grantBand_of_pick hpick rfl

/-- Bands without a ready context are passed over. -/
theorem grantFirst_skip {pre post : List (Nat × Nat)} (hiss : s.iss = .none)
    (h : ∀ e ∈ pre, s.nextCtx e.1 e.2 [] = none) :
    State.grantFirst ex c (pre ++ post) s = State.grantFirst ex c post s := by
  induction pre with
  | nil => rfl
  | cons e r ih =>
    obtain ⟨he, hr⟩ := List.forall_mem_cons.mp h
    rw [List.cons_append, State.grantFirst, grantBand_idle hiss he]
    exact ih hr

/-- Where no band has a ready context, nothing issues. -/
theorem grantFirst_idle {es : List (Nat × Nat)} (hiss : s.iss = .none) (h : ∀ e ∈ es, s.nextCtx e.1 e.2 [] = none) :
    State.grantFirst ex c es s = .next s := by
  simpa [State.grantFirst] using grantFirst_skip (post := []) (ex := ex) (c := c) hiss h

/-- The band granted is recorded. -/
theorem grantFirst_turn {n : Nat} {post : List (Nat × Nat)} (h : State.grantBand ex k band s = .next (t, n + 1)) :
    State.grantFirst ex c ((k, band) :: post) s =
      .next (t.modCore c fun y => ({ y with granted := 8 * slotOfTeam k + band }).count 0x01 1) := by
  simp only [State.grantFirst, h]

end

/-! ### Threads whose waits are over (R52, R69) -/

/-- Threads made ready change in nothing else, and of the team only the contexts change with them. -/
theorem makeReady_spec (t : Team) (n : Nat) (ts : List Tix) :
    let u := t.makeReady n ts
    u = { t with threads := u.threads, ctxs := u.ctxs } ∧
      ∀ i, u.thread i = if i ∈ ts then { t.thread i with stat := .ready } else t.thread i := by
  have hidle : ∀ (qs : List Nat) (v : Team), qs.foldl (fun t q => t.leaveIdle n (q / 16) (q % 16)) v =
      { v with ctxs := (qs.foldl (fun t q => t.leaveIdle n (q / 16) (q % 16)) v).ctxs } := by
    intro qs
    induction qs with
    | nil => exact fun v => rfl
    | cons q r ih => intro v; rw [List.foldl_cons, ih]; rfl
  obtain ⟨hu, hthread⟩ := foldl_ready ts t
  intro u
  refine ⟨?_, fun i => ?_⟩
  · simp only [u, Team.makeReady]
    rw [hidle, hu]
  · rw [← hthread i]
    simp only [u, Team.makeReady]
    rw [hidle]
    rfl

/-- The threads that wake for their registers and entries (R52). -/
theorem wakeHeld_spec (t : Team) (n : Nat) :
    let u := t.wakeHeld n
    u = { t with threads := u.threads, ctxs := u.ctxs } ∧
      ∀ i, u.thread i = if i ∈ t.liveThreads.filter t.heldDone then { t.thread i with stat := .ready } else t.thread i := by
  intro u
  simp only [u, Team.wakeHeld]
  split
  next h =>
    rw [List.isEmpty_iff.mp h]
    exact ⟨rfl, fun i => by simp⟩
  next => exact makeReady_spec t n _

/-- The threads of a team that wait in an instruction which would no longer hold them. -/
def waitsOver (ex : Instr → State → Out1) (s : State) (k : Nat) : List Tix :=
  ((s.team k).waiters.filter fun e => s.bandRuns k e.1 && s.pcRuns k e.2.1).flatMap (s.waitOver ex k)

theorem wakeTeam_eq (ex : Instr → State → Out1) (s : State) (k : Nat) :
    let v := s.modTeam k fun t => t.wakeHeld s.fresh
    s.wakeTeam ex k = if (waitsOver ex v k).isEmpty then v
      else v.modTeam k fun t => t.makeReady v.fresh (waitsOver ex v k) := rfl

/-- They are live and wait. -/
theorem isWaiting_of_waitsOver {ex : Instr → State → Out1} {s : State} {k : Nat} {i : Tix}
    (h : i ∈ waitsOver ex s k) : (s.thread k i).isWaiting = true := by
  obtain ⟨e, he, hi⟩ := List.mem_flatMap.mp h
  have hie : i ∈ e.2.2 := by
    unfold State.waitOver at hi
    split at hi
    · exact (List.mem_filter.mp hi).1
    · cases hi
  obtain ⟨n, -, rfl⟩ := List.mem_map.mp (List.mem_filter.mp he).1
  exact (List.mem_filter.mp (List.mem_filter.mp hie).1).2

/-- Only threads that wait, or whose registers and entries have come, wake; the latter all do (R52, R69). -/
theorem wakeTeam_spec (ex : Instr → State → Out1) (s : State) (k : Nat) :
    let w := s.wakeTeam ex k
    w = { s with teams := w.teams } ∧ (∀ j, j ≠ k → w.team j = s.team j) ∧
      w.team k = { s.team k with threads := (w.team k).threads, ctxs := (w.team k).ctxs } ∧
      ∃ ts : List Tix, (∀ i ∈ ts, i ∈ (s.team k).liveThreads.filter (s.team k).heldDone ∨ (s.thread k i).isWaiting = true) ∧
        (∀ i ∈ (s.team k).liveThreads.filter (s.team k).heldDone, i ∈ ts) ∧
        ∀ i, w.thread k i = if i ∈ ts then { s.thread k i with stat := .ready } else s.thread k i := by
  obtain ⟨hv, hvt⟩ := wakeHeld_spec (s.team k) s.fresh
  intro w
  simp only [w, wakeTeam_eq]
  generalize hvs : s.modTeam k (fun t => t.wakeHeld s.fresh) = v
  have hteam : v.team k = (s.team k).wakeHeld s.fresh := by rw [← hvs, State.modTeam_team_same]
  have hother : ∀ j, j ≠ k → v.team j = s.team j := fun j hj => by rw [← hvs, State.modTeam_team_ne (h := hj)]
  have hrest : v = { s with teams := v.teams } := by rw [← hvs]; rfl
  have hvthread : ∀ i, v.thread k i = if i ∈ (s.team k).liveThreads.filter (s.team k).heldDone
      then { s.thread k i with stat := .ready } else s.thread k i := fun i => by
    rw [State.thread, hteam]; exact hvt i
  rw [← hteam] at hv
  split
  next =>
    exact ⟨hrest, hother, hv, _, fun i hi => .inl hi, fun i hi => hi, hvthread⟩
  next =>
    obtain ⟨hu, hut⟩ := makeReady_spec (v.team k) v.fresh (waitsOver ex v k)
    refine ⟨by rw [hrest]; rfl, fun j hj => by rw [State.modTeam_team_ne (h := hj), hother j hj], ?_,
      (s.team k).liveThreads.filter (s.team k).heldDone ++ waitsOver ex v k, fun i hi => ?_,
      fun i hi => List.mem_append_left _ hi, fun i => ?_⟩
    · rw [State.modTeam_team_same, hu, hv]
    · rcases List.mem_append.mp hi with hi | hi
      · exact .inl hi
      · have hwait := isWaiting_of_waitsOver hi
        by_cases hh : i ∈ (s.team k).liveThreads.filter (s.team k).heldDone
        · exact .inl hh
        · rw [hvthread, if_neg hh] at hwait
          exact .inr hwait
    · rw [State.thread, State.modTeam_team_same, hut]
      change (if i ∈ _ then { v.thread k i with stat := .ready } else v.thread k i) = _
      rw [hvthread]
      by_cases h1 : i ∈ waitsOver ex v k <;>
        by_cases h2 : i ∈ (s.team k).liveThreads.filter (s.team k).heldDone <;> simp only [List.mem_append, h1, h2] <;> rfl

/-- The teams of a core wake one by one; nothing but the teams changes. -/
theorem foldl_wakeTeam_iss (ex : Instr → State → Out1) (ks : List Nat) (s : State) :
    (ks.foldl (State.wakeTeam ex) s).iss = s.iss := by
  induction ks generalizing s with
  | nil => rfl
  | cons k r ih =>
    obtain ⟨hw, -⟩ := wakeTeam_spec ex s k
    rw [List.foldl_cons, ih, hw]

/-! ### One step -/

theorem foldl_min_spec (l : List Nat) (a : Nat) :
    (l.foldl min a = a ∨ l.foldl min a ∈ l) ∧ l.foldl min a ≤ a ∧ ∀ q ∈ l, l.foldl min a ≤ q := by
  induction l generalizing a with
  | nil => simp
  | cons x r ih =>
    obtain ⟨hmem, hle, hall⟩ := ih (min a x)
    simp only [List.foldl_cons, List.mem_cons]
    refine ⟨?_, hle.trans (Nat.min_le_left a x), fun q hq => ?_⟩
    · rcases hmem with h | h
      · rw [h]
        rcases Nat.le_total a x with hax | hax
        · exact .inl (Nat.min_eq_left hax)
        · exact .inr (.inl (Nat.min_eq_right hax))
      · exact .inr (.inr h)
    · rcases hq with rfl | hq
      · exact hle.trans (Nat.min_le_right a q)
      · exact hall q hq

theorem low_spec {c : Ctx} (hlt : ∀ q ∈ c.quads, q < 16) (hne : c.quads ≠ []) :
    c.low ∈ c.quads ∧ ∀ q ∈ c.quads, c.low ≤ q := by
  obtain ⟨hmem, -, hall⟩ := foldl_min_spec c.quads 16
  refine ⟨hmem.resolve_left fun h => ?_, hall⟩
  obtain ⟨q, hq⟩ := List.exists_mem_of_ne_nil _ hne
  have hle := hall q hq
  rw [h] at hle
  exact absurd (hlt q hq) (Nat.not_lt.mpr hle)

theorem nextCtx_eq_some {s : State} {k band : Nat} {skip : List Nat} {c : Ctx} : s.nextCtx k band skip = some c ↔
    ((s.team k).live = true ∧ band ∉ (s.team k).frozen ∧ (s.core (coreOfTeam k)).enabled = true) ∧
      (s.team k).readyCtx band skip (s.pcRuns k) = some c := by
  simp [State.nextCtx, State.bandRuns, and_assoc]

theorem step_act {s : State} {a : Act} {r : List Act} (hs : s.sched = a :: r) (hp : s.power = true ∨ a.isPowerOn = true) :
    step s = andThen (({ s with sched := r } : State).doAct exec a) State.tick := by
  have hgo : ¬ ((!s.power && !a.isPowerOn) = true) := by rcases hp with h | h <;> simp [h]
  simp only [step, hs]
  rw [if_neg hgo]

/-- What the model continues with after an outcome is what the statement of O57 writes. -/
theorem andThen_eq (o : Out1) (f : State → State) :
    andThen o f = match o with | .next t => .next (f t) | o => o := by cases o <;> rfl

theorem autoAct_spec (s : State) :
    (s.moves exec = [] → s.autoAct exec = none) ∧ (s.moves exec ≠ [] → ∃ f ∈ s.moves exec, s.autoAct exec = some f) := by
  refine ⟨fun h => by simp [State.autoAct, h], fun h => ?_⟩
  have hlt : s.fresh % (s.moves exec).length < (s.moves exec).length := Nat.mod_lt _ (List.length_pos_iff.mpr h)
  exact ⟨_, List.getElem_mem hlt, List.getElem?_eq_getElem hlt⟩

/-- Where the schedule names nothing, the next move runs, or only time passes. -/
theorem step_idle {s : State} (hp : s.power = true) (hs : s.sched = []) :
    (s.autoAct exec = none → step s = .next s.tick) ∧ (∀ f, s.autoAct exec = some f → step s = andThen (f s) State.tick) :=
  ⟨fun h => by simp only [step, hs, hp, h, Bool.not_true, Bool.false_eq_true, if_false],
    fun f h => by simp only [step, hs, hp, h, Bool.not_true, Bool.false_eq_true, if_false]⟩

theorem andThen_andThen (o : Out1) (f g : State → State) : andThen (andThen o f) g = andThen o fun s => g (f s) := by
  cases o <;> rfl

theorem step_off {s : State} (hp : s.power = false) (h : ∀ a r, s.sched = a :: r → a.isPowerOn = false) :
    step s = .fault .poweredOff := by
  obtain hs | ⟨a, r, hs⟩ : s.sched = [] ∨ ∃ a r, s.sched = a :: r := by
    rcases s.sched with _ | ⟨a, r⟩
    · exact .inl rfl
    · exact .inr ⟨a, r, rfl⟩
  · simp only [step, hs, hp, Bool.not_false, if_true]
  · simp only [step, hs, hp, h a r hs, Bool.not_false, Bool.and_true, if_true]

/-- A Shuttle whose group is one legal instruction runs that alone. -/
theorem issueShuttle_one {ex : Instr → State → Out1} {s : State} {c : Nat} {i : Instr} {x : Bool} (hrun : s.shuttleIssues c = true)
    (hpkt : pcPkt (s.shuttle c).pc ≤ 5460) (hj : (s.shuttle c).pc.toNat % 4 < 3)
    (hslot : pcSlot (s.shuttle c).pc ≠ 3 ∨ (s.shuttle c).mode = true)
    (hword : OneWord (s.packetWords c (pcSlot (s.shuttle c).pc) (pcPkt (s.shuttle c).pc)) ((s.shuttle c).pc.toNat % 4) x
      (some i) (some i)) :
    State.issueShuttle ex s c = andThen (ex i ((s.shuttleIssue c (wordPc (pcSlot (s.shuttle c).pc) (pcPkt (s.shuttle c).pc)
      ((s.shuttle c).pc.toNat % 4 + x.toNat + 1))).enter ⟨(s.shuttle c).pc, none, some i, some i⟩)) (State.finishShuttle c) := by
  simp only [State.issueShuttle, hrun, fetch_one true hpkt hj hslot hword, State.runGroup, Bool.not_true, Bool.false_eq_true,
    if_false]

/-- A Bobbin engine runs the instruction its next word decodes to. -/
theorem issueBobbin_one {ex : Instr → State → Out1} {s : State} {b : Nat} {i : Instr} {x : Bool} {w : Word}
    (hrun : s.bobRuns b = true) (hstat : (s.bobbin b).stat = .ready) (hpast : (s.bobbin b).past = false)
    (hw : (s.bobbin b).store[(s.bobbin b).pc.toNat]? = some w) (hdec : decodeBobbin w = .ok i x) :
    State.issueBobbin ex s b = ex i (s.bobIssue b) := by
  obtain ⟨hlt, rfl⟩ := List.getElem?_eq_some_iff.mp hw
  have hfetch : s.bobFetch b = .ok i := by
    simp [State.bobFetch, hpast, Nat.not_le.mpr hlt, hw, hdec]
  simp [State.issueBobbin, hrun, hstat, hfetch]

/-- A thread that wakes for its registers or entries, or that waits, is live. -/
theorem isLive_of_heldDone {t : Team} {i : Tix} (h : t.heldDone i = true) : (t.thread i).isLive = true := by
  cases hs : (t.thread i).stat <;> simp_all [Team.heldDone, Thread.isLive]

theorem isLive_of_isWaiting {t : Thread} (h : t.isWaiting = true) : t.isLive = true := by
  cases hs : t.stat <;> simp_all [Thread.isWaiting, Thread.isLive]

/-- Settles O57: the group at the agent's counter is one word, so its issue is that word's meaning; the grant, the threads that wake and
the schedule are read from their own lemmas. -/
theorem stepRunsDecodedInstruction : Obligations.StepRunsDecodedInstruction := by
  unfold Obligations.StepRunsDecodedInstruction
  intro then_ issues ready
  have hthen : ∀ o f, then_ o f = andThen o f := fun o f => (andThen_eq o f).symm
  have hissue : ∀ {v k band cx t}, issues v k band cx t → v.issueQuad exec k band (cx.quads.headD 0) = .next t := by
    rintro v k band cx t ⟨p, hp, hpkt, hj, hslot, hpfx, hcase⟩
    obtain ⟨i, x, u, hx, hdec, hend, hexec, rfl⟩ | ⟨hext, hx, hend, hdec, rfl⟩ | ⟨i, x, hx, hdec, hend, rfl⟩ := hcase
    · rw [issueQuad_one hp hpkt hj hslot (oneWord_ok hpfx hx hend hdec)]
      simp only [State.runGroup, Nat.add_assoc, hexec, andThen]
    · rw [issueQuad_one hp hpkt hj hslot ⟨hpfx, hext, hx, hend, .inr (.inr ⟨hdec, rfl, rfl⟩)⟩, runGroup_bad]
      simp only [andThen, Option.any_none, Bool.false_eq_true, if_false, Bool.toNat_false, Nat.add_zero]
    · rw [issueQuad_one hp hpkt hj hslot (oneWord_bad hpfx hx hend hdec), runGroup_bad, Nat.add_assoc]
      simp only [andThen, Option.any_some]
  have hready : ∀ {v e}, ¬ ready v e → v.nextCtx e.1 e.2 [] = none := fun h => not_not.mp h
  refine ⟨fun s r c hs hp hiss => ?core, fun s k band skip c => nextCtx_eq_some, fun c h hne => low_spec h hne,
    fun s k => ?wake, fun s r c i x hs hp => ?shuttle, fun s r b i x hs hp => ?bobbin, fun s r i hs hp => ?event,
    fun s r k split ports hs => ?powerOn, fun s hp h => ?off, fun s hp hs => ⟨fun h => ?still, fun h => ?moves⟩⟩
  case core =>
    intro u v grant
    have hv : v.iss = .none := (foldl_wakeTeam_iss exec _ u).trans hiss
    have hstep : step s = andThen (State.grantFirst exec c (v.grantOrder c) v) State.tick := step_act hs (.inl hp)
    refine ⟨fun h => ?none, fun pre k band post cx t horder hpre hx ht => ?some⟩
    case none => rw [hstep, grantFirst_idle hv fun e he => hready (h e he)]; rfl
    case some =>
      rw [horder, grantFirst_skip hv fun e he => hready (hpre e he)] at hstep
      refine ⟨fun hturn hend => ?one, fun hturn cy w hy hw => ⟨fun hturn' u => ?two, fun hturn' hend u hu => ?second⟩,
        fun hturn hend hpost => ?waits⟩
      case one => rw [hstep, grantFirst_turn (grantBand_one hv hx (hissue ht) hturn hend)]; rfl
      case two =>
        obtain ⟨hyx, hxy⟩ := grantBand_two (u := u) hv hx (hissue ht) hturn hy (hissue hw) hturn'
        exact ⟨fun hlow hu => by rw [hstep, grantFirst_turn (hyx hlow (hissue hu))]; rfl,
          fun hlow hu => by rw [hstep, grantFirst_turn (hxy hlow (hissue hu))]; rfl⟩
      case second =>
        rw [hstep, grantFirst_turn (grantBand_second_waits hx (hissue ht) hturn hy (hissue hw) hturn' hend (hissue hu))]; rfl
      case waits =>
        rw [hstep, State.grantFirst, grantBand_waits hx (hissue ht) hturn (hready hend)]
        change andThen (State.grantFirst exec c post _) _ = _
        rw [grantFirst_idle rfl fun e he => hready (hpost e he)]
        rfl
  case wake =>
    obtain ⟨hw, hother, hteam, ts, honly, hall, hthread⟩ := wakeTeam_spec exec s k
    refine ⟨hw, hother, hteam, fun i => ?_⟩
    intro x
    rw [hthread]
    by_cases hi : i ∈ ts
    · rw [if_pos hi]
      refine ⟨.inr ?_, fun _ _ => rfl⟩
      rcases honly i hi with hheld | hwait
      · have hh := (List.mem_filter.mp hheld).2
        exact ⟨isLive_of_heldDone hh, .inl hh, rfl⟩
      · exact ⟨isLive_of_isWaiting hwait, .inr hwait, rfl⟩
    · rw [if_neg hi]
      exact ⟨.inl rfl, fun hl hh => absurd (hall i (List.mem_filter.mpr ⟨Monitor.mem_liveThreads hl, hh⟩)) hi⟩
  case shuttle =>
    intro u hrun pc ws j hpkt hj hslot hpfx hx hdec hend
    have hword : OneWord ws j x (some i) (some i) := oneWord_ok hpfx hx hend hdec
    rw [hthen, step_act hs (.inl hp)]
    rw [State.doAct, issueShuttle_one hrun hpkt hj hslot hword, andThen_andThen]
  case bobbin =>
    intro u hrun hstat hpast w hw hdec
    rw [hthen, step_act hs (.inl hp), State.doAct, issueBobbin_one hrun hstat hpast hw hdec]
  case event => rw [hthen]; exact step_act hs (.inl hp)
  case powerOn => rw [hthen]; exact step_act hs (.inr rfl)
  case off => exact step_off hp h
  case still => exact (step_idle hp hs).1 ((autoAct_spec s).1 h)
  case moves =>
    obtain ⟨f, hf, hauto⟩ := (autoAct_spec s).2 h
    exact ⟨f, hf, by rw [hthen]; exact (step_idle hp hs).2 f hauto⟩

end Sys2Proof.Words
end

section
/-! PROOFS (O50). The curve (R365): every block of a grid has its own index, hence its own position; and the dealing of blocks (R366). -/

namespace Sys2Proof.Words
open Sys2Proof Sys2Proof.Machine

/-! ### The curve (R365) -/

/-- Bit k of a coordinate, as the loop reads it. -/
def halfBit (k x : Nat) : Nat := if x / 2 ^ k % 2 = 1 then 1 else 0

/-- The square a halving leaves, in its own orientation. -/
def turnSquare (S rx ry x y : Nat) : Nat × Nat :=
  if ry = 0 then (if rx = 1 then (S - 1 - y, S - 1 - x) else (y, x)) else (x, y)

/-- The index that k halvings give, most significant pair of bits first (`hilbertLoop`). -/
def squareIndex (S : Nat) : Nat → Nat → Nat → Nat
  | 0, _, _ => 0
  | k + 1, x, y =>
    let z := turnSquare S (halfBit k x) (halfBit k y) x y
    4 ^ k * ((3 * halfBit k x) ^^^ halfBit k y) + squareIndex S k z.1 z.2

theorem hilbertLoop_eq (S k x y h : Nat) : hilbertLoop S k (2 ^ k / 2) x y h = h + squareIndex S k x y := by
  induction k generalizing x y h with
  | zero => rfl
  | succ k ih =>
    have hs : 2 ^ (k + 1) / 2 = 2 ^ k := by rw [Nat.pow_succ]; exact Nat.mul_div_cancel _ (by decide)
    have h4 : 2 ^ k * 2 ^ k = 4 ^ k := by rw [← Nat.mul_pow]
    unfold hilbertLoop
    simp only [hs, ih, h4, squareIndex, halfBit, turnSquare, Nat.add_assoc]
    rfl

theorem halfBit_lt (k x : Nat) : halfBit k x < 2 := by
  unfold halfBit
  split <;> decide

theorem digit_lt (k x y : Nat) : (3 * halfBit k x) ^^^ halfBit k y < 4 := by
  have key : ∀ a b : Fin 2, (3 * a.val) ^^^ b.val < 4 := by decide
  exact key ⟨_, halfBit_lt k x⟩ ⟨_, halfBit_lt k y⟩

/-- The four quarters of a square have four digits. -/
theorem digit_inj {k x y v w : Nat} (h : (3 * halfBit k x) ^^^ halfBit k y = (3 * halfBit k v) ^^^ halfBit k w) :
    halfBit k x = halfBit k v ∧ halfBit k y = halfBit k w := by
  have key : ∀ a b c d : Fin 2, (3 * a.val) ^^^ b.val = (3 * c.val) ^^^ d.val → a.val = c.val ∧ b.val = d.val := by decide
  exact key ⟨_, halfBit_lt k x⟩ ⟨_, halfBit_lt k y⟩ ⟨_, halfBit_lt k v⟩ ⟨_, halfBit_lt k w⟩ h

theorem squareIndex_lt (S k x y : Nat) : squareIndex S k x y < 4 ^ k := by
  induction k generalizing x y with
  | zero => exact Nat.one_pos
  | succ k ih =>
    have hd := digit_lt k x y
    have hi := ih (turnSquare S (halfBit k x) (halfBit k y) x y).1 (turnSquare S (halfBit k x) (halfBit k y) x y).2
    have hmul : 4 ^ k * ((3 * halfBit k x) ^^^ halfBit k y) ≤ 4 ^ k * 3 := Nat.mul_le_mul_left _ (by omega)
    rw [squareIndex, Nat.pow_succ]
    omega

/-- A coordinate below 2^(k+1) is its bit k and what is below. -/
theorem mod_succ_of_halfBit {k x v : Nat} (hbit : halfBit k x = halfBit k v) (hmod : x % 2 ^ k = v % 2 ^ k) :
    x % 2 ^ (k + 1) = v % 2 ^ (k + 1) := by
  have hb : x / 2 ^ k % 2 = v / 2 ^ k % 2 := by
    unfold halfBit at hbit
    split at hbit <;> split at hbit <;> omega
  rw [Nat.pow_succ, Nat.mod_mul, Nat.mod_mul, hmod, hb]

/-- A coordinate counted from the far side of the square has the complement's low bits. -/
theorem mod_of_flip {K k x v : Nat} (hx : x < 2 ^ K) (hv : v < 2 ^ K)
    (h : (2 ^ K - 1 - x) % 2 ^ k = (2 ^ K - 1 - v) % 2 ^ k) : x % 2 ^ k = v % 2 ^ k := by
  have hcomp : ∀ z, z < 2 ^ K → (2 ^ K - 1 - z + z) % 2 ^ k = (2 ^ K - 1) % 2 ^ k := fun z hz => by
    rw [Nat.sub_add_cancel (by omega)]
  have hsum : 2 ^ K - 1 - x + x ≡ 2 ^ K - 1 - v + v [MOD 2 ^ k] := (hcomp x hx).trans (hcomp v hv).symm
  exact Nat.ModEq.add_left_cancel h hsum

theorem turnSquare_lt {K rx ry x y : Nat} (hx : x < 2 ^ K) (hy : y < 2 ^ K) :
    (turnSquare (2 ^ K) rx ry x y).1 < 2 ^ K ∧ (turnSquare (2 ^ K) rx ry x y).2 < 2 ^ K := by
  unfold turnSquare
  split
  · split
    · exact ⟨by dsimp only; omega, by dsimp only; omega⟩
    · exact ⟨hy, hx⟩
  · exact ⟨hx, hy⟩

theorem turnSquare_mod {K k rx ry x y v w : Nat} (hx : x < 2 ^ K) (hy : y < 2 ^ K) (hv : v < 2 ^ K) (hw : w < 2 ^ K)
    (h1 : (turnSquare (2 ^ K) rx ry x y).1 % 2 ^ k = (turnSquare (2 ^ K) rx ry v w).1 % 2 ^ k)
    (h2 : (turnSquare (2 ^ K) rx ry x y).2 % 2 ^ k = (turnSquare (2 ^ K) rx ry v w).2 % 2 ^ k) :
    x % 2 ^ k = v % 2 ^ k ∧ y % 2 ^ k = w % 2 ^ k := by
  unfold turnSquare at h1 h2
  split at h1
  · next hry =>
    split at h1
    · next hrx =>
      rw [if_pos hry, if_pos hrx, if_pos hry, if_pos hrx] at h2
      exact ⟨mod_of_flip hx hv h2, mod_of_flip hy hw h1⟩
    · next hrx =>
      rw [if_pos hry, if_neg hrx, if_pos hry, if_neg hrx] at h2
      exact ⟨h2, h1⟩
  · next hry =>
    rw [if_neg hry, if_neg hry] at h2
    exact ⟨h1, h2⟩

/-- Points of one square with one index agree in the bits that the halvings read. -/
theorem squareIndex_inj {K k x y v w : Nat} (hx : x < 2 ^ K) (hy : y < 2 ^ K) (hv : v < 2 ^ K) (hw : w < 2 ^ K)
    (h : squareIndex (2 ^ K) k x y = squareIndex (2 ^ K) k v w) : x % 2 ^ k = v % 2 ^ k ∧ y % 2 ^ k = w % 2 ^ k := by
  induction k generalizing x y v w with
  | zero => simp [Nat.mod_one]
  | succ k ih =>
    simp only [squareIndex] at h
    have hpos : 0 < 4 ^ k := Nat.pow_pos (by decide)
    have hdiv := congrArg (· / 4 ^ k) h
    have hmod := congrArg (· % 4 ^ k) h
    simp only [Nat.mul_add_div hpos, Nat.div_eq_of_lt (squareIndex_lt _ _ _ _), Nat.add_zero] at hdiv
    simp only [Nat.mul_add_mod, Nat.mod_eq_of_lt (squareIndex_lt _ _ _ _)] at hmod
    obtain ⟨hbx, hby⟩ := digit_inj hdiv
    rw [hbx, hby] at hmod
    obtain ⟨hx', hy'⟩ := turnSquare_lt (rx := halfBit k v) (ry := halfBit k w) hx hy
    obtain ⟨hv', hw'⟩ := turnSquare_lt (rx := halfBit k v) (ry := halfBit k w) hv hw
    obtain ⟨h1, h2⟩ := ih hx' hy' hv' hw' hmod
    obtain ⟨hxv, hyw⟩ := turnSquare_mod hx hy hv hw h1 h2
    exact ⟨mod_succ_of_halfBit hbx hxv, mod_succ_of_halfBit hby hyw⟩

/-- The side of the curve's square covers both extents of a grid that fits 2^24. -/
theorem le_curveBits {BX BY : Nat} (hX : BX ≤ 2 ^ 24) (hY : BY ≤ 2 ^ 24) : BX ≤ 2 ^ curveBits BX BY ∧ BY ≤ 2 ^ curveBits BX BY := by
  unfold curveBits
  cases hf : (List.range 25).find? fun k => decide (BX ≤ 2 ^ k) && decide (BY ≤ 2 ^ k) with
  | some k => simpa using List.find?_some hf
  | none =>
    have h24 := List.find?_eq_none.mp hf 24 (by simp)
    exact absurd (by simp only [hX, hY, decide_true, Bool.and_self]) h24

theorem hilbert_inj {BX BY x y v w : Nat} (hX : BX ≤ 2 ^ 24) (hY : BY ≤ 2 ^ 24) (hx : x < BX) (hv : v < BX) (hy : y < BY)
    (hw : w < BY) (h : hilbert BX BY x y = hilbert BX BY v w) : x = v ∧ y = w := by
  obtain ⟨hbx, hby⟩ := le_curveBits hX hY
  simp only [hilbert, hilbertLoop_eq, Nat.zero_add] at h
  have hx' := hx.trans_le hbx
  have hv' := hv.trans_le hbx
  have hy' := hy.trans_le hby
  have hw' := hw.trans_le hby
  have := squareIndex_inj hx' hy' hv' hw' h
  simpa only [Nat.mod_eq_of_lt, hx', hv', hy', hw'] using this

/-- How many members of a list lie below a bound: fewer than below a greater bound that some member reaches. -/
theorem countP_lt_of_mem {l : List Nat} {f : Nat → Nat} {a b i : Nat} (hi : i ∈ l) (ha : a ≤ f i) (hb : f i < b) :
    l.countP (fun j => decide (f j < a)) < l.countP fun j => decide (f j < b) := by
  induction l with
  | nil => cases hi
  | cons j r ih =>
    have hle : r.countP (fun j => decide (f j < a)) ≤ r.countP fun j => decide (f j < b) :=
      List.countP_mono_left fun n _ hn => by simp only [decide_eq_true_eq] at hn ⊢; omega
    rw [List.countP_cons, List.countP_cons]
    rcases List.mem_cons.mp hi with rfl | hi
    · simp only [Nat.not_lt.mpr ha, hb, decide_true, decide_false, Bool.false_eq_true, if_false, if_true]
      omega
    · have := ih hi
      simp only [decide_eq_true_eq]
      split <;> split <;> omega

/-- The number of a block in rows. -/
theorem row_number {BX BY x y : Nat} (hx : x < BX) (hy : y < BY) :
    y * BX + x < BX * BY ∧ (y * BX + x) % BX = x ∧ (y * BX + x) / BX = y := by
  refine ⟨?_, ?_, ?_⟩
  · calc y * BX + x < y * BX + BX := Nat.add_lt_add_left hx _
      _ = (y + 1) * BX := (Nat.succ_mul y BX).symm
      _ ≤ BY * BX := Nat.mul_le_mul_right _ hy
      _ = BX * BY := Nat.mul_comm _ _
  · rw [Nat.mul_comm, Nat.mul_add_mod, Nat.mod_eq_of_lt hx]
  · rw [Nat.mul_comm, Nat.mul_add_div (Nat.zero_lt_of_lt hx), Nat.div_eq_of_lt hx, Nat.add_zero]

/-- Blocks of lesser index have lesser positions. -/
theorem curvePos_lt {BX BY x y v w : Nat} (hx : x < BX) (hy : y < BY)
    (h : hilbert BX BY x y < hilbert BX BY v w) : curvePos BX BY x y < curvePos BX BY v w := by
  obtain ⟨hlt, hmod, hdiv⟩ := row_number hx hy
  simp only [curvePos, ← List.countP_eq_length_filter]
  exact countP_lt_of_mem (f := fun i => hilbert BX BY (i % BX) (i / BX)) (List.mem_range.mpr hlt)
    (by simp only [hmod, hdiv, le_refl]) (by simpa only [hmod, hdiv] using h)

/-- Every block has its own position below their number (R365). -/
theorem curvePos_spec {BX BY x y v w : Nat} (hX : BX ≤ 2 ^ 24) (hY : BY ≤ 2 ^ 24) (hx : x < BX) (hv : v < BX) (hy : y < BY)
    (hw : w < BY) : curvePos BX BY x y < BX * BY ∧ (curvePos BX BY x y = curvePos BX BY v w → x = v ∧ y = w) := by
  refine ⟨?_, fun h => hilbert_inj hX hY hx hv hy hw ?_⟩
  · obtain ⟨hlt, hmod, hdiv⟩ := row_number hx hy
    have hcount : (List.range (BX * BY)).countP (fun i => decide (hilbert BX BY (i % BX) (i / BX) < hilbert BX BY x y)) <
        (List.range (BX * BY)).countP fun i => decide (hilbert BX BY (i % BX) (i / BX) < hilbert BX BY x y + 1) :=
      countP_lt_of_mem (f := fun i => hilbert BX BY (i % BX) (i / BX)) (List.mem_range.mpr hlt)
        (by simp only [hmod, hdiv, le_refl]) (by simp only [hmod, hdiv, Nat.lt_add_one])
    have hall := List.countP_le_length (p := fun i => decide (hilbert BX BY (i % BX) (i / BX) < hilbert BX BY x y + 1))
      (l := List.range (BX * BY))
    rw [List.length_range] at hall
    simp only [curvePos, ← List.countP_eq_length_filter]
    exact hcount.trans_le hall
  · rcases Nat.lt_trichotomy (hilbert BX BY x y) (hilbert BX BY v w) with hlt | heq | hgt
    · exact absurd h (curvePos_lt hx hy hlt).ne
    · exact heq
    · exact absurd h (curvePos_lt hv hw hgt).ne'

/-! ### Dealing (R366) -/

/-- Blocks are dealt in spans of the same length, the last perhaps shorter. -/
theorem dealBlocks_spec {ps : List Nat} {n k : Nat} (hps : ps ≠ []) (hk : k < n) :
    let span := (n + ps.length - 1) / ps.length
    (dealBlocks ps n)[k]? = some (ps.getD (k / span) 0, k) ∧ k / span < ps.length := by
  have hpos : 0 < ps.length := List.length_pos_iff.mpr hps
  intro span
  refine ⟨by simp [dealBlocks, hk, span], ?_⟩
  have hcover : n ≤ ps.length * ((n + ps.length - 1) / ps.length) := by
    have := Nat.lt_mul_div_succ (n + ps.length - 1) hpos
    rw [Nat.mul_succ] at this
    omega
  exact Nat.div_lt_of_lt_mul (by rw [Nat.mul_comm]; exact hk.trans_le hcover)

end Sys2Proof.Words
end

section
/-! PROOFS (O50). What caches and memory writes leave alone; grids: their refusals, groups and start (R364, R366, R368). -/

namespace Sys2Proof.Words
open Sys2Proof Sys2Proof.Machine

/-! ### What caches and memory writes leave alone -/

/-- The teams, clusters, queues, grids, packets and Shuttles. -/
def agentSide (s : State) : NMap Team × NMap Cluster × NMap Queue × List Grid × List Packet × (Nat → Shuttle) :=
  (s.teams, s.clusters, s.queues, s.grids, s.packets, s.shuttle)

theorem agentSide_iff {s t : State} : agentSide t = agentSide s ↔ t.teams = s.teams ∧ t.clusters = s.clusters ∧ t.queues = s.queues ∧
    t.grids = s.grids ∧ t.packets = s.packets ∧ t.shuttle = s.shuttle := by
  simp [agentSide]

theorem agentSide_ite {s t u : State} {c : Prop} [Decidable c] (ht : agentSide t = agentSide s) (hu : agentSide u = agentSide s) :
    agentSide (if c then t else u) = agentSide s := by
  split
  · exact ht
  · exact hu

theorem agentSide_modCore (s : State) (c : Nat) (f : Core → Core) (hf : ∀ x, (f x).shuttle = x.shuttle := by exact fun _ => rfl) :
    agentSide (s.modCore c f) = agentSide s :=
  agentSide_iff.mpr ⟨rfl, rfl, rfl, rfl, rfl,
    funext fun j => Monitor.nget_nmod_keeps (fun x : Core => x.shuttle) hf s.cores c j⟩

theorem agentSide_fillLlc (s : State) (q : Nat) : agentSide (s.fillLlc q) = agentSide s := by
  unfold State.fillLlc; split <;> rfl

theorem agentSide_fillHome (s : State) (q : Nat) : agentSide (s.fillHome q) = agentSide s := by
  unfold State.fillHome
  split
  · rfl
  · exact agentSide_fillLlc s q

theorem agentSide_fillDie (s : State) (d q : Nat) : agentSide (s.fillDie d q) = agentSide s := by
  unfold State.fillDie
  split
  · rfl
  · dsimp only
    split <;> exact agentSide_fillHome s q

theorem agentSide_cleanL1 (s : State) (c q : Nat) : agentSide (s.cleanL1 c q) = agentSide s := by
  unfold State.cleanL1
  split
  · split
    · rfl
    · exact (agentSide_modCore _ _ _).trans (agentSide_fillDie s (dieOfCore c) q)
  · rfl

theorem agentSide_takeGranules (s : State) (c : Nat) : agentSide (s.takeGranules c) = agentSide s := by
  refine foldl_keeps agentSide _ (fun s q => ?_) _ _
  split
  · exact (agentSide_modCore _ _ _).trans (agentSide_cleanL1 s c q)
  · rfl

theorem agentSide_startUnit (s : State) (u : UnitKey) (a c k l g : Nat) : agentSide (s.startUnit u a c k l g) = agentSide s := by
  unfold State.startUnit
  split
  · rfl
  · split <;> rfl

theorem agentSide_loadSlot (s : State) (c slot key v src : Nat) (bs : List Byte) :
    agentSide (s.loadSlot c slot key v src bs) = agentSide s := agentSide_modCore _ _ _

theorem agentSide_homeWriteHbm (s : State) (pa : Nat) (bs : List Byte) : agentSide (s.homeWriteHbm pa bs) = agentSide s :=
  foldl_keeps_fst agentSide _ (fun x p => agentSide_fillHome x.1 p.1) _ _

theorem agentSide_homeWrite (s : State) (pa : Nat) (bs : List Byte) : agentSide (s.homeWrite pa bs) = agentSide s := by
  unfold State.homeWrite
  split
  · exact agentSide_homeWriteHbm s pa bs
  · rfl
  · split
    · exact agentSide_homeWriteHbm s _ bs
    · unfold State.peerWrite
      split <;> rfl

theorem agentSide_procAt {s t : State} {asid va pa : Nat} {a : Acc} (h : s.procAt asid va a = some (t, pa)) :
    agentSide t = agentSide s := by
  unfold State.procAt at h
  split at h
  · cases h
  · split at h
    · cases h
    · simp only [Option.some.injEq, Prod.mk.injEq] at h
      rw [← h.1]
      exact agentSide_ite rfl (agentSide_homeWrite _ _ _)

/-- One page of a read at the home slices (`State.procRead`). -/
def readPage (asid va n : Nat) (acc : Option (State × List Byte)) (p : Nat) : Option (State × List Byte) :=
  match acc with
  | none => none
  | some (s, bs) => (s.procAt asid p .read).map fun x =>
      (x.1, bs ++ x.1.homeRead x.2 (min (va + n) (p / 65536 * 65536 + 65536) - p))

/-- Reading at the home slices sets bits of leaves only. -/
theorem agentSide_procRead {s t : State} {asid va n : Nat} {bs : List Byte} (h : s.procRead asid va n = some (t, bs)) :
    agentSide t = agentSide s := by
  have keep : ∀ (ps : List Nat) (acc : Option (State × List Byte)), (∀ x, acc = some x → agentSide x.1 = agentSide s) →
      ∀ x, ps.foldl (readPage asid va n) acc = some x → agentSide x.1 = agentSide s := by
    intro ps
    induction ps with
    | nil => exact fun acc hacc => hacc
    | cons p r ih =>
      refine fun acc hacc => ih _ fun x hx => ?_
      unfold readPage at hx
      split at hx
      · cases hx
      · next u cs =>
        obtain ⟨y, hy, rfl⟩ := Option.map_eq_some_iff.mp hx
        exact (agentSide_procAt hy).trans (hacc _ rfl)
  exact keep _ _ (fun x hx => by cases hx; rfl) _ h

/-- A launch loads pattern programs and templates. -/
theorem launchImage_grids (s : State) (key : Nat) (ps : List Nat) : (s.launchImage key ps).grids = s.grids := by
  unfold State.launchImage
  split
  · rfl
  · next m _ =>
    have hload : ∀ (s : State) p, (s.loadPatterns m p).grids = s.grids := fun s p =>
      foldl_keeps (·.grids) _ (fun s x => by split <;> rfl) _ _
    refine Eq.trans ?_ (foldl_keeps (·.grids) _ hload ps s)
    unfold State.placeTemplates
    split
    · rfl
    · refine foldl_keeps (·.grids) _ (fun s x => ?_) _ _
      rfl

/-! ### Grids (R364, R366, R368) -/

theorem nget_foldl_nput {α : Type} (f : Nat → α) (l : List Nat) (m : NMap α) (n : Nat) (d : α) :
    nget (l.foldl (fun m g => nput m g (f g)) m) n d = if n ∈ l then f n else nget m n d := by
  induction l generalizing m with
  | nil => simp
  | cons a r ih =>
    rw [List.foldl_cons, ih, nget_nput]
    by_cases hr : n ∈ r
    · simp [hr]
    · by_cases ha : n = a
      · subst ha; simp
      · simp [hr, ha]

/-- The members of group n that the items name, as entries of a grid (`State.setGroups`). -/
def groupMembers (grid : Nat) (items : List (Nat × Nat × Nat)) (n : Nat) : List (Nat × Nat) :=
  (dedup ((items.filter fun i => i.1 == n).flatMap fun i => rangeFrom i.2.1 i.2.2)).map fun ix => (grid, ix)

theorem mem_groupMembers {grid n : Nat} {items : List (Nat × Nat × Nat)} {e : Nat × Nat} :
    e ∈ groupMembers grid items n ↔ e.1 = grid ∧ ∃ i ∈ items, i.1 = n ∧ i.2.1 ≤ e.2 ∧ e.2 < i.2.1 + i.2.2 := by
  obtain ⟨a, b⟩ := e
  simp only [groupMembers, List.mem_map, mem_dedup, List.mem_flatMap, List.mem_filter, beq_iff_eq, rangeFrom, List.mem_range,
    Prod.mk.injEq]
  constructor
  · rintro ⟨_, ⟨i, ⟨hi, hn⟩, k, hk, rfl⟩, rfl, rfl⟩
    exact ⟨rfl, i, hi, hn, by omega, by omega⟩
  · rintro ⟨rfl, i, hi, hn, hle, hlt⟩
    exact ⟨b, ⟨i, ⟨hi, hn⟩, b - i.2.1, by omega, by omega⟩, rfl, rfl⟩

/-- The groups of a partition after an image of a grid's groups is set. -/
theorem setGroups_part (s : State) (ps : List Nat) (grid : Nat) (items : List (Nat × Nat × Nat)) (p n : Nat) :
    nget ((s.setGroups ps grid items).part p).groups n [] =
      if p ∈ ps ∧ n ∈ items.map (·.1) then groupMembers grid items n else nget (s.part p).groups n [] := by
  induction ps generalizing s with
  | nil => simp [State.setGroups]
  | cons q r ih =>
    have hcons : s.setGroups (q :: r) grid items = (s.setGroups [q] grid items).setGroups r grid items := rfl
    have hone : nget ((s.setGroups [q] grid items).part p).groups n [] =
        if p = q ∧ n ∈ items.map (·.1) then groupMembers grid items n else nget (s.part p).groups n [] := by
      by_cases hp : p = q
      · subst hp
        simp only [State.setGroups, List.foldl_cons, List.foldl_nil, State.modPart_part_same]
        refine (nget_foldl_nput (groupMembers grid items) _ _ _ _).trans ?_
        simp only [mem_dedup, true_and]
      · simp only [State.setGroups, List.foldl_cons, List.foldl_nil, State.modPart_part_ne _ _ _ _ hp, hp, false_and, if_false]
    rw [hcons, ih, hone]
    by_cases hn : n ∈ items.map (·.1)
    · by_cases hp : p ∈ r <;> simp [hn, hp]
    · simp only [hn, and_false, if_false]

theorem setGroups_keeps (s : State) (ps : List Nat) (grid : Nat) (items : List (Nat × Nat × Nat)) :
    s.setGroups ps grid items = { s with parts := (s.setGroups ps grid items).parts } := by
  induction ps generalizing s with
  | nil => rfl
  | cons q r ih =>
    change (s.setGroups [q] grid items).setGroups r grid items = _
    rw [ih]
    rfl

theorem setGridGroups_one (s : State) (g : Grid) (p : Nat) :
    (p ∈ g.grouped ∨ s.takesWork p g.asid = false → s.setGridGroups g [p] = (s, g)) ∧
    (p ∉ g.grouped → s.takesWork p g.asid = true →
      s.setGridGroups g [p] = (s.setGroups [p] g.id g.groups, { g with grouped := g.grouped ++ [p] })) := by
  constructor
  · intro h
    have hnow : [p].filter (fun p => !g.grouped.contains p && s.takesWork p g.asid) = [] := by
      rcases h with h | h <;> simp [h]
    simp only [State.setGridGroups, hnow, List.append_nil]
    rfl
  · intro hp ht
    have hnow : [p].filter (fun p => !g.grouped.contains p && s.takesWork p g.asid) = [p] := by simp [hp, ht]
    simp only [State.setGridGroups, hnow]

/-- Setting a grid's groups changes which partitions hold them, and of the grid nothing else. -/
theorem setGridGroups_spec (s : State) (g : Grid) (ps : List Nat) :
    (s.setGridGroups g ps).1.grids = s.grids ∧ ∃ l, (s.setGridGroups g ps).2 = { g with grouped := l } :=
  ⟨by rw [State.setGridGroups, setGroups_keeps], _, rfl⟩

theorem startGrid_error {s : State} {pk : Packet} {d : List Byte} (nd : Option Nat) (h : s.gridCode (s.pkAsid pk) d ≠ 0) :
    s.startGrid pk nd d = .error (s.gridCode (s.pkAsid pk) d) := by
  simp only [State.startGrid, ne_eq, h, not_false_eq_true, if_true]

theorem bnat_one_lt (d : List Byte) (o : Nat) : bnat d o 1 < 256 := by
  have hlen : (bslice d o 1).length = 1 := by simp [bslice]
  obtain ⟨b, hb⟩ := List.length_eq_one_iff.mp hlen
  have := b.isLt
  rw [bnat, hb, leNat, leNat]
  omega

theorem gridCode_reserved {s : State} {asid : Nat} {d : List Byte}
    (h : bnat d 6 1 / 32 ≠ 0 ∨ bnat d 0x28 8 ≠ 0 ∨ bnat d 0x30 8 ≠ 0) : s.gridCode asid d = 2 := by
  have hlt : bnat d 6 1 / 32 % 2 ^ 3 = bnat d 6 1 / 32 := Nat.mod_eq_of_lt (by have := bnat_one_lt d 6; omega)
  have hbad : (decide (bits (bnat d 6 1) 5 3 ≠ 0) || decide (bnat d 0x28 8 ≠ 0) || decide (bnat d 0x30 8 ≠ 0)) = true := by
    rw [bits, show (2 : Nat) ^ 5 = 32 from rfl, hlt]
    simpa [or_assoc] using h
  simp only [State.gridCode]
  rw [if_pos hbad]

theorem gridCode_image {s : State} {asid : Nat} {d : List Byte} (h6 : bnat d 6 1 / 32 = 0) (h28 : bnat d 0x28 8 = 0)
    (h30 : bnat d 0x30 8 = 0) (h : nfind s.images (65536 * asid + bnat d 4 2) = none) : s.gridCode asid d = 3 := by
  simp [State.gridCode, bits, h6, h28, h30, imageKey, h]

/-- A descriptor without fault, on partitions that hold its blocks, whose groups can be read and are legal, becomes a grid. -/
theorem startGrid_ok {s u : State} {pk : Packet} {d : List Byte} {m : Image} {bs : List Byte} {items : List (Nat × Nat × Nat)}
    (nd : Option Nat) (hcode : s.gridCode (s.pkAsid pk) d = 0)
    (hm : nfind s.images (65536 * s.pkAsid pk + bnat d 4 2) = some m) (hps : partsOf (s.pkMask pk) ≠ [])
    (hfit : ∀ b ∈ dealBlocks (partsOf (s.pkMask pk)) (descBlocks d), s.blockFits b.1 m d = true)
    (hread : s.procRead (s.pkAsid pk) (bnat d 0x20 8) (8 * bnat d 0x12 2) = some (u, bs))
    (hitems : groupItems (bnat d 8 4 * bnat d 12 4) bs = some items) : ∃ t, s.startGrid pk nd d = .ok t := by
  have hroom : ((partsOf (s.pkMask pk)).isEmpty || (dedup ((dealBlocks (partsOf (s.pkMask pk)) (descBlocks d)).map (·.1))).any
      fun p => !s.blockFits p m d) = false := by
    rw [Bool.or_eq_false_iff]
    refine ⟨List.isEmpty_eq_false_iff.mpr hps, List.any_eq_false.mpr fun p hp => ?_⟩
    obtain ⟨b, hb, rfl⟩ := List.mem_map.mp (mem_dedup.mp hp)
    simp [hfit b hb]
  have hm' : nfind s.images (imageKey (s.pkAsid pk) (bnat d 4 2)) = some m := hm
  simp only [State.startGrid, ne_eq, hcode, not_true_eq_false, if_false, hm', hroom, Bool.false_eq_true, hread, hitems]
  exact ⟨_, rfl⟩

/-- A grid that starts joins the grids with all its blocks to start. -/
theorem grids_of_startGrid {s t : State} {pk : Packet} {nd : Option Nat} {d : List Byte} (h : s.startGrid pk nd d = .ok t) :
    ∃ g : Grid, t.grids = s.grids ++ [g] ∧
      g.pkt = pk.id ∧ g.node = nd ∧ g.asid = s.pkAsid pk ∧ g.desc = d ∧ g.running = 0 ∧ g.redo = [] ∧ g.det = pk.det ∧
      g.todo = dealBlocks (partsOf (s.pkMask pk)) (descBlocks d) := by
  simp only [State.startGrid] at h
  split at h
  · cases h
  split at h
  · cases h
  split at h
  · cases h
  split at h
  · cases h
  next u bs hread =>
    split at h
    · cases h
    next items _ =>
      obtain ⟨-, -, hqueues, hgrids, -, -⟩ := agentSide_iff.mp (agentSide_procRead hread)
      obtain ⟨hkeep, l, hg⟩ := setGridGroups_spec u.bump (u.newGrid pk nd d items) (partsOf (s.pkMask pk))
      have hasid : u.pkAsid pk = s.pkAsid pk := by simp only [State.pkAsid, State.queue, hqueues]
      have hmask : u.pkMask pk = s.pkMask pk := by simp only [State.pkMask, State.queue, hqueues]
      cases h
      refine ⟨_, (launchImage_grids _ _ _).trans (congrArg (· ++ [_]) (hkeep.trans hgrids)), ?_⟩
      rw [hg]
      refine ⟨rfl, rfl, hasid, rfl, rfl, rfl, rfl, ?_⟩
      simp only [State.newGrid, hmask]

end Sys2Proof.Words
end

section
/-! PROOFS (O50). A team's start (R63 to R65, R366): what it writes, the state of its threads and Shuttle, its zeroed accumulators. -/

namespace Sys2Proof.Words
open Sys2Proof Sys2Proof.Machine

/-! ### Team start (R63 to R65, R366) -/

theorem entrySlot_lt {s : State} {c key v pref sl : Nat} {used : List Nat} (h : s.entrySlot c key v pref used = some sl) : sl < 3 := by
  simp only [State.entrySlot] at h
  split at h
  · next a r hheld =>
    cases h
    have hmem : sl ∈ sl :: r := List.mem_cons_self
    rw [← hheld] at hmem
    exact List.mem_range.mp (List.mem_filter.mp hmem).1
  · have := List.find?_some h
    simp only [Bool.and_eq_true, decide_eq_true_eq] at this
    exact this.1.1.1

theorem makeResident_spec {s t : State} {c key v sl : Nat} {m : Image} {used : List Nat}
    (h : s.makeResident c key m v used = some (t, sl)) : agentSide t = agentSide s ∧ sl < 3 := by
  obtain ⟨a, ha, h⟩ := Option.map_eq_some_iff.mp h
  have hload := agentSide_loadSlot s c a key v (nget m.ovlAddr v 0) (m.overlay v).1
  have hlt := entrySlot_lt ha
  split at h
  · split at h <;> cases h
    · exact ⟨rfl, hlt⟩
    · exact ⟨hload, hlt⟩
  · cases h
    exact ⟨hload, hlt⟩

/-- The entry overlays stand in slots 0 to 2. -/
theorem entryOverlays_spec {s t : State} {c key a e : Nat} {m : Image} (h : s.entryOverlays c key m = some (t, a, e)) :
    agentSide t = agentSide s ∧ a < 3 ∧ e < 3 := by
  unfold State.entryOverlays at h
  split at h
  · cases h
  next u b hu =>
    obtain ⟨hside, hb⟩ := makeResident_spec hu
    split at h
    · obtain ⟨⟨v, d⟩, hv, h⟩ := Option.map_eq_some_iff.mp h
      obtain ⟨hside', hd⟩ := makeResident_spec hv
      cases h
      exact ⟨hside'.trans hside, hb, hd⟩
    · cases h
      exact ⟨hside, hb, by decide⟩

theorem mem_freeHandles {s : State} {cl h : Nat} {hpair : Bool} (hh : h ∈ s.freeHandles cl hpair) : h < 8 := by
  have hmem := (List.mem_filter.mp hh).1
  split at hmem
  · exact List.mem_range.mp hmem
  · have hall : ∀ x ∈ [0, 2, 4, 6, 1, 3, 5, 7], x < 8 := by decide
    exact hall h hmem

theorem shuttle_modShuttle (s : State) (c : Nat) (f : Shuttle → Shuttle) (d : Nat) :
    (s.modShuttle c f).shuttle d = if d = c then f (s.shuttle c) else s.shuttle d := by
  unfold State.modShuttle State.shuttle
  split
  · next hd => subst hd; rw [State.modCore_core_same]
  · next hd => rw [State.modCore_core_ne _ _ _ _ hd]

/-- What a team's start writes: the team, the accumulators of its handles, and its Shuttle where the image has one. -/
theorem startTeam_writes {s t : State} {g : Grid} {m : Image} {c ix : Nat} (h : s.startTeam g m c ix = some t) :
    ∃ j a e stamp hs rs chip, j < 8 ∧ (s.team (8 * c + j)).live = false ∧ a < 3 ∧ e < 3 ∧
      hs.length = bnat g.desc 6 1 % 16 ∧ rs.length = bnat g.desc 7 1 ∧
      t.teams = nmod s.teams (8 * c + j) .free (fun _ => newTeam g m ix stamp (pcAt a m.entryPkt) hs rs chip) ∧
      t.clusters = nmod s.clusters (c / 4) .fresh (fun x => hs.foldl Cluster.zeroHandle { x with rules := rs.foldl ndel x.rules }) ∧
      t.shuttle = fun d => if m.hasShuttle = true ∧ d = c then
        (s.shuttle c).begin_ (8 * c + j) (pcAt e m.shPkt) (bnat g.desc 0x18 8) ix (64 * m.bands) else s.shuttle d := by
  simp only [State.startTeam] at h
  split at h
  · cases h
  split at h
  next j u a e hj hu =>
    split at h
    · cases h
    next hroom =>
      obtain ⟨hside, ha, he⟩ := entryOverlays_spec hu
      have hj8 := List.mem_range.mp (List.mem_of_find?_eq_some hj)
      have hfree := List.find?_some hj
      simp only [Bool.not_eq_true', Bool.or_eq_true, decide_eq_true_eq, not_or, Nat.not_lt] at hfree hroom
      obtain ⟨hhs, hrs⟩ := hroom
      have hunit : ∀ (y : State), agentSide (if g.det = true then y.startUnit (.team g.id ix) g.asid c ix j g.id else y) = agentSide y :=
        fun y => agentSide_ite (agentSide_startUnit _ _ _ _ _ _ _) rfl
      have ht := (congrArg agentSide (Option.some.inj h)).symm.trans (hunit _)
      obtain ⟨hteams, hclusters, -, -, -, hshuttle⟩ := agentSide_iff.mp ht
      obtain ⟨uteams, uclusters, -, -, -, ushuttle⟩ := agentSide_iff.mp hside
      generalize hz : u.modCluster (clusterOfCore c) _ = z at hteams hclusters hshuttle
      obtain ⟨gteams, gclusters, -, -, -, gshuttle⟩ := agentSide_iff.mp (agentSide_takeGranules z c)
      generalize (halfBase (partOfCore c) + _, _) = chip at hteams hclusters hshuttle
      refine ⟨j, a, e, (z.takeGranules c).fresh, (u.freeHandles (c / 4) (bits (g.n 6 1) 4 1 == 1)).take (bits (g.n 6 1) 0 4),
        (u.freeSlots (c / 4)).take (g.n 7 1), chip, hj8, hfree, ha, he, ?handles, ?slots, hteams.trans ?teams,
        hclusters.trans ?clusters, hshuttle.trans ?shuttle⟩
      case handles => exact (Nat.le_antisymm (List.length_take_le _ _) hhs).trans (congrArg (· % 16) (Nat.div_one _))
      case slots => exact Nat.le_antisymm (List.length_take_le _ _) hrs
      case teams =>
        have hzt : (z.takeGranules c).teams = s.teams := gteams.trans (by rw [← hz]; exact uteams)
        rw [← hzt]
        split <;> rfl
      case clusters =>
        split <;> exact gclusters.trans (by rw [← hz, ← uclusters]; rfl)
      case shuttle =>
        have hzs : z.shuttle = s.shuttle := by rw [← hz]; exact ushuttle
        funext d
        split
        · next hm =>
          rw [shuttle_modShuttle]
          change (if d = c then ((z.takeGranules c).shuttle c).begin_ _ _ _ _ _ else (z.takeGranules c).shuttle d) = _
          simp only [gshuttle, hzs, hm, true_and]
          rfl
        · next hm =>
          rw [if_neg fun h => hm h.1, ← hzs, ← gshuttle]
          rfl
  · cases h

/-- A list of values by number, as a map. -/
theorem nget_map_range {α : Type} (f : Nat → α) (n i : Nat) (d : α) :
    nget ((List.range n).map fun i => (i, f i)) i d = if i < n then f i else d := by
  have key : ∀ l : List Nat, nget (l.map fun i => (i, f i)) i d = if i ∈ l then f i else d := by
    intro l
    induction l with
    | nil => rfl
    | cons a r ih =>
      rw [List.map_cons, nget, ih]
      by_cases ha : a = i
      · subst ha; simp
      · simp [ha, Ne.symm ha]
  rw [key]
  simp only [List.mem_range]

/-- The threads of a new team stand at its entry; it has no others (R64). -/
theorem newTeam_thread (g : Grid) (m : Image) (ix stamp : Nat) (pc : Pc) (hs rs : List Nat) (chip : Nat × Nat) (i : Nat) :
    (newTeam g m ix stamp pc hs rs chip).thread i =
      if i < 64 * m.bands then entryThread pc i ix (bnat g.desc 0x18 8) else .gone :=
  nget_map_range (fun i => entryThread pc i ix (bnat g.desc 0x18 8)) _ _ _

/-- Registers 0 to 3 of a thread at entry hold its index, the team's and the argument address (R64). -/
theorem entryThread_g (pc : Pc) (i ix args r : Nat) : (entryThread pc i ix args).g r =
    if r = 0 then BitVec.ofNat 32 i else if r = 1 then BitVec.ofNat 32 ix
      else if r = 2 then BitVec.ofNat 32 args else if r = 3 then BitVec.ofNat 32 (args / 2 ^ 32) else 0 := by
  simp only [entryThread, Thread.g, nget_nput, nget]
  by_cases h0 : r = 0
  · subst h0; rfl
  by_cases h1 : r = 1
  · subst h1; rfl
  by_cases h2 : r = 2
  · subst h2; rfl
  by_cases h3 : r = 3
  · subst h3; rfl
  simp only [h0, h1, h2, h3, if_false]

/-- Registers s0 to s2 of a Shuttle at its start (R65). -/
theorem begin_user (h : Shuttle) (k : Nat) (pc : Pc) (args ix size r : Nat) : nget (h.begin_ k pc args ix size).user r 0 =
    if r = 0 then BitVec.ofNat 64 args else if r = 1 then BitVec.ofNat 64 ix else if r = 2 then BitVec.ofNat 64 size else 0 := by
  have huser : (h.begin_ k pc args ix size).user =
      nput (nput (nput [] 0 (BitVec.ofNat 64 args)) 1 (BitVec.ofNat 64 ix)) 2 (BitVec.ofNat 64 size) := by
    unfold Shuttle.begin_
    dsimp only
    split <;> rfl
  rw [huser]
  simp only [nget_nput, nget]
  by_cases h0 : r = 0
  · subst h0; rfl
  by_cases h1 : r = 1
  · subst h1; rfl
  by_cases h2 : r = 2
  · subst h2; rfl
  simp only [h0, h1, h2, if_false]

/-- It serves its team, active and without a hold; at its entry, unless the handler runs. -/
theorem begin_spec (h : Shuttle) (k : Nat) (pc : Pc) (args ix size : Nat) :
    let t := h.begin_ k pc args ix size
    t.team = some k ∧ t.active = true ∧ t.hold = .none ∧ (h.mode = false → t.pc = pc) := by
  cases hm : h.mode <;> simp [Shuttle.begin_, hm]

/-- A cluster's accumulator bank of a handle (`State.bank`). -/
def clusterBank (x : Cluster) (h : Nat) : NMap Word :=
  if h % 2 = 0 then (x.engine (h / 2)).acc0 else (x.engine (h / 2)).acc1

theorem engine_zeroHandle_ne {x : Cluster} {i e : Nat} (he : e ≠ i / 2) : (x.zeroHandle i).engine e = x.engine e := by
  simp only [Cluster.zeroHandle, Cluster.modEngine, Cluster.engine, nget_nmod_ne _ _ _ _ _ he]

theorem engine_zeroHandle_same (x : Cluster) (i : Nat) :
    ((x.zeroHandle i).engine (i / 2)).acc0 = (if i % 2 = 0 then [] else (x.engine (i / 2)).acc0) ∧
    ((x.zeroHandle i).engine (i / 2)).acc1 = (if i % 2 = 0 then (x.engine (i / 2)).acc1 else []) := by
  unfold Cluster.zeroHandle Cluster.modEngine Cluster.engine
  simp only [nget_nmod_same]
  split <;> exact ⟨rfl, rfl⟩

/-- Zeroing a handle empties its bank and no other. -/
theorem clusterBank_zeroHandle (x : Cluster) (i h : Nat) :
    clusterBank (x.zeroHandle i) h = if h = i then [] else clusterBank x h := by
  by_cases he : h / 2 = i / 2
  · obtain ⟨h0, h1⟩ := engine_zeroHandle_same x i
    have heq : h = i ↔ (h % 2 = 0 ↔ i % 2 = 0) := by omega
    simp only [clusterBank, he, h0, h1, heq]
    by_cases hi : i % 2 = 0 <;> by_cases hh : h % 2 = 0 <;> simp [hi, hh]
  · have hne : h ≠ i := fun h => he (by rw [h])
    simp only [clusterBank, engine_zeroHandle_ne he, if_neg hne]

/-- The bank of each handle zeroed is empty. -/
theorem clusterBank_foldl {hs : List Nat} {h : Nat} (hh : h ∈ hs) (x : Cluster) :
    clusterBank (hs.foldl Cluster.zeroHandle x) h = [] :=
  Monitor.foldl_establishes (P := fun y => clusterBank y h = []) hh
    (fun y i hy => by rw [clusterBank_zeroHandle, hy, ite_self]) (fun y => by rw [clusterBank_zeroHandle, if_pos rfl]) x

/-- A team's start (R63 to R65). -/
theorem startTeam_spec {s t : State} {g : Grid} {m : Image} {c ix : Nat} (h : s.startTeam g m c ix = some t) : ∃ j a e,
    j < 8 ∧ (s.team (8 * c + j)).live = false ∧ a < 3 ∧ e < 3 ∧
    (∃ stamp hs rs chip, t.team (8 * c + j) = newTeam g m ix stamp (pcAt a m.entryPkt) hs rs chip ∧
      hs.length = bnat g.desc 6 1 % 16 ∧ rs.length = bnat g.desc 7 1 ∧ ∀ h ∈ hs, t.bank (c / 4) h = []) ∧
    (∀ q, q ≠ 8 * c + j → t.team q = s.team q) ∧
    t.shuttle c = if m.hasShuttle then
      (s.shuttle c).begin_ (8 * c + j) (pcAt e m.shPkt) (bnat g.desc 0x18 8) ix (64 * m.bands) else s.shuttle c := by
  obtain ⟨j, a, e, stamp, hs, rs, chip, hj, hfree, ha, he, hhs, hrs, hteams, hclusters, hshuttle⟩ := startTeam_writes h
  refine ⟨j, a, e, hj, hfree, ha, he, ⟨stamp, hs, rs, chip, ?_, hhs, hrs, fun h hh => ?_⟩, fun q hq => ?_, ?_⟩
  · rw [State.team, hteams, nget_nmod_same]
  · have hbank : t.bank (c / 4) h = clusterBank (t.cluster (c / 4)) h := rfl
    rw [hbank, State.cluster, hclusters, nget_nmod_same]
    exact clusterBank_foldl hh _
  · rw [State.team, hteams, nget_nmod_ne _ _ _ _ _ hq, State.team]
  · rw [hshuttle]
    simp only [and_true]

end Sys2Proof.Words
end

section
/-! PROOFS (O50). The turn of a grid's next block (R366, R372, R375), a team's end (R80, R81), and the obligation. -/

namespace Sys2Proof.Words
open Sys2Proof Sys2Proof.Machine

theorem exec_teamStart (s : State) (k cl : Nat) : exec (.teamStart k cl) s = .next ((evTeamStart k cl s).getD s) := rfl

theorem exec_teamEnd (s : State) (k : Nat) : exec (.teamEnd k) s = .next ((evTeamEnd k s).getD s) := rfl

theorem mem_indexed_iff {α : Type} {l : List α} {n : Nat} {a : α} : (n, a) ∈ indexed l ↔ l[n]? = some a := by
  rw [List.mem_iff_getElem?]
  constructor
  · rintro ⟨i, hi⟩
    exact Monitor.mem_indexed (List.mem_of_getElem? hi)
  · intro h
    refine ⟨n, List.getElem?_zip_eq_some.mpr ⟨?_, h⟩⟩
    exact List.getElem?_range (List.getElem?_eq_some_iff.mp h).1

theorem outranked_iff {s : State} {k : Nat} {g : Grid} {cl : Nat} : s.outranked k g cl = true ↔
    (∃ j h, s.grids[j]? = some h ∧ (s.prioOf g.pkt < s.prioOf h.pkt ∨ s.prioOf g.pkt = s.prioOf h.pkt ∧ j < k) ∧
      s.nextBlock h cl ≠ none) ∨
    ∃ n ∈ s.pool, n.kind = 1 ∧ s.prioOf g.pkt < s.prioOf n.pkt ∧ s.freeUnit n = some (cl / 8) := by
  simp only [State.outranked, Bool.or_eq_true, List.any_eq_true, Bool.and_eq_true, decide_eq_true_eq, beq_iff_eq, Prod.exists,
    mem_indexed_iff, Option.isSome_iff_ne_none, and_assoc, partOfCluster]

/-- The teams of a block start each on the first core of the cluster with room. -/
theorem startTeams_cons (s : State) (g : Grid) (m : Image) (cl ix : Nat) (r : List Nat) :
    s.startTeams g m cl (ix :: r) = (match s.startTeam g m (4 * cl) ix with
    | some t => t.startTeams g m cl r
    | none => match s.startTeam g m (4 * cl + 1) ix with
      | some t => t.startTeams g m cl r
      | none => match s.startTeam g m (4 * cl + 2) ix with
        | some t => t.startTeams g m cl r
        | none => match s.startTeam g m (4 * cl + 3) ix with
          | some t => t.startTeams g m cl r
          | none => none) := by
  have hcores : (List.range 4).map (4 * cl + ·) = [4 * cl, 4 * cl + 1, 4 * cl + 2, 4 * cl + 3] := rfl
  simp only [State.startTeams, hcores, List.findSome?_cons, List.findSome?_nil]
  cases s.startTeam g m (4 * cl) ix with
  | some t => rfl
  | none => cases s.startTeam g m (4 * cl + 1) ix with
    | some t => rfl
    | none => cases s.startTeam g m (4 * cl + 2) ix with
      | some t => rfl
      | none => cases s.startTeam g m (4 * cl + 3) ix <;> rfl

/-- A grid's next block, where its partition takes its work: a team to be run again, else the first block dealt there (R366, R375). -/
theorem nextBlock_eq {s : State} {g : Grid} {m : Image} {cl : Nat} (hm : nfind s.images g.imageKey = some m)
    (ht : s.takesWork (cl / 8) g.asid = true) :
    let u := (s.setGridGroups g [cl / 8]).1
    let h := (s.setGridGroups g [cl / 8]).2
    (∀ b, g.redo.find? (fun b => b.1 == cl / 8) = some b → s.nextBlock g cl = (u.startTeams h m cl [b.2]).map fun t =>
      (t, { h with redo := h.redo.erase b, running := h.running + 1, started := h.started ++ [b.2] })) ∧
    (g.redo.find? (fun b => b.1 == cl / 8) = none → g.todo.find? (fun b => b.1 == cl / 8) = none → s.nextBlock g cl = none) ∧
    (g.redo.find? (fun b => b.1 == cl / 8) = none → ∀ b, g.todo.find? (fun b => b.1 == cl / 8) = some b →
      s.nextBlock g cl = (u.startTeams h m cl ((List.range g.block).map (· + b.2 * g.block))).map fun t =>
        (t, { h with todo := h.todo.erase b, running := h.running + g.block,
                     started := h.started ++ (List.range g.block).map (· + b.2 * g.block) })) := by
  have hredo : (s.setGridGroups g [cl / 8]).2.redo = g.redo := rfl
  have htodo : (s.setGridGroups g [cl / 8]).2.todo = g.todo := rfl
  refine ⟨fun b hb => ?_, fun hr hd => ?_, fun hr b hb => ?_⟩
  · simp only [State.nextBlock, hm, partOfCluster, ht, Bool.not_true, Bool.false_eq_true, if_false, hredo, hb]
  · simp only [State.nextBlock, hm, partOfCluster, ht, Bool.not_true, Bool.false_eq_true, if_false, hredo, hr, htodo, hd]
  · simp only [State.nextBlock, hm, partOfCluster, ht, Bool.not_true, Bool.false_eq_true, if_false, hredo, hr, htodo, hb]
    rfl

theorem nextBlock_of_not_takesWork {s : State} {g : Grid} {cl : Nat} (ht : s.takesWork (cl / 8) g.asid = false) :
    s.nextBlock g cl = none := by
  simp only [State.nextBlock, partOfCluster, ht, Bool.not_false, if_true]
  split <;> rfl

/-- A grid's next block starts on a cluster, unless another has the turn (R372). -/
theorem exec_teamStart_of_grid {s : State} {k cl : Nat} {g : Grid} (hg : s.grids[k]? = some g) :
    (s.outranked k g cl = true ∨ s.nextBlock g cl = none → exec (.teamStart k cl) s = .next s) ∧
    (s.outranked k g cl = false → ∀ t y, s.nextBlock g cl = some (t, y) →
      exec (.teamStart k cl) s = .next { t with grids := t.grids.map fun x => if x.id = g.id then y else x }) := by
  refine ⟨fun h => ?_, fun hturn t y h => ?_⟩
  · rw [exec_teamStart, evTeamStart, hg]
    rcases h with h | h
    · simp only [h, if_true, Option.getD_none]
    · simp only [h, Option.map_none, ite_self, Option.getD_none]
  · rw [exec_teamStart, evTeamStart, hg]
    simp only [hturn, Bool.false_eq_true, if_false, h, Option.map_some, Option.getD_some]

/-! ### Team end (R80, R81) -/

/-- A team's slot is free and its draws end (`evTeamEnd`). -/
def freedTeam (s : State) (k : Nat) : State :=
  { s.modTeam k fun _ => .free with draws := s.draws.map fun (d : Draw) => match d.who with
    | .thread j _ => if j = k then { d with ts := [] } else d
    | _ => d }

/-- Its Shuttle, where it has one, is given back. -/
def freedShuttle (s : State) (k : Nat) : State :=
  if ((freedTeam s k).shuttle (coreOfTeam k)).team = some k then
    (freedTeam s k).modShuttle (coreOfTeam k) fun h =>
      { h with team := none, user := [], active := false, hold := .none, parked := false, batch := .none }
  else freedTeam s k

/-- The state a team's end leaves, but for the count of its packet. -/
def endedTeam (s : State) (k : Nat) : State :=
  { freedShuttle s k with grids := (freedShuttle s k).grids.map fun (g : Grid) => if g.id = (s.team k).grid then
      { g with running := g.running - 1, ended := g.ended ++ [(s.team k).teamix] } else g }

theorem freedTeam_team (s : State) (k j : Nat) : (freedTeam s k).team j = if j = k then .free else s.team j := by
  have h : (freedTeam s k).team j = (s.modTeam k fun _ => .free).team j := rfl
  rw [h]
  split
  · next hj => subst hj; rw [State.modTeam_team_same]
  · next hj => rw [State.modTeam_team_ne (h := hj)]

/-- A team's slot is free, its Shuttle is given back, its grid has one team fewer; nothing else changes. -/
theorem endedTeam_spec (s : State) (k : Nat) :
    (endedTeam s k).team k = .free ∧ (∀ j, j ≠ k → (endedTeam s k).team j = s.team j) ∧
    (∀ d, d ≠ coreOfTeam k → (endedTeam s k).core d = s.core d) ∧
    endedTeam s k = { s with teams := (endedTeam s k).teams, cores := (endedTeam s k).cores, grids := (endedTeam s k).grids,
                             draws := (endedTeam s k).draws } ∧
    ((s.shuttle (coreOfTeam k)).team = some k → (endedTeam s k).shuttle (coreOfTeam k) = { s.shuttle (coreOfTeam k) with
      team := none, user := [], active := false, hold := .none, parked := false, batch := .none }) ∧
    ((s.shuttle (coreOfTeam k)).team ≠ some k → (endedTeam s k).shuttle (coreOfTeam k) = s.shuttle (coreOfTeam k)) ∧
    (endedTeam s k).grids = s.grids.map fun g => if g.id = (s.team k).grid then
      { g with running := g.running - 1, ended := g.ended ++ [(s.team k).teamix] } else g := by
  have hcases : freedShuttle s k = if (s.shuttle (coreOfTeam k)).team = some k then
      (freedTeam s k).modShuttle (coreOfTeam k) fun h =>
        { h with team := none, user := [], active := false, hold := .none, parked := false, batch := .none }
    else freedTeam s k := rfl
  have hteam : ∀ j, (freedShuttle s k).team j = if j = k then .free else s.team j := fun j => by
    rw [← freedTeam_team, hcases]
    split <;> rfl
  refine ⟨(hteam k).trans (if_pos rfl), fun j hj => (hteam j).trans (if_neg hj), ?cores, ?rest, ?mine, ?other, ?grids⟩
  case cores =>
    intro d hd
    change (freedShuttle s k).core d = _
    rw [hcases]
    split
    · exact State.modCore_core_ne _ _ _ _ hd
    · rfl
  case rest =>
    unfold endedTeam
    rw [hcases]
    split <;> rfl
  case mine =>
    intro h
    change (freedShuttle s k).shuttle _ = _
    rw [hcases, if_pos h, shuttle_modShuttle, if_pos rfl]
    rfl
  case other =>
    intro h
    change (freedShuttle s k).shuttle _ = _
    rw [hcases, if_neg h]
    rfl
  case grids =>
    have hg : (freedShuttle s k).grids = s.grids := by rw [hcases]; split <;> rfl
    simp only [endedTeam, hg]

theorem next_teamEnd {s : State} {k : Nat} (hlive : (s.team k).live = true) (hthreads : (s.team k).liveThreads = [])
    (hwork : s.teamWork k = false) : exec (.teamEnd k) s =
      .next (match (endedTeam s k).grids.find? fun g => g.id == (s.team k).grid with
      | some g => if g.finished && g.node.isNone then (endedTeam s k).modPacket g.pkt fun p => { p with left := p.left - 1 }
        else endedTeam s k
      | none => endedTeam s k) := by
  rw [exec_teamEnd, evTeamEnd]
  simp only [hlive, hthreads, hwork, Bool.not_true, List.isEmpty_nil, Bool.or_self, Bool.false_eq_true, if_false]
  rfl

/-- A grid of no node whose last team has ended. -/
theorem finished_iff {g : Grid} : (g.finished && g.node.isNone) = true ↔
    g.todo = [] ∧ g.redo = [] ∧ g.running = 0 ∧ g.node = none := by
  simp [Grid.finished, and_assoc]

/-- A team whose threads, records and copies are done leaves its slot free. -/
theorem teamEnd_spec {s : State} {k : Nat} (hlive : (s.team k).live = true) (hthreads : (s.team k).liveThreads = [])
    (hwork : s.teamWork k = false) : ∃ t, exec (.teamEnd k) s = .next t ∧
    t.team k = .free ∧ (∀ j, j ≠ k → t.team j = s.team j) ∧ (∀ d, d ≠ coreOfTeam k → t.core d = s.core d) ∧
    t = { s with teams := t.teams, cores := t.cores, grids := t.grids, draws := t.draws, packets := t.packets } ∧
    ((s.shuttle (coreOfTeam k)).team = some k → t.shuttle (coreOfTeam k) = { s.shuttle (coreOfTeam k) with
      team := none, user := [], active := false, hold := .none, parked := false, batch := .none }) ∧
    ((s.shuttle (coreOfTeam k)).team ≠ some k → t.shuttle (coreOfTeam k) = s.shuttle (coreOfTeam k)) ∧
    t.grids = s.grids.map (fun g => if g.id = (s.team k).grid then
      { g with running := g.running - 1, ended := g.ended ++ [(s.team k).teamix] } else g) ∧
    ∀ g, t.grids.find? (fun g => g.id == (s.team k).grid) = some g →
      t.packets = if g.todo = [] ∧ g.redo = [] ∧ g.running = 0 ∧ g.node = none then
        s.packets.map (fun p => if p.id = g.pkt then { p with left := p.left - 1 } else p) else s.packets := by
  obtain ⟨hfree, hother, hcore, hrest, hmine, hnot, hgrids⟩ := endedTeam_spec s k
  have hpackets : (endedTeam s k).packets = s.packets := by rw [hrest]
  refine ⟨_, next_teamEnd hlive hthreads hwork, ?_⟩
  split
  · next g hg =>
    split
    · next h =>
      refine ⟨hfree, hother, hcore, by rw [hrest]; rfl, hmine, hnot, hgrids, fun y hy => ?_⟩
      obtain rfl := Option.some.inj (hg.symm.trans hy)
      rw [if_pos (finished_iff.mp h), ← hpackets]
      rfl
    · next h =>
      refine ⟨hfree, hother, hcore, by rw [hrest], hmine, hnot, hgrids, fun y hy => ?_⟩
      obtain rfl := Option.some.inj (hg.symm.trans hy)
      rw [if_neg (fun hd => h (finished_iff.mpr hd)), hpackets]
  · next hg =>
    exact ⟨hfree, hother, hcore, by rw [hrest], hmine, hnot, hgrids, fun y hy => nomatch hg.symm.trans hy⟩

/-- Settles O50: the curve is one Hilbert index per block, counted; what a grid's or a team's start and a team's end write is read
from the lemma of each. -/
theorem teamsOfGrids : Obligations.TeamsOfGrids := by
  unfold Obligations.TeamsOfGrids
  refine ⟨fun BX BY x y v w _ _ hX hY hx hv hy hw => curvePos_spec hX hY hx hv hy hw,
    fun ps n k hps hk => dealBlocks_spec hps hk,
    fun s pk nd d c hc h0 => ?refused, fun s asid d h => gridCode_reserved h,
    fun s asid d h6 h28 h30 h => gridCode_image h6 h28 h30 h,
    fun s pk nd d t h => ?joins,
    fun s pk nd d m u bs items hc hm hps hfit hread hitems => startGrid_ok nd hc hm hps hfit hread hitems,
    setGridGroups_one, fun s ps grid items p n e => ?groups, fun s g m c ix t h => ?team, fun s k cl h => ?absent,
    fun s k cl g m hg hm => ?start, fun s k g cl => outranked_iff, startTeams_cons, fun s k h => ?running,
    fun s k hl ht hw => teamEnd_spec hl ht hw⟩
  case refused => subst hc; exact startGrid_error nd h0
  case joins => exact grids_of_startGrid h
  case groups =>
    intro new
    have hnew : new = _ := setGroups_part s ps grid items p n
    refine ⟨fun hp ⟨i, hi, hn⟩ => ?_, fun h => ?_⟩
    · rw [hnew, if_pos ⟨hp, List.mem_map.mpr ⟨i, hi, hn⟩⟩]
      exact mem_groupMembers
    · refine hnew.trans (if_neg fun ⟨hp, hn⟩ => ?_)
      obtain ⟨i, hi, hn⟩ := List.mem_map.mp hn
      exact h.elim (fun h => h hp) fun h => h i hi hn
  case team =>
    obtain ⟨j, a, e, hj, hfree, ha, he, ⟨stamp, hs, rs, chip, hteam, hhs, hrs, hbank⟩, hother, hshuttle⟩ := startTeam_spec h
    refine ⟨j, a, e, hj, hfree, ha, he, ?_⟩
    intro k args n tm
    have htm : tm = newTeam g m ix stamp (pcAt a m.entryPkt) hs rs chip := hteam
    rw [htm]
    refine ⟨rfl, rfl, rfl, rfl, rfl, rfl, rfl, rfl, rfl, rfl, hhs, hrs, rfl, rfl, rfl, rfl, rfl, rfl, rfl, rfl,
      ?ctxs, ?threads, ?noThread, hother, ?banks, ?noShuttle, ?shuttle⟩
    case ctxs =>
      simp only [newTeam, List.map_map]
      rfl
    case threads =>
      intro i hi x
      have hx : x = entryThread (pcAt a m.entryPkt) i ix args := (newTeam_thread _ _ _ _ _ _ _ _ _).trans (if_pos hi)
      rw [hx]
      exact ⟨rfl, rfl, rfl, rfl, rfl, rfl, rfl, fun r => entryThread_g _ _ _ _ r⟩
    case noThread =>
      intro i hi
      rw [newTeam_thread, if_neg (Nat.not_lt.mpr hi)]
      rfl
    case banks =>
      intro h hh i r
      rw [hbank h hh]
      rfl
    case noShuttle =>
      intro hm
      rw [hshuttle, if_neg (Bool.eq_false_iff.mp hm)]
    case shuttle =>
      intro hm
      rw [hshuttle, if_pos hm]
      obtain ⟨hserves, hactive, hhold, hpc⟩ := begin_spec (s.shuttle c) (8 * c + j) (pcAt e m.shPkt) args ix n
      exact ⟨hserves, hactive, hhold, fun r => begin_user _ _ _ _ _ _ r, hpc⟩
  case absent => rw [exec_teamStart, evTeamStart, h]; rfl
  case start =>
    intro p u h put
    obtain ⟨hnone, hsome⟩ := exec_teamStart_of_grid (cl := cl) hg
    refine ⟨fun hno => hnone (hno.imp_right nextBlock_of_not_takesWork), fun hturn htakes => ?_⟩
    obtain ⟨hredo, hidle, htodo⟩ := nextBlock_eq hm htakes
    refine ⟨fun hr => ⟨fun hd => hnone (.inr (hidle hr hd)), fun b hb => ?_⟩, fun b t hb ht => ?_⟩
    · intro ixs
      exact ⟨fun hn => hnone (.inr ((htodo hr b hb).trans (congrArg (Option.map _) hn))),
        fun t ht => hsome hturn t _ ((htodo hr b hb).trans (congrArg (Option.map _) ht))⟩
    · exact hsome hturn t _ ((hredo b hb).trans (congrArg (Option.map _) ht))
  case running =>
    rw [exec_teamEnd, evTeamEnd]
    have hno : (!(s.team k).live || !(s.team k).liveThreads.isEmpty || s.teamWork k) = true := by
      rcases h with h | h | h <;> simp [h]
    simp only [hno, if_true, Option.getD_none]

end Sys2Proof.Words
end

section
/-! PROOFS (O1 to O4). Integer and address instructions, majors 0x04 to 0x07 (R99 to R110): the word that a body computes is the
number its rule gives, and a body that writes that word, pair or predicate in its lanes completes with it (Laws/Lanes). -/

namespace Sys2Proof.Integers
open Sys2Proof Sys2Proof.Machine

/-! ### Numbers and words -/

theorem ofInt_emod (w : Nat) (x : Int) : BitVec.ofInt w (x % 2 ^ w) = BitVec.ofInt w x := by
  apply BitVec.eq_of_toNat_eq
  simp [BitVec.toNat_ofInt]

theorem ofInt_sub (w : Nat) (x y : Int) : BitVec.ofInt w (x - y) = BitVec.ofInt w x - BitVec.ofInt w y := by
  rw [Int.sub_eq_add_neg, BitVec.ofInt_add, BitVec.ofInt_neg, BitVec.sub_eq_add_neg]

theorem ofInt_toNat {w : Nat} (v : Nat) (a : BitVec w) : BitVec.ofInt v a.toNat = a.setWidth v := by
  rw [BitVec.ofInt_natCast, BitVec.ofNat_toNat]

/-- The model's reading of a number in two's complement is that of its word. -/
theorem sgn_eq_toInt (v w : Nat) : sgn v w = (BitVec.ofNat w v).toInt := by
  rw [sgn, BitVec.toInt_eq_toNat_cond, BitVec.toNat_ofNat]
  cases w with
  | zero => simp [Nat.mod_one]
  | succ w =>
    have hw : 2 ^ (w + 1) = 2 * 2 ^ w := Nat.pow_succ'
    rw [Nat.add_sub_cancel]
    push_cast
    split_ifs <;> omega

theorem sgn_toNat {w : Nat} (a : BitVec w) : sgn a.toNat w = a.toInt := by
  rw [sgn_eq_toInt, BitVec.ofNat_toNat, BitVec.setWidth_eq]

/-! ### Shifts by any amount (R101, R105) -/

theorem ofNat_mul_two_pow {w : Nat} (a : BitVec w) (k : Nat) : BitVec.ofNat w (a.toNat * 2 ^ k) = a <<< k := by
  apply BitVec.eq_of_toNat_eq
  rw [BitVec.toNat_ofNat, BitVec.toNat_shiftLeft, Nat.shiftLeft_eq]

theorem ofNat_div_two_pow {w : Nat} (a : BitVec w) (k : Nat) : BitVec.ofNat w (a.toNat / 2 ^ k) = a >>> k := by
  rw [← Nat.shiftRight_eq_div_pow, ← BitVec.toNat_ushiftRight, BitVec.ofNat_toNat, BitVec.setWidth_eq]

theorem ofInt_div_two_pow {w : Nat} (a : BitVec w) (k : Nat) : BitVec.ofInt w (a.toInt / 2 ^ k) = a.sshiftRight k := by
  rw [BitVec.sshiftRight_eq, Int.shiftRight_eq_div_pow]
  norm_cast

theorem shlW_eq (a k : Word) : shlW a k = a <<< k.toNat := by
  unfold shlW
  split
  · next h => exact (BitVec.shiftLeft_eq_zero h).symm
  · rfl

theorem shrW_eq (a k : Word) : shrW a k = a >>> k.toNat := by
  unfold shrW
  split
  · next h => exact (BitVec.ushiftRight_eq_zero h).symm
  · rfl

theorem sarW_eq (a k : Word) : sarW a k = a.sshiftRight k.toNat := by
  unfold sarW
  split
  · next h =>
    ext i hi
    rw [BitVec.getElem_sshiftRight, dif_neg (by omega)]
    cases a.msb
    · simp
    · rw [if_pos rfl, BitVec.getElem_allOnes]
  · rfl

/-! ### Bodies that write a word, a pair or a predicate -/

section
variable {i : Instr} {d : Nat}

/-- A body that writes a word in each lane completes with any words that equal those. -/
theorem yields_word {v w : State → Nat → Word} (hvw : ∀ s l, v s l = w s l)
    (hx : ∀ s, exec i s = .next (s.issue i fun s => s.eachLane fun l t => t.setG d (v s l))) :
    Yields i (one d w) nothing noFlags := by
  obtain rfl : v = w := funext₂ hvw
  exact yields_eachLane hx (fun _ => rfl) fun s l => Sets.id.setG d (v s l)

theorem yields_pair_of_eq {v w : State → Nat → Dword} (hvw : ∀ s l, v s l = w s l)
    (hx : ∀ s, exec i s = .next (s.issue i fun s => s.eachLane fun l t => t.setPair d (v s l))) :
    Yields i (pair d w) nothing noFlags := by
  obtain rfl : v = w := funext₂ hvw
  exact yields_pair d v rfl hx

theorem yields_pred_of_eq {v w : State → Nat → Bool} (hvw : ∀ s l, v s l = w s l)
    (hx : ∀ s, exec i s = .next (s.issue i fun s => s.eachLane fun l t => t.setP d (v s l))) :
    Yields i nothing (pred d w) noFlags := by
  obtain rfl : v = w := funext₂ hvw
  exact yields_pred d v rfl hx

end

/-! ### Sums, bitwise operations and shifts (R101) -/

theorem add_eq_ofNat (a b : Word) : a + b = BitVec.ofNat 32 ((a.toNat + b.toNat) % 2 ^ 32) := by
  apply BitVec.eq_of_toNat_eq
  simp

theorem sub_eq_ofInt (a b : Word) : a - b = BitVec.ofInt 32 (((a.toNat : Int) - b.toNat) % 2 ^ 32) := by
  rw [ofInt_emod, ofInt_sub, ofInt_toNat, ofInt_toNat, BitVec.setWidth_eq, BitVec.setWidth_eq]

theorem shlW_eq_ofNat (a k : Word) : shlW a k = BitVec.ofNat 32 (a.toNat * 2 ^ k.toNat % 2 ^ 32) := by
  rw [shlW_eq, ← ofNat_mul_two_pow]
  apply BitVec.eq_of_toNat_eq
  simp only [BitVec.toNat_ofNat, Nat.mod_mod]

theorem shrW_eq_ofNat (a k : Word) : shrW a k = BitVec.ofNat 32 (a.toNat / 2 ^ k.toNat) :=
  (shrW_eq a k).trans (ofNat_div_two_pow a _).symm

theorem sarW_eq_ofInt (a k : Word) : sarW a k = BitVec.ofInt 32 (a.toInt / 2 ^ k.toNat) :=
  (sarW_eq a k).trans (ofInt_div_two_pow a _).symm

/-- Settles O1: each body writes the word of its rule. -/
theorem aluWordResults : Obligations.AluWordResults := by
  unfold Obligations.AluWordResults
  intro r
  exact ⟨yields_word (fun _ _ => add_eq_ofNat _ _) fun _ => rfl,
    yields_word (fun _ _ => sub_eq_ofInt _ _) fun _ => rfl,
    yields_word (fun _ _ => rfl) fun _ => rfl,
    yields_word (fun _ _ => rfl) fun _ => rfl,
    yields_word (fun _ _ => rfl) fun _ => rfl,
    yields_word (fun _ _ => shlW_eq_ofNat _ _) fun _ => rfl,
    yields_word (fun _ _ => shrW_eq_ofNat _ _) fun _ => rfl,
    yields_word (fun _ _ => sarW_eq_ofInt _ _) fun _ => rfl⟩

/-! ### Products, quotients and remainders (R102, R103) -/

theorem mul_eq_ofNat (a b : Word) : a * b = BitVec.ofNat 32 (a.toNat * b.toNat) := by
  rw [BitVec.ofNat_mul, BitVec.ofNat_toNat, BitVec.ofNat_toNat, BitVec.setWidth_eq, BitVec.setWidth_eq]

theorem mac_eq_ofNat (d a b : Word) : d + a * b = BitVec.ofNat 32 (d.toNat + a.toNat * b.toNat) := by
  rw [BitVec.ofNat_add, ← mul_eq_ofNat, BitVec.ofNat_toNat, BitVec.setWidth_eq]

/-- −2^31 by −1 is the one quotient that no word holds (R103). -/
theorem divS_eq (a b : Word) : divS a b = if b = 0 then 0xFFFFFFFF#32
    else if a = 0x80000000#32 ∧ b = 0xFFFFFFFF#32 then 0x80000000#32 else BitVec.ofInt 32 (a.toInt.tdiv b.toInt) := by
  unfold divS
  split
  · rfl
  · split
    · next h =>
      obtain ⟨rfl, rfl⟩ := h
      decide
    · rfl

/-- The remainder is the dividend less the divisor times the truncated quotient. -/
theorem remS_eq (a b : Word) : remS a b = if b = 0 then a
    else if a = 0x80000000#32 ∧ b = 0xFFFFFFFF#32 then 0#32 else a - b * BitVec.ofInt 32 (a.toInt.tdiv b.toInt) := by
  unfold remS
  split
  · rfl
  · split
    · next h =>
      obtain ⟨rfl, rfl⟩ := h
      decide
    · rw [Int.tmod_def, ofInt_sub, BitVec.ofInt_mul, BitVec.ofInt_toInt, BitVec.ofInt_toInt]

/-- Settles O2: each body writes the word of its rule. -/
theorem multiplyDivideResults : Obligations.MultiplyDivideResults := by
  unfold Obligations.MultiplyDivideResults
  intro r
  exact ⟨yields_word (fun _ _ => mul_eq_ofNat _ _) fun _ => rfl,
    yields_word (fun _ _ => mac_eq_ofNat _ _ _) fun _ => rfl,
    yields_word (fun _ _ => rfl) fun _ => rfl,
    yields_word (fun _ _ => rfl) fun _ => rfl,
    yields_word (fun _ _ => divS_eq _ _) fun _ => rfl,
    yields_word (fun _ _ => rfl) fun _ => rfl,
    yields_word (fun _ _ => remS_eq _ _) fun _ => rfl,
    yields_word (fun _ _ => rfl) fun _ => rfl⟩

/-! ### Pairs (R104, R110) -/

theorem addB64_eq_ofNat (a b : Dword) : a + b = BitVec.ofNat 64 (a.toNat + b.toNat) := by
  rw [BitVec.ofNat_add, BitVec.ofNat_toNat, BitVec.ofNat_toNat, BitVec.setWidth_eq, BitVec.setWidth_eq]

theorem subB64_eq_ofInt (a b : Dword) : a - b = BitVec.ofInt 64 (a.toNat - b.toNat) := by
  rw [ofInt_sub, ofInt_toNat, ofInt_toNat, BitVec.setWidth_eq, BitVec.setWidth_eq]

theorem mulwI32_eq_ofInt (a b : Word) : a.signExtend 64 * b.signExtend 64 = BitVec.ofInt 64 (a.toInt * b.toInt) := by
  rw [BitVec.ofInt_mul]
  rfl

theorem mulwN32_eq_ofNat (a b : Word) : a.zeroExtend 64 * b.zeroExtend 64 = BitVec.ofNat 64 (a.toNat * b.toNat) := by
  rw [BitVec.ofNat_mul, BitVec.ofNat_toNat, BitVec.ofNat_toNat]

theorem ofInt_mul_two_pow (w k : Nat) (x : Int) : BitVec.ofInt w (x * 2 ^ k) = BitVec.ofInt w x <<< k := by
  rw [BitVec.shiftLeft_eq_mul_twoPow, BitVec.ofInt_mul]
  congr 1
  apply BitVec.eq_of_toNat_eq
  rw [BitVec.toNat_twoPow, BitVec.toNat_ofInt]
  norm_cast

theorem leaD_eq_ofInt (sx : Bool) (base : Dword) (i : Word) (sh : Nat) (disp : BitVec 20) :
    leaD sx base i sh disp =
      BitVec.ofInt 64 (base.toNat + (if sx then i.toInt else i.toNat) * 2 ^ sh + disp.toInt) := by
  have hi : (if sx then i.signExtend 64 else i.zeroExtend 64) = BitVec.ofInt 64 (if sx then i.toInt else i.toNat) := by
    cases sx
    · exact (ofInt_toNat 64 i).symm
    · rfl
  rw [leaD, hi, BitVec.ofInt_add, BitVec.ofInt_add, ofInt_mul_two_pow, ofInt_toNat, BitVec.setWidth_eq]
  rfl

/-! ### Immediates (R105, R106) -/

theorem addi_eq_ofInt (a : Word) (imm : BitVec 9) : a + imm.signExtend 32 = BitVec.ofInt 32 (a.toNat + imm.toInt) := by
  rw [BitVec.ofInt_add, ofInt_toNat, BitVec.setWidth_eq]
  rfl

theorem moviW_eq_ofInt (hi : BitVec 23) (imm : BitVec 9) : moviW hi imm = BitVec.ofInt 32 (hi.toNat * 512 + imm.toInt) := by
  have h512 : (hi.toNat * 512 : Int) = hi.toNat * 2 ^ 9 := rfl
  rw [moviW, BitVec.ofInt_add, h512, ofInt_mul_two_pow, ofInt_toNat]
  rfl

/-- A rotation by 0 is the or of the word and of 0. -/
theorem shiW_eq (a : Word) (k : BitVec 5) (kind : Nat) : shiW kind a k.toNat = match kind with
    | 0 => BitVec.ofNat 32 (a.toNat * 2 ^ k.toNat)
    | 1 => BitVec.ofNat 32 (a.toNat / 2 ^ k.toNat)
    | 2 => BitVec.ofInt 32 (a.toInt / 2 ^ k.toNat)
    | _ => BitVec.ofNat 32 (a.toNat * 2 ^ k.toNat) ||| BitVec.ofNat 32 (a.toNat / 2 ^ (32 - k.toNat)) := by
  have hk : k.toNat < 32 := k.isLt
  have hamt : (BitVec.ofNat 32 k.toNat).toNat = k.toNat := by
    rw [BitVec.toNat_ofNat]
    exact Nat.mod_eq_of_lt (by omega)
  simp only [ofNat_mul_two_pow, ofNat_div_two_pow, ofInt_div_two_pow]
  have hrol : rolW a k.toNat = a <<< k.toNat ||| a >>> (32 - k.toNat) := by
    rw [rolW, BitVec.rotateLeft_def, Nat.mod_eq_of_lt hk]
  match kind with
  | 0 => exact (shlW_eq _ _).trans (congrArg (a <<< ·) hamt)
  | 1 => exact (shrW_eq _ _).trans (congrArg (a >>> ·) hamt)
  | 2 => exact (sarW_eq _ _).trans (congrArg (BitVec.sshiftRight a) hamt)
  | _ + 3 => exact hrol

/-! ### Bit fields (R109) -/

theorem bits_toNat (a : Word) (pos len : Nat) : bits a.toNat pos len = (a.extractLsb' pos len).toNat := by
  rw [BitVec.extractLsb'_toNat, Nat.shiftRight_eq_div_pow, bits]

theorem bfxW_eq (sx : Bool) (a : Word) {pos len : Nat} (h0 : 0 < len) (h : pos + len ≤ 32) : bfxW sx a pos len =
    let f : Word := (a >>> pos) <<< (32 - len)
    if sx then f.sshiftRight (32 - len) else f >>> (32 - len) := by
  have hs : BitVec.ofInt 32 (sgn (bits a.toNat pos len) len) = (a.extractLsb' pos len).signExtend 32 := by
    rw [bits_toNat, sgn_toNat]
    rfl
  have hz : BitVec.ofNat 32 (bits a.toNat pos len) = (a.extractLsb' pos len).setWidth 32 := by
    rw [bits_toNat, BitVec.ofNat_toNat]
  have hlow (i : Nat) : 32 - len + i < 32 ↔ i < len := by omega
  have htop : 31 - (32 - len) = len - 1 := by omega
  have hsome : ¬31 < 32 - len := by omega
  rw [bfxW, hs, hz]
  cases sx
  · ext i hi
    simp [hlow]
  · ext i hi
    simp [BitVec.getElem_signExtend, BitVec.getElem_sshiftRight, BitVec.msb_eq_getLsbD_last, hlow, htop, hsome, h0]

theorem getLsbD_bfiW (d a : Word) {pos len : Nat} (h : pos + len ≤ 32) (n : Nat) : (bfiW d a pos len).getLsbD n =
    if pos ≤ n ∧ n < pos + len then a.getLsbD (n - pos) else d.getLsbD n := by
  have hm : (BitVec.ofNat 32 ((2 ^ len - 1) * 2 ^ pos)).getLsbD n = decide (pos ≤ n ∧ n < pos + len) := by
    rw [BitVec.getLsbD_ofNat, Nat.testBit_mul_two_pow, Nat.testBit_two_pow_sub_one, ← Bool.decide_and, ← Bool.decide_and,
      decide_eq_decide]
    omega
  simp only [bfiW, BitVec.getLsbD_or, BitVec.getLsbD_and, BitVec.getLsbD_not, BitVec.getLsbD_shiftLeft, hm]
  split
  · next hin =>
    have h32 : n < 32 := by omega
    have hpos : ¬n < pos := by omega
    simp [hin, h32, hpos]
  · next hout =>
    simpa [hout] using BitVec.lt_of_getLsbD (x := d) (i := n)

theorem wf_bfx (r : BfxOp) : Instr.wf (.bfx r) = decide (0 < r.len.toNat ∧ r.pos.toNat + r.len.toNat ≤ 32) :=
  (Bool.decide_and _ _).symm

theorem wf_bfi (r : BfiOp) : Instr.wf (.bfi r) = decide (0 < r.len.toNat ∧ r.pos.toNat + r.len.toNat ≤ 32) :=
  (Bool.decide_and _ _).symm

/-- Settles O3: each body writes the pair or the word of its rule; the limits are those of `Instr.wf`. -/
theorem pairAndImmediateResults : Obligations.PairAndImmediateResults := by
  unfold Obligations.PairAndImmediateResults
  refine ⟨⟨fun r => ⟨?_, ?_, ?_, ?_⟩, fun r => ?_⟩, fun r => ?_, fun r => ?_, fun r => ?_, fun r hwf => ?_, fun r hwf => ?_,
    wf_bfx, wf_bfi⟩
  · exact yields_pair_of_eq (fun _ _ => addB64_eq_ofNat _ _) fun _ => rfl
  · exact yields_pair_of_eq (fun _ _ => subB64_eq_ofInt _ _) fun _ => rfl
  · exact yields_pair_of_eq (fun _ _ => mulwI32_eq_ofInt _ _) fun _ => rfl
  · exact yields_pair_of_eq (fun _ _ => mulwN32_eq_ofNat _ _) fun _ => rfl
  · exact yields_pair_of_eq (fun _ _ => leaD_eq_ofInt _ _ _ _ _) fun _ => rfl
  · exact yields_word (fun _ _ => addi_eq_ofInt _ _) fun _ => rfl
  · exact yields_word (fun _ _ => shiW_eq _ _ _) fun _ => rfl
  · exact yields_word (fun _ _ => moviW_eq_ofInt _ _) fun _ => rfl
  · obtain ⟨h0, h⟩ := of_decide_eq_true ((wf_bfx r).symm.trans hwf)
    exact yields_word (fun _ _ => bfxW_eq _ _ h0 h) fun _ => rfl
  · obtain ⟨-, h⟩ := of_decide_eq_true ((wf_bfi r).symm.trans hwf)
    exact ⟨fun s l => bfiW (s.rg l r.d.toNat) (s.rd l r.a []) r.pos.toNat r.len.toNat,
      yields_word (fun _ _ => rfl) fun _ => rfl, fun s l n => getLsbD_bfiW _ _ h n⟩

/-! ### Comparisons (R107, R108) -/

/-- The condition of a code on two words, as R107 states it. -/
def condWord {w : Nat} (code : Nat) (x y : BitVec w) : Bool :=
  match code with
  | 0 => x == y
  | 1 => x != y
  | 2 => x.slt y
  | 3 => x.sle y
  | 4 => y.slt x
  | 5 => y.sle x
  | 6 => x.ult y
  | 7 => x.ule y
  | 8 => y.ult x
  | 9 => y.ule x
  | 10 => x &&& y != 0
  | _ => x &&& y == 0

theorem beq_toNat {w : Nat} (x y : BitVec w) : (x.toNat == y.toNat) = (x == y) := by
  rw [Bool.eq_iff_iff, beq_iff_eq, beq_iff_eq, BitVec.toNat_inj]

theorem and_toNat_beq_zero {w : Nat} (x y : BitVec w) : (x.toNat &&& y.toNat == 0) = (x &&& y == 0) := by
  rw [← BitVec.toNat_and, ← beq_toNat]
  rfl

theorem condHolds_toNat {w : Nat} (code : Nat) (x y : BitVec w) : condHolds w code x.toNat y.toNat = condWord code x y := by
  match code with
  | 0 => exact beq_toNat x y
  | 1 => exact congrArg not (beq_toNat x y)
  | 2 => simp only [condHolds, condWord, sgn_toNat, BitVec.slt]
  | 3 => simp only [condHolds, condWord, sgn_toNat, BitVec.sle]
  | 4 => simp only [condHolds, condWord, sgn_toNat, BitVec.slt]
  | 5 => simp only [condHolds, condWord, sgn_toNat, BitVec.sle]
  | 6 | 7 | 8 | 9 => rfl
  | 10 => exact congrArg not (and_toNat_beq_zero x y)
  | _ + 11 => exact and_toNat_beq_zero x y

/-- What decodes to a CMP is well formed. -/
theorem cmp_codes {w : Word} {n : Option Word} {e : Bool} {r : CmpOp} (h : decodeCore w n = .ok (.cmp r) e) :
    r.cond.toNat < 12 ∧ r.comb.toNat < 3 := by
  have hwf : (decide (r.cond.toNat < 12) && decide (r.comb.toNat < 3) && (r.comb != 0 || r.cp == 0)) = true :=
    (Encoding.decodeCore_eq_ok_iff.mp h).1
  simp only [Bool.and_eq_true, decide_eq_true_eq] at hwf
  exact hwf.1

/-- Settles O4: the conditions of the model on numbers are those on words, and its combinations are those of R108. -/
theorem comparePredicates : Obligations.ComparePredicates := by
  unfold Obligations.ComparePredicates
  intro cond comb
  have hcond (w code : Nat) (x y : BitVec w) : condHolds w code x.toNat y.toNat = cond w code x y := condHolds_toNat code x y
  refine ⟨fun r _ => yields_pred_of_eq (fun s l => ?_) fun _ => rfl, fun w n e r => cmp_codes,
    fun r => yields_pred_of_eq (fun s l => hcond 32 _ _ _) fun _ => rfl⟩
  rw [← hcond, ← hcond]
  rfl

end Sys2Proof.Integers
end

section
/-! PROOFS (O5, O6). Limb instructions on the groups of a bound set (R111, R117, R119 to R122). -/

namespace Sys2Proof.Limbs
open Sys2Proof Sys2Proof.Machine

/-! ### The integer of a group (R111) -/

/-- The words of a group are the digits of its integer. -/
theorem groupV_eq_ofDigits (L l : Nat) (v : Nat → Word) :
    groupV L l v = Nat.ofDigits (2 ^ 32) ((limbLanes L l).map fun m => (v m).toNat) := by
  rw [Nat.ofDigits_eq_sum_mapIdx, groupV]
  congr 1
  apply List.ext_getElem
  · simp [limbLanes, rangeFrom]
  · intro i _ _
    simp only [limbLanes, rangeFrom, List.getElem_map, List.getElem_mapIdx, List.getElem_range]
    rw [Nat.add_comm, pow_mul]

theorem groupV_lt (L l : Nat) (v : Nat → Word) : groupV L l v < 2 ^ (32 * L) := by
  have h := Nat.ofDigits_lt_base_pow_length (b := 2 ^ 32) (l := (limbLanes L l).map fun m => (v m).toNat) (by norm_num)
    fun x hx => by
      obtain ⟨m, -, rfl⟩ := List.mem_map.mp hx
      exact (v m).isLt
  rw [groupV_eq_ofDigits, pow_mul]
  simpa [limbLanes, rangeFrom] using h

theorem limbV_eq_ofDigits (s : State) (f : BitVec 7) (prev : List (BitVec 7)) (ls : List Nat) :
    s.limbV f prev ls = Nat.ofDigits (2 ^ 32) (ls.map fun m => (s.rd m f prev).toNat) := by
  induction ls with
  | nil => rfl
  | cons l r ih => rw [State.limbV, ih, List.map_cons, Nat.ofDigits_cons]

theorem limbG_eq_ofDigits (s : State) (n : Nat) (ls : List Nat) :
    s.limbG n ls = Nat.ofDigits (2 ^ 32) (ls.map fun m => (s.rg m n).toNat) := by
  induction ls with
  | nil => rfl
  | cons l r ih => rw [State.limbG, ih, List.map_cons, Nat.ofDigits_cons]

theorem limbV_limbLanes (s : State) (f : BitVec 7) (prev : List (BitVec 7)) (L l : Nat) :
    s.limbV f prev (limbLanes L l) = groupV L l fun m => s.rd m f prev := by
  rw [limbV_eq_ofDigits, groupV_eq_ofDigits]

theorem limbG_limbLanes (s : State) (n L l : Nat) :
    s.limbG n (limbLanes L l) = groupV L l fun m => s.rg m n := by
  rw [limbG_eq_ofDigits, groupV_eq_ofDigits]

theorem sgn_eq_groupSV {n x : Nat} (hx : x < 2 ^ n) : sgn x n = groupSV n x := by
  rw [sgn, groupSV, Nat.mod_eq_of_lt hx]
  norm_cast
  rw [Nat.mod_eq_of_lt hx]

theorem sgn_groupV (L l : Nat) (v : Nat → Word) : sgn (groupV L l v) (32 * L) = groupSV (32 * L) (groupV L l v) :=
  sgn_eq_groupSV (groupV_lt L l v)

/-- The limb-0 lane of a group is its first; lane 0 stands for that of a group of width 0. -/
theorem headD_limbLanes (L l : Nat) : (limbLanes L l).headD 0 = l / L * L := by
  cases L with
  | zero => simp [limbLanes, rangeFrom]
  | succ L => simp [limbLanes, rangeFrom, List.range_succ_eq_map]

/-! ### An operation on each group (R117) -/

theorem serve_self {f : State → Nat → Except Out State} {s : State} {ls : List Nat} (h : ∀ l ∈ ls, f s l = .ok s) :
    Serve f s ls s := by
  induction ls with
  | nil => rfl
  | cons l r ih => exact ⟨s, h l (by simp), ih fun m hm => h m (by simp [hm])⟩

/-- Where every lane is bound, each lane changes by the body with the width and the lanes of its group. -/
theorem limbOp_bound {s : State} {k b : Nat} {ls : List Nat} (g : Nat → List Nat → Nat → Thread → Thread)
    (hw : s.iss.who = .gang k b ls) (hb : ∀ l ∈ ls, s.limbL l ≠ 0) :
    s.limbOp g = s.eachLane fun l t => g (32 * s.limbL l) (limbLanes (s.limbL l) l) (l % s.limbL l) t := by
  rw [State.limbOp, forParts_gang hw (serve_self fun l hl => if_neg (hb l hl))]

/-- A limb instruction whose body sets registers and predicates completes with them. -/
theorem yieldsIf_limbOp {i : Instr} {g : State → Nat → List Nat → Nat → Thread → Thread}
    {val : State → Nat → Nat → Option Word} {pval : State → Nat → Nat → Option Bool}
    (hx : ∀ s, exec i s = .next (s.issue i fun s => s.limbOp (g s)))
    (hg : ∀ s l, Sets (g s (32 * s.limbL l) (limbLanes (s.limbL l) l) (l % s.limbL l)) (val s l) (pval s l)) :
    YieldsIf (fun s ls => ∀ l ∈ ls, s.limbL l ≠ 0) i val pval noFlags := by
  refine yieldsIf_body hx (fun s k b ls h hb => ?_) hg
  rw [limbOp_bound (g s) h.who hb]
  exact body_eachLane _ h.who h.asc

/-! ### Sums and differences (R119) -/

theorem limbAdd_eq (n a b c : Nat) : limbAdd n a b c = (((a + b + c : Int) % 2 ^ n).toNat,
    decide ((2 ^ n : Int) ≤ a + b + c),
    decide (sgn a n + sgn b n + c < -(2 ^ (n - 1) : Int) ∨ (2 ^ (n - 1) : Int) ≤ sgn a n + sgn b n + c)) := by
  rw [limbAdd, Bool.decide_or]
  norm_cast

/-- The model adds 2^(n+1) before it subtracts, which leaves the difference modulo 2^n. -/
theorem limbSub_eq {n a b c : Nat} (h : b + c ≤ 2 ^ n) : limbSub n a b c = (((a - b - c : Int) % 2 ^ n).toNat,
    decide ((a - b - c : Int) < 0),
    decide (sgn a n - sgn b n - c < -(2 ^ (n - 1) : Int) ∨ (2 ^ (n - 1) : Int) ≤ sgn a n - sgn b n - c)) := by
  have hdiff : (((a + 2 * 2 ^ n - b - c) % 2 ^ n : Nat) : Int) = (a - b - c : Int) % 2 ^ n := by
    have : ((a + 2 * 2 ^ n - b - c : Nat) : Int) = (a - b - c) + 2 ^ n * 2 := by
      rw [Nat.sub_sub, Int.natCast_sub (by omega)]
      push_cast
      ring
    push_cast
    rw [this, Int.add_mul_emod_self_left]
  have hborrow : a < b + c ↔ (a - b - c : Int) < 0 := by omega
  rw [limbSub, Bool.decide_or, ← hdiff, Int.toNat_natCast, decide_eq_decide.mpr hborrow]

/-- −V(a) leaves the N-bit range for the least integer of the range only (R119). -/
theorem neg_groupSV_outside {n x : Nat} (hx : x < 2 ^ n) :
    (-groupSV n x < -(2 ^ (n - 1) : Int) ∨ (2 ^ (n - 1) : Int) ≤ -groupSV n x) ↔ x = 2 ^ (n - 1) := by
  rw [groupSV]
  cases n with
  | zero =>
    obtain rfl : x = 0 := by simpa using hx
    decide
  | succ n =>
    have hn : 2 ^ (n + 1) = 2 * 2 ^ n := Nat.pow_succ'
    have hcast : (2 ^ n : Int) = ((2 ^ n : Nat) : Int) := by norm_cast
    rw [Nat.add_sub_cancel, pow_succ', hcast]
    split_ifs <;> omega

section
variable {i : Instr} {d : BitVec 7} {pc pv : BitVec 3}

/-- An instruction whose body is WRITE of a result completes with its word, its carry and its overflow. -/
theorem yieldsIf_limbPut {r : State → Nat → List Nat → Nat × Bool × Bool} {x : State → Nat → Int} {c v : State → Nat → Bool}
    (hres : ∀ s l, r s (32 * s.limbL l) (limbLanes (s.limbL l) l) = ((x s l % 2 ^ (32 * s.limbL l)).toNat, c s l, v s l))
    (hx : ∀ s, exec i s = .next (s.issue i fun s => s.limbOp fun n ls i t => limbPut d pc pv (r s n ls) i t)) :
    YieldsIf (fun s ls => ∀ l ∈ ls, s.limbL l ≠ 0) i
      (one d.toNat fun s l => BitVec.ofNat 32 ((x s l % 2 ^ (32 * s.limbL l)).toNat / 2 ^ (32 * (l % s.limbL l))))
      (pred2 pc.toNat pv.toNat c v) noFlags := by
  refine yieldsIf_limbOp hx fun s l => ?_
  simp only [hres]
  exact ((Sets.id.setG _ _).setP _ _).setP _ _

end

theorem limbCin_limbLanes (s : State) (p : BitVec 3) (L l : Nat) :
    s.limbCin p (limbLanes L l) = if s.rp (l / L * L) p.toNat then 1 else 0 := by
  rw [State.limbCin, headD_limbLanes]

theorem limbCin_le (s : State) (p : BitVec 3) (ls : List Nat) : s.limbCin p ls ≤ 1 := by
  unfold State.limbCin
  split <;> omega

theorem groupV_add_le (L l : Nat) (v : Nat → Word) {c : Nat} (hc : c ≤ 1) : groupV L l v + c ≤ 2 ^ (32 * L) := by
  have := groupV_lt L l v
  omega

/-- Negation is the difference from 0: it borrows unless V(a) is 0. -/
theorem limbSub_zero_groupV (L l : Nat) (v : Nat → Word) : limbSub (32 * L) 0 (groupV L l v) 0 =
    ((-(groupV L l v : Int) % 2 ^ (32 * L)).toNat, decide (groupV L l v ≠ 0), decide (groupV L l v = 2 ^ (32 * L - 1))) := by
  have h0 : sgn 0 (32 * L) = 0 := by rw [sgn_eq_groupSV (Nat.two_pow_pos _), groupSV, if_neg (by simp)]; rfl
  have hborrow : (-(groupV L l v : Int) < 0) ↔ groupV L l v ≠ 0 := by omega
  rw [limbSub_eq (groupV_add_le L l v (Nat.zero_le 1)), sgn_groupV, h0]
  simp only [Nat.cast_zero, zero_sub, sub_zero, hborrow, neg_groupSV_outside (groupV_lt L l v)]

/-- Settles O5: each body is WRITE of the sum or the difference of the groups' integers. -/
theorem limbSumsAndDifferences : Obligations.LimbSumsAndDifferences := by
  unfold Obligations.LimbSumsAndDifferences
  intro bound N V SV cin write carry borrow outside
  have hcin (p : BitVec 3) (s : State) (l : Nat) : s.limbCin p (limbLanes (s.limbL l) l) = cin p s l := limbCin_limbLanes s p _ l
  refine ⟨fun r => yieldsIf_limbPut (fun s l => ?_) fun _ => rfl,
    fun r => yieldsIf_limbPut (fun s l => ?_) fun _ => rfl,
    fun r => yieldsIf_limbPut (fun s l => ?_) fun _ => rfl,
    fun r => yieldsIf_limbPut (fun s l => ?_) fun _ => rfl,
    fun r => yieldsIf_limbPut (fun s l => ?_) fun _ => rfl⟩
  · rw [limbV_limbLanes, limbV_limbLanes, limbAdd_eq, sgn_groupV, sgn_groupV]
    simp only [Nat.cast_zero, add_zero]
    rfl
  · rw [limbV_limbLanes, limbV_limbLanes, limbAdd_eq, sgn_groupV, sgn_groupV, hcin]
  · rw [limbV_limbLanes, limbV_limbLanes, limbSub_eq (groupV_add_le _ _ _ (Nat.zero_le 1)), sgn_groupV, sgn_groupV]
    simp only [Nat.cast_zero, sub_zero]
    rfl
  · rw [limbV_limbLanes, limbV_limbLanes, limbSub_eq (groupV_add_le _ _ _ (limbCin_le s r.pin _)), sgn_groupV, sgn_groupV, hcin]
  · rw [limbV_limbLanes, limbSub_zero_groupV]

/-! ### Comparisons, products by a word and shifts (R120 to R122) -/

theorem limbAmt_limbLanes (s : State) (r : R3) (L l : Nat) :
    s.limbAmt r (limbLanes L l) = (s.rd (l / L * L) r.b [r.a]).toNat := by
  rw [State.limbAmt, headD_limbLanes]

/-- An amount of N or more shifts every bit out. -/
theorem limbShl_eq (n v k : Nat) : limbShl n v k = v * 2 ^ k % 2 ^ n := by
  rw [limbShl]
  split
  · next h => exact (Nat.mod_eq_zero_of_dvd ((pow_dvd_pow 2 h).mul_left v)).symm
  · rfl

theorem limbShr_eq {n v : Nat} (k : Nat) (hv : v < 2 ^ n) : limbShr n v k = v / 2 ^ k := by
  rw [limbShr]
  split
  · next h => exact (Nat.div_eq_of_lt (hv.trans_le (Nat.pow_le_pow_right two_pos h))).symm
  · rfl

theorem sgn_bounds (n v : Nat) : -(2 ^ n : Int) ≤ sgn v n ∧ sgn v n < 2 ^ n := by
  have hlt : (v : Int) % 2 ^ n < 2 ^ n := Int.emod_lt_of_pos _ (by positivity)
  have hge : 0 ≤ (v : Int) % 2 ^ n := Int.emod_nonneg _ (by positivity)
  unfold sgn
  split <;> constructor <;> omega

/-- An amount of N or more leaves the sign alone: 0, or all ones. -/
theorem limbSar_eq (n v k : Nat) : limbSar n v k = (sgn v n / 2 ^ k % 2 ^ n).toNat := by
  rw [limbSar]
  split
  · next hk =>
    obtain ⟨hlo, hhi⟩ := sgn_bounds n v
    have hpow : (2 ^ n : Int) ≤ 2 ^ k := pow_le_pow_right₀ (by norm_num) hk
    split
    · next hneg =>
      have hpos : (0 : Int) < 2 ^ n := by positivity
      have hcast : (2 ^ n : Int) = (2 ^ n : Nat) := by norm_cast
      rw [Int.ediv_eq_neg_one_of_neg_of_le hneg (by omega), Int.neg_emod_eq_sub_emod, Int.emod_eq_of_lt (by omega) (by omega)]
      omega
    · next hpos =>
      rw [Int.ediv_eq_zero_of_lt (not_lt.mp hpos) (by omega), Int.zero_emod, Int.toNat_zero]
  · rfl

section
variable {i : Instr} {d : BitVec 7}

/-- An instruction whose body writes a word of each group's result completes with it. -/
theorem yieldsIf_limbWord {x : State → Nat → List Nat → Nat} {y : State → Nat → Nat}
    (hxy : ∀ s l, x s (32 * s.limbL l) (limbLanes (s.limbL l) l) = y s l)
    (hx : ∀ s, exec i s = .next (s.issue i fun s => s.limbOp fun n ls i t => t.setG d.toNat (limbWord (x s n ls) i))) :
    YieldsIf (fun s ls => ∀ l ∈ ls, s.limbL l ≠ 0) i
      (one d.toNat fun s l => BitVec.ofNat 32 (y s l / 2 ^ (32 * (l % s.limbL l)))) nothing noFlags := by
  refine yieldsIf_limbOp hx fun s l => ?_
  simp only [hxy]
  exact Sets.id.setG _ _

end

/-- Settles O6: each body writes the predicates or the words of its rule. -/
theorem limbCompareMultiplyShift : Obligations.LimbCompareMultiplyShift := by
  unfold Obligations.LimbCompareMultiplyShift
  intro bound N V SV first word
  refine ⟨fun r => yieldsIf_limbOp (fun _ => rfl) fun s l => ?_,
    fun r => yieldsIf_limbOp (fun _ => rfl) fun s l => ?_,
    fun r => yieldsIf_limbWord (fun s l => ?_) fun _ => rfl,
    fun r => yieldsIf_limbWord (fun s l => ?_) fun _ => rfl,
    fun r => yieldsIf_limbWord (fun s l => ?_) fun _ => rfl⟩
  · simp only [limbV_limbLanes, sgn_groupV]
    exact ((Sets.id.setP _ _).setP _ _).setP _ _
  · simp only [limbV_limbLanes, limbG_limbLanes, headD_limbLanes]
    exact (Sets.id.setG _ _).setG _ _
  · rw [limbShl_eq, limbV_limbLanes, limbAmt_limbLanes]
  · rw [limbV_limbLanes, limbShr_eq _ (groupV_lt _ _ _), limbAmt_limbLanes]
  · rw [limbSar_eq, limbV_limbLanes, limbAmt_limbLanes, sgn_groupV]

end Sys2Proof.Limbs
end

section
/-! PROOFS (O7). BIND and UNBIND (R111, R113, R118). -/

namespace Sys2Proof.Limbs
open Sys2Proof Sys2Proof.Machine

/-! ### What BIND tests (R116, R118) -/

theorem mem_limbLanes {w l m : Nat} (hw : 0 < w) : m ∈ limbLanes w l ↔ m / w = l / w := by
  rw [Nat.div_eq_iff hw, limbLanes, rangeFrom, List.mem_map]
  constructor
  · rintro ⟨i, hi, rfl⟩
    have := List.mem_range.mp hi
    omega
  · rintro ⟨hlo, hhi⟩
    exact ⟨m - l / w * w, List.mem_range.mpr (by omega), by omega⟩

theorem bindOk_iff {s : State} {k b : Nat} {ls : List Nat} {w : Nat} (hs : s.iss.who = .gang k b ls) (hw : 0 < w) :
    s.bindOk w = true ↔ ∀ l ∈ ls, s.boundSet l = 0 ∧ ∀ m, m / w = l / w → m ∈ ls := by
  have hl : s.lanes = ls := by simp [State.lanes, hs]
  simp only [State.bindOk, hl, List.all_eq_true, Bool.and_eq_true, beq_iff_eq, List.contains_iff_mem, mem_limbLanes hw]

theorem allFault_gang {s : State} {k b : Nat} {ls : List Nat} (hs : s.iss.who = .gang k b ls) (f : Flt) :
    s.allFault f = ls.foldl (fun s l => s.dropLane l (.flt f)) s := by
  simp [State.allFault, State.parts_, hs]

/-- A thread that is bound at width L in set n. -/
def bindThread (L n : Nat) (t : Thread) : Thread := { t with limbL := L, bset := n }

/-- A change of the lanes is a change of the teams. -/
theorem eachLane_eq {s : State} {k b : Nat} {ls : List Nat} (hs : s.iss.who = .gang k b ls) (f : Nat → Thread → Thread) :
    s.eachLane f = { s with teams := (s.eachLane f).teams } := by
  rw [State.eachLane, hs]
  rfl

/-- A supported width and whole free groups: the lanes are bound in one new set. -/
theorem runBind_ok {s : State} {w : BitVec 3} (hw : w.toNat ≤ 4) (h : s.bindOk (4 * 2 ^ w.toNat) = true) : runBind w s =
    (s.eachLane fun _ => bindThread (4 * 2 ^ w.toNat) (s.fresh + 1)).bump := by
  simp only [runBind, limbWidth, hw, h, if_true]
  rfl

/-- Any other BIND raises LIMBSHAPE in every lane. -/
theorem runBind_fault {s : State} {w : BitVec 3} (h : 4 < w.toNat ∨ s.bindOk (4 * 2 ^ w.toNat) = false) :
    runBind w s = s.allFault (flt .limbShape) := by
  rw [runBind, limbWidth]
  by_cases hw : w.toNat ≤ 4
  · have hno : s.bindOk (4 * 2 ^ w.toNat) = false := h.resolve_left (by omega)
    simp only [hw, hno, if_true, Bool.false_eq_true, if_false]
  · simp only [hw, if_false]

/-- Settles O7: BIND's tests are those of R118; a BIND that passes them changes its lanes and counts a new set. -/
theorem bindAndUnbind : Obligations.BindAndUnbind := by
  unfold Obligations.BindAndUnbind
  refine ⟨fun s k b ls w h hw hfree => ?_, fun s k b ls w h hbad => ?_, ?_⟩
  · have hrun := runBind_ok hw ((bindOk_iff h.who (by positivity)).mpr hfree)
    have hb := body_eachLane (fun _ => bindThread (4 * 2 ^ w.toNat) (s.fresh + 1)) h.who h.asc
    obtain ⟨honly, hthreads⟩ := threads_body (sh := shapeOf (.bind w) s.iss.pfx) h.who h.asc hb fun _ _ => rfl
    rw [popLanes_none ls rfl] at honly hthreads
    have hissue : s.issue (.bind w) (runBind w) = runBind w s := by
      rw [issue_gang h (by rw [hrun]; exact hb.iss), popLanes_none ls rfl]
    have hx : exec (.bind w) s = .next (s.eachLane fun _ => bindThread (4 * 2 ^ w.toNat) (s.fresh + 1)).bump := by
      rw [← hrun, ← hissue]
      rfl
    exact ⟨_, hx, congrArg State.bump (eachLane_eq h.who _), honly.2,
      hthreads.team, hthreads.queue, hthreads.idle, hthreads.lane⟩
  · refine faults_all h (fun _ => flt .limbShape) (fun _ => nofun) rfl ?_
    rw [runBind_fault, allFault_gang h.who]
    refine hbad.imp_right fun ⟨l, hl, hno⟩ => Bool.eq_false_iff.mpr fun hok => ?_
    obtain ⟨hfree, hwhole⟩ := (bindOk_iff h.who (by positivity)).mp hok l hl
    obtain hbound | ⟨m, hm, hout⟩ := hno
    · exact hbound hfree
    · exact hout (hwhole m hm)
  · exact changes_eachLane (fun _ => rfl) (fun _ => rfl) fun _ _ _ => rfl

end Sys2Proof.Limbs
end


section
/-! PROOFS (O8 to O10). Floating-point instructions, majors 0x0A to 0x0F (R124 to R151): each body writes the word that its rule
gives and ORs the flags of its lanes into FSTAT (Laws/Lanes); rounding to an integer, and patterns delivered unchanged. -/

namespace Sys2Proof.Floats
open Sys2Proof Sys2Proof.Machine

/-! ### FP32 arithmetic (R138, R139, R141) -/

/-- Settles O8: each body delivers the exact value of its operation and raises the flags of its lanes. -/
theorem floatArithmeticResults : Obligations.FloatArithmeticResults := by
  unfold Obligations.FloatArithmeticResults
  intro fp
  have hfp {i : Instr} {d : BitVec 7} {run : State → State} (f : State → Nat → FRes)
      (hx : ∀ s, exec i s = .next (s.issue i run)) (hr : ∀ s, run s = s.fpu d fun l => F32.deliver s.rmode (f s l)) :
      fp i d f := yields_fpu hx hr
  refine ⟨fun r => ⟨?_, ?_, ?_, ?_, ?_⟩, fun r => ⟨?_, ?_, ?_, ?_, ?_⟩⟩ <;>
    exact hfp _ (fun _ => rfl) fun _ => rfl

/-! ### Classes and signs (R124, R142, R144) -/

theorem msb_eq_beq_one (x : Word) : x.msb = (x.toNat / 2 ^ 31 % 2 == 1) := by
  rw [BitVec.msb_eq_decide, Bool.eq_iff_iff, decide_eq_true_eq, beq_iff_eq]
  have := x.isLt
  omega

/-- The value of an FP32 pattern, with the format's numbers written out (R124). -/
theorem decode_f32 (v : Nat) : F32.decode v =
    if v / 2 ^ 23 % 256 = 255 then
      if v % 2 ^ 23 = 0 then .inf (v / 2 ^ 31 % 2 == 1) else .nan (decide (v % 2 ^ 23 < 2 ^ 22))
    else if v / 2 ^ 23 % 256 = 0 then .fin (v / 2 ^ 31 % 2 == 1) (v % 2 ^ 23) (-149)
    else .fin (v / 2 ^ 31 % 2 == 1) (2 ^ 23 + v % 2 ^ 23) (-149 + ((v / 2 ^ 23 % 256 : Nat) - 1)) := by
  have hfr : bits v 0 23 = v % 2 ^ 23 := by rw [bits, pow_zero, Nat.div_one]
  rw [Fmt.decode, show F32.fb = 23 from rfl, hfr]
  rfl

theorem ofNat_two_pow_classBit (x : Word) : BitVec.ofNat 32 (2 ^ classBit x.toNat) =
    (let e := x.toNat / 2 ^ 23 % 256
     let m := x.toNat % 2 ^ 23
     let kind := if e = 255 then (if m = 0 then 0 else 4) else if e = 0 then (if m = 0 then 3 else 2) else 1
     if kind = 4 then (if m < 2 ^ 22 then 0x100 else 0x200)
     else if x.msb then BitVec.ofNat 32 (2 ^ kind) else BitVec.ofNat 32 (2 ^ (7 - kind))) := by
  have hlt : x.toNat % 2 ^ 23 < 8388608 := Nat.mod_lt _ (by norm_num)
  rw [classBit, decode_f32, ← msb_eq_beq_one]
  generalize x.toNat / 2 ^ 23 % 256 = e, x.toNat % 2 ^ 23 = m, x.msb = s at hlt
  by_cases hinf : e = 255
  · by_cases hm : m = 0
    · cases s <;> simp [hinf, hm]
    · by_cases hsig : m < 4194304 <;> simp [hinf, hm, hsig]
  · by_cases hsub : e = 0
    · by_cases hm : m = 0
      · cases s <;> simp [hsub, hm]
      · cases s <;> simp [hsub, hm, hlt]
    · cases s <;> simp [hinf, hsub]

theorem fsgnW_eq (mode : Nat) (a b : Word) : fsgnW mode a b =
    (let sgn := match mode with | 0 => b.msb | 1 => !b.msb | 2 => xor a.msb b.msb | _ => false
     BitVec.ofNat 32 (a.toNat % 2 ^ 31 + if sgn then 2 ^ 31 else 0)) := by
  have key (s : Bool) : (if s then 0x80000000#32 else 0) ||| (a &&& 0x7FFFFFFF#32) =
      BitVec.ofNat 32 (a.toNat % 2 ^ 31 + if s then 2 ^ 31 else 0) := by
    have hand : a &&& 0x7FFFFFFF#32 = BitVec.ofNat 32 (a.toNat % 2 ^ 31) := by
      apply BitVec.eq_of_toNat_eq
      rw [BitVec.toNat_and, BitVec.toNat_ofNat, BitVec.toNat_ofNat, Nat.mod_eq_of_lt (by norm_num)]
      exact (Nat.and_two_pow_sub_one_eq_mod _ 31).trans (by omega)
    cases s
    · simp [hand]
    · have hor := Nat.two_pow_add_eq_or_of_lt (Nat.mod_lt a.toNat (Nat.two_pow_pos 31)) 1
      rw [hand, if_pos rfl, if_pos rfl, Nat.add_comm]
      exact BitVec.ofNat_or.symm.trans (congrArg (BitVec.ofNat 32) hor.symm)
  exact key _

/-! ### Comparisons, minimum and maximum, packed pairs (R140, R143, R145, R146) -/

/-- The flags of a body's lanes, ORed into FSTAT after it (R134). -/
theorem body_raise {s t : State} {k b : Nat} {ls : List Nat} {f : Nat → Thread → Thread} (h : Body s t k b ls f 0)
    (hw : s.iss.who = .gang k b ls) (fl : BitVec 5) : Body s (t.raise fl) k b ls f fl := by
  have hr : t.raise fl = ({ t with iss := { t.iss with raised := t.iss.raised ||| fl } } : State).modTeam k
      fun t => { t with fstat := t.fstat ||| fl } := by rw [State.raise, h.who, hw]
  have hiss : Body s { t with iss := { t.iss with raised := t.iss.raised ||| fl } } k b ls f 0 :=
    ⟨by rw [h.iss], ⟨by rw [h.only.1], h.only.2⟩, h.team, h.idle, h.lane⟩
  rw [hr]
  exact body_modTeam hiss _ rfl

/-- The condition of a code, as R143 states it. -/
theorem fcond_eq (code : Nat) (a b : FVal) : fcond code a b =
    (let un := a.isNan || b.isNan
     match code with
     | 0 => !un && a.eqv b
     | 1 => un || !a.eqv b
     | 2 => !un && a.lt b
     | 3 => !un && !b.lt a
     | 4 => !un && b.lt a
     | 5 => !un && !a.lt b
     | 6 => un
     | _ => !un) := by
  match code with
  | 0 =>
    show a.eqv b = (!(a.isNan || b.isNan) && a.eqv b)
    rw [FVal.eqv]
    cases a.isNan <;> cases b.isNan <;> rfl
  | 1 | 2 | 3 | 4 | 5 | 6 | _ + 7 => rfl

/-- Settles O9: the words and conditions of the bodies are those of the rules; both formats of packed pairs share one argument. -/
theorem selectClassAndPackedResults : Obligations.SelectClassAndPackedResults := by
  unfold Obligations.SelectClassAndPackedResults
  refine ⟨⟨fun r => ?_, fun r => ?_, fun r => ?_, fun r _ => ?_⟩, fun r => ?_⟩
  · exact ⟨yields_fpu (fun _ => rfl) fun _ => rfl, yields_fpu (fun _ => rfl) fun _ => rfl,
      yields_fpu (fun _ => rfl) fun _ => rfl, yields_fpu (fun _ => rfl) fun _ => rfl⟩
  · exact Integers.yields_word (fun _ _ => ofNat_two_pow_classBit _) fun _ => rfl
  · exact Integers.yields_word (fun _ _ => fsgnW_eq _ _ _) fun _ => rfl
  · intro A B un c
    refine yieldsIf_body (run := runFcmp r)
      (f := fun s l t => t.setP r.pd.toNat (combine r.comb.toNat (fcond r.cond.toNat (A s l) (B s l)) (s.rp l r.cp.toNat)))
      (fun _ => rfl) (fun s k b ls h _ => ?_) fun s l => ?_
    · have hl : s.lanes = ls := by simp [State.lanes, h.who]
      have hb := body_raise (body_eachLane (fun l t => t.setP r.pd.toNat
        (combine r.comb.toNat (fcond r.cond.toNat (A s l) (B s l)) (s.rp l r.cp.toNat))) h.who h.asc) h.who
      rw [runFcmp, hl]
      exact hb _
    · simp only [fcond_eq]
      exact Sets.id.setP _ _
  · intro a b c lo hi both fmt
    have hfmt (F : Fmt) {add sub mul fma mn mx dot : Instr}
        (hadd : ∀ s, exec add s = .next (s.issue add fun s => s.pairArith r F (addVals s.rmode)))
        (hsub : ∀ s, exec sub s = .next (s.issue sub fun s => s.pairArith r F (subVals s.rmode)))
        (hmul : ∀ s, exec mul s = .next (s.issue mul fun s => s.pairArith r F mulVals))
        (hfma : ∀ s, exec fma s = .next (s.issue fma fun s => s.pairFma r F))
        (hmn : ∀ s, exec mn s = .next (s.issue mn fun s => s.pairMinMax r F false))
        (hmx : ∀ s, exec mx s = .next (s.issue mx fun s => s.pairMinMax r F true))
        (hdot : ∀ s, exec dot s = .next (s.issue dot fun s => s.pairDot r F)) : fmt F add sub mul fma mn mx dot :=
      ⟨yields_fpu hadd fun _ => rfl, yields_fpu hsub fun _ => rfl, yields_fpu hmul fun _ => rfl, yields_fpu hfma fun _ => rfl,
        yields_fpu hmn fun _ => rfl, yields_fpu hmx fun _ => rfl, yields_fpu hdot fun _ => rfl⟩
    exact ⟨hfmt BF16 (fun _ => rfl) (fun _ => rfl) (fun _ => rfl) (fun _ => rfl) (fun _ => rfl) (fun _ => rfl) fun _ => rfl,
      hfmt F16 (fun _ => rfl) (fun _ => rfl) (fun _ => rfl) (fun _ => rfl) (fun _ => rfl) (fun _ => rfl) fun _ => rfl⟩

/-! ### Rounding to an integer (R131) -/

theorem roundShift_natCast (mode : Nat) (s : Bool) (m : Nat) {k : Nat} (hk : 0 < k) : roundShift mode s m k =
    (if (match mode with
        | 0 => decide (2 ^ (k - 1) < m % 2 ^ k) || (m % 2 ^ k == 2 ^ (k - 1) && m / 2 ^ k % 2 == 1)
        | 1 => false
        | 2 => !s && m % 2 ^ k != 0
        | 3 => s && m % 2 ^ k != 0
        | _ => decide (2 ^ (k - 1) ≤ m % 2 ^ k)) then m / 2 ^ k + 1 else m / 2 ^ k,
      m % 2 ^ k != 0) := by
  rw [roundShift, if_neg (by omega)]
  rfl

theorem ceil_div (m : Nat) {d : Nat} (hd : 0 < d) : (m + d - 1) / d = if m % d ≠ 0 then m / d + 1 else m / d := by
  have hm := Nat.div_add_mod m d
  have hlt := Nat.mod_lt m hd
  split
  · rw [show m + d - 1 = m % d - 1 + d * (m / d + 1) by rw [Nat.mul_succ]; omega, Nat.add_mul_div_left _ _ hd,
      Nat.div_eq_of_lt (by omega), Nat.zero_add]
  · rw [show m + d - 1 = d - 1 + d * (m / d) by omega, Nat.add_mul_div_left _ _ hd, Nat.div_eq_of_lt (by omega), Nat.zero_add]

/-- The nearest integer to m / (2 p), ties away from zero. -/
theorem nearest_away (m : Nat) {p : Nat} (hp : 0 < p) : (2 * m + 2 * p) / (2 * (2 * p)) =
    if p ≤ m % (2 * p) then m / (2 * p) + 1 else m / (2 * p) := by
  have hm := Nat.div_add_mod m (2 * p)
  have hlt := Nat.mod_lt m (y := 2 * p) (by omega)
  rw [← Nat.mul_add, Nat.mul_div_mul_left _ _ two_pos]
  split
  · rw [show m + p = m % (2 * p) - p + 2 * p * (m / (2 * p) + 1) by rw [Nat.mul_succ]; omega, Nat.add_mul_div_left _ _ (by omega),
      Nat.div_eq_of_lt (by omega), Nat.zero_add]
  · rw [show m + p = m % (2 * p) + p + 2 * p * (m / (2 * p)) by omega, Nat.add_mul_div_left _ _ (by omega),
      Nat.div_eq_of_lt (by omega), Nat.zero_add]

/-- Mode 0 takes the nearest integer, and of two the even one. -/
theorem roundShift_nearest_even (s : Bool) (m : Nat) {k : Nat} (hk : 0 < k) :
    (2 * (roundShift 0 s m k).1 * 2 ^ k ≤ 2 * m + 2 ^ k ∧ 2 * m ≤ 2 * (roundShift 0 s m k).1 * 2 ^ k + 2 ^ k) ∧
      (2 * m % 2 ^ (k + 1) = 2 ^ k → (roundShift 0 s m k).1 % 2 = 0) := by
  have hpow : 2 ^ k = 2 * 2 ^ (k - 1) := by rw [← Nat.pow_succ', Nat.succ_eq_add_one, Nat.sub_add_cancel hk]
  have hm := Nat.div_add_mod m (2 ^ k)
  have hlt := Nat.mod_lt m (Nat.two_pow_pos k)
  rw [roundShift_natCast 0 s m hk, Nat.pow_succ', Nat.mul_mod_mul_left]
  simp only [Bool.or_eq_true, Bool.and_eq_true, decide_eq_true_eq, beq_iff_eq]
  generalize m / 2 ^ k = h, m % 2 ^ k = r at hm hlt ⊢
  generalize 2 ^ (k - 1) = p, 2 ^ k = d at hpow hm hlt ⊢
  split
  · next hup =>
    rw [show 2 * (h + 1) * d = 2 * (d * h) + 2 * d by ring]
    obtain habove | ⟨hhalf, hodd⟩ := hup
    · exact ⟨by omega, fun htie => by omega⟩
    · exact ⟨by omega, fun _ => Nat.succ_mod_two_eq_zero_iff.mpr hodd⟩
  · rw [show 2 * h * d = 2 * (d * h) by ring]
    exact ⟨by omega, fun htie => by omega⟩

theorem roundShift_directed (s : Bool) (m : Nat) {k : Nat} (hk : 0 < k) :
    (roundShift 1 s m k).1 = m / 2 ^ k ∧
    (roundShift 2 s m k).1 = (if s then m / 2 ^ k else (m + 2 ^ k - 1) / 2 ^ k) ∧
    (roundShift 3 s m k).1 = (if s then (m + 2 ^ k - 1) / 2 ^ k else m / 2 ^ k) ∧
    (roundShift 4 s m k).1 = (2 * m + 2 ^ k) / 2 ^ (k + 1) := by
  have hpow : 2 ^ k = 2 * 2 ^ (k - 1) := by rw [← Nat.pow_succ', Nat.succ_eq_add_one, Nat.sub_add_cancel hk]
  have hceil := ceil_div m (Nat.two_pow_pos k)
  refine ⟨by rw [roundShift_natCast _ _ _ hk]; rfl, ?_, ?_, ?_⟩
  · rw [roundShift_natCast _ _ _ hk, hceil]
    cases s <;> simp
  · rw [roundShift_natCast _ _ _ hk, hceil]
    cases s <;> simp
  · rw [roundShift_natCast _ _ _ hk, Nat.pow_succ', hpow, nearest_away m (Nat.two_pow_pos _)]
    simp

/-! ### Patterns delivered as they are (R124, R131) -/

theorem bitLen_le_iff {m n : Nat} : bitLen m ≤ n ↔ m < 2 ^ n := by
  rw [bitLen]
  split
  · next h => simp [h]
  · next h => rw [Nat.succ_le_iff, Nat.log2_lt h]

/-- An FP32 significand of 24 bits, or of fewer at the least exponent, is delivered without rounding. -/
theorem round_f32_exact (mode : Nat) (s : Bool) {m n : Nat} (hm : m < 2 ^ 24) (hn : 2 ^ 23 ≤ m ∨ n = 0)
    (hfin : n * 2 ^ 23 + m < 255 * 2 ^ 23) : F32.round mode s m (-149 + n) = (F32.signBit s + (n * 2 ^ 23 + m), 0) := by
  have hlen : bitLen m ≤ 24 := bitLen_le_iff.mpr hm
  have hlen' : ¬bitLen m ≤ 23 ∨ n = 0 := hn.imp_left fun h => by rw [bitLen_le_iff]; omega
  have hq : max (-149 + (n : Int) + bitLen m - 24) (-149) = -149 + n := by omega
  rw [Fmt.round]
  split
  · next h0 =>
    obtain rfl : n = 0 := by omega
    simp [h0]
  · have he : F32.emin - F32.fb = -149 := rfl
    have hp : (F32.fb : Int) + 1 = 24 := rfl
    have hr : roundShift mode s m (-149 + n - (-149 + n)) = (m, false) := by rw [sub_self]; simp [roundShift]
    simp only [he, hp, hq, hr]
    have hcode : (-149 + (n : Int) - -149).toNat * 2 ^ F32.fb + m = n * 2 ^ 23 + m := by
      rw [show (-149 + (n : Int) - -149).toNat = n by omega]
      rfl
    have hbig : ¬(2 ^ F32.eb - 1) * 2 ^ F32.fb ≤ n * 2 ^ 23 + m := not_le.mpr hfin
    rw [hcode, decide_eq_false hbig, Bool.and_false, if_neg Bool.false_ne_true, show F32.ftz = false from rfl, Bool.and_false,
      if_neg Bool.false_ne_true]
    simp [flagIf]

theorem signBit_add (v : Nat) (hv : v < 2 ^ 32) :
    F32.signBit (v / 2 ^ 31 % 2 == 1) + (v / 2 ^ 23 % 256 * 2 ^ 23 + v % 2 ^ 23) = v := by
  have hs : F32.signBit (v / 2 ^ 31 % 2 == 1) = v / 2 ^ 31 * 2 ^ 31 := by
    have : v / 2 ^ 31 = 0 ∨ v / 2 ^ 31 = 1 := by omega
    obtain h | h := this <;> rw [h] <;> rfl
  omega

theorem deliver_decode_f32 (mode : Nat) {v : Nat} (hv : v < 2 ^ 32) : F32.deliver mode (F32.decode v, 0) =
    (if v / 2 ^ 23 % 256 = 255 ∧ v % 2 ^ 23 ≠ 0 then F32.nan else v, 0) := by
  have hsum := signBit_add v hv
  have hm : v % 2 ^ 23 < 2 ^ 23 := Nat.mod_lt _ (Nat.two_pow_pos 23)
  have hfin {s : Bool} {m n : Nat} (hm : m < 2 ^ 24) (hn : 2 ^ 23 ≤ m ∨ n = 0) (hfin : n * 2 ^ 23 + m < 255 * 2 ^ 23) :
      F32.deliver mode (.fin s m (-149 + n), 0) = (F32.signBit s + (n * 2 ^ 23 + m), 0) := by
    simp only [Fmt.deliver, round_f32_exact mode s hm hn hfin]
    rfl
  rw [decode_f32]
  by_cases hinf : v / 2 ^ 23 % 256 = 255
  · rw [if_pos hinf]
    by_cases h0 : v % 2 ^ 23 = 0
    · rw [if_pos h0, if_neg fun h => h.2 h0]
      rw [hinf, h0] at hsum
      exact congrArg (·, 0) hsum
    · rw [if_neg h0, if_pos ⟨hinf, h0⟩]
      rfl
  · have hnum : ¬(v / 2 ^ 23 % 256 = 255 ∧ v % 2 ^ 23 ≠ 0) := fun h => hinf h.1
    rw [if_neg hinf, if_neg hnum]
    by_cases hsub : v / 2 ^ 23 % 256 = 0
    · rw [if_pos hsub]
      rw [hsub] at hsum
      exact (hfin (n := 0) (by omega) (.inr rfl) (by omega)).trans (congrArg (·, 0) hsum)
    · rw [if_neg hsub, show ((v / 2 ^ 23 % 256 : Nat) : Int) - 1 = (v / 2 ^ 23 % 256 - 1 : Nat) by omega,
        hfin (by omega) (.inl (by omega)) (by omega)]
      have hexp : (v / 2 ^ 23 % 256 - 1) * 2 ^ 23 + 2 ^ 23 = v / 2 ^ 23 % 256 * 2 ^ 23 := by
        rw [← Nat.succ_mul, Nat.succ_eq_add_one, Nat.sub_add_cancel (Nat.pos_of_ne_zero hsub)]
      rw [← Nat.add_assoc _ (2 ^ 23), hexp, hsum]

/-! ### Conversions (R147 to R151) -/

/-- The bits and signedness of a code of an integer format, as R147 lists them. -/
def intCode (code : Nat) : Option (Nat × Bool) :=
  match code with
  | 3 => some (32, true)
  | 4 => some (32, false)
  | 6 => some (16, true)
  | 7 => some (16, false)
  | 8 => some (8, true)
  | 9 => some (8, false)
  | _ => none

theorem intFmt_of_intCode {code w : Nat} {sg : Bool} (h : intCode code = some (w, sg)) :
    intFmt code = (w, sg) ∧ code ≠ 0 ∧ code ≠ 1 ∧ code ≠ 2 ∧ code ≠ 5 := by
  match code with
  | 3 | 4 | 6 | 7 | 8 | 9 => exact ⟨Option.some.inj h, by decide⟩
  | 0 | 1 | 2 | 5 | _ + 10 => nomatch h

section
variable {r : CvtOp} (mode a b d : Nat)

/-- One side of a conversion is FP32 (R147). -/
theorem cvtWf_src (hwf : cvtWf r = true) (hdst : r.dst.toNat ≠ 0) : r.src.toNat = 0 := by
  have hd : r.dst ≠ 0 := fun h => hdst (by rw [h]; rfl)
  simp only [cvtWf, Bool.and_eq_true] at hwf
  obtain ⟨⟨⟨-, hone⟩, -⟩, -⟩ := hwf
  rw [beq_false_of_ne hd] at hone
  have hs : r.src = 0 := by simpa using hone
  rw [hs]
  rfl

theorem cvtW_narrow (hs : r.src.toNat = 0) (hd : r.dst.toNat = 1 ∨ r.dst.toNat = 2) : cvtW r mode a b d =
    (let x := narrow (fmt16 r.dst.toNat) mode a
     if r.hi then (d % 65536 + 65536 * x.1, x.2) else x) := by
  rw [cvtW, if_pos hs, if_pos hd]

theorem cvtW_widen (hs : r.src.toNat = 1 ∨ r.src.toNat = 2) : cvtW r mode a b d =
    widen (fmt16 r.src.toNat) (if r.hi then a / 65536 else a % 65536) := by
  rw [cvtW, if_neg (by omega), if_pos hs]

theorem cvtW_toBfp (hs : r.src.toNat = 0) (hd : r.dst.toNat = 5) : cvtW r mode a b d =
    toBfp mode (r.mw.toNat + 2) (b % 256) a := by
  rw [cvtW, if_pos hs, if_neg (by omega), if_pos hd]

theorem cvtW_fromBfp (hs : r.src.toNat = 5) : cvtW r mode a b d =
    (fromBfp (r.mw.toNat + 2) (b % 256) (a % 2 ^ (r.mw.toNat + 2)), 0) := by
  rw [cvtW, if_neg (by omega), if_neg (by omega), if_pos hs]

theorem cvtW_toInt {w : Nat} {sg : Bool} (hs : r.src.toNat = 0) (hd : intCode r.dst.toNat = some (w, sg)) :
    cvtW r mode a b d =
    (let x := toIntSat mode (F32.decode a) (if sg then -(2 ^ (w - 1) : Int) else 0) (if sg then 2 ^ (w - 1) - 1 else 2 ^ w - 1)
     ((BitVec.ofInt 32 x.1).toNat, x.2)) := by
  obtain ⟨hf, -, h1, h2, h5⟩ := intFmt_of_intCode hd
  rw [cvtW, if_pos hs, if_neg (by omega), if_neg h5, hf]
  simp only [wrap, BitVec.toNat_ofInt]
  rfl

theorem cvtW_fromInt {w : Nat} {sg : Bool} (hs : intCode r.src.toNat = some (w, sg)) : cvtW r mode a b d =
    (let x := BitVec.ofNat w a
     fromInt mode (if sg then x.toInt else x.toNat)) := by
  obtain ⟨hf, h0, h1, h2, h5⟩ := intFmt_of_intCode hs
  rw [cvtW, if_neg h0, if_neg (by omega), if_neg h5, hf]
  simp only [Integers.sgn_eq_toInt, BitVec.toNat_ofNat]

end

/-- Settles O10: the limits of CVT leave each code its branch; the modes of roundShift are floors and ceilings of m / 2^k. -/
theorem roundingAndConversions : Obligations.RoundingAndConversions := by
  unfold Obligations.RoundingAndConversions
  refine ⟨?_, fun s m k hk => ?_, fun mode v hv => deliver_decode_f32 mode hv⟩
  · intro half int out
    refine ⟨fun r hwf => ?_, fun r => yields_fpu (fun _ => rfl) fun _ => rfl⟩
    intro a ex m
    have hsrc : r.dst.toNat ≠ 0 → r.src.toNat = 0 := cvtWf_src hwf
    have hout {f : State → Nat → Nat × BitVec 5}
        (hf : ∀ s l, cvtW r s.rmode (a s l) (s.rd l r.b [r.a]).toNat (s.rg l r.d.toNat).toNat = f s l) : out (.cvt r) r.d f := by
      obtain rfl := funext₂ hf
      exact yields_fpu (fun _ => rfl) fun _ => rfl
    exact ⟨fun h => hout fun s l => cvtW_narrow _ _ _ _ (hsrc (by omega)) h,
      fun h => hout fun s l => cvtW_widen _ _ _ _ h,
      fun w sg h => hout fun s l => cvtW_toInt _ _ _ _ (hsrc (intFmt_of_intCode h).2.1) h,
      fun w sg h => hout fun s l => cvtW_fromInt _ _ _ _ h,
      fun h => hout fun s l => cvtW_toBfp _ _ _ _ (hsrc (by omega)) h,
      fun h => hout fun s l => cvtW_fromBfp _ _ _ _ h⟩
  · obtain ⟨hnear, htie⟩ := roundShift_nearest_even s m hk
    obtain ⟨h1, h2, h3, h4⟩ := roundShift_directed s m hk
    exact ⟨hnear, htie, h1, h2, h3, h4, fun mode => by rw [roundShift_natCast _ _ _ hk]; exact (decide_not ..).symm⟩

end Sys2Proof.Floats
end

section
/-! PROOFS (O21). A lane whose merged add another lane's replay sends (R194). -/

namespace Sys2Proof.Words
open Sys2Proof Sys2Proof.Machine

/-- A ready thread that holds 1 in r48; a merged add that it took part in has faulted, and the replay of another lane of the group
sends the sum. -/
def sentByAnother : Thread := { Thread.gone with stat := .ready, regs := [(48, 1)], owed := some none }

/-- Lane 0 issues again the add that faulted: the thread is that one, and its team has two granules of scratchpad. -/
def replayedAdd : State :=
  { State.reset.modTeam 0 fun _ => { Team.free with live := true, allot := 3, bands := 1, scrg := 2, threads := [(0, sentByAnother)] } with
    iss := { Issue.none with who := .gang 0 0 [0] } }

/-- ATOM.ADD of r48 to the word at r32 of the scratchpad, i32, with RET = 0. -/
def addToScratch : AtomOp := ⟨48, 32, false, 1, 0, 0, false, 0⟩

theorem gang_replayedAdd : Gang replayedAdd (.atomAdd addToScratch) 0 0 [0] :=
  ⟨⟨rfl, List.pairwise_singleton _ _, rfl, rfl, by decide, by decide⟩, by decide⟩

/-- Refutes O21: a lane whose merged add has faulted in an earlier issue, and that another lane's replay answers for, sends nothing
at its own replay (R194); `Gang` does not exclude such a lane, and the statement has it send its add. -/
theorem not_atomicInstructions : ¬ Obligations.AtomicInstructions := by
  unfold Obligations.AtomicInstructions
  rintro ⟨-, -, -, hmerged, -⟩
  have h := hmerged replayedAdd 0 0 [0] (replayedAdd.nearWrite (.scr 0 0) (leBytes 4 1)) addToScratch rfl gang_replayedAdd
    ⟨_, rfl, rfl⟩
  have hscr := congrArg (fun o : Out1 => match o with | .next t => mget (t.team 0).scratch 0 | _ => 1) h
  exact absurd hscr (by decide)

end Sys2Proof.Words
end

section
/-! PROOFS (O35). Product records (R255 to R281): what a write of a bank's cells reads back, one term of a record, and the runs
that add terms or move rows one after another. -/

namespace Sys2Proof.Quilts
open Sys2Proof Sys2Proof.Machine

/-! ### Cells and banks (R255) -/

/-- A bank after a bank is changed: the one that is changed, and the others. -/
theorem bank_setBank (s : State) (cl ah c h : Nat) (f : NMap Word → NMap Word) :
    (s.setBank cl ah f).bank c h = if c = cl ∧ h = ah then f (s.bank cl ah) else s.bank c h := by
  by_cases hc : c = cl
  · subst hc
    by_cases he : h / 2 = ah / 2
    · have hah : h = ah ↔ (h % 2 = 0 ↔ ah % 2 = 0) := by omega
      simp only [State.bank, State.setBank, State.modCluster_cluster_same, Cluster.modEngine, Cluster.engine, he, nget_nmod_same,
        hah, true_and]
      by_cases h0 : h % 2 = 0 <;> by_cases h1 : ah % 2 = 0 <;> simp [h0, h1]
    · have hah : ¬h = ah := fun e => he (by rw [e])
      simp only [State.bank, State.setBank, State.modCluster_cluster_same, Cluster.modEngine, Cluster.engine,
        nget_nmod_ne _ _ _ _ _ he, hah, and_false, if_false]
  · simp only [State.bank, State.setBank, State.modCluster_cluster_ne (h := hc), hc, false_and, if_false]

@[simp] theorem bank_finishRec (s : State) (id cl ah : Nat) : (s.finishRec id).bank cl ah = s.bank cl ah := rfl

theorem bank_setBank_same (s : State) (cl ah : Nat) (f : NMap Word → NMap Word) :
    (s.setBank cl ah f).bank cl ah = f (s.bank cl ah) := by
  rw [bank_setBank, if_pos ⟨rfl, rfl⟩]

theorem bank_setBank_ne (s : State) {cl ah c h : Nat} (f : NMap Word → NMap Word) (hne : c ≠ cl ∨ h ≠ ah) :
    (s.setBank cl ah f).bank c h = s.bank c h := by
  rw [bank_setBank, if_neg (by tauto)]

/-- A cell after cells are written, where every write of it is of one word. -/
theorem cellOf_putCells {m : NMap Word} {cs : List (Nat × Nat × Word)} {i j : Nat} {v : Word} (hj : j < 64)
    (hcs : ∀ c ∈ cs, c.2.1 < 64) (hv : ∀ c ∈ cs, c.1 = i → c.2.1 = j → c.2.2 = v) :
    cellOf (putCells m cs) i j = if ∃ c ∈ cs, c.1 = i ∧ c.2.1 = j then v else cellOf m i j := by
  induction cs generalizing m with
  | nil => simp [putCells]
  | cons c r ih =>
    obtain ⟨hc, hr⟩ := List.forall_mem_cons.mp hcs
    obtain ⟨hvc, hvr⟩ := List.forall_mem_cons.mp hv
    rw [putCells, List.foldl_cons, ← putCells, ih hr hvr, cellOf, nget_nput]
    have hkey : cellKey i j = cellKey c.1 c.2.1 ↔ c.1 = i ∧ c.2.1 = j := by
      unfold cellKey
      omega
    by_cases hmem : ∃ c ∈ r, c.1 = i ∧ c.2.1 = j
    · rw [if_pos hmem, if_pos (by obtain ⟨d, hd, he⟩ := hmem; exact ⟨d, List.mem_cons_of_mem _ hd, he⟩)]
    · by_cases hhd : c.1 = i ∧ c.2.1 = j
      · rw [if_neg hmem, if_pos (hkey.mpr hhd), if_pos ⟨c, List.mem_cons_self, hhd⟩, hvc hhd.1 hhd.2]
      · rw [if_neg hmem, if_neg (mt hkey.mp hhd), if_neg]
        · rfl
        · rintro ⟨d, hd, he⟩
          obtain rfl | hd := List.mem_cons.mp hd
          · exact hhd he
          · exact hmem ⟨d, hd, he⟩

/-- The cells of a grid that a term changes: `val` says what row i and column j receive. -/
def gridCells {α β γ : Type} (xs : List α) (ys : List β) (val : Nat × α → Nat × β → γ) : List (Nat × Nat × γ) :=
  (indexed xs).flatMap fun x => (indexed ys).map fun y => (x.1, y.1, val x y)

theorem mem_gridCells {α β γ : Type} {xs : List α} {ys : List β} {val : Nat × α → Nat × β → γ}
    {c : Nat × Nat × γ} : c ∈ gridCells xs ys val ↔
      ∃ a b, xs[c.1]? = some a ∧ ys[c.2.1]? = some b ∧ c.2.2 = val (c.1, a) (c.2.1, b) := by
  obtain ⟨i, j, v⟩ := c
  simp only [gridCells, List.mem_flatMap, List.mem_map, Prod.exists, Words.mem_indexed_iff, Prod.mk.injEq]
  constructor
  · rintro ⟨i', a, ha, j', b, hb, rfl, rfl, rfl⟩
    exact ⟨a, b, ha, hb, rfl⟩
  · rintro ⟨a, b, ha, hb, rfl⟩
    exact ⟨i, a, ha, j, b, hb, rfl, rfl, rfl⟩

theorem map_gridCells {α β γ δ : Type} (xs : List α) (ys : List β) (val : Nat × α → Nat × β → γ) (f : γ → δ) :
    ((gridCells xs ys val).map fun c => (c.1, c.2.1, f c.2.2)) = gridCells xs ys fun x y => f (val x y) := by
  simp only [gridCells, List.map_flatMap, List.map_map, Function.comp_def]

section
variable {α β : Type} {m : NMap Word} {xs : List α} {ys : List β} {val : Nat × α → Nat × β → Word} {i j : Nat}

theorem gridCells_lt (hys : ys.length ≤ 64) : ∀ c ∈ gridCells xs ys val, c.2.1 < 64 := by
  intro c hc
  obtain ⟨a, b, -, hb, -⟩ := mem_gridCells.mp hc
  have := (List.getElem?_eq_some_iff.mp hb).1
  omega

theorem cellOf_putGrid_in {a : α} {b : β} (hys : ys.length ≤ 64) (ha : xs[i]? = some a) (hb : ys[j]? = some b) :
    cellOf (putCells m (gridCells xs ys val)) i j = val (i, a) (j, b) := by
  have hj : j < ys.length := (List.getElem?_eq_some_iff.mp hb).1
  have hv : ∀ c ∈ gridCells xs ys val, c.1 = i → c.2.1 = j → c.2.2 = val (i, a) (j, b) := by
    rintro ⟨_, _, v⟩ hc rfl rfl
    obtain ⟨a', b', ha', hb', hval⟩ := mem_gridCells.mp hc
    obtain rfl : a = a' := Option.some.inj (ha.symm.trans ha')
    obtain rfl : b = b' := Option.some.inj (hb.symm.trans hb')
    exact hval
  rw [cellOf_putCells (by omega) (gridCells_lt hys) hv,
    if_pos ⟨(i, j, val (i, a) (j, b)), mem_gridCells.mpr ⟨a, b, ha, hb, rfl⟩, rfl, rfl⟩]

theorem cellOf_putGrid_out (hys : ys.length ≤ 64) (hj : j < 64) (hout : xs.length ≤ i ∨ ys.length ≤ j) :
    cellOf (putCells m (gridCells xs ys val)) i j = cellOf m i j := by
  have hno : ∀ c ∈ gridCells xs ys val, c.1 = i → c.2.1 = j → False := by
    rintro ⟨_, _, v⟩ hc rfl rfl
    obtain ⟨a, b, ha, hb, -⟩ := mem_gridCells.mp hc
    have hi := (List.getElem?_eq_some_iff.mp ha).1
    have hj := (List.getElem?_eq_some_iff.mp hb).1
    omega
  rw [cellOf_putCells (v := 0) hj (gridCells_lt hys) fun c hc hi hj => (hno c hc hi hj).elim,
    if_neg fun ⟨c, hc, hi, hj⟩ => hno c hc hi hj]

end

theorem mem_cellsOf {m n : Nat} {c : Nat × Nat} : c ∈ cellsOf m n ↔ c.1 < m ∧ c.2 < n := by
  obtain ⟨i, j⟩ := c
  simp [cellsOf]

/-- The cells of a block of n columns from c0 on, each written with its word. -/
theorem cellOf_putBlock {acc : NMap Word} {m n c0 i j : Nat} (v : Nat → Nat → Word) (hn : c0 + n ≤ 64) (hj : j < 64) :
    cellOf (putCells acc ((cellsOf m n).map fun c => (c.1, c0 + c.2, v c.1 c.2))) i j =
      if i < m ∧ c0 ≤ j ∧ j < c0 + n then v i (j - c0) else cellOf acc i j := by
  have hlt : ∀ c ∈ (cellsOf m n).map fun c => (c.1, c0 + c.2, v c.1 c.2), c.2.1 < 64 := by
    intro c hc
    obtain ⟨d, hd, rfl⟩ := List.mem_map.mp hc
    have := (mem_cellsOf.mp hd).2
    show c0 + d.2 < 64
    omega
  have hv : ∀ c ∈ (cellsOf m n).map fun c => (c.1, c0 + c.2, v c.1 c.2), c.1 = i → c.2.1 = j → c.2.2 = v i (j - c0) := by
    intro c hc hi hj
    obtain ⟨d, -, rfl⟩ := List.mem_map.mp hc
    obtain rfl : d.1 = i := hi
    obtain rfl : c0 + d.2 = j := hj
    rw [Nat.add_sub_cancel_left]
  rw [cellOf_putCells hj hlt hv]
  refine if_congr ⟨?_, ?_⟩ rfl rfl
  · rintro ⟨c, hc, hi, hj⟩
    obtain ⟨d, hd, rfl⟩ := List.mem_map.mp hc
    obtain ⟨h1, h2⟩ := mem_cellsOf.mp hd
    obtain rfl : d.1 = i := hi
    obtain rfl : c0 + d.2 = j := hj
    omega
  · rintro ⟨hi, hlo, hhi⟩
    exact ⟨_, List.mem_map.mpr ⟨(i, j - c0), mem_cellsOf.mpr ⟨hi, by simp only; omega⟩, rfl⟩, rfl,
      by simp only; omega⟩

theorem cellOf_putZeros {acc : NMap Word} {m n i j : Nat} (hn : n ≤ 64) (hj : j < 64) :
    cellOf (putCells acc ((cellsOf m n).map fun c => (c.1, c.2, 0))) i j = if i < m ∧ j < n then 0 else cellOf acc i j := by
  have h := cellOf_putBlock (acc := acc) (m := m) (n := n) (c0 := 0) (i := i) (fun _ _ => 0) (by omega) hj
  simpa only [Nat.zero_add, Nat.zero_le, true_and] using h

/-! ### Reading operands -/

theorem readEach_length {α β : Type} {f : State → α → Except Flt (State × β)} {l : List α} {s t : State} {vs : List β}
    (h : readEach f s l = .ok (t, vs)) : vs.length = l.length := by
  induction l generalizing s vs with
  | nil => cases h; rfl
  | cons x r ih =>
    simp only [readEach] at h
    split at h
    · cases h
    · split at h
      · cases h
      next hr => cases h; rw [List.length_cons, List.length_cons, ih hr]

theorem readEach_map {α β γ : Type} (f : State → β → Except Flt (State × γ)) (g : α → β) (l : List α) (s : State) :
    readEach f s (l.map g) = readEach (fun s x => f s (g x)) s l := by
  induction l generalizing s with
  | nil => rfl
  | cons x r ih =>
    simp only [List.map_cons, readEach, ih]

theorem getElem?_eq_some_getD {α : Type} {l : List α} {i : Nat} (d : α) (h : i < l.length) : l[i]? = some (l.getD i d) := by
  rw [List.getElem?_eq_getElem h, List.getD_eq_getElem l d h]

/-! ### One term -/

/-- What a term of a record leaves alone: all but the cells of its bank, and its flags and progress. -/
theorem applyTerm_frame (w : State) (r : Rec) (cs : List (Nat × Nat × Word × BitVec 5)) :
    (w.applyTerm r cs = { w with clusters := (w.applyTerm r cs).clusters, records := (w.applyTerm r cs).records }) ∧
    (∃ g : BitVec 5 → BitVec 5, (w.applyTerm r cs).records = w.records.map fun y => if y.id = r.id then
      { y with progress := y.progress + 1, flags := g y.flags } else y) ∧
    (w.applyTerm r cs).bank r.cluster r.ah = putCells (w.bank r.cluster r.ah) (cs.map fun c => (c.1, c.2.1, c.2.2.1)) ∧
    ∀ c h, c ≠ r.cluster ∨ h ≠ r.ah → (w.applyTerm r cs).bank c h = w.bank c h := by
  have hbank (c h : Nat) : (w.applyTerm r cs).bank c h =
      (w.setBank r.cluster r.ah fun m => putCells m (cs.map fun c => (c.1, c.2.1, c.2.2.1))).bank c h := rfl
  refine ⟨rfl, ⟨fun f => cs.foldl (fun f c => f ||| c.2.2.2) f, rfl⟩, ?_, fun c h hne => ?_⟩
  · rw [hbank, bank_setBank_same]
  · rw [hbank, bank_setBank_ne w _ hne]

/-- A term that changes the whole region: its frame, the cells of the region, and the cells outside. -/
theorem applyTerm_grid {α β : Type} (w : State) (r : Rec) {xs : List α} {ys : List β}
    (val : Nat × α → Nat × β → Word × BitVec 5) (da : α) (db : β) (hxs : xs.length = r.m) (hys : ys.length = r.cols)
    (h64 : r.cols ≤ 64) :
    let x := w.applyTerm r (gridCells xs ys val)
    x = { w with clusters := x.clusters, records := x.records } ∧
    (∃ g : BitVec 5 → BitVec 5, x.records = w.records.map fun y => if y.id = r.id then
      { y with progress := y.progress + 1, flags := g y.flags } else y) ∧
    (∀ i j, i < r.m → j < r.cols → cellOf (x.bank r.cluster r.ah) i j = (val (i, xs.getD i da) (j, ys.getD j db)).1) ∧
    (∀ i j, j < 64 → (r.m ≤ i ∨ r.cols ≤ j) → cellOf (x.bank r.cluster r.ah) i j = cellOf (w.bank r.cluster r.ah) i j) ∧
    ∀ c h, c ≠ r.cluster ∨ h ≠ r.ah → x.bank c h = w.bank c h := by
  obtain ⟨hframe, hrecs, hbank, hbanks⟩ := applyTerm_frame w r (gridCells xs ys val)
  refine ⟨hframe, hrecs, ?_, ?_, hbanks⟩ <;> rw [hbank, map_gridCells]
  · intro i j hi hj
    have hx : xs[i]? = some (xs.getD i da) := getElem?_eq_some_getD da (hxs ▸ hi)
    have hy : ys[j]? = some (ys.getD j db) := getElem?_eq_some_getD db (hys ▸ hj)
    exact cellOf_putGrid_in (by omega) hx hy
  · exact fun i j hj hout => cellOf_putGrid_out (by omega) hj (by omega)

theorem qmmaTerm_elem {u v w : State} {r : Rec} {t : Nat} {xs ys : List (List Nat)} (hbfp : r.opA.isBfp = false)
    (hxs : readEach (fun s i => readEach (r.elem r.opA) s ((termKs r.opA.code r.k t).map fun k => (i, k))) u (List.range r.m) =
      .ok (v, xs))
    (hys : readEach (fun s j => readEach (r.elem r.opB) s ((termKs r.opA.code r.k t).map fun k => (j, k))) v (List.range r.cols) =
      .ok (w, ys)) :
    u.qmmaTerm r t = .ok (w.applyTerm r (gridCells xs ys fun x y =>
      elemTerm r.opA.code (cellOf (w.bank r.cluster r.ah) x.1 y.1) x.2 y.2)) := by
  simp only [State.qmmaTerm, hbfp, Bool.false_eq_true, if_false, hxs, hys]
  rfl

theorem qmmaTerm_bfp {u v w : State} {r : Rec} {t : Nat} {xs ys : List (Nat × Nat)} (hbfp : r.opA.isBfp = true)
    (hxs : readEach (r.block r.opA) u ((List.range r.m).map fun i => (i, t)) = .ok (v, xs))
    (hys : readEach (r.block r.opB) v ((List.range r.cols).map fun j => (j, t)) = .ok (w, ys)) :
    u.qmmaTerm r t = .ok (w.applyTerm r (gridCells xs ys fun x y =>
      addTerm (cellOf (w.bank r.cluster r.ah) x.1 y.1) (bfpTerm r.opA.mw r.opB.mw x.2 y.2))) := by
  simp only [State.qmmaTerm, hbfp, if_true, hxs, hys]
  rfl

/-- The cells of one row that a term changes. -/
def rowCells {β γ : Type} (i0 : Nat) (ys : List β) (val : Nat → β → γ) : List (Nat × Nat × γ) :=
  (indexed ys).map fun y => (i0, y.1, val y.1 y.2)

theorem mem_rowCells {β γ : Type} {i0 : Nat} {ys : List β} {val : Nat → β → γ} {c : Nat × Nat × γ} :
    c ∈ rowCells i0 ys val ↔ c.1 = i0 ∧ ∃ b, ys[c.2.1]? = some b ∧ c.2.2 = val c.2.1 b := by
  obtain ⟨i, j, v⟩ := c
  simp only [rowCells, List.mem_map, Prod.exists, Words.mem_indexed_iff, Prod.mk.injEq]
  constructor
  · rintro ⟨j', b, hb, rfl, rfl, rfl⟩
    exact ⟨rfl, b, hb, rfl⟩
  · rintro ⟨rfl, b, hb, rfl⟩
    exact ⟨j, b, hb, rfl, rfl, rfl⟩

theorem map_rowCells {β γ δ : Type} (i0 : Nat) (ys : List β) (val : Nat → β → γ) (f : γ → δ) :
    ((rowCells i0 ys val).map fun c => (c.1, c.2.1, f c.2.2)) = rowCells i0 ys fun j b => f (val j b) := by
  simp only [rowCells, List.map_map, Function.comp_def]

/-- The cells after a term that changes one row. -/
theorem applyTerm_row {β : Type} (w : State) (r : Rec) {ys : List β} (i0 : Nat) (val : Nat → β → Word × BitVec 5)
    (db : β) (hys : ys.length = r.cols) (h64 : r.cols ≤ 64) :
    (∀ j, j < r.cols → cellOf ((w.applyTerm r (rowCells i0 ys val)).bank r.cluster r.ah) i0 j = (val j (ys.getD j db)).1) ∧
    ∀ i j, j < 64 → (i ≠ i0 ∨ r.cols ≤ j) →
      cellOf ((w.applyTerm r (rowCells i0 ys val)).bank r.cluster r.ah) i j = cellOf (w.bank r.cluster r.ah) i j := by
  obtain ⟨-, -, hbank, -⟩ := applyTerm_frame w r (rowCells i0 ys val)
  rw [hbank, map_rowCells]
  have hmem : ∀ c ∈ rowCells i0 ys fun j b => (val j b).1,
      c.1 = i0 ∧ c.2.1 < r.cols ∧ c.2.2 = (val c.2.1 (ys.getD c.2.1 db)).1 := by
    intro c hc
    obtain ⟨hi, b, hb, hval⟩ := mem_rowCells.mp hc
    exact ⟨hi, hys ▸ (List.getElem?_eq_some_iff.mp hb).1, by rw [hval, List.getD_eq_getElem?_getD, hb, Option.getD_some]⟩
  have hlt : ∀ c ∈ rowCells i0 ys fun j b => (val j b).1, c.2.1 < 64 := fun c hc => (hmem c hc).2.1.trans_le h64
  refine ⟨fun j hj => ?_, fun i j hj hout => ?_⟩
  · have hy : ys[j]? = some (ys.getD j db) := getElem?_eq_some_getD db (hys ▸ hj)
    have hv : ∀ c ∈ rowCells i0 ys fun j b => (val j b).1, c.1 = i0 → c.2.1 = j → c.2.2 = (val j (ys.getD j db)).1 := by
      rintro c hc - rfl
      exact (hmem c hc).2.2
    rw [cellOf_putCells (by omega) hlt hv, if_pos]
    exact ⟨(i0, j, (val j (ys.getD j db)).1), mem_rowCells.mpr ⟨rfl, _, hy, rfl⟩, rfl, rfl⟩
  · have hno : ∀ c ∈ rowCells i0 ys fun j b => (val j b).1, c.1 = i → c.2.1 = j → False := by
      intro c hc hi hcj
      obtain ⟨h0, hn, -⟩ := hmem c hc
      omega
    rw [cellOf_putCells (v := 0) hj hlt fun c hc hi hcj => (hno c hc hi hcj).elim,
      if_neg fun ⟨c, hc, hi, hcj⟩ => hno c hc hi hcj]

theorem qspmmTerm_eq {u v w : State} {r : Rec} {t : Nat × List (Nat × Nat)} {xs : List Nat} {ys : List (List Nat)}
    (hxs : readEach r.sparseVal u (t.2.map (·.2)) = .ok (v, xs))
    (hys : readEach (fun s j => readEach (r.elem r.opB) s (t.2.map fun g => (j, g.1))) v (List.range r.cols) = .ok (w, ys)) :
    u.qspmmTerm r t = .ok (w.applyTerm r (rowCells t.1 ys fun j y =>
      elemTerm r.opB.code (cellOf (w.bank r.cluster r.ah) t.1 j) xs y)) := by
  simp only [State.qspmmTerm, hxs, hys]
  rfl

/-! ### Runs -/

section
variable {α : Type} {s v : State} {r : Rec} {f : State → α → Except Flt State} {t : α} {ts : List α}

theorem runTerm_ok (h : f s t = .ok v) : s.runTerm r f (t :: ts) = if ts = [] then v.finishRec r.id else v := by
  simp only [State.runTerm, h, List.isEmpty_iff]

theorem runTerm_error {e : Flt} (h : f s t = .error e) : s.runTerm r f (t :: ts) = s.parkRec r e := by
  simp only [State.runTerm, h]

end

theorem rangeFrom_of_lt {p n : Nat} (h : p < n) : rangeFrom p (n - p) = p :: rangeFrom (p + 1) (n - (p + 1)) := by
  have hn : n - p = n - (p + 1) + 1 := by omega
  rw [rangeFrom, hn, List.range_succ_eq_map, List.map_cons, List.map_map, Nat.zero_add]
  refine congrArg (p :: ·) (List.map_congr_left fun k _ => ?_)
  simp only [Function.comp_apply]
  omega

theorem rangeFrom_eq_nil {p n : Nat} : rangeFrom p n = [] ↔ n = 0 := by
  rw [rangeFrom, List.map_eq_nil_iff, List.range_eq_nil]

section
variable {s v : State} {r : Rec} {f : State → Nat → Except Flt State} {n : Nat}

/-- A record of n terms that are numbered: the next one is done, and after the last the record is finished. -/
theorem runTerm_range_ok (hp : r.progress < n) (h : f s r.progress = .ok v) :
    s.runTerm r f (rangeFrom r.progress (n - r.progress)) = if n = r.progress + 1 then v.finishRec r.id else v := by
  rw [rangeFrom_of_lt hp, runTerm_ok h]
  exact if_congr (by rw [rangeFrom_eq_nil]; omega) rfl rfl

theorem runTerm_range_error {e : Flt} (hp : r.progress < n) (h : f s r.progress = .error e) :
    s.runTerm r f (rangeFrom r.progress (n - r.progress)) = s.parkRec r e := by
  rw [rangeFrom_of_lt hp, runTerm_error h]

theorem runTerm_range_done (hp : n ≤ r.progress) :
    s.runTerm r f (rangeFrom r.progress (n - r.progress)) = s.finishRec r.id := by
  rw [rangeFrom_eq_nil.mpr (by omega)]
  rfl

end

/-- The region's cells set to +0. -/
def zeroedRegion (s : State) (r : Rec) : State :=
  s.setBank r.cluster r.ah fun m => putCells m ((cellsOf r.m r.cols).map fun c => (c.1, c.2, 0))

theorem zeroFirst_eq (s : State) (r : Rec) :
    s.zeroFirst r = if r.n 1 1 / 8 % 2 = 1 ∧ r.progress = 0 then zeroedRegion s r else s := by
  rw [State.zeroFirst]
  exact if_congr (by simp [bits]) rfl rfl

theorem zeroLast_eq (s : State) (r : Rec) : s.zeroLast r =
    if r.n 1 1 / 8 % 2 = 1 ∧ ∃ x ∈ s.records, x.id = r.id ∧ x.finished = true then zeroedRegion s r else s := by
  rw [State.zeroLast]
  exact if_congr (by simp [bits]) rfl rfl

/-! ### Block terms (R126, R270) -/

theorem sgn_bits (v lo len : Nat) : sgn (bits v lo len) len = (BitVec.ofNat len (v / 2 ^ lo)).toInt := by
  rw [Integers.sgn_eq_toInt, bits]
  congr 1
  apply BitVec.eq_of_toNat_eq
  simp only [BitVec.toNat_ofNat, Nat.mod_mod]

theorem sign_natAbs (p : Int) : (if decide (p < 0) then -(p.natAbs : Int) else p.natAbs) = p := by
  by_cases hp : p < 0
  · rw [if_pos (decide_eq_true hp)]; omega
  · rw [if_neg (by simpa using hp)]; omega

theorem bfpTerm_spec (ma mb : Nat) (a b : Nat × Nat) :
    (a.2 = 255 ∨ b.2 = 255 → (bfpTerm ma mb a b).1.isNan = true ∧ (bfpTerm ma mb a b).2 = 0) ∧
    (a.2 ≠ 255 → b.2 ≠ 255 → (a.2 = 0 ∨ b.2 = 0) → bfpTerm ma mb a b = (.fin false 0 0, 0)) ∧
    (0 < a.2 → a.2 < 255 → 0 < b.2 → b.2 < 255 → 0 < ma → 0 < mb → ∃ sg m e, bfpTerm ma mb a b = (.fin sg m e, 0) ∧
      e = ((a.2 : Int) - 127 - (ma - 1)) + ((b.2 : Int) - 127 - (mb - 1)) ∧
      (if sg then -(m : Int) else m) = ((List.range 32).map fun k => (BitVec.ofNat ma (a.1 / 2 ^ (ma * k))).toInt *
        (BitVec.ofNat mb (b.1 / 2 ^ (mb * k))).toInt).sum) := by
  refine ⟨fun h => ?_, fun ha hb h => ?_, fun ha ha' hb hb' hma hmb => ?_⟩
  · rw [bfpTerm, if_pos (by simpa using h)]
    exact ⟨rfl, rfl⟩
  · rw [bfpTerm, if_neg (by simp [ha, hb]), if_pos (by simpa using h)]
  · rw [bfpTerm, if_neg (by simp; omega), if_neg (by simp; omega)]
    refine ⟨_, _, _, rfl, by omega, ?_⟩
    simp only [sgn_bits]
    exact sign_natAbs _

/-! ### Blocks (R127, R264, R266) -/

theorem block_scratch {s u v : State} {r : Rec} {o : Opnd} {row q : Nat} {bs : List (List Byte)} {e : List Byte}
    (hsrc : o.src = 2)
    (hbs : readEach (fun s (i : Nat) => r.read s (r.rowByte o (q / o.pwb) row (o.rowBytes o.pwb) (q % o.pwb * 4 * o.mw + i)) 1) s
      (List.range (4 * o.mw)) = .ok (u, bs))
    (he : r.read u (r.rowByte o (q / o.pwb) row (o.rowBytes o.pwb) (o.pwb * 4 * o.mw + q % o.pwb)) 1 = .ok (v, e)) :
    r.block o s (row, q) = .ok (v, leNat bs.flatten, leNat e) := by
  simp only [Rec.block, hsrc, if_true, readEach_map, hbs, he]

theorem block_tensor {s u v : State} {r : Rec} {o : Opnd} {row q j : Nat} {bs : List (List Byte)} {e : List Byte}
    (hsrc : o.src = 3) (hj : j = tidElem o.tid (o.o 0 + 32 * q) (o.o 1 + row) (o.o 2) (o.o 3))
    (hbs : readEach (fun s (i : Nat) => r.read s (.glob (tidBase o.tid + j / 32 * 4 * o.mw + 4 * i)) 4) s (List.range o.mw) =
      .ok (u, bs))
    (he : r.scaleByte u (tidSbase o.tid + j / 2 ^ tidShift o.tid) = .ok (v, e)) :
    r.block o s (row, q) = .ok (v, leNat bs.flatten, leNat e) := by
  subst hj
  have hne : ¬o.src = 2 := by omega
  simp only [Rec.block, hne, if_false, readEach_map, hbs, he]

/-! ### Read-back (R280) -/

/-- One thread's turn of a read-back: a live thread receives its row. -/
def readBack (acc : NMap Word) (a : Opnd) (tk : Nat) (s : State) (i : Nat) : State :=
  if ((s.team tk).thread i).isLive then
    s.modThread tk i fun t => t.setGs a.rf ((List.range a.w).map fun w => cellOf acc (i % 64) (a.c0 + w))
  else s

theorem readBack_teams (acc : NMap Word) (a : Opnd) (tk : Nat) (s : State) (i : Nat) :
    readBack acc a tk s i = { s with teams := (readBack acc a tk s i).teams } := by
  unfold readBack
  split <;> rfl

theorem thread_modThread (s : State) (k i j : Nat) (f : Thread → Thread) :
    (s.modThread k i f).thread k j = if j = i then f (s.thread k j) else s.thread k j := by
  rw [State.modThread, State.thread, State.modTeam_team_same, Team.modThread_thread]
  rfl

theorem foldl_readBack_teams (acc : NMap Word) (a : Opnd) (tk : Nat) (is : List Nat) (s : State) :
    is.foldl (readBack acc a tk) s = { s with teams := (is.foldl (readBack acc a tk) s).teams } := by
  induction is generalizing s with
  | nil => rfl
  | cons i r ih => rw [List.foldl_cons, ih, readBack_teams]

/-- Each thread of the list that is live receives its row, once. -/
theorem foldl_readBack_thread (acc : NMap Word) (a : Opnd) (tk : Nat) {is : List Nat} (hnd : is.Nodup) (s : State) (i : Nat) :
    (is.foldl (readBack acc a tk) s).thread tk i = if i ∈ is ∧ (s.thread tk i).isLive = true then
      (s.thread tk i).setGs a.rf ((List.range a.w).map fun w => cellOf acc (i % 64) (a.c0 + w)) else s.thread tk i := by
  induction is generalizing s with
  | nil => simp
  | cons j r ih =>
    obtain ⟨hj, hr⟩ := List.nodup_cons.mp hnd
    have hturn : (readBack acc a tk s j).thread tk i = if i = j ∧ (s.thread tk i).isLive = true then
        (s.thread tk i).setGs a.rf ((List.range a.w).map fun w => cellOf acc (i % 64) (a.c0 + w)) else s.thread tk i := by
      unfold readBack
      by_cases hij : i = j
      · subst hij
        change (if (s.thread tk i).isLive = true then _ else s).thread tk i = _
        by_cases hl : (s.thread tk i).isLive = true
        · rw [if_pos hl, if_pos ⟨rfl, hl⟩, thread_modThread, if_pos rfl]
        · rw [if_neg hl, if_neg fun h => hl h.2]
      · have hno : ¬(i = j ∧ (s.thread tk i).isLive = true) := fun h => hij h.1
        rw [if_neg hno]
        split
        · rw [thread_modThread, if_neg hij]
        · rfl
    rw [List.foldl_cons, ih hr, hturn]
    by_cases hij : i = j
    · subst hij
      simp [hj]
    · simp [hij]

theorem length_row (acc : NMap Word) (a : Opnd) (i : Nat) :
    ((List.range a.w).map fun w => cellOf acc (i % 64) (a.c0 + w)).length = a.w := by
  rw [List.length_map, List.length_range]

/-- The registers of a thread that has received its row. -/
theorem setGs_row (t : Thread) (acc : NMap Word) (a : Opnd) (i n : Nat) :
    (t.setGs a.rf ((List.range a.w).map fun w => cellOf acc (i % 64) (a.c0 + w))).g n =
      (if a.rf ≤ n ∧ n < a.rf + a.w then cellOf acc (i % 64) (a.c0 + (n - a.rf)) else t.g n) ∧
    (t.setGs a.rf ((List.range a.w).map fun w => cellOf acc (i % 64) (a.c0 + w))).full n =
      (decide (a.rf ≤ n ∧ n < a.rf + a.w) || t.full n) := by
  have h := (Words.setGs_spec t a.rf ((List.range a.w).map fun w => cellOf acc (i % 64) (a.c0 + w))).2 n
  simp only [length_row] at h
  by_cases hn : a.rf ≤ n ∧ n < a.rf + a.w
  · rw [dif_pos hn] at h
    rw [if_pos hn, h.1, h.2, List.getElem_map, List.getElem_range, decide_eq_true hn, Bool.true_or]
    exact ⟨rfl, rfl⟩
  · rw [dif_neg hn] at h
    rw [if_neg hn, decide_eq_false hn, Bool.false_or]
    exact h

/-! ### The steps of the engines -/

theorem exec_run {i : Instr} {s : State} {cl k : Nat} {sel : Rec → Bool} {g : State × Rec → State} {x : State × Rec}
    (hx : exec i s = .next (((s.runnable cl k sel).map g).getD s)) (h : s.runnable cl k sel = some x) :
    exec i s = .next (g x) := by
  rw [hx, h]
  rfl

section
variable {s u : State} {cl k : Nat} {r : Rec}

theorem exec_qmmaRun (h : s.runnable cl k (fun r => r.kind == 1) = some (u, r)) : exec (.qmmaRun cl k) s =
    .next ((u.zeroFirst r).runTerm r (fun s t => s.qmmaTerm r t) (rangeFrom r.progress (r.terms - r.progress))) :=
  (exec_run rfl h).trans rfl

theorem exec_qspmmRun (h : s.runnable cl k (fun r => r.kind == 2) = some (u, r)) : exec (.qspmmRun cl k) s =
    .next ((u.zeroFirst r).runTerm r (fun s t => s.qspmmTerm r t) (r.sparseTerms.drop r.progress)) :=
  (exec_run rfl h).trans rfl

theorem exec_qaccZero (h : s.runnable cl k (Rec.isAcc 0) = some (u, r)) : exec (.qaccZero cl k) s =
    .next ((u.setBank cl r.ah fun m => putCells m ((cellsOf r.m r.cols).map fun c => (c.1, c.2, 0))).finishRec r.id) :=
  (exec_run rfl h).trans rfl

theorem exec_qaccRead {tk : Nat} (h : s.runnable cl k (Rec.isAcc 1) = some (u, r)) (ht : r.team = some tk) :
    exec (.qaccRead cl k) s = .next ((r.regThr.foldl (readBack (u.bank cl r.ah) r.opA tk) u).finishRec r.id) := by
  refine (exec_run rfl h).trans ?_
  simp only [ht]
  rfl

theorem exec_qaccWrite (h : s.runnable cl k (Rec.isAcc 2) = some (u, r)) : exec (.qaccWrite cl k) s =
    .next ((u.setBank cl r.ah fun m => putCells m ((cellsOf r.m r.opA.w).map fun c =>
      (c.1, r.opA.c0 + c.2, (r.opA.cap.getD c.1 []).getD c.2 0))).finishRec r.id) :=
  (exec_run rfl h).trans rfl

/-- One row of a store. -/
def storeRow (r : Rec) (acc : NMap Word) (s : State) (i : Nat) : Except Flt State :=
  match r.writeEach s ((List.range r.cols).map fun j => (r.cellLoc r.opA i j, leBytes 4 (cellOf acc i j).toNat)) with
  | .error f => .error f
  | .ok s => .ok (s.rowDone r.id)

theorem storeRow_ok {acc : NMap Word} {i : Nat} {v : State} (h : r.writeEach s ((List.range r.cols).map fun j =>
    (r.cellLoc r.opA i j, leBytes 4 (cellOf acc i j).toNat)) = .ok v) : storeRow r acc s i = .ok (v.rowDone r.id) := by
  rw [storeRow, h]

theorem storeRow_error {acc : NMap Word} {i : Nat} {f : Flt} (h : r.writeEach s ((List.range r.cols).map fun j =>
    (r.cellLoc r.opA i j, leBytes 4 (cellOf acc i j).toNat)) = .error f) : storeRow r acc s i = .error f := by
  rw [storeRow, h]

theorem exec_qaccStore (h : s.runnable cl k (Rec.isAcc 3) = some (u, r)) : exec (.qaccStore cl k) s =
    .next (u.runTerm r (storeRow r (u.bank cl r.ah)) (rangeFrom r.progress (r.m - r.progress))) :=
  (exec_run rfl h).trans rfl

/-- One row of a load. -/
def loadRow (r : Rec) (cl : Nat) (s : State) (i : Nat) : Except Flt State :=
  match readEach (fun s j => r.read s (r.cellLoc r.opA i j) 4) s (List.range r.cols) with
  | .error f => .error f
  | .ok (s, vs) => .ok ((s.setBank cl r.ah fun m => putCells m ((indexed vs).map fun v =>
      (i, v.1, BitVec.ofNat 32 (leNat v.2)))).rowDone r.id)

theorem loadRow_ok {i : Nat} {v : State} {bs : List (List Byte)}
    (h : readEach (fun s j => r.read s (r.cellLoc r.opA i j) 4) s (List.range r.cols) = .ok (v, bs)) :
    loadRow r cl s i = .ok ((v.setBank cl r.ah fun m => putCells m ((indexed bs).map fun x =>
      (i, x.1, BitVec.ofNat 32 (leNat x.2)))).rowDone r.id) := by
  rw [loadRow, h]

theorem loadRow_error {i : Nat} {f : Flt}
    (h : readEach (fun s j => r.read s (r.cellLoc r.opA i j) 4) s (List.range r.cols) = .error f) :
    loadRow r cl s i = .error f := by
  rw [loadRow, h]

theorem exec_qaccLoad (h : s.runnable cl k (Rec.isAcc 4) = some (u, r)) : exec (.qaccLoad cl k) s =
    .next (u.runTerm r (loadRow r cl) (rangeFrom r.progress (r.m - r.progress))) :=
  (exec_run rfl h).trans rfl

/-- One row of a conversion. -/
def cvtOneRow (r : Rec) (acc : NMap Word) (s : State) (i : Nat) : Except Flt State :=
  match r.writeEach s (r.cvtRow acc i).1 with
  | .error f => .error f
  | .ok s => .ok ((s.modRec r.id fun y => { y with flags := y.flags ||| (r.cvtRow acc i).2 }).rowDone r.id)

theorem cvtOneRow_ok {acc : NMap Word} {i : Nat} {v : State} (h : r.writeEach s (r.cvtRow acc i).1 = .ok v) :
    cvtOneRow r acc s i = .ok ((v.modRec r.id fun y => { y with flags := y.flags ||| (r.cvtRow acc i).2 }).rowDone r.id) := by
  rw [cvtOneRow, h]

theorem cvtOneRow_error {acc : NMap Word} {i : Nat} {f : Flt} (h : r.writeEach s (r.cvtRow acc i).1 = .error f) :
    cvtOneRow r acc s i = .error f := by
  rw [cvtOneRow, h]

theorem exec_qcvtRun (h : s.runnable cl k (fun r => r.kind == 4) = some (u, r)) : exec (.qcvtRun cl k) s =
    .next ((u.runTerm r (cvtOneRow r (u.bank cl r.ah)) (rangeFrom r.progress (r.m - r.progress))).zeroLast r) :=
  (exec_run rfl h).trans rfl

end

theorem indexed_map {α β : Type} (f : α → β) (l : List α) : indexed (l.map f) = (indexed l).map fun x => (x.1, f x.2) := by
  rw [indexed, indexed, List.length_map, List.zip_map_right]
  rfl

/-- The writes of a row of f32 cells. -/
theorem cvtRow_f32 {r : Rec} {acc : NMap Word} {i : Nat} (hcode : r.opA.code = 0) (hbfp : r.opA.isBfp = false) :
    (r.cvtRow acc i).1 = (indexed ((List.range r.cols).map fun j => (scaleCell (cellOf acc i j).toNat (r.n 0xC 4)).1)).map
      fun c => (r.cellLoc r.opA i c.1, leBytes 4 c.2) := by
  have hsize : r.opA.size = 4 := by rw [Opnd.size, if_pos hcode]
  simp only [Rec.cvtRow, hbfp, hcode, hsize, if_true, Bool.false_eq_true, if_false, indexed_map, List.map_map, Function.comp_def]

/-- Settles O35: a run is the spec of its first open term or row, and a term is the cells it puts into the bank of its record. -/
theorem productRuns : Obligations.ProductRuns := by
  unfold Obligations.ProductRuns
  intro zeroed first fin counted
  have hfirst (s : State) (r : Rec) : s.zeroFirst r = first s r := zeroFirst_eq s r
  refine ⟨fun s cl k u r hrun => ?_, fun u r t v xs w ys hbfp h64 hxs hys => ?_, fun u r t v xs w ys hbfp h64 hxs hys => ?_,
    bfpTerm_spec, fun _ _ => rfl, fun s r o row q u bs v e hsrc hbs he => block_scratch hsrc hbs he,
    fun s r o row q u bs v e hsrc => fun hbs he => block_tensor hsrc rfl hbs he,
    fun s r o row k hsrc => ?_, fun _ _ _ => rfl, fun code k t hcode => ?_, fun s cl k u r hrun => ?_,
    fun u r t v xs w ys h64 hxs hys => ?_, fun s cl k u r hrun h64 hcl => ?_, fun s cl k u r tk hrun ht hnd => ?_,
    fun s cl k u r hrun h64 hcl => ?_, fun s cl k u r hrun hlt => ?_, fun s cl k u r hrun hlt => ?_, fun s cl k u r hrun hlt => ?_,
    zeroLast_eq, fun r acc i => cvtRow_f32⟩
  · rw [exec_qmmaRun hrun, hfirst]
    exact ⟨fun hdone => by rw [runTerm_range_done hdone]; rfl, fun hlt => ⟨fun v hv => by rw [runTerm_range_ok hlt hv]; rfl,
      fun f hf => by rw [runTerm_range_error hlt hf]⟩⟩
  · exact ⟨_, qmmaTerm_elem hbfp hxs hys, applyTerm_grid w r (fun x y =>
      elemTerm r.opA.code (cellOf (w.bank r.cluster r.ah) x.1 y.1) x.2 y.2) [] []
      ((readEach_length hxs).trans List.length_range) ((readEach_length hys).trans List.length_range) h64⟩
  · have hlx : xs.length = r.m := by rw [readEach_length hxs, List.length_map, List.length_range]
    have hly : ys.length = r.cols := by rw [readEach_length hys, List.length_map, List.length_range]
    obtain ⟨hframe, hrecs, hin, hout, hbanks⟩ := applyTerm_grid w r (fun x y =>
      addTerm (cellOf (w.bank r.cluster r.ah) x.1 y.1) (bfpTerm r.opA.mw r.opB.mw x.2 y.2)) (0, 0) (0, 0) hlx hly h64
    exact ⟨_, qmmaTerm_bfp hbfp hxs hys, hframe, hrecs, fun i j hi hj => ⟨_, Prod.ext (hin i j hi hj) rfl⟩, hout, hbanks⟩
  · simp only [Rec.elem, hsrc]
    rfl
  · obtain rfl | rfl := hcode <;> rfl
  · rw [exec_qspmmRun hrun, hfirst]
    refine ⟨fun hdone => by rw [hdone]; rfl, fun x xs hterms => ⟨fun v hv => ?_, fun f hf => ?_⟩⟩
    · rw [hterms, runTerm_ok hv]
      rfl
    · rw [hterms, runTerm_error hf]
  · obtain ⟨hframe, -, -, -⟩ := applyTerm_frame w r (rowCells t.1 ys fun j y =>
      elemTerm r.opB.code (cellOf (w.bank r.cluster r.ah) t.1 j) xs y)
    obtain ⟨hin, hout⟩ := applyTerm_row w r t.1 (fun j y =>
      elemTerm r.opB.code (cellOf (w.bank r.cluster r.ah) t.1 j) xs y) []
      ((readEach_length hys).trans List.length_range) h64
    exact ⟨_, qspmmTerm_eq hxs hys, hframe, hin, hout⟩
  · refine ⟨_, exec_qaccZero hrun, rfl, fun i j hj => ?_, fun c h hne => ?_⟩
    · rw [bank_finishRec, bank_setBank_same, cellOf_putZeros h64 hj]
    · rw [bank_finishRec, bank_setBank_ne u _ hne]
  · have hthread := foldl_readBack_thread (u.bank cl r.ah) r.opA tk hnd u
    refine ⟨_, exec_qaccRead hrun ht, ?_, fun i hi => ?_, fun i hi hl n => ?_⟩
    · rw [foldl_readBack_teams]
      rfl
    · refine (hthread i).trans (if_neg fun h => ?_)
      obtain hno | hno := hi
      · exact hno h.1
      · exact absurd (h.2.symm.trans hno) (by decide)
    · have hi' := (hthread i).trans (if_pos ⟨hi, hl⟩)
      have hg : ((r.regThr.foldl (readBack (u.bank cl r.ah) r.opA tk) u).finishRec r.id).thread tk i = _ := hi'
      rw [hg]
      exact setGs_row _ _ _ _ _
  · refine ⟨_, exec_qaccWrite hrun, rfl, fun i j hj => ?_, fun c h hne => ?_⟩
    · rw [bank_finishRec, bank_setBank_same, cellOf_putBlock (fun i j => (r.opA.cap.getD i []).getD j 0) h64 hj]
    · rw [bank_finishRec, bank_setBank_ne u _ hne]
  · rw [exec_qaccStore hrun]
    exact ⟨fun v hv => by rw [runTerm_range_ok hlt (storeRow_ok hv)]; rfl,
      fun f hf => by rw [runTerm_range_error hlt (storeRow_error hf)]⟩
  · rw [exec_qaccLoad hrun]
    exact ⟨fun v bs hv => by rw [runTerm_range_ok hlt (loadRow_ok hv)]; rfl,
      fun f hf => by rw [runTerm_range_error hlt (loadRow_error hf)]⟩
  · rw [exec_qcvtRun hrun]
    exact ⟨fun v hv => by rw [runTerm_range_ok hlt (cvtOneRow_ok hv)]; rfl,
      fun f hf => by rw [runTerm_range_error hlt (cvtOneRow_error hf)]⟩

end Sys2Proof.Quilts
end
